-- ==== Sys2Proof/Word.lean ====
section
/-! DEFINITION. The word types of the machine and the two container types of its state. -/

namespace Sys2Proof

/-- A scalar register, an address or a system register (R101, R275). -/
abbrev Word := BitVec 64

abbrev Byte := BitVec 8

/-- Sparse storage of w-bit units by index: indices strictly rising, and no entry equal to what an unlisted
index reads as (each use names that value). -/
abbrev Cells (w : Nat) := List (Nat × BitVec w)

/-- A Hjelvor flit of Table 19.4: TYPE, COUNT, SEQ, stream tag, CRC-32 and the payload bytes in order. -/
structure Flit where
  kind : Nat
  count : Nat
  seq : Nat
  tag : Nat
  crc : BitVec 32
  payload : List Byte
  deriving DecidableEq, Repr

end Sys2Proof
end

