-- ==== Sys2Proof/Config.lean ====
section
/-! DEFINITION. Values that the manual leaves to the implementation or leaves unspecified: constants with no
body, so that a proof holds whatever they are (log 4, 5 and 6). -/

namespace Sys2Proof.Config

/-- DESIGN CHOICE (log 4). A byte whose contents the manual leaves unspecified: work areas and bytes beyond a
run's records (R210, R217, R221), runs after a key is erased (R341). -/
opaque freeByte : Nat → BitVec 8

/-- DESIGN CHOICE (log 5). The keyed CHECK of a save area (Table 16.7) over the bytes it covers, for a function. -/
opaque ctxCheck : Nat → List (BitVec 8) → BitVec 64

/-- DESIGN CHOICE (log 5). The device-state bytes of a dump entry (Table 16.7), by entry and byte. -/
opaque dumpByte : Nat → Nat → BitVec 8

/-- DESIGN CHOICE (log 5). The bytes of a strand's slot state at CTXAREA + 0xE_0000 (R289), by the state's words and byte. -/
opaque slotByte : List Nat → Nat → BitVec 8

/-- DESIGN CHOICE (log 6). Normal mode, R90: the place in the order of performing of element i among the
elements of one unordered instruction, drawn anew for each entry. -/
opaque elemRank : Nat → Nat → Nat

/-- DESIGN CHOICE (log 60). Which entry of a vector instruction queue makes the next element group (R28, R86). -/
opaque chainPick : Nat → Nat

/-- DESIGN CHOICE (log 61). What an instruction, a command or a flit adds to an activity counter of R308, by counter (0 lane-cycles,
1 vault beats, 2 Hearth bit-cycles) and number. -/
opaque activity : Nat → Nat → Nat

/-- DESIGN CHOICE (log 18). The average power of the last 1 ms in watts (R343), by the device's clock. -/
opaque powerAvg : Nat → BitVec 12

/-- DESIGN CHOICE (log 5). Whether the ECDSA P-384 signature of an image verifies (R335). -/
opaque ecdsaOk : List (BitVec 8) → Bool

/-- DESIGN CHOICE (log 5). Whether the LMS signature of an image verifies (R335). -/
opaque lmsOk : List (BitVec 8) → Bool

/-- DESIGN CHOICE (log 5). The security version an image carries (R335). -/
opaque imageVersion : List (BitVec 8) → Nat

/-- DESIGN CHOICE (log 5). The fields a configuration block carries (R339): sequence number, the five coefficients,
the three ring weights, what PWRSET's lower limit lies above 1,200 W, and the five sensor levels less 1, by index 0 to 14. -/
opaque cfgField : List (BitVec 8) → Nat → Nat

/-- DESIGN CHOICE (log 5). The bytes of an attestation quote (R337) over the manifest registers, nonce, firmware and
configuration sequence number. -/
opaque quoteBytes : List (BitVec 64) → List (BitVec 8) → List (BitVec 8) → Nat → List (BitVec 8)

/-- DESIGN CHOICE (log 15). The clock counts of a sample record (Table 18.5), by record and counter. -/
opaque clockCount : Nat → Nat → Nat

/-- DESIGN CHOICE (log 5). Whether the ECDSA P-384 signature of a configuration block verifies under the key named in a
firmware image (R339). -/
opaque blockOk : List (BitVec 8) → List (BitVec 8) → Bool

/-- DESIGN CHOICE (log 5). The function (0) and the launch sequence number (1) that a QUOTE's buffer names (R337). -/
opaque quoteField : List (BitVec 8) → Nat → Nat

/-- DESIGN CHOICE (log 5). The 32-byte nonce in a QUOTE's buffer (R337). -/
opaque quoteNonce : List (BitVec 8) → List (BitVec 8)

/-- DESIGN CHOICE (log 19). What a stream tag, or the payload of its read request, stands for (R333, R334): package 0,
function 1, run-space address 2, record width 3 (8, 16, 32 or 64 bytes by its low two bits), records asked for 4. -/
opaque peerField : Nat → List (BitVec 8) → Nat → Nat

/-- DESIGN CHOICE (log 19). The payload of a read request (R333), by its stream tag and the package, function, run-space
address, record width and record count that it names. -/
opaque requestPayload : Nat → List Nat → List (BitVec 8)

/-- DESIGN CHOICE (log 19). The payload of a completion flit that carries a status (R333). -/
opaque completionPayload : Nat → List (BitVec 8)

/-- DESIGN CHOICE (log 19). The status that the payload of a completion flit carries (R333). -/
opaque completionStatus : List (BitVec 8) → Nat

end Sys2Proof.Config
end

