-- ==== Sys2Proof/Machine/Bits.lean ====
section
/-! DEFINITION. Bit fields, sign extension and byte order (R4, R9), and sparse storage. -/

namespace Sys2Proof.Machine

/-- x[hi:lo], read as an unsigned number (R4). -/
def bits (x hi lo : Nat) : Nat := x / 2 ^ lo % 2 ^ (hi + 1 - lo)

/-- x[n] as a truth value. -/
def bit (x n : Nat) : Bool := x / 2 ^ n % 2 == 1

/-- x[hi:lo] of a 64-bit value. -/
def field (x : Word) (hi lo : Nat) : Nat := bits x.toNat hi lo

/-- 1 for true. -/
def b2n (b : Bool) : Nat := if b then 1 else 0

/-- The signed value of the low n bits of x. -/
def toInt (n x : Nat) : Int :=
  let y := x % 2 ^ n
  if n = 0 then 0 else if y < 2 ^ (n - 1) then (y : Int) else (y : Int) - (2 ^ n : Nat)

/-- The n-bit pattern of an integer, modulo 2^n. -/
def ofInt (n : Nat) (x : Int) : Nat := (x % ((2 ^ n : Nat) : Int)).toNat

def word (n : Nat) : Word := BitVec.ofNat 64 n

/-- sext of an n-bit field to 64 bits (R9). -/
def sext {n : Nat} (x : BitVec n) : Word := x.signExtend 64

/-- The n low bytes of x, lowest address first (R4: little-endian). -/
def toBytes : Nat → Nat → List Byte
  | 0, _ => []
  | n + 1, x => BitVec.ofNat 8 x :: toBytes n (x / 256)

/-- The number that bytes hold, lowest address first. -/
def ofBytes : List Byte → Nat
  | [] => 0
  | b :: t => b.toNat + 256 * ofBytes t

/-- The numbers 0 to n − 1. -/
def upTo (n : Nat) : List Nat := List.range n

/-- ceil(a / b), and 0 when b is 0. -/
def ceilDiv (a b : Nat) : Nat := if b = 0 then 0 else (a + b - 1) / b

/-- The number of one bits among the low n bits of x. -/
def popCount : Nat → Nat → Nat
  | 0, _ => 0
  | n + 1, x => x % 2 + popCount n (x / 2)

/-- The number of leading zero bits of an n-bit x. -/
def leadZeros : Nat → Nat → Nat
  | 0, _ => 0
  | n + 1, x => if bit x n then 0 else 1 + leadZeros n x

/-- The number of trailing zero bits of an n-bit x. -/
def trailZeros : Nat → Nat → Nat
  | 0, _ => 0
  | n + 1, x => if x % 2 = 1 then 0 else 1 + trailZeros n (x / 2)

/-- Bit n of x made v. -/
def setBit (x n : Nat) (v : Bool) : Nat := x - x / 2 ^ n % 2 * 2 ^ n + b2n v * 2 ^ n

/-- Sparse storage: the value at an index, an unlisted index reading as dflt. -/
def cget {w : Nat} (dflt : Nat → BitVec w) : Cells w → Nat → BitVec w
  | [], i => dflt i
  | (k, v) :: t, i => if k = i then v else cget dflt t i

/-- No entry for index i. -/
def cdel {w : Nat} (i : Nat) (l : Cells w) : Cells w := l.filter fun c => c.1 != i

/-- Sparse storage: a write that keeps the canonical form, and that a read sees in any list. -/
def cset {w : Nat} (dflt : Nat → BitVec w) : Cells w → Nat → BitVec w → Cells w
  | [], i, x => if x = dflt i then [] else [(i, x)]
  | (k, v) :: t, i, x =>
    if i < k then (if x = dflt i then (k, v) :: cdel i t else (i, x) :: (k, v) :: t)
    else if i = k then (if x = dflt i then cdel i t else (i, x) :: t)
    else (k, v) :: cset dflt t i x

/-- Every index of l is above lo, indices rise, and no entry equals what its index reads as unlisted. -/
def cwfFrom {w : Nat} (dflt : Nat → BitVec w) : Option Nat → Cells w → Bool
  | _, [] => true
  | lo, (k, v) :: t => (match lo with | none => true | some l => decide (l < k)) && v != dflt k && cwfFrom dflt (some k) t

/-- The canonical form of sparse storage. -/
def cwf {w : Nat} (dflt : Nat → BitVec w) (l : Cells w) : Bool := cwfFrom dflt none l

/-- Every index in [lo, lo + n) unlisted. -/
def cclear {w : Nat} (lo n : Nat) (l : Cells w) : Cells w := l.filter fun c => c.1 < lo || lo + n ≤ c.1

/-- The entries of l in [lo, lo + n), moved to begin at base. -/
def cslice {w : Nat} (lo n base : Nat) (l : Cells w) : Cells w :=
  (l.filter fun c => decide (lo ≤ c.1) && decide (c.1 < lo + n)).map fun c => (c.1 - lo + base, c.2)

/-- The entries of a list that rise from index lo and differ from what their index reads as unlisted: all of a list in
canonical form. -/
def cnorm {w : Nat} (dflt : Nat → BitVec w) : Nat → Cells w → Cells w
  | _, [] => []
  | lo, (k, v) :: t => if lo ≤ k ∧ v ≠ dflt k then (k, v) :: cnorm dflt (k + 1) t else cnorm dflt lo t

/-- Entries [base, base + n) of l replaced by those of [lo, lo + n) of src; both read as the same value unlisted. -/
def csplice {w : Nat} (dflt : Nat → BitVec w) (l : Cells w) (base n : Nat) (src : Cells w) (lo : Nat) : Cells w :=
  (l.filter fun c => decide (c.1 < base)) ++ cnorm dflt base (cslice lo n base src) ++
    (l.filter fun c => decide (base + n ≤ c.1))

/-- Consecutive values from index a. -/
def csets {w : Nat} (dflt : Nat → BitVec w) (l : Cells w) (a : Nat) : List (BitVec w) → Cells w
  | [] => l
  | x :: t => csets dflt (cset dflt l a x) (a + 1) t

/-- n consecutive values from index a. -/
def cgets {w : Nat} (dflt : Nat → BitVec w) (l : Cells w) (a n : Nat) : List (BitVec w) :=
  (upTo n).map fun j => cget dflt l (a + j)

def zeros {w : Nat} (_ : Nat) : BitVec w := 0

/-- A table by number: the entry at k, d where there is none. -/
def tget {α : Type} (d : α) : List (Nat × α) → Nat → α
  | [], _ => d
  | (j, v) :: t, k => if j = k then v else tget d t k

/-- A table with the entry at k replaced or added in ascending order. -/
def tset {α : Type} : List (Nat × α) → Nat → α → List (Nat × α)
  | [], k, v => [(k, v)]
  | (j, w) :: t, k, v =>
    if k < j then (k, v) :: (j, w) :: t else if k = j then (k, v) :: t else (j, w) :: tset t k v

def tdel {α : Type} (l : List (Nat × α)) (k : Nat) : List (Nat × α) := l.filter fun e => e.1 != k

def thas {α : Type} (l : List (Nat × α)) (k : Nat) : Bool := l.any fun e => e.1 == k

/-- Bytes as an unsigned number, byte 0 most significant (R319). -/
def recNat (bs : List Byte) : Nat := bs.foldl (fun a b => a * 256 + b.toNat) 0

/-- The ascending order of records, of two with one number the shorter first. DEDUCED (log 40). -/
def bytesLt (a b : List Byte) : Bool :=
  decide (recNat a < recNat b) || (recNat a == recNat b && decide (a.length < b.length))

/-- A set of records kept once each in ascending order (R319). -/
def recInsert : List (List Byte) → List Byte → List (List Byte)
  | [], r => [r]
  | x :: t, r => if r = x then x :: t else if bytesLt r x then r :: x :: t else x :: recInsert t r

end Sys2Proof.Machine
end

