-- ==== Sys2Proof/Machine/Float.lean ====
section
/-! DEFINITION. Number formats (R127 to R131), exact values, rounding (R10, R134, R137) and the results beyond a
format's range (R136). Exact reals are fractions of naturals with a sign. -/

namespace Sys2Proof.Machine

/-! ### XFLAGS bits (Table 7.5) -/

def flNX : Nat := 1
def flUF : Nat := 2
def flOF : Nat := 4
def flDZ : Nat := 8
def flNV : Nat := 16
def flSAT : Nat := 32

/-- How a format of Table 7.1 uses its all-ones exponent. -/
inductive Special where
  | ieee | e4m3 | none
  deriving DecidableEq, Repr

/-- A row of Table 7.1. -/
structure Fmt where
  width : Nat
  e : Nat
  bias : Nat
  m : Nat
  special : Special
  canonical : Nat
  clamps : Bool
  deriving DecidableEq, Repr

def fp64 : Fmt := ⟨64, 11, 1023, 52, .ieee, 0x7FF8000000000000, false⟩
def fp32 : Fmt := ⟨32, 8, 127, 23, .ieee, 0x7FC00000, false⟩
def fp16 : Fmt := ⟨16, 5, 15, 10, .ieee, 0x7E00, false⟩
def bf16 : Fmt := ⟨16, 8, 127, 7, .ieee, 0x7FC0, false⟩
def e4m3 : Fmt := ⟨8, 4, 7, 3, .e4m3, 0x7F, true⟩
def e5m2 : Fmt := ⟨8, 5, 15, 2, .ieee, 0x7E, true⟩
def e2m1 : Fmt := ⟨4, 2, 1, 1, .none, 0, true⟩

/-- The code of the largest finite magnitude. -/
def Fmt.maxCode (f : Fmt) : Nat :=
  match f.special with
  | .ieee => (2 ^ f.e - 1) * 2 ^ f.m - 1
  | .e4m3 => 2 ^ (f.e + f.m) - 2
  | .none => 2 ^ (f.e + f.m) - 1

/-- The code of infinity, in a format that has it. -/
def Fmt.infCode (f : Fmt) : Nat := (2 ^ f.e - 1) * 2 ^ f.m

def Fmt.signBit (f : Fmt) : Nat := 2 ^ (f.width - 1)

/-- A value read from a format: a NaN and whether it signals, an infinity, or ±num/den. -/
inductive FV where
  | nan (signalling : Bool)
  | inf (neg : Bool)
  | fin (neg : Bool) (num den : Nat)
  deriving DecidableEq, Repr

/-- num/den = x × 2^k for an integer k. -/
def scaled (x : Nat) (k : Int) : Nat × Nat := if 0 ≤ k then (x * 2 ^ k.toNat, 1) else (x, 2 ^ (-k).toNat)

/-- The value of an encoding (R128, R129). -/
def Fmt.read (f : Fmt) (x : Nat) : FV :=
  let neg := bit x (f.width - 1)
  let ex := bits x (f.width - 2) f.m
  let m := x % 2 ^ f.m
  let top := 2 ^ f.e - 1
  if f.special = .ieee && ex = top then
    if m = 0 then .inf neg else .nan (!bit m (f.m - 1))
  else if f.special = .e4m3 && ex = top && m = 2 ^ f.m - 1 then .nan false
  else
    let r := if ex = 0 then scaled m (1 - (f.bias : Int) - f.m) else scaled (2 ^ f.m + m) ((ex : Int) - f.bias - f.m)
    .fin neg r.1 r.2

/-- Rounding modes of R10. -/
inductive RMode where
  | rne | rtz | rdn | rup
  | dith (d : Nat)
  deriving DecidableEq, Repr

/-- floor(log2(n / d)) for n and d above 0. -/
def log2Frac (n d : Nat) : Int :=
  let k : Int := (n.log2 : Int) - d.log2
  let s := scaled d k
  if n * s.2 < s.1 then k - 1 else k

/-- Whether rounding moves the magnitude from its lower to its upper neighbour, r/d being the part between them; odd
says that the lower neighbour's code is odd. -/
def roundsUp (mode : RMode) (neg odd : Bool) (r d : Nat) : Bool :=
  if r = 0 then false
  else
    match mode with
    | .rne => decide (d < 2 * r) || (decide (2 * r = d) && odd)
    | .rtz => false
    | .rdn => neg
    | .rup => !neg
    | .dith v => if neg then !decide (v < (d - r) * 2 ^ 32 / d) else decide (v < r * 2 ^ 32 / d)

/-- A result with its flags. -/
structure FR where
  v : Nat
  fl : Nat
  deriving DecidableEq, Repr

/-- Magnitude code and remainder of n/d, rounded down: code, remainder numerator and denominator, and whether the value
is below the smallest normal. -/
def Fmt.split (f : Fmt) (n d : Nat) : Nat × Nat × Nat × Bool :=
  let emin : Int := 1 - (f.bias : Int)
  let ex := log2Frac n d
  let umin : Int := emin - f.m
  let u : Int := if ex - f.m < umin then umin else ex - f.m
  let s := scaled d u
  let num := n * s.2
  ((u - umin).toNat * 2 ^ f.m + num / s.1, num % s.1, s.1, decide (ex < emin))

/-- An infinite or overflowing magnitude of an IEEE row under a mode (R136): whether it becomes infinity. -/
def overflowsToInf (mode : RMode) (neg : Bool) : Bool :=
  match mode with
  | .rne => true
  | .rtz => false
  | .rdn => neg
  | .rup => !neg
  | .dith _ => true

/-- The sign of a magnitude code. -/
def Fmt.signed (f : Fmt) (neg : Bool) (code : Nat) : Nat := code + (if neg then f.signBit else 0)

/-- The exact value ±n/d rounded into the format, with Table 7.4 beyond its range. Under DITH a magnitude above the largest
finite value is rounded under RNE (R10). -/
def Fmt.round (f : Fmt) (mode : RMode) (neg : Bool) (n d : Nat) : FR :=
  if n = 0 then ⟨f.signed neg 0, 0⟩
  else
    let s := f.split n d
    let code := s.1
    let mode := match mode with
      | .dith v => if f.maxCode < code || (code = f.maxCode && s.2.1 != 0) then .rne else .dith v
      | m => m
    let inexact := s.2.1 != 0
    let c := if roundsUp mode neg (code % 2 == 1) s.2.1 s.2.2.1 then code + 1 else code
    if f.maxCode < c then
      if f.clamps then ⟨f.signed neg f.maxCode, flOF + flNX + flSAT⟩
      else ⟨f.signed neg (if overflowsToInf mode neg then f.infCode else f.maxCode), flOF + flNX⟩
    else ⟨f.signed neg c, (if inexact then flNX else 0) + (if inexact && s.2.2.2 then flUF else 0)⟩

/-- A value resolved into a format (R136, R141): a signalling NaN sets NV whatever the destination. -/
def Fmt.resolve (f : Fmt) (mode : RMode) : FV → FR
  | .nan sig => ⟨f.canonical, if sig || f.special = .none then flNV else 0⟩
  | .inf neg => if f.special = .ieee then ⟨f.signed neg f.infCode, 0⟩ else ⟨f.signed neg f.maxCode, flSAT⟩
  | .fin neg n d => f.round mode neg n d

/-! ### Dyad8 (R130, R131) -/

/-- The term of a sign bit and a code, in units of 2^−6. -/
def dyadTerm (s : Bool) (c : Nat) : Int := if c = 7 then 0 else if s then -(2 ^ (6 - c) : Int) else 2 ^ (6 - c)

/-- The value of a Dyad8 byte in units of 2^−6. -/
def dyadInt (x : Nat) : Int := dyadTerm (bit x 7) (bits x 6 4) + dyadTerm (bit x 3) (bits x 2 0)

def dyadRead (x : Nat) : FV := .fin (decide (dyadInt x < 0)) (dyadInt x).natAbs 64

/-- The canonical encoding of ±mag × 2^−6: fewest terms, then least code a (R131); none where mag is no magnitude. -/
def dyadEncode (neg : Bool) (mag : Nat) : Option Nat :=
  if mag = 0 then some 0x77
  else
    let s := b2n neg
    match (upTo 7).find? (fun a => 2 ^ (6 - a) == mag) with
    | some a => some (s * 128 + a * 16 + 7)
    | none =>
      ((upTo 7).flatMap fun a => (upTo 7).flatMap fun b => [(a, b, 0), (a, b, 1)]).findSome? fun t =>
        let v : Int := 2 ^ (6 - t.1) + (if t.2.2 = 0 then 1 else -1) * 2 ^ (6 - t.2.1)
        if v = mag then some (s * 128 + t.1 * 16 + ((s + t.2.2) % 2) * 8 + t.2.1) else none

/-- The greatest magnitude at or below k, in units of 2^−6. -/
def dyadBelow : Nat → Nat
  | 0 => 0
  | k + 1 => if (dyadEncode false (k + 1)).isSome then k + 1 else dyadBelow k

/-- The least magnitude above k, among the fuel next values. -/
def dyadAbove : Nat → Nat → Nat
  | 0, k => k + 1
  | fuel + 1, k => if (dyadEncode false (k + 1)).isSome then k + 1 else dyadAbove fuel (k + 1)

/-- ±n/d rounded into Dyad8 (R134, R136, R137). Every magnitude above 2 is beyond range: no neighbour lies above 2.
DEDUCED (log 14). -/
def dyadRound (mode : RMode) (neg : Bool) (n d : Nat) : FR :=
  let enc := fun mag => (dyadEncode neg mag).getD 0x77
  if 2 * d < n then ⟨enc 128, flOF + flNX + flSAT⟩
  else
    let lo := dyadBelow (64 * n / d)
    if lo * d = 64 * n then ⟨enc lo, 0⟩
    else
      let hi := dyadAbove 64 lo
      let r := 64 * n - lo * d
      let w := (hi - lo) * d
      let up := roundsUp mode neg false r w
      ⟨enc (if up then hi else lo), flNX + (if 64 * n < d then flUF else 0)⟩

def dyadResolve (mode : RMode) : FV → FR
  | .nan _ => ⟨0x77, flNV⟩
  | .inf neg => ⟨(dyadEncode neg 128).getD 0x77, flSAT⟩
  | .fin neg n d => dyadRound mode neg n d

/-! ### Integers (R127, R136) -/

/-- The least and greatest values of an integer type. -/
def intMin (signed : Bool) (w : Nat) : Int := if signed then -(2 ^ (w - 1) : Nat) else 0

def intMax (signed : Bool) (w : Nat) : Int := if signed then (2 ^ (w - 1) : Nat) - 1 else (2 ^ w : Nat) - 1

/-- The value of a pattern read in an integer type. -/
def intRead (signed : Bool) (w x : Nat) : Int := if signed then toInt w x else (x % 2 ^ w : Nat)

/-- An exact integer resolved into an integer type: sat under SAT = 1, modulo 2^w under SAT = 0 (R150, Table 7.4). -/
def intResolve (signed sat : Bool) (w : Nat) (x : Int) : FR :=
  if sat then
    if x < intMin signed w then ⟨ofInt w (intMin signed w), flSAT⟩
    else if intMax signed w < x then ⟨ofInt w (intMax signed w), flSAT⟩
    else ⟨ofInt w x, 0⟩
  else ⟨ofInt w x, 0⟩

/-- A float value rounded to an integer and resolved (Table 7.4). -/
def intFromFloat (signed : Bool) (w : Nat) (mode : RMode) : FV → FR
  | .nan _ => ⟨0, flNV⟩
  | .inf neg => ⟨ofInt w (if neg then intMin signed w else intMax signed w), flNV⟩
  | .fin neg n d =>
    let mode := match mode with
      | .dith v => if intMax signed w * d < n then .rne else .dith v
      | m => m
    let q := n / d
    let mag := if roundsUp mode neg (q % 2 == 1) (n % d) d then q + 1 else q
    let x : Int := if neg then -(mag : Int) else mag
    if x < intMin signed w then ⟨ofInt w (intMin signed w), flNV⟩
    else if intMax signed w < x then ⟨ofInt w (intMax signed w), flNV⟩
    else ⟨ofInt w x, if n % d = 0 then 0 else flNX⟩

/-! ### Exact arithmetic on values -/

/-- ±n/d as an integer over d. -/
def signedNum (neg : Bool) (n : Nat) : Int := if neg then -(n : Int) else n

/-- An exact fraction with the sign that a zero takes. -/
def ofSigned (zeroNeg : Bool) (x : Int) (d : Nat) : FV :=
  if x = 0 then .fin zeroNeg 0 1 else .fin (decide (x < 0)) x.natAbs d

def FV.isNan : FV → Bool
  | .nan _ => true
  | _ => false

def FV.isSnan : FV → Bool
  | .nan s => s
  | _ => false

def FV.isNeg : FV → Bool
  | .nan _ => false
  | .inf s => s
  | .fin s _ _ => s

def FV.isZero : FV → Bool
  | .fin _ 0 _ => true
  | _ => false

def FV.neg : FV → FV
  | .nan s => .nan s
  | .inf s => .inf (!s)
  | .fin s n d => .fin (!s) n d

/-- An exact result, or the invalid operation of Table 8.2. -/
inductive FX where
  | val (x : FV)
  | invalid
  deriving DecidableEq, Repr

/-- a + b with no NaN operand. An exact zero sum is +0, or −0 under RDN; the sum of two zeros of one sign keeps it. -/
def fvAdd (rdn : Bool) : FV → FV → FX
  | .inf s, .inf t => if s = t then .val (.inf s) else .invalid
  | .inf s, _ => .val (.inf s)
  | _, .inf t => .val (.inf t)
  | .fin s n d, .fin t m e =>
    .val (ofSigned (if s = t && n = 0 && m = 0 then s else rdn) (signedNum s n * e + signedNum t m * d) (d * e))
  | x, _ => .val x

/-- a × b with no NaN operand. -/
def fvMul : FV → FV → FX
  | .inf s, .inf t => .val (.inf (s != t))
  | .inf s, .fin t m _ => if m = 0 then .invalid else .val (.inf (s != t))
  | .fin s n _, .inf t => if n = 0 then .invalid else .val (.inf (s != t))
  | .fin s n d, .fin t m e => .val (.fin (s != t) (n * m) (d * e))
  | x, _ => .val x

/-- a / b with no NaN operand and b not a zero divisor of a finite nonzero a. -/
def fvDiv : FV → FV → FX
  | .inf _, .inf _ => .invalid
  | .inf s, y => .val (.inf (s != y.isNeg))
  | .fin s _ _, .inf t => .val (.fin (s != t) 0 1)
  | .fin s n d, .fin t m e => if m = 0 then (if n = 0 then .invalid else .val (.inf (s != t))) else .val (.fin (s != t) (n * e) (d * m))
  | x, _ => .val x

/-- The greatest r with r² at most n, found bit by bit from bit k. -/
def isqrtFrom (n : Nat) : Nat → Nat → Nat
  | 0, r => r
  | k + 1, r => let t := r + 2 ^ k; if t * t ≤ n then isqrtFrom n k t else isqrtFrom n k r

def isqrt (n : Nat) : Nat := isqrtFrom n (n.log2 / 2 + 1) 0

/-- A fraction that rounds as √(n/d) does in any format of at most 52 mantissa bits and under any dither: the root
itself where it is exact on 100 bits, else a value strictly between the two nearest multiples of its last bit. -/
def sqrtFrac (n d : Nat) : Nat × Nat :=
  let k : Int := 100 - log2Frac n d / 2
  let s := scaled 1 (2 * k)
  let q := isqrt (n * s.1 / (d * s.2))
  let exact := q * q * (d * s.2) == n * s.1
  scaled (2 * q + b2n (!exact)) (-k - 1)

/-- Comparison of two values that are no NaN: less, and equal. -/
def fvLt : FV → FV → Bool
  | .inf s, .inf t => s && !t
  | .inf s, _ => s
  | _, .inf t => !t
  | .fin s n d, .fin t m e => decide (signedNum s n * e < signedNum t m * d)
  | _, _ => false

def fvEq : FV → FV → Bool
  | .inf s, .inf t => s == t
  | .fin s n d, .fin t m e => decide (signedNum s n * e = signedNum t m * d)
  | _, _ => false

end Sys2Proof.Machine
end

