-- ==== Sys2Proof/Syntax.lean ====
section
/-! DEFINITION. Syntax of Chamus 1.0: one constructor for each row of the table of operations and events,
the 220 instruction words first and the 67 moves and events of the device after them. A field holds the
bits of the word's field of the same letter (Tables 3.1, 3.4 and 3.5), numbered as R4 and R64 give. -/

namespace Sys2Proof

/-- Modifiers of a VV word (R67 to R69): z is BSZ, c is BC, m is M, k is CB and j is CA. -/
structure VMod where
  z : BitVec 2
  c : BitVec 1
  m : BitVec 2
  k : BitVec 1
  j : BitVec 1
  deriving DecidableEq, Repr

/-- Modifiers of a VS, VI or one-source word, where CA must be 0 (R67). -/
structure SMod where
  z : BitVec 2
  c : BitVec 1
  m : BitVec 2
  k : BitVec 1
  deriving DecidableEq, Repr

/-- The words of Chamus 1.0 and the moves and events of the device (spec/opcode_table.json).
A move or event names the agent it moves by global core number and strand slot, by function number,
launch sequence number and gang number, or by the register it writes. -/
inductive Instr where
  | add (d a b : BitVec 5)
  | sub (d a b : BitVec 5)
  | and (d a b : BitVec 5)
  | or (d a b : BitVec 5)
  | xor (d a b : BitVec 5)
  | sll (d a b : BitVec 5)
  | srl (d a b : BitVec 5)
  | sra (d a b : BitVec 5)
  | slt (d a b : BitVec 5)
  | sltu (d a b : BitVec 5)
  | min (d a b : BitVec 5)
  | max (d a b : BitVec 5)
  | minu (d a b : BitVec 5)
  | maxu (d a b : BitVec 5)
  | mul (d a b : BitVec 5)
  | mulh (d a b : BitVec 5)
  | mulhu (d a b : BitVec 5)
  | div (d a b : BitVec 5)
  | divu (d a b : BitVec 5)
  | rem (d a b : BitVec 5)
  | remu (d a b : BitVec 5)
  | clz (d a : BitVec 5)
  | ctz (d a : BitVec 5)
  | popc (d a : BitVec 5)
  | bfx (d a b : BitVec 5)
  | bfi (d a b : BitVec 5)
  | fshr (d a b : BitVec 5) (s : BitVec 6)
  | addi (d a : BitVec 5) (i : BitVec 12)
  | andi (d a : BitVec 5) (i : BitVec 12)
  | ori (d a : BitVec 5) (i : BitVec 12)
  | xori (d a : BitVec 5) (i : BitVec 12)
  | slli (d a : BitVec 5) (s : BitVec 6)
  | srli (d a : BitVec 5) (s : BitVec 6)
  | srai (d a : BitVec 5) (s : BitVec 6)
  | slti (d a : BitVec 5) (i : BitVec 12)
  | lui (d : BitVec 5) (i : BitVec 20)
  | auipc (d : BitVec 5) (i : BitVec 20)
  | ld (d a : BitVec 5) (i : BitVec 12) (w : BitVec 3)
  | st (a b : BitVec 5) (h : BitVec 7) (w : BitVec 2) (l : BitVec 5)
  | beq (a b : BitVec 5) (o : BitVec 12)
  | bne (a b : BitVec 5) (o : BitVec 12)
  | blt (a b : BitVec 5) (o : BitVec 12)
  | bge (a b : BitVec 5) (o : BitVec 12)
  | bltu (a b : BitVec 5) (o : BitVec 12)
  | bgeu (a b : BitVec 5) (o : BitVec 12)
  | jal (d : BitVec 5) (o : BitVec 20)
  | jalr (d a : BitVec 5) (i : BitVec 12)
  | amo (d a b : BitVec 5) (s : BitVec 3) (o : BitVec 4) (r : BitVec 2) (z : BitVec 1)
  | cas (d a b : BitVec 5) (s : BitVec 3) (r : BitVec 2) (z : BitVec 1)
  | sysrd (d : BitVec 5) (n : BitVec 12)
  | syswr (a : BitVec 5) (n : BitVec 12)
  | sysset (a : BitVec 5) (n : BitVec 12)
  | sysclr (a : BitVec 5) (n : BitVec 12)
  | trap (t : BitVec 12)
  | eret
  | endStrand
  | yield
  | bkpt (t : BitVec 12)
  | wfe
  | vsave (a : BitVec 5)
  | vrest (a : BitVec 5)
  | vsetl (d a : BitVec 5) (i : BitVec 12)
  | vcfg (d a : BitVec 5)
  | vregs (n : BitVec 12)
  | mstart (d a : BitVec 5) (p : BitVec 1)
  | mstop
  | vadd (d a b : BitVec 5) (o : VMod)
  | vsub (d a b : BitVec 5) (o : VMod)
  | vrsub (d a b : BitVec 5) (o : VMod)
  | vmin (d a b : BitVec 5) (o : VMod)
  | vmax (d a b : BitVec 5) (o : VMod)
  | vand (d a b : BitVec 5) (o : VMod)
  | vor (d a b : BitVec 5) (o : VMod)
  | vxor (d a b : BitVec 5) (o : VMod)
  | vaddVs (d a b : BitVec 5) (o : SMod)
  | vsubVs (d a b : BitVec 5) (o : SMod)
  | vrsubVs (d a b : BitVec 5) (o : SMod)
  | vminVs (d a b : BitVec 5) (o : SMod)
  | vmaxVs (d a b : BitVec 5) (o : SMod)
  | vandVs (d a b : BitVec 5) (o : SMod)
  | vorVs (d a b : BitVec 5) (o : SMod)
  | vxorVs (d a b : BitVec 5) (o : SMod)
  | vaddVi (d b i : BitVec 5) (o : SMod)
  | vsubVi (d b i : BitVec 5) (o : SMod)
  | vrsubVi (d b i : BitVec 5) (o : SMod)
  | vminVi (d b i : BitVec 5) (o : SMod)
  | vmaxVi (d b i : BitVec 5) (o : SMod)
  | vandVi (d b i : BitVec 5) (o : SMod)
  | vorVi (d b i : BitVec 5) (o : SMod)
  | vxorVi (d b i : BitVec 5) (o : SMod)
  | vmul (d a b : BitVec 5) (o : VMod)
  | vmulh (d a b : BitVec 5) (o : VMod)
  | vmacc (d a b : BitVec 5) (o : VMod)
  | vnmacc (d a b : BitVec 5) (o : VMod)
  | vdiv (d a b : BitVec 5) (o : VMod)
  | vrem (d a b : BitVec 5) (o : VMod)
  | vsll (d a b : BitVec 5) (o : VMod)
  | vsrl (d a b : BitVec 5) (o : VMod)
  | vmulVs (d a b : BitVec 5) (o : SMod)
  | vmulhVs (d a b : BitVec 5) (o : SMod)
  | vmaccVs (d a b : BitVec 5) (o : SMod)
  | vnmaccVs (d a b : BitVec 5) (o : SMod)
  | vdivVs (d a b : BitVec 5) (o : SMod)
  | vremVs (d a b : BitVec 5) (o : SMod)
  | vsllVs (d a b : BitVec 5) (o : SMod)
  | vsrlVs (d a b : BitVec 5) (o : SMod)
  | vsllVi (d b i : BitVec 5) (o : SMod)
  | vsrlVi (d b i : BitVec 5) (o : SMod)
  | vsraVi (d b i : BitVec 5) (o : SMod)
  | vsra (d a b : BitVec 5) (o : VMod)
  | vclz (d b : BitVec 5) (o : SMod)
  | vpopc (d b : BitVec 5) (o : SMod)
  | vbfx (d a b : BitVec 5) (o : VMod)
  | vfshr (d a b : BitVec 5) (o : VMod)
  | vsqrt (d b : BitVec 5) (o : SMod)
  | vabs (d b : BitVec 5) (o : SMod)
  | vneg (d b : BitVec 5) (o : SMod)
  | vsraVs (d a b : BitVec 5) (o : SMod)
  | vbfxVs (d a b : BitVec 5) (o : SMod)
  | vfshrVs (d a b : BitVec 5) (o : SMod)
  | vcmp (d a b : BitVec 5) (q : BitVec 3) (o : VMod)
  | vcmpVs (d a b : BitVec 5) (q : BitVec 3) (o : SMod)
  | vcmpVi (d b : BitVec 5) (q : BitVec 3) (i : BitVec 5) (o : SMod)
  | vsel (d a b : BitVec 5) (o : VMod)
  | vmv (d b : BitVec 5) (o : SMod)
  | vclass (d b : BitVec 5) (o : SMod)
  | vrecip (d b : BitVec 5) (o : SMod)
  | vidx (d : BitVec 5) (m : BitVec 2)
  | vselVs (d a b : BitVec 5) (o : SMod)
  | vmvVs (d a : BitVec 5) (m : BitVec 2)
  | mand (d a b : BitVec 5)
  | mor (d a b : BitVec 5)
  | mxor (d a b : BitVec 5)
  | mandn (d a b : BitVec 5)
  | mnot (d a : BitVec 5)
  | mffs (d a : BitVec 5)
  | mpopc (d a : BitVec 5)
  | vcvtw (d b : BitVec 5) (v : BitVec 3) (o : SMod)
  | vcvtn (d b : BitVec 5) (v : BitVec 3) (o : SMod)
  | vcvti (d b : BitVec 5) (v : BitVec 3) (o : SMod)
  | vcvtf4 (d b : BitVec 5) (v : BitVec 3) (o : SMod)
  | vcvtdy (d b : BitVec 5) (v : BitVec 3) (o : SMod)
  | kset (d b : BitVec 5) (k : BitVec 1)
  | kmv (d a b : BitVec 5) (m : BitVec 2)
  | kcalc (d a b : BitVec 5) (m : BitVec 2) (k : BitVec 1)
  | vslup (d a b : BitVec 5) (f : BitVec 3) (m : BitVec 2) (k : BitVec 1)
  | vsldn (d a b : BitVec 5) (f : BitVec 3) (m : BitVec 2) (k : BitVec 1)
  | vperm (d a b : BitVec 5) (m : BitVec 2) (k j : BitVec 1)
  | vcmpr (d b : BitVec 5) (m : BitVec 2) (k : BitVec 1)
  | vexpd (d b : BitVec 5) (m : BitVec 2) (k : BitVec 1)
  | viota (d b : BitVec 5) (m : BitVec 2)
  | vred (d a b : BitVec 5) (o : BitVec 3) (m : BitVec 2) (k j : BitVec 1)
  | vscan (d a b : BitVec 5) (o : BitVec 3) (m : BitVec 2) (k j : BitVec 1)
  | vhist (d b : BitVec 5) (l w : BitVec 1) (m : BitVec 2) (k : BitVec 1)
  | vtopk (d a b : BitVec 5) (m : BitVec 2) (k : BitVec 1)
  | vtkmrg (d a b : BitVec 5) (k j : BitVec 1)
  | vld (d a : BitVec 5) (m : BitVec 2)
  | vlds (d a b : BitVec 5) (m : BitVec 2)
  | vldx (d a b : BitVec 5) (m : BitVec 2) (k : BitVec 1)
  | vldxo (d a b : BitVec 5) (m : BitVec 2) (k : BitVec 1)
  | vldff (d a : BitVec 5) (m : BitVec 2)
  | vldseg (d a : BitVec 5) (n : BitVec 3) (m : BitVec 2)
  | vst (d a : BitVec 5) (m : BitVec 2)
  | vsts (d a b : BitVec 5) (m : BitVec 2)
  | vstx (d a b : BitVec 5) (m : BitVec 2) (k : BitVec 1)
  | vstxo (d a b : BitVec 5) (m : BitVec 2) (k : BitVec 1)
  | vstseg (d a : BitVec 5) (n : BitVec 3) (m : BitVec 2)
  | mfset (a : BitVec 5)
  | vamo (d a b : BitVec 5) (r : BitVec 2) (o : BitVec 4) (m : BitVec 2) (k : BitVec 1)
  | fence (r : BitVec 2) (s : BitVec 3)
  | vfence (s : BitVec 3)
  | iterset (a : BitVec 5) (l : BitVec 2)
  | post (a : BitVec 5) (l : BitVec 2)
  | waiti (a : BitVec 5) (l : BitVec 2)
  | bar
  | bararr
  | barwt
  | ropen (d a : BitVec 5)
  | rclose (a : BitVec 5)
  | rstat (d a : BitVec 5) (o : BitVec 3)
  | rdstr (a b : BitVec 5) (q : BitVec 4)
  | wrstr (a : BitVec 5) (q : BitVec 4)
  | qpush (d : BitVec 5) (e : BitVec 1) (k : BitVec 2) (q : BitVec 4)
  | qpop (d a : BitVec 5) (k : BitVec 2) (q : BitVec 4)
  | rsort (d a : BitVec 5) (y : BitVec 2) (c : BitVec 1) (q : BitVec 4)
  | rmerge (d a b : BitVec 5) (u l c : BitVec 1) (q : BitVec 4)
  | rjoin (d a b : BitVec 5) (l : BitVec 1) (j : BitVec 2) (q : BitVec 4)
  | rpart (d a : BitVec 5) (q : BitVec 4)
  | rwait (d : BitVec 5) (q : BitVec 4)
  | cspec (a : BitVec 5)
  | mattach (d a : BitVec 5) (w : BitVec 1)
  | mdetach
  | mwldCfg (d a : BitVec 5) (r : BitVec 8)
  | mwldSp (a b : BitVec 5) (r : BitVec 8)
  | mwldQ (d : BitVec 5) (a : BitVec 4) (b : BitVec 5) (r : BitVec 8)
  | mwldSc (a b : BitVec 5) (r : BitVec 8)
  | mxv (d a b : BitVec 5) (z w : BitVec 1) (r : BitVec 8)
  | mop (a b : BitVec 5) (f : BitVec 2) (r : BitVec 8)
  | maccrd (d a : BitVec 5) (r : BitVec 8)
  | maccwr (d a : BitVec 5) (r : BitVec 8)
  | maccz (a : BitVec 5) (r : BitVec 8)
  | msave (a : BitVec 5)
  | mrest (a : BitVec 5)
  | mcensRd (d a : BitVec 5)
  | mcensRdclr (d a : BitVec 5)
  | mcensClr
  | mcensIdx (d a : BitVec 5)
  | qrtld (a : BitVec 5) (c f : BitVec 6)
  | qrseed (d a : BitVec 5) (m : BitVec 2) (n : BitVec 6)
  | qrgen (d a b : BitVec 5) (o : VMod)
  | qrgens (d a b : BitVec 5) (o : SMod)
  | pwld (d a b : BitVec 5) (n : BitVec 1) (q : BitVec 3)
  | pwcntSt (d a : BitVec 5)
  | pwcntHist (d a b : BitVec 5)
  | pwcntCnt (d a b : BitVec 5)
  | pwcntFree (a : BitVec 5)
  | pwchk (d a b : BitVec 5)
  | pwdrft (d a b : BitVec 5)
  | pwconf (d a b : BitVec 5)
  | pwinj (d a : BitVec 5)
  | split (core slot : Nat)
  | fetch (core slot : Nat)
  | execute (core slot : Nat)
  | drain (core slot line : Nat)
  | deliver (src dst : Nat)
  | serve (core bank port : Nat)
  | hostPerform (core slot : Nat)
  | push (core slot : Nat)
  | acceptAndProduce (core slot q : Nat)
  | streamRecord (core slot q : Nat)
  | commandComplete (core slot q : Nat)
  | stall (core slot q : Nat)
  | streamPageFault (core slot q : Nat)
  | pop (core slot : Nat)
  | postAndObserve (core slot : Nat)
  | proof (core slot : Nat)
  | hearthServe (core slot : Nat)
  | gangDrain (fn seq gang : Nat)
  | wfeWake (core slot : Nat)
  | sliceEnd (core : Nat)
  | waitQuantumExpiry (core : Nat)
  | doorbell (fn q : Nat) (tail : BitVec 32)
  | launchFetch (fn q : Nat)
  | gangPlacement (fn seq gang stack : Nat) (places : List (Nat × Nat × Nat)) (lc : Nat)
  | warmSlot (fn seq gang stack : Nat) (places : List (Nat × Nat × Nat))
  | priorityPreemption (fn seq gang vfn vseq vgang : Nat)
  | resumption (fn seq gang lc : Nat)
  | graceExpiry (fn seq gang : Nat)
  | budgetWindow
  | budgetExhausted (fn tbu ebu : Nat)
  | powerInterval (avg reason lc issue duty : Nat)
  | completionWordWrite (fn seq : Nat)
  | queueLevelReset (fn q : Nat)
  | functionLevelReset (fn : Nat)
  | partmapWrite (fn half : Nat) (v : Word)
  | tenantWrite (fn : Nat) (v : Word)
  | scrub (hg : Nat)
  | faultRecordWrite (ring : Nat)
  | faultAnswer (fn : Nat) (v : Word)
  | pfFaultAnswer (ring : Nat) (v : Word)
  | inv1 (fn : Nat) (count : Word)
  | inv2 (fn : Nat) (count : Word)
  | pageRetirement (vault frame spare : Nat) (lost : List Nat)
  | snoop (line : Nat)
  | hjelvorReadRequest (link : Nat) (flit : Flit)
  | hjelvorReadRecords (link : Nat) (flit : Flit)
  | hjelvorWriteRecords (link : Nat) (flit : Flit)
  | hjelvorCompletionFlit (link : Nat) (flit : Flit)
  | hjelvorFenceFlit (link : Nat) (flit : Flit)
  | hjelvorFenceAck (link : Nat) (flit : Flit)
  | linkDown (link : Nat)
  | powerOn
  | load
  | commit
  | config
  | quote
  | securityAlarm (sensor : Nat) (tenants : List Nat)
  | debugResume (fn : Nat)
  | smplostRead (fn : Nat)
  | trsigWrite (v : Word)
  | trenClear (fn : Nat)
  | registerWrite (fn off : Nat) (v : Word)
  | illegalInstruction (w : BitVec 32)
  | instructionFetchFault
  | resetCompletion (fn q : Nat)
  | mailboxCompletion
  | invalidationCompletion
  deriving DecidableEq, Repr

end Sys2Proof
end

