-- ==== Sys2Proof/Machine/State.lean ====
section
/-! DEFINITION. The state of the device as plain data, and the state after reset. Each structure's docstring names
the rules that give its fields. Sparse storage (`Cells`) lists only what differs from the value an unlisted
index reads as; the accessors of Machine/Ops.lean name that value. -/

namespace Sys2Proof.Machine

/-- Where a strand slot stands (R22, R279, R289, R323); halting is a strand whose front end has stopped with its gang and whose queue
has still to (R234). -/
inductive Status where
  | free | run | suspended | wfe | off | halted | halting
  deriving DecidableEq, Repr

/-- An entry of the vector instruction queue (R24, R30, Table 16.7): the instruction, its address, its progress, the scalar
operands captured at issue, and VSHAPE, VL, MVL, MFCR and the register count code at decode. spec holds CSPEC0 to CSPEC3 of
its program order where a later instruction has changed them since (R214), and done says that its whole work was made while entries
ahead of it had not completed (R25, R28). -/
structure QEntry where
  id : Nat
  instr : Instr
  addr : Word
  prog : Nat
  a : Word
  b : Word
  d : Word
  vshape : Word
  vl : Nat
  mvl : Word
  mfcr : Word
  cnt : BitVec 2
  split : Bool
  vlSpan : Nat
  spec : Option (Vector Word 4)
  done : Bool
  deriving DecidableEq, Repr

/-- An element buffer (R81, R87): the group of elements that a load fetches ahead, how many accesses it has and how many of
them have been sent, the values that have come, and the byte ranges read: whether in host space, the first byte and the size.
-/
structure ElemBuf where
  id : Nat
  entry : Nat
  group : Nat
  total : Nat
  sent : Nat
  vals : List (Nat × Nat)
  ranges : List (Bool × Nat × Nat)
  deriving DecidableEq, Repr

/-- The vector context of a strand (R23). -/
structure VCtx where
  vf : Cells 8
  masks : Cells 1
  scales : Cells 32
  vshape : Word
  vl : Nat
  mvl : Word
  mfcr : Word
  cnt : BitVec 2
  mgrant : Nat
  didx : BitVec 32
  dirs : Cells 32
  seeds : Cells 32
  modes : Cells 2
  queue : List QEntry
  bufs : List ElemBuf
  vlSpan : Nat
  vlGrant : Nat
  deriving DecidableEq, Repr

/-- A run handle's slot (R211): the BASE word, LEN, effective CAP and FORMAT word of its descriptor (Table 12.1). -/
structure Handle where
  base : Word
  len : Nat
  cap : Nat
  fmt : Word
  deriving DecidableEq, Repr

/-- A handle as a command captured it: its slot and gen with the fields (R214). -/
structure Cap where
  slot : Nat
  gen : Nat
  h : Handle
  deriving DecidableEq, Repr

/-- The commands on runs (R218, R224) with their options. -/
inductive CmdKind where
  | rdstr (first : Nat)
  | wrstr
  | rsort (cmb : Bool) (byf : Nat)
  | rmerge (cmb uniq : Bool)
  | rjoin (jf : Nat) (left : Bool)
  | rpart (splitters : List Nat)
  deriving DecidableEq, Repr

/-- A page concerned by a fault: STAGE2, WALK and ADDR of its record (R296). -/
structure PFault where
  stage2 : Bool
  walk : Bool
  addr : Nat
  deriving DecidableEq, Repr

/-- Command states (Table 12.6). ACCEPTED, whose checks decide the next state, and COMPLETE, whose element is placed, are
passed through within a move. -/
inductive Phase where
  | queued | sample | pass | stream | stall
  deriving DecidableEq, Repr

/-- A record of a run: its bytes in order (R205). -/
abbrev Rec := List Byte

/-- A command in an engine command FIFO (R213, R214), with the operands it captured at its push. bad is the status
of a check that its push already decided (R216, R221); count the records delivered or written; off the bytes written to
a run; fixed the status that a fault, a drain or its writing has settled; addr the address or the byte offset that stopped
it, src the source it lies in, cause and faults those of its batch. reads and writes are the stream tags on which it waits for
peers, each with its operand's number, and held its completion while they have not answered (R334). -/
structure Cmd where
  kind : CmdKind
  srcs : List Cap
  dsts : List Cap
  cspec : List Word
  bad : Nat
  phase : Phase
  count : Nat
  pushed : List Rec
  pushEnd : Bool
  sorted : Bool
  lastKey : Nat
  addr : Nat
  src : Nat
  cause : Nat
  faults : List PFault
  resume : Phase
  off : Nat
  fixed : Nat
  batch : Nat × Nat
  reads : List (Nat × Nat)
  writes : List (Nat × Nat)
  held : Option (Word × List (Nat × Nat × Nat × Bool))
  deriving DecidableEq, Repr

/-- An element of a result FIFO (R213, R215): a record of a stream, or a completion element with the handles whose
LEN and SORTED its RWAIT sets (R217): slot, gen, records received, sortedness. -/
inductive ResElem where
  | record (r : Rec)
  | done (w : Word) (upd : List (Nat × Nat × Nat × Bool))
  deriving DecidableEq, Repr

/-- An engine FIFO pair (R213). unpopped lists, oldest first, the commands whose completion has not been popped:
whether it is an RDSTR, its record width code and the FORMAT word of its run (R219, R238). -/
structure Fifo where
  out : Nat
  ws : Bool
  cmds : List Cmd
  res : List ResElem
  unpopped : List (Bool × Word)
  deriving DecidableEq, Repr

/-- A byte waiting to be written: its value and which of its bits are written (a store at SEW 4 writes its nibble
alone, R161). -/
structure PByte where
  val : Byte
  mask : Byte
  deriving DecidableEq, Repr

/-- What an access that waits for its point of coherence does there, and where its value goes (R84, R191): a scalar load of
LD's sub-code w, an atomic of AMO or CAS, the load of elements into an element buffer, each with its offset in the bytes read and its
width (R157), or the atomic of VAMO's element i of width sew, whose old value goes to its group at register d of rb bytes. -/
inductive LateKind where
  | load (d : BitVec 5) (w : BitVec 3)
  | amo (d : BitVec 5) (op b : Nat)
  | cas (d : BitVec 5) (x b : Nat)
  | elem (buf : Nat) (parts : List (Nat × Nat × Nat))
  | vamo (d rb sew i op b : Nat)
  deriving DecidableEq, Repr

/-- An access that waits for its point of coherence (Table 4.3, R191): its number, its strand, its first byte and size, and
the bytes of the strand's own waiting stores that it forwarded (R88). -/
structure Late where
  id : Nat
  fn : Nat
  seq : Nat
  gang : Nat
  lsn : Nat
  key : Nat
  n : Nat
  fwd : List PByte
  kind : LateKind
  deriving DecidableEq, Repr

/-- A line of the write-combining buffer (R81): its 256-byte number in the scratchpads, the number of queued VFENCEs that it
waits for (R93), and its enabled bytes. -/
structure WLine where
  line : Nat
  held : Nat
  bytes : List (Nat × PByte)
  deriving DecidableEq, Repr

/-- An entry of the host path (R91): a store's bytes at system physical addresses, with the number of queued VFENCEs that it
waits for (R93), or a load or an atomic. Of the same form is an access of the scratchpads that waits for VFENCEs (Strand.kept). -/
structure HStore where
  bytes : List (Nat × PByte)
  held : Nat
  late : Option Late
  deriving DecidableEq, Repr

/-- A request or a reply on its way (R81, R86), from core src to core dst, still in the die fabric channel or already in a
port queue of a bank unit: the write of a drained line, or an access that waits. A reply holds the bytes read. Ports: 0 the
crossbar, 1 the die fabric, 2 an engine. -/
structure NetReq where
  src : Nat
  dst : Nat
  bank : Nat
  port : Nat
  inChannel : Bool
  bytes : List (Nat × PByte)
  late : Option Late
  reply : Option (List Byte)
  deriving DecidableEq, Repr

/-- The fault that a suspension waits for (R279, R296); vec says that it arose in the vector queue, and batch is its ring and
BATCH value. addr is the address of TVAL, and faults are the pages of the batch; answered says that the answer TERMINAL came
while the strand could not take it. -/
structure Susp where
  cause : Nat
  vec : Bool
  batch : Nat × Nat
  addr : Nat
  faults : List PFault
  write : Bool
  fetch : Bool
  answered : Bool
  deriving DecidableEq, Repr

/-- An access of the strand that is outstanding (R102, R191): its number, the scalar register it writes, whether it is a
scalar load, whether later accesses wait for it (R94), and whether it is an element of a VAMO, which writes no scalar
register. -/
structure Pend where
  id : Nat
  dst : BitVec 5
  load : Bool
  acq : Bool
  vec : Bool
  deriving DecidableEq, Repr

/-- What a strand slot holds (R22), and the identity and launch values of its strand. ending says that its END has begun and
its waits go on (R282); endOff that it began in handler mode, which fails the launch. laneCycles and bitCycles are its
activity (R248, R308), and woke says that its WFE has just ended. out lists the accesses outstanding. kept lists the atomics of
the scratchpads that wait for a VFENCE, in program order with the accesses of their bytes behind them (R88, R93). acquired
says that an atomic with acq has come back, so that its node shows what has been applied.
skipBrk is the address at which a fetch breakpoint has matched and does not match again (R323), and areaProg the words that an
MSAVE at issue has stored before its drain point (R99). -/
structure Strand where
  status : Status
  fn : Nat
  lseq : Nat
  gang : Nat
  lsn : Nat
  core : Nat
  slot : Nat
  gcount : Nat
  gsize : Nat
  pc : Word
  regs : Vector Word 32
  spBase : Nat
  spSize : Nat
  vlcap : Nat
  det : Bool
  dseed : BitVec 32
  pref : Word
  lc : Nat
  epoch : Nat
  issue : Nat
  xflags : BitVec 6
  tcause : Word
  tepc : Word
  tval : Word
  ev : Bool
  pre : Bool
  qstop : Bool
  vown : Bool
  hm : Bool
  thandler : Word
  ctxarea : Word
  tscr : Vector Word 4
  vpsel : BitVec 5
  notify : BitVec 34
  pwstat : Word
  pwctl : BitVec 32
  cspec : Vector Word 4
  handles : List (Nat × Handle)
  gens : Cells 8
  fifos : List (Nat × Fifo)
  wcb : List WLine
  hpath : List HStore
  out : List Pend
  kept : List HStore
  acquired : Bool
  acc : Cells 32
  accRows : Nat
  reserved : Nat
  savedRows : Nat
  vctx : VCtx
  dumped : List QEntry
  stand : Option Instr
  permit : Bool
  susp : Option Susp
  nsample : Nat
  skipBrk : Option Word
  areaProg : Nat
  ending : Bool
  endOff : Bool
  laneCycles : Nat
  bitCycles : Nat
  woke : Bool
  deriving DecidableEq, Repr

/-- A loop of the iteration ring (R197). -/
structure Loop where
  set : Bool
  f : Word
  w : Word
  deriving DecidableEq, Repr

/-- What the node of a strand's core has observed of its gang's loops and barrier (R197, R204). -/
structure NodeView where
  loops : Vector Loop 4
  phase : Nat
  arr : Bool
  count : Nat
  deriving DecidableEq, Repr

/-- A strand of a gang: where it is placed, its region's base, its part in the barrier (R20, R32, R201), what its node has
observed, and the changes on their way to that node, each with the state that it leaves, in ring order (R197). -/
structure Member where
  core : Nat
  slot : Nat
  base : Nat
  ended : Bool
  arr : Bool
  target : Nat
  seen : NodeView
  coming : List NodeView
  deriving DecidableEq, Repr

/-- A gang's state (R17, R116, R197, R201). stopping says that its pre-emption waits for an instruction whose unit is the
whole (R234), or for the end of a halt (R323); slices counts the slices that have ended since its pre-emption (R289), and lcCap is the
most lane clusters with which it may resume (R117). -/
structure Gang where
  fn : Nat
  seq : Nat
  gang : Nat
  stack : Nat
  members : List Member
  areas : List Nat
  phase : Nat
  loops : Vector Loop 4
  lc : Nat
  lcCap : Nat
  epoch : Nat
  placed : Bool
  preempting : Bool
  stopping : Bool
  halted : Bool
  slices : Nat
  deriving DecidableEq, Repr

/-- A unit of an MWLD that stands at a Hearth's port with the bytes read for it (R245): the strand and its queue entry, the port's
core, whether the unit is a scale block or 64 rows, the tile slot and its first block or row. -/
structure HReq where
  fn : Nat
  seq : Nat
  gang : Nat
  lsn : Nat
  entry : Nat
  core : Nat
  scale : Bool
  slot : Nat
  first : Nat
  bytes : List Byte
  deriving DecidableEq, Repr

/-- A Hearth's shared state (R231 to R233), the requests at its ports in the order in which they came, and the core whose port
was served last (R245). -/
structure Hearth where
  heights : List (Nat × Nat)
  weights : Cells 8
  wscales : Cells 32
  duty : Nat
  ports : List HReq
  last : Nat
  deriving DecidableEq, Repr

/-- A watch entry (Table 15.3). -/
structure WEntry where
  pats : List (BitVec 32)
  injs : List (BitVec 32)
  ninj : Nat
  bit : Nat
  once : Bool
  act : Nat
  wild : BitVec 8
  len : Nat
  kind : Nat
  limit : Nat
  deriving DecidableEq, Repr

/-- A draft and its held actions (R269). -/
structure Draft where
  tok : BitVec 32
  nset : List Nat
  w : Option Nat
  deriving DecidableEq, Repr

/-- The part of a sequence that a check works on (R262): history oldest first, TOTAL, ARMED and CNT. -/
structure Hist where
  toks : List (BitVec 32)
  total : BitVec 32
  armed : BitVec 8
  cnt : Cells 32
  deriving DecidableEq, Repr

/-- A sequence of a Proofer (R258, R261): st is FREE 0, LIVE 1 or STOPPED 2; owner is the function that loaded it, and
tenants are those it has had since then. -/
structure Seq where
  st : Nat
  owner : Nat
  tenants : List Nat
  entries : List WEntry
  h : Hist
  fq : List (BitVec 32)
  drafts : List Draft
  shadow : Hist
  deriving DecidableEq, Repr

/-- A launch queue's registers (Table 17.2). -/
structure LQueue where
  base : Word
  busy : Bool
  err : Bool
  ie : Bool
  en : Bool
  log2n : Nat
  tail : BitVec 32
  head : BitVec 32
  deriving DecidableEq, Repr

/-- A fault record (R296); launch is the sequence number of the launch whose end it announces, or 0 (R302, R304). -/
structure FRec where
  addr : Word
  pasid : Nat
  vf : Nat
  last : Bool
  fetch : Bool
  write : Bool
  walk : Bool
  stage2 : Bool
  cause : Nat
  who : Nat
  batch : Nat
  count : Nat
  index : Nat
  launch : Nat
  deriving DecidableEq, Repr

/-- The debug block of a function (Table 18.4) and its open trace session (R325). -/
structure Debug where
  brk : Vector Word 4
  route : Bool
  halted : Bool
  hgang : Nat
  hlseq : Nat
  dpc : Word
  dvcp : Word
  smpbase : Word
  period : Nat
  smpen : Bool
  smplog : Nat
  smptail : BitVec 32
  smphead : BitVec 32
  smplost : Word
  trbase : Word
  startk : Nat
  stopk : Nat
  tren : Bool
  trlog : Nat
  trval0 : Word
  trval1 : Word
  trfilt : Word
  trtail : BitVec 32
  trhead : BitVec 32
  sessionOpen : Bool
  trstart : Nat
  trdrop : Nat
  deriving DecidableEq, Repr

/-- A virtual function's state (R299, Table 17.1, R291, R330, R331). activity holds its counters of R308 in their order:
lane-cycles, vault beats, Hearth bit-cycles, Kneader records and link flits. -/
structure Func where
  map0 : Word
  map1 : Word
  tenant : Nat
  ebu : Nat
  tbu : Nat
  thandler : Word
  grace : Nat
  pwrint : Nat
  slice : Nat
  quantum : Nat
  pools : List (Nat × Nat × Nat)
  frbase : Word
  frsize : Nat
  queues : List (Nat × LQueue)
  nextSeq : Nat
  frtail : BitVec 32
  frhead : BitVec 32
  held : List FRec
  spentT : Nat
  spentE : Nat
  activity : List Nat
  nextBatch : Nat
  pasid : Nat
  s1 : Word
  s2 : Word
  inv1 : Word
  inv2 : Word
  debug : Debug
  msix : List Nat
  flr : Bool
  deriving DecidableEq, Repr

/-- Record sets of a launch's manifest (Table 18.3). -/
structure Manifest where
  pages : List (Nat × Cells 8)
  dred : List (List Byte)
  proof : List (List Byte)
  cspec : List (List Byte)
  seed : List (List Byte)
  tree : List (List Byte)
  deriving DecidableEq, Repr

/-- A launch in progress or completed (R18, R302, R303). dirs, seeds and modes are its Dredger table (R250); hashes its
manifest hashes once they are fixed (R319). waited counts the device's slices in which its next gang waited, and passed is 1
more than those since a later gang was first placed ahead of it, or 0 (R306); recHeld says that the record of its unwritten
word has not been written yet (R304). -/
structure Launch where
  fn : Nat
  queue : Nat
  seq : Nat
  record : List Word
  next : Nat
  ended : Nat
  xflags : BitVec 6
  status : Option Nat
  cause : Nat
  written : Bool
  cwBatch : Nat
  waited : Nat
  passed : Nat
  recHeld : Bool
  dirs : Cells 32
  seeds : Cells 32
  modes : Cells 2
  man : Manifest
  hashes : List Word
  deriving DecidableEq, Repr

/-- A fault batch that the host may answer (R296): that of a strand's instruction, of a command or stream of one of its
FIFOs, of a completion word, or of a peer's stream tag, with the function whose page it was and whether for a write. -/
inductive Batch where
  | strand (fn seq gang lsn : Nat)
  | command (fn seq gang lsn q : Nat)
  | completion (fn seq : Nat)
  | peer (link tag fn : Nat) (p : PFault) (write : Bool)
  deriving DecidableEq, Repr

/-- A cached translation (R291, R299): function, host-space page, the guest-physical and system physical pages it
maps to (all of 4 KiB), and the permissions R, W and X that both stages give. -/
structure TlbEntry where
  fn : Nat
  page : Nat
  gpage : Nat
  frame : Nat
  r : Bool
  w : Bool
  x : Bool
  deriving DecidableEq, Repr

/-- A peer window (Table 19.5). -/
structure Window where
  valid : Bool
  links : BitVec 12
  pkg : BitVec 8
  rvf : BitVec 6
  tenant : Nat
  rbase : Word
  size : Nat
  deriving DecidableEq, Repr

/-- A fault ring of the physical function (Table 19.10) with the records held back (R294). -/
structure PRing where
  base : Word
  en : Bool
  log2n : Nat
  tail : BitVec 32
  head : BitVec 32
  held : List FRec
  deriving DecidableEq, Repr

/-- An invalidation in progress (R297): the function, the stage, the first page's number and the page count. -/
structure Inval where
  fn : Nat
  stage : Nat
  base : Nat
  count : Nat
  deriving DecidableEq, Repr

/-- A slot kept ready on a core (R309): function, launch sequence number, gang, and its places: core, slot, base. -/
structure Warm where
  fn : Nat
  seq : Nat
  gang : Nat
  places : List (Nat × Nat × Nat)
  deriving DecidableEq, Repr

/-- What this package has asked of a peer over a stream tag (R333, R334): the link, the completions still to come, the first status
other than 0, and for a read where its records stand. -/
structure Asked where
  tag : Nat
  link : Nat
  left : Nat
  status : Nat
  key : Nat
  width : Nat
  deriving DecidableEq, Repr

/-- The vaults of a hearth group as a tenant left them, under its own key (R310): their bytes and their erasures, and the
bytes that others have written since. -/
structure Stash where
  group : Nat
  tenant : Nat
  erased : List (Nat × Nat)
  cells : Cells 8
  spoiled : List Nat
  deriving DecidableEq, Repr

/-- Hub and security processor (R328 to R343). attKey and checkKey say that the attestation key and the CHECK key are held,
and noKey lists the tenants whose memory key is erased (R336, R341). port is the kind of ring whose turn it is at the
reporting port, with the records left in it (R294). landed gives the bytes that each stream tag of a peer has written here
(R333). pwrInForce is the LIMIT of the power interval in progress (R343). sensorLog lists the sensors logged (R341), oldest
first. scrubbed gives the tenant whose contents each hearth group has, holders the tenant of the function that last had it in
its map, and scrubbing the groups being scrubbed, each with the tenants whose sequences and translations are freed. -/
structure Dev where
  fw : Bool
  lock : Bool
  alarm : Nat
  sensorLog : List Nat
  pferr : BitVec 4
  pwrLimit : Nat
  pwrInForce : Nat
  pwrReason : BitVec 2
  dispLc : Nat
  dispIssue : Nat
  retry : PRing
  term : PRing
  batches : List (Nat × Nat × Batch)
  nextBatch : Nat
  mbcmd : Nat
  mbbusy : Bool
  mbstatus : Nat
  mbaddr : Word
  mblen : Word
  mbresult : Option Nat
  windows : List (Nat × Window)
  invals : List Inval
  tlb : List TlbEntry
  runRoots : List (Nat × Nat)
  scrubbed : List (Nat × Nat)
  holders : List (Nat × Nat)
  scrubbing : List (Nat × List Nat)
  flash : List Byte
  image : List Byte
  counter : Nat
  cfgSeq : Nat
  coefs : List Nat
  nextCoefs : List Nat
  weights : List Nat
  lowLimit : Nat
  levels : List Nat
  msix : List Nat
  erased : List (Nat × Nat)
  linksDown : BitVec 12
  fenceWait : List Nat
  flitsOut : List (Nat × Flit)
  tagSeq : List (Nat × Nat)
  peer : Cells 8
  peerDone : List (Nat × Flit)
  asked : List Asked
  landed : List (Nat × Nat)
  attKey : Bool
  checkKey : Bool
  noKey : List Nat
  stash : List Stash
  port : Nat × Nat
  warm : List Warm
  retired : List (Nat × Nat)
  deriving DecidableEq, Repr

/-- Which agent moves next (log 2): a core issues, with its next vector-queue instruction completed at once or left in
the queue, or a move or event takes place. -/
inductive Turn where
  | issue (core : Nat) (defer : Bool)
  | event (i : Instr)
  deriving DecidableEq, Repr

/-- An event of a function's traced strand in the clock being recorded (Table 18.6): TYPE, PC, VCP and DATA; kinds 7 and 8
are the START and STOP bits of TRSIG. -/
structure TraceEv where
  fn : Nat
  kind : Nat
  pc : Word
  vcp : Word
  data : Nat
  deriving DecidableEq, Repr

/-- The state of the device. me is the strand that issues next (the active strand of the focus core) and others are all
other placed strands; active gives each core's active slot, and turns the port that each bank unit served last (R36), by core ×
64 + bank. beat counts the moves of the slice (log 2). -/
structure State where
  me : Strand
  others : List Strand
  active : List (Nat × Nat)
  gangs : List Gang
  launches : List Launch
  funcs : List (Nat × Func)
  hearths : List (Nat × Hearth)
  census : Cells 64
  seqs : List (Nat × Seq)
  host : List Host.Cell
  spad : List Host.Cell
  vault : List Host.Cell
  net : List NetReq
  dev : Dev
  agenda : List Turn
  defer : Bool
  nextId : Nat
  tick : Nat
  beat : Nat
  turns : List (Nat × Nat)
  traceT : Nat
  trev : List TraceEv
  deriving DecidableEq, Repr

/-- The machine stops with a fault only when it is asked for something that no step of the device asks. -/
inductive Fault where
  /-- Raised by the meaning of an instruction word when no strand runs in the focus slot. Safe: `step` gives an
  instruction word to `exec` only when a strand runs. -/
  | noStrand
  deriving DecidableEq, Repr

/-- No meaning is given for an instruction. -/
inductive Refusal where
  /-- Raised by the arm of an instruction that is not modelled. Safe: nothing can be proved of its effect. -/
  | notModelled (mnemonic : String)
  deriving DecidableEq, Repr

/-- The placement context of a vector context (R101, R122, R132, R155, R249, Tables 6.2, 6.6 and 9.3), with the
default Dredger state. -/
def VCtx.reset : VCtx :=
  { vf := [], masks := [], scales := [], vshape := 0, vl := 0, mvl := 0, mfcr := 0, cnt := 0, mgrant := 0,
    didx := 0, dirs := [], seeds := [], modes := [], queue := [], bufs := [], vlSpan := 0, vlGrant := 0 }

/-- A free strand slot with every register at its Reset value; launch and placement values are zero (log 3). -/
def Strand.reset : Strand :=
  { status := .free, fn := 0, lseq := 0, gang := 0, lsn := 0, core := 0, slot := 0, gcount := 0, gsize := 0,
    pc := 0, regs := Vector.replicate 32 0, spBase := 0, spSize := 0, vlcap := 0, det := false, dseed := 0,
    pref := 0, lc := 0, epoch := 0, issue := 8, xflags := 0, tcause := 0, tepc := 0, tval := 0, ev := false,
    pre := false, qstop := false, vown := false, hm := false, thandler := 0, ctxarea := 0,
    tscr := Vector.replicate 4 0, vpsel := 0, notify := 0, pwstat := 0, pwctl := 0,
    cspec := Vector.replicate 4 0, handles := [], gens := [], fifos := [], wcb := [], hpath := [], out := [],
    kept := [], acquired := false, acc := [], accRows := 0, reserved := 0, savedRows := 0,
    vctx := VCtx.reset, dumped := [], stand := none, permit := false, susp := none,
    nsample := 0, skipBrk := none, areaProg := 0, ending := false, endOff := false, laneCycles := 0, bitCycles := 0, woke := false }

def Fifo.reset : Fifo := { out := 0, ws := false, cmds := [], res := [], unpopped := [] }

def Loop.reset : Loop := { set := false, f := 0, w := 0 }

/-- No loop is set and no phase has completed (R197, R201). -/
def NodeView.reset : NodeView := { loops := Vector.replicate 4 Loop.reset, phase := 0, arr := false, count := 0 }

/-- Reset values of Tables 13.2 and 13.3. -/
def Hearth.reset : Hearth := { heights := [], weights := [], wscales := [], duty := 8, ports := [], last := 0 }

def Hist.reset : Hist := { toks := [], total := 0, armed := 0, cnt := [] }

/-- A FREE sequence, all state zero (R258). -/
def Seq.reset : Seq := { st := 0, owner := 0, tenants := [], entries := [], h := Hist.reset, fq := [], drafts := [], shadow := Hist.reset }

def LQueue.reset : LQueue :=
  { base := 0, busy := false, err := false, ie := false, en := false, log2n := 0, tail := 0, head := 0 }

/-- Reset values of Table 18.4. -/
def Debug.reset : Debug :=
  { brk := Vector.replicate 4 0, route := false, halted := false, hgang := 0, hlseq := 0, dpc := 0, dvcp := 0,
    smpbase := 0, period := 0, smpen := false, smplog := 0, smptail := 0, smphead := 0, smplost := 0, trbase := 0,
    startk := 0, stopk := 0, tren := false, trlog := 0, trval0 := 0, trval1 := 0, trfilt := 0, trtail := 0,
    trhead := 0, sessionOpen := false, trstart := 0, trdrop := 0 }

/-- Reset values of Tables 17.1 and 17.2 and of FRPTR (R331). -/
def Func.reset : Func :=
  { map0 := 0, map1 := 0, tenant := 0, ebu := 0, tbu := 0, thandler := 0, grace := 200, pwrint := 100,
    slice := 1000, quantum := 512, pools := [], frbase := 0, frsize := 0, queues := [], nextSeq := 1,
    frtail := 0, frhead := 0, held := [], spentT := 0, spentE := 0, activity := [0, 0, 0, 0, 0],
    nextBatch := 1, pasid := 0, s1 := 0, s2 := 0,
    inv1 := 0, inv2 := 0, debug := Debug.reset, msix := [], flr := false }

def Manifest.reset : Manifest := { pages := [], dred := [], proof := [], cspec := [], seed := [], tree := [] }

def Window.reset : Window :=
  { valid := false, links := 0, pkg := 0, rvf := 0, tenant := 0, rbase := 0, size := 0 }

def PRing.reset : PRing := { base := 0, en := false, log2n := 0, tail := 0, head := 0, held := [] }

/-- Reset values of Tables 19.2, 19.3, 19.5 and 19.10 and of PWRSET (R343), and the default sensor levels of
Table 19.7 in its order. -/
def Dev.reset : Dev :=
  { fw := false, lock := false, alarm := 0, sensorLog := [], pferr := 0, pwrLimit := 2200, pwrInForce := 2200, pwrReason := 0,
    dispLc := 8, dispIssue := 8, retry := PRing.reset, term := PRing.reset, batches := [], nextBatch := 1,
    mbcmd := 0, mbbusy := false, mbstatus := 0, mbaddr := 0, mblen := 0, mbresult := none, windows := [],
    invals := [], tlb := [], runRoots := [], scrubbed := [], holders := [], scrubbing := [], flash := [], image := [],
    counter := 0, cfgSeq := 0, coefs := [0, 0, 0, 0, 0], nextCoefs := [0, 0, 0, 0, 0], weights := [1, 1, 1], lowLimit := 1200,
    levels := [2, 2, 1, 1, 2], msix := [], erased := [], linksDown := 0, fenceWait := [], flitsOut := [],
    tagSeq := [], peer := [], peerDone := [], asked := [], landed := [], attKey := true, checkKey := true, noKey := [],
    stash := [], port := (0, 0), warm := [], retired := [] }

/-- The machine right after power-on: no firmware runs, no launch exists and no strand is placed (R6, R335). -/
def State.reset : State :=
  { me := Strand.reset, others := [], active := [], gangs := [], launches := [], funcs := [], hearths := [],
    census := [], seqs := [], host := [], spad := [], vault := [], net := [], dev := Dev.reset, agenda := [],
    defer := false, nextId := 0, tick := 0, beat := 0, turns := [], traceT := 0, trev := [] }

end Sys2Proof.Machine
end

