-- ==== Sys2Proof/Machine/Operands.lean ====
section
/-! DEFINITION. Operand forms of the vector unit: VSHAPE (Table 6.2), elements, masks, scales and replication (R10, R68,
R74, R113, R147), the Dredger point (R251), and the register checks of R66 and R76. -/

namespace Sys2Proof.Machine

/-! ### VSHAPE (Table 6.2) -/

def etypeOf (vs : Word) : Nat := field vs 3 0

/-- The element width (Table 3.6). -/
def sewOf (vs : Word) : Nat :=
  match etypeOf vs with
  | 0 => 4 * 2 ^ field vs 6 4
  | 1 => 4 * 2 ^ field vs 6 4
  | 2 => 64
  | 3 => 32
  | 4 => 16
  | 5 => 16
  | 8 => 4
  | _ => 8

def lmulOf (vs : Word) : Nat := 2 ^ field vs 8 7
def blkOf (vs : Word) : Nat := 16 * 2 ^ field vs 10 9
def kselOf (vs : Word) : Nat := field vs 13 11
def rndOf (vs : Word) : Nat := field vs 15 14
def dithOf (vs : Word) : Bool := bit vs.toNat 16
def mpolOf (vs : Word) : Bool := bit vs.toNat 17
def satOf (vs : Word) : Bool := bit vs.toNat 18

/-- The values of VSHAPE that Table 6.2 accepts. -/
def shapeOk (v : Word) : Bool :=
  field v 63 19 == 0 && decide (field v 3 0 < 10) &&
    (if field v 3 0 < 2 then decide (field v 6 4 < 5) else field v 6 4 == 0)

/-- The float format of an ETYPE. -/
def fmtOf (et : Nat) : Option Fmt :=
  match et with
  | 2 => some fp64
  | 3 => some fp32
  | 4 => some bf16
  | 5 => some fp16
  | 6 => some e4m3
  | 7 => some e5m2
  | 8 => some e2m1
  | _ => none

def isInt (et : Nat) : Bool := et == 0 || et == 1
def isFloat (et : Nat) : Bool := et == 2 || et == 3 || et == 4 || et == 5

/-- sint. -/
def isSigned (et : Nat) : Bool := et == 0

/-! ### The physical file (R113) -/

/-- The declared register count N. -/
def nregsOf (cnt : BitVec 2) : Nat := 4 * 2 ^ cnt.toNat

/-- RB, the bytes of a register. -/
def rbOf (cnt : BitVec 2) : Nat := 262144 / nregsOf cnt

/-- MAXVL under a VSHAPE and a register count. -/
def maxVl (vs : Word) (cnt : BitVec 2) : Nat := lmulOf vs * rbOf cnt * 8 / sewOf vs

/-- elem(v, i) of width sew, as a bit pattern; sub-byte elements lie low nibble first (R4). -/
def elemGet (vf : Cells 8) (rb sew v i : Nat) : Nat :=
  if sew = 4 then
    let b := (cget zeros vf (v * rb + i / 2)).toNat
    if i % 2 = 0 then b % 16 else b / 16
  else ofBytes (cgets zeros vf (v * rb + i * (sew / 8)) (sew / 8))

/-- elem(v, i) := x, writing that element alone. -/
def elemSet (vf : Cells 8) (rb sew v i x : Nat) : Cells 8 :=
  if sew = 4 then
    let a := v * rb + i / 2
    let b := (cget zeros vf a).toNat
    cset zeros vf a (BitVec.ofNat 8 (if i % 2 = 0 then b / 16 * 16 + x % 16 else b % 16 + x % 16 * 16))
  else csets zeros vf (v * rb + i * (sew / 8)) (toBytes (sew / 8) x)

/-- Elements written in the order of the list. -/
def elemsSet (vf : Cells 8) (rb sew v : Nat) (xs : List (Nat × Nat)) : Cells 8 :=
  xs.foldl (fun vf p => elemSet vf rb sew v p.1 p.2) vf

/-! ### Masks and scales (R132, R155) -/

/-- mask(m, i): m0 reads as all ones. -/
def maskBit (c : VCtx) (m i : Nat) : Bool := m == 0 || cget zeros c.masks (m * 65536 + i) == 1

/-- A mask bit written; a write to m0 is discarded. -/
def maskSet (ms : Cells 1) (m i : Nat) (v : Bool) : Cells 1 :=
  if m = 0 then ms else cset zeros ms (m * 65536 + i) (if v then 1 else 0)

def masksSet (ms : Cells 1) (m : Nat) (xs : List (Nat × Bool)) : Cells 1 :=
  xs.foldl (fun ms p => maskSet ms m p.1 p.2) ms

/-- Every scale holds 1.0 at placement (R132). -/
def one32 (_ : Nat) : BitVec 32 := 0x3F800000

/-- scale(k, b), as its FP32 bits. -/
def scaleGet (c : VCtx) (k b : Nat) : Nat := (cget one32 c.scales (k * 4096 + b)).toNat

def scaleSet (ks : Cells 32) (k b x : Nat) : Cells 32 := cset one32 ks (k * 4096 + b) (BitVec.ofNat 32 x)

def scalesSet (ks : Cells 32) (k : Nat) (xs : List (Nat × Nat)) : Cells 32 :=
  xs.foldl (fun ks p => scaleSet ks k p.1 p.2) ks

/-! ### Replication and groups (R27, R68) -/

/-- The segment of a replicated operand: 1, 4, 16 or 64 elements. -/
def segOf (z : BitVec 2) : Nat := 4 ^ z.toNat

/-- The element of B that element i reads: i mod n under replication. -/
def repIdx (z : BitVec 2) (c : BitVec 1) (i : Nat) : Nat := if c = 1 then i % segOf z else i

/-- Elements of a group of 256 bytes (Table 1.5). -/
def epg (sew : Nat) : Nat := 2048 / sew

/-- The element groups that n elements span. -/
def groupsOf (sew n : Nat) : Nat := ceilDiv (n * sew) 2048

/-- The numbers lo to hi − 1. -/
def span (lo hi : Nat) : List Nat := (upTo (hi - lo)).map (lo + ·)

/-! ### Register checks (R66, R76, R114) -/

/-- A vector register field at or above the declared count (R66). -/
def aboveCount (cnt : BitVec 2) (r : BitVec 5) : Bool := decide (nregsOf cnt ≤ r.toNat)

/-- A group of g registers that does not begin at a multiple of g or does not lie below the count (R76). -/
def badGroup (cnt : BitVec 2) (g r : Nat) : Bool := r % g != 0 || decide (nregsOf cnt < r + g)

/-- Two groups that share a register. -/
def overlap (a ga b gb : Nat) : Bool := decide (a < b + gb) && decide (b < a + ga)

/-- VL, before any trim, above MAXVL (R114, R169). -/
def overVl (c : VCtx) : Bool := decide (maxVl c.vshape c.cnt < c.vlGrant)

/-- Groups of L registers under the current LMUL, and VL. -/
def badGroups (c : VCtx) (rs : List (BitVec 5)) : Bool :=
  rs.any (fun r => badGroup c.cnt (lmulOf c.vshape) r.toNat) || overVl c

/-! ### The Dredger point (R249, R251) -/

/-- V(d, b), by default 2^(31 − b). -/
def dirDefault (i : Nat) : BitVec 32 := BitVec.ofNat 32 (2 ^ (31 - i % 32))

/-- MODE(d), by default NONE, and NEST for dimension 63. -/
def modeDefault (d : Nat) : BitVec 2 := if d = 63 then 2 else 0

def mix (h : BitVec 32) : BitVec 32 :=
  let h := h ^^^ (h >>> 16)
  let h := h * 0x45D9F3B5
  let h := h ^^^ (h >>> 16)
  let h := h * 0x45D9F3B5
  h ^^^ (h >>> 16)

/-- The xor of the direction numbers that the Gray code selects. -/
def rawPoint (dirs : Cells 32) (d : Nat) (lo : BitVec 32) : BitVec 32 :=
  let g := lo ^^^ (lo >>> 1)
  (upTo 32).foldl (fun r b => if bit g.toNat b then r ^^^ cget dirDefault dirs (d * 32 + b) else r) 0

/-- Each bit flipped by its prefix under NEST. -/
def nestPoint (raw key : BitVec 32) : BitVec 32 :=
  (upTo 32).foldl (fun x k =>
    let t := BitVec.ofNat 32 (raw.toNat / 2 ^ (k + 1) + 2 ^ (31 - k))
    let f := bit (mix (key ^^^ mix t)).toNat 0
    x ||| BitVec.ofNat 32 (b2n (bit raw.toNat k != f) * 2 ^ k)) 0

/-- point(d, n) (R251). -/
def point (dirs seeds : Cells 32) (modes : Cells 2) (d n : Nat) : BitVec 32 :=
  let raw := rawPoint dirs d (BitVec.ofNat 32 n)
  let key := cget zeros seeds d ^^^ mix (BitVec.ofNat 32 (n / 2 ^ 32))
  match (cget modeDefault modes d).toNat with
  | 0 => raw
  | 1 => raw ^^^ key
  | _ => nestPoint raw key

/-- point(d, n) under a context's own Dredger state. -/
def ctxPoint (c : VCtx) (d n : Nat) : Nat := (point c.dirs c.seeds c.modes d n).toNat

/-- The dither of element i: dimension 63 at index DSEED × 2^32 + ((DIDX + i) mod 2^32) (R135). -/
def ditherOf (c : VCtx) (dseed : BitVec 32) (i : Nat) : Nat :=
  ctxPoint c 63 (dseed.toNat * 2 ^ 32 + (c.didx.toNat + i) % 2 ^ 32)

/-- The rounding mode of element i under a VSHAPE (R134). -/
def modeOf (vs : Word) (c : VCtx) (dseed : BitVec 32) (i : Nat) : RMode :=
  if dithOf vs then .dith (ditherOf c dseed i)
  else
    match rndOf vs with
    | 0 => .rne
    | 1 => .rtz
    | 2 => .rdn
    | _ => .rup

/-- All bits zero, or the canonical zero of Dyad8 (R148). -/
def zeroOf (et : Nat) : Nat := if et = 9 then 0x77 else 0

end Sys2Proof.Machine
end

