-- ==== Sys2Proof/Machine/Translate.lean ====
section
/-! DEFINITION. The translation of host space (R291, R292, R295, R299) and of the function tables it reads. -/

namespace Sys2Proof.Machine

/-- The state of a virtual function (R299). -/
def fnOf (s : State) (fn : Nat) : Func := tget Func.reset s.funcs fn

def setFn (s : State) (fn : Nat) (f : Func) : State := { s with funcs := tset s.funcs fn f }

def updFn (s : State) (fn : Nat) (g : Func → Func) : State := setFn s fn (g (fnOf s fn))

/-- n bytes of system physical memory, little-endian. -/
def readPhys (s : State) (pa n : Nat) : Nat := ofBytes (cgets zeros s.host pa n)

/-- What an access needs of a page (R292): a load R, a fetch X, a store or atomic R and W. -/
inductive Acc where
  | load | store | fetch
  deriving DecidableEq, Repr

/-- The outcome of one stage's walk (R292): the page's base and permissions, a stop at an entry that is not present, a
fault of the other stage at the guest-physical address of an entry, served or terminal, or a malformed entry. -/
inductive Walk where
  | ok (addr : Nat) (r w x : Bool)
  | absent
  | nested (gpa : Nat)
  | nestedBad (gpa : Nat)
  | malformed
  deriving DecidableEq, Repr

/-- Index of a level (R292): level 4 uses bits [55:48] only. -/
def levelIndex (a level : Nat) : Nat := if level = 4 then bits a 55 48 else bits a (12 + 9 * level + 8) (12 + 9 * level)

/-- One entry of Table 16.9 at level l: go on with the next table, or the end of the walk. -/
def walkEntry (e level a : Nat) (next : Nat → Walk) : Walk :=
  if !bit e 0 then .absent
  else if bit e 4 then
    if level = 0 then .ok (bits e 51 12 * 4096 + a % 4096) (bit e 1) (bit e 2) (bit e 3)
    else if level = 1 then
      if bits e 20 12 = 0 then .ok (bits e 51 12 * 4096 + a % 2 ^ 21) (bit e 1) (bit e 2) (bit e 3) else .malformed
    else .malformed
  else if level = 0 then .malformed
  else next (bits e 51 12 * 4096)

/-- The stage-2 walk from a table of level l. -/
def walk2From (s : State) (a : Nat) : Nat → Nat → Walk
  | 0, t => walkEntry (readPhys s (t + 8 * levelIndex a 0) 8) 0 a (fun _ => .malformed)
  | l + 1, t => walkEntry (readPhys s (t + 8 * levelIndex a (l + 1)) 8) (l + 1) a (walk2From s a l)

/-- Stage 2 of a function's context: the identity when S2EN is 0 (R291); inputs above bit 51 must be zero (R292),
and such an input is malformed. DEDUCED (log 10). -/
def stage2 (s : State) (f : Func) (gpa : Nat) : Walk :=
  if bit f.s2.toNat 0 then
    if gpa < 2 ^ 52 then walk2From s gpa 4 (field f.s2 63 12 * 4096) else .malformed
  else .ok gpa true true true

/-- The stage-1 walk from a table of level l: every table address is translated by stage 2 (R291, R295). -/
def walk1From (s : State) (f : Func) (a : Nat) : Nat → Nat → Walk
  | 0, t =>
    let g := t + 8 * levelIndex a 0
    match stage2 s f g with
    | .ok pa true _ _ => walkEntry (readPhys s pa 8) 0 a (fun _ => .malformed)
    | .absent => .nested g
    | _ => .nestedBad g
  | l + 1, t =>
    let g := t + 8 * levelIndex a (l + 1)
    match stage2 s f g with
    | .ok pa true _ _ => walkEntry (readPhys s pa 8) (l + 1) a (walk1From s f a l)
    | .absent => .nested g
    | _ => .nestedBad g

def stage1 (s : State) (f : Func) (va : Nat) : Walk :=
  if bit f.s1.toNat 0 then walk1From s f va 4 (field f.s1 63 12 * 4096) else .ok va true true true

/-- The outcome of a translation: the system and guest physical addresses with the permissions both stages give, a fault
that can be served (its record's STAGE2, WALK and ADDR), or a terminal fault. -/
inductive XRes where
  | ok (pa gpa : Nat) (r w x : Bool)
  | retry (stage2 walk : Bool) (addr : Nat)
  | term (p : PFault)
  deriving DecidableEq, Repr

/-- Permission is the intersection of both stages' leaves (R292). -/
def permits (a : Acc) (r w x : Bool) : Bool :=
  match a with
  | .load => r
  | .store => r && w
  | .fetch => x

/-- The walk of both stages, with no cached entry. -/
def walkBoth (s : State) (f : Func) (va : Nat) : XRes :=
  match stage1 s f va with
  | .ok gpa r1 w1 x1 =>
    match stage2 s f gpa with
    | .ok pa r2 w2 x2 => .ok pa gpa (r1 && r2) (w1 && w2) (x1 && x2)
    | .absent => .retry true false (gpa / 4096 * 4096)
    | .nested g => .retry true true g
    | .nestedBad g => .term ⟨true, true, g⟩
    | .malformed => .term ⟨true, false, gpa / 4096 * 4096⟩
  | .absent => .retry false false (va / 4096 * 4096)
  | .nested g => .retry true true g
  | .nestedBad g => .term ⟨true, true, g⟩
  | .malformed => .term ⟨false, false, va / 4096 * 4096⟩

/-- The page that a missing permission concerns: stage 1's leaf where it denies the access, else stage 2's. DEDUCED (log 51). -/
def deniedPage (s : State) (f : Func) (va : Nat) (a : Acc) : PFault :=
  match stage1 s f va with
  | .ok gpa r w x => if permits a r w x then ⟨true, false, gpa / 4096 * 4096⟩ else ⟨false, false, va / 4096 * 4096⟩
  | _ => ⟨false, false, va / 4096 * 4096⟩

def permitted (s : State) (f : Func) (va : Nat) (a : Acc) : XRes → XRes
  | .ok pa gpa r w x => if permits a r w x then .ok pa gpa r w x else .term (deniedPage s f va a)
  | o => o

/-- The cached entry of a function for a page. -/
def tlbFind (fn page : Nat) : List TlbEntry → Option TlbEntry
  | [] => none
  | e :: t => if e.fn = fn && e.page = page then some e else tlbFind fn page t

/-- A host-space address translated for a function: by a cached entry of that function, else by a walk (R291, R299). -/
def translate (s : State) (fn va : Nat) (a : Acc) : XRes :=
  match tlbFind fn (va / 4096) s.dev.tlb with
  | some e => permitted s (fnOf s fn) va a (.ok (e.frame * 4096 + va % 4096) (e.gpage * 4096 + va % 4096) e.r e.w e.x)
  | none => permitted s (fnOf s fn) va a (walkBoth s (fnOf s fn) va)

/-- The hub may cache what it walked (R291): the model caches the pages that data accesses of strands reach while a
stage is enabled. DESIGN CHOICE (log 11). -/
def cacheWalk (s : State) (fn va : Nat) : State :=
  let f := fnOf s fn
  if bit f.s1.toNat 0 || bit f.s2.toNat 0 then
    match tlbFind fn (va / 4096) s.dev.tlb with
    | some _ => s
    | none =>
      match walkBoth s f va with
      | .ok pa gpa r w x =>
        { s with dev := { s.dev with tlb := ⟨fn, va / 4096, gpa / 4096, pa / 4096, r, w, x⟩ :: s.dev.tlb } }
      | _ => s
  else s

end Sys2Proof.Machine
end

