-- ==== Sys2Proof/Machine/Ops.lean ====
section
/-! DEFINITION. The named operations over registers, strands, memory and faults, and taking a trap. -/

namespace Sys2Proof.Machine

abbrev Out := Host.Outcome State Fault Refusal

/-- The effect of an instruction word, which only a running strand issues. -/
def onStrand (s : State) (t : State) : Out := if s.me.status = .run then .next t else .fault .noStrand

/-- Register writes and reads are served: firmware runs, and no alarm of level 3 has struck (R335, R341). -/
def served (s : State) : Bool := s.dev.fw && !s.dev.lock

/-- The effect of a register write over CXL.io other than the mailbox's. -/
def onBar (s : State) (t : State) : Out := .next (if served s then t else s)

/-! ### The strand that issues -/

def updMe (s : State) (f : Strand → Strand) : State := { s with me := f s.me }

def updCtx (s : State) (f : VCtx → VCtx) : State := { s with me := { s.me with vctx := f s.me.vctx } }

/-- value(r): s0 reads as zero (R66, R101). -/
def reg (s : State) (r : BitVec 5) : Word := if r = 0 then 0 else s.me.regs.get r.toFin

/-- A write of a scalar register; a write of s0 is discarded (R66, R101). -/
def setReg (s : State) (r : BitVec 5) (v : Word) : State :=
  if r = 0 then s else { s with me := { s.me with regs := s.me.regs.set r.toFin v } }

/-- The next instruction of the strand in program order. -/
def advance (s : State) : State := { s with me := { s.me with pc := s.me.pc + 4 } }

/-- The shared operation of the register instructions: D := v, then the next instruction. -/
def alu (d : BitVec 5) (v : Word) (s : State) : Out := onStrand s (advance (setReg s d v))

/-! ### Strands, gangs and launches -/

def resident (st : Strand) : Bool := st.status != .free && st.status != .off

def isAt (core slot : Nat) (st : Strand) : Bool := resident st && st.core == core && st.slot == slot

/-- A strand by its launch, gang and logical strand number. -/
def isStrand (fn seq g lsn : Nat) (st : Strand) : Bool :=
  st.status != .free && st.fn == fn && st.lseq == seq && st.gang == g && st.lsn == lsn

/-- The strand that p names made the one that issues. -/
def swapBy (p : Strand → Bool) (s : State) : State :=
  if p s.me then s
  else
    match s.others.find? p with
    | none => s
    | some st =>
      let rest := s.others.filter fun x => !p x
      { s with me := st, others := if s.me.status = .free then rest else s.me :: rest }

/-- An operation of the issuing strand done by the strand that p names; nothing where there is none. -/
def onBy (p : Strand → Bool) (f : State → State) (s : State) : State :=
  if p s.me then f s
  else
    match s.others.find? p with
    | none => s
    | some _ =>
      let old := s.me
      let t := f (swapBy p s)
      if old.status = .free then
        { t with me := old, others := if t.me.status = .free then t.others else t.me :: t.others }
      else swapBy (isStrand old.fn old.lseq old.gang old.lsn) t

def onSlot (core slot : Nat) (f : State → State) (s : State) : State := onBy (isAt core slot) f s

/-- The strand in a slot. -/
def strandAt (s : State) (core slot : Nat) : Option Strand :=
  if isAt core slot s.me then some s.me else s.others.find? (isAt core slot)

/-- Every strand on a core that holds a slot. -/
def strandsOn (s : State) (core : Nat) : List Strand :=
  (s.me :: s.others).filter fun st => resident st && st.core == core

def isGang (fn seq g : Nat) (x : Gang) : Bool := x.fn == fn && x.seq == seq && x.gang == g

def gangFind (s : State) (fn seq g : Nat) : Option Gang := s.gangs.find? (isGang fn seq g)

def myGang (s : State) : Option Gang := gangFind s s.me.fn s.me.lseq s.me.gang

def updGang (s : State) (fn seq g : Nat) (f : Gang → Gang) : State :=
  { s with gangs := s.gangs.map fun x => if isGang fn seq g x then f x else x }

def updMyGang (s : State) (f : Gang → Gang) : State := updGang s s.me.fn s.me.lseq s.me.gang f

def isLaunch (fn seq : Nat) (l : Launch) : Bool := l.fn == fn && l.seq == seq

/-- A launch by its number: the one in progress, else the newest completed one that is kept. -/
def launchFind (s : State) (fn seq : Nat) : Option Launch :=
  (s.launches.find? fun l => isLaunch fn seq l && !l.written).or (s.launches.reverse.find? (isLaunch fn seq))

/-- An operation of the launch in progress that has a number. -/
def updLaunch (s : State) (fn seq : Nat) (f : Launch → Launch) : State :=
  { s with launches := s.launches.map fun l => if isLaunch fn seq l && !l.written then f l else l }

/-- A record of the strand's launch added to its manifest (R319). -/
def noteManifest (s : State) (f : Manifest → Manifest) : State :=
  updLaunch s s.me.fn s.me.lseq fun l => { l with man := f l.man }

/-- The operation f for every strand of a gang in ascending logical strand number. -/
def forGang (fn seq g : Nat) (f : State → State) (s : State) : State :=
  match gangFind s fn seq g with
  | none => s
  | some x => (upTo x.members.length).foldl (fun t lsn => onBy (isStrand fn seq g lsn) f t) s

/-- A new free value's number. -/
def bump (s : State) : State := { s with tick := s.tick + 1 }

/-- An addition to an activity counter of a function (R308). -/
def addActivity (s : State) (fn k n : Nat) : State :=
  updFn s fn fun f => { f with activity := f.activity.set k (f.activity.getD k 0 + n) }

/-! ### Fault rings (R294 to R296) -/

/-- The rings: 0 to 63 the functions', 64 the physical function's retryable ring, 65 its terminal ring. -/
def retryRing : Nat := 64
def termRing : Nat := 65

/-- A record handed to the reporting port, which holds it until its ring takes it. -/
def holdRec (s : State) (ring : Nat) (r : FRec) : State :=
  if ring = retryRing then { s with dev := { s.dev with retry := { s.dev.retry with held := s.dev.retry.held ++ [r] } } }
  else if ring = termRing then { s with dev := { s.dev with term := { s.dev.term with held := s.dev.term.held ++ [r] } } }
  else updFn s ring fun f => { f with held := f.held ++ [r] }

/-- The field of bytes 16 to 23, bits [63:32], of a record that arises at no strand (R296). -/
def nobody : Nat := 0xFFFFFFFF

/-- Global core × 4 + slot of the issuing strand. -/
def myPlace (s : State) : Nat := s.me.core * 4 + s.me.slot

/-- A record that takes no answer: BATCH 0, COUNT 1, INDEX 0, LAST 1 (R296). -/
def plainRec (s : State) (fn who cause addr : Nat) (write fetch : Bool) : FRec :=
  { addr := word addr, pasid := (fnOf s fn).pasid, vf := fn, last := true, fetch := fetch, write := write, walk := false,
    stage2 := false, cause := cause, who := who, batch := 0, count := 1, index := 0, launch := 0 }

/-- A terminal outcome is reported to the terminal ring and the function's ring, once a page (R294). -/
def reportTerm (s : State) (fn who : Nat) (p : PFault) (write fetch : Bool) : State :=
  let r := { plainRec s fn who 7 p.addr write fetch with walk := p.walk, stage2 := p.stage2 }
  holdRec (holdRec s termRing r) fn r

/-- The ring of Table R294 for a fault: stage 1 of a host page fault the function's, all others the retryable ring. -/
def ringOf (fn cause : Nat) (p : PFault) : Nat := if cause = 5 && !p.stage2 then fn else retryRing

/-- The BATCH value that a ring gives next, from 1 upward (R296). -/
def nextBatch (s : State) (ring : Nat) : Nat := if ring = retryRing then s.dev.nextBatch else (fnOf s ring).nextBatch

def setNextBatch (s : State) (ring n : Nat) : State :=
  if ring = retryRing then { s with dev := { s.dev with nextBatch := n } } else updFn s ring fun f => { f with nextBatch := n }

/-- One batch of faults, outstanding until the host answers it: a record for each distinct page in the ring that R294 names
for it, LAST marking the final one. A batch has one BATCH value, taken beyond those of every ring that holds a record of it, and
either ring's answer ends it. DEDUCED (log 12). Its first page's ring and the value. -/
def reportBatch (s : State) (fn who cause : Nat) (ps : List PFault) (write fetch : Bool) (b : Batch) : State × Nat × Nat :=
  let ps := ps.eraseDups
  match ps with
  | [] => (s, 0, 0)
  | p :: _ =>
    let rings := (ps.map (ringOf fn cause)).eraseDups
    let n := rings.foldl (fun n r => max n (nextBatch s r)) 0
    let recs : List (Nat × PFault) := (upTo ps.length).zip ps
    let s := recs.foldl (fun s iq =>
      holdRec s (ringOf fn cause iq.2)
        { addr := word iq.2.addr, pasid := (fnOf s fn).pasid, vf := fn, last := iq.1 + 1 == ps.length, fetch := fetch,
          write := write, walk := iq.2.walk, stage2 := iq.2.stage2, cause := cause, who := who, batch := n,
          count := ps.length, index := iq.1, launch := 0 }) s
    let s := rings.foldl (fun s r => setNextBatch s r (n + 1)) s
    ({ s with dev := { s.dev with batches := s.dev.batches ++ rings.map fun r => (r, n, b) } }, ringOf fn cause p, n)

/-! ### Addresses (R31 to R33) and checks (R109) -/

/-- A physical byte: a scratchpad byte by core × 2^19 + offset, or a system physical address. -/
inductive Loc where
  | spad (k : Nat)
  | host (pa : Nat)
  deriving DecidableEq, Repr

def Loc.plus : Loc → Nat → Loc
  | .spad k, n => .spad (k + n)
  | .host pa, n => .host (pa + n)

/-- The outcome of the checks of R109. -/
inductive MRes where
  | ok (l : Loc)
  | misaligned
  | access
  | retry (p : PFault)
  | term (p : PFault)
  deriving DecidableEq, Repr

def localBase : Nat := 0xFE00000000000000
def windowBase : Nat := 0xFE00000100000000
def spadSize : Nat := 0x80000
def hostSize : Nat := 2 ^ 56

/-- The regions of Table 1.7. -/
inductive Region where
  | host
  | local (off : Nat)
  | window (slot off : Nat)
  | nowhere
  deriving DecidableEq, Repr

def regionOf (e : Nat) : Region :=
  if e < hostSize then .host
  else if localBase ≤ e ∧ e < localBase + spadSize then .local (e - localBase)
  else if windowBase ≤ e ∧ e < windowBase + 64 * spadSize then
    .window ((e - windowBase) / spadSize) ((e - windowBase) % spadSize)
  else .nowhere

/-- The physical scratchpad byte of an offset in a strand's region. -/
def spadKey (core base off : Nat) : Nat := core * spadSize + base + off

/-- The byte an address of the scratchpads reaches, under the limits of R32 and R33. -/
def spadLoc (s : State) : Region → Option Loc
  | .local off => if off < s.me.spSize then some (.spad (spadKey s.me.core s.me.spBase off)) else none
  | .window j off =>
    if j < s.me.gsize ∧ off < s.me.spSize then
      if j = s.me.lsn then some (.spad (spadKey s.me.core s.me.spBase off))
      else
        match myGang s with
        | none => none
        | some g =>
          match g.members[j]? with
          | none => none
          | some m => some (.spad (spadKey m.core m.base off))
    else none
  | _ => none

/-- Checks 2 and 3 of R109 for one byte. -/
def reach (s : State) (e : Nat) (a : Acc) : MRes :=
  match regionOf e with
  | .host =>
    match translate s s.me.fn e a with
    | .ok pa _ _ _ _ => .ok (.host pa)
    | .retry s2 w addr => .retry ⟨s2, w, addr⟩
    | .term p => .term p
  | r =>
    match spadLoc s r with
    | some l => .ok l
    | none => .access

/-- The checks of R109 in their order for an access of n bytes at e. -/
def resolve (s : State) (e n : Nat) (a : Acc) : MRes := if e % n ≠ 0 then .misaligned else reach s e a

/-! ### Stores, loads and atomics (R84, R85, R88, R91) -/

/-- The written bits of p over the byte b. -/
def overlay (b : Byte) (p : PByte) : Byte := (b &&& ~~~p.mask) ||| (p.val &&& p.mask)

/-- A later write over an earlier one that waits. -/
def PByte.after (p q : PByte) : PByte := ⟨overlay q.val p, q.mask ||| p.mask⟩

/-- A byte written whole. -/
def full (b : Byte) : PByte := ⟨b, 0xFF⟩

def putBytes (m : List Host.Cell) (bs : List (Nat × PByte)) : List Host.Cell :=
  bs.foldl (fun m b => cset zeros m b.1 (overlay (cget zeros m b.1) b.2)) m

/-- The canonical form of a memory: addresses strictly rising, and no entry equal to what an unlisted address reads as. -/
def Memory.wf (m : List Host.Cell) : Bool := cwf zeros m

/-! ### Accesses that wait for their point of coherence (R84 to R86, R189, R191) -/

/-- The size in bytes of LD's sub-code: b, bu, h, hu, w, wu, d (Table 3.4). -/
def loadSize (w : BitVec 3) : Nat := 2 ^ (w.toNat / 2)

/-- The value LD writes: sext for `.b`, `.h` and `.w`, zext for `.bu`, `.hu` and `.wu`, whole for `.d` (R108). -/
def loadValue (w : BitVec 3) (bs : List Byte) : Word :=
  let n := loadSize w
  if w.toNat % 2 = 0 then BitVec.ofInt 64 (toInt (8 * n) (ofBytes bs)) else word (ofBytes bs)

/-- The new value of an AMO on n bytes (R189); operation codes of Table 3.5. -/
def amoNew (op n w b : Nat) : Nat :=
  match op with
  | 0 => (w + b) % 2 ^ (8 * n)
  | 1 => w &&& b
  | 2 => w ||| b
  | 3 => w ^^^ b
  | 4 => if toInt (8 * n) b < toInt (8 * n) w then b else w
  | 5 => if toInt (8 * n) w < toInt (8 * n) b then b else w
  | 6 => min w b
  | 7 => max w b
  | _ => b

/-- The old value as D receives it: sext of 32 bits, or 64 bits. -/
def amoResult (n w : Nat) : Word := if n = 4 then BitVec.ofInt 64 (toInt 32 w) else word w

/-- The value an element loads from its bytes. -/
def elemValue (sew i : Nat) (bs : List Byte) : Nat :=
  if sew = 4 then (if i % 2 = 0 then ofBytes bs % 16 else ofBytes bs / 16) else ofBytes bs

/-- The memory after a waiting access is performed. -/
def lateMem (m : List Host.Cell) (x : Late) : List Host.Cell :=
  let w := ofBytes (cgets zeros m x.key x.n)
  match x.kind with
  | .amo _ op b | .vamo _ _ _ _ op b => csets zeros m x.key (toBytes x.n (amoNew op x.n w b))
  | .cas _ v b => if w = v then csets zeros m x.key (toBytes x.n b) else m
  | _ => m

/-- The bytes it reads: those of the strand's own waiting stores over those at the point of coherence. -/
def lateBytes (m : List Host.Cell) (x : Late) : List Byte :=
  (upTo x.n).map fun j => overlay (cget zeros m (x.key + j)) (x.fwd.getD j ⟨0, 0⟩)

/-- A value that arrives at a strand for a scalar register. -/
def landReg (id : Nat) (d : BitVec 5) (v : Word) (st : Strand) : Strand :=
  { st with
    regs := if d = 0 then st.regs else st.regs.set d.toFin v, out := st.out.filter fun o => o.id != id
    acquired := st.acquired || st.out.any fun o => o.id == id && o.acq }

/-- Values that arrive at a strand for an element buffer; none for a buffer that has been discarded. -/
def landElems (buf : Nat) (vs : List (Nat × Nat)) (st : Strand) : Strand :=
  { st with vctx := { st.vctx with
      bufs := st.vctx.bufs.map fun b => if b.id = buf then { b with vals := b.vals ++ vs } else b } }

/-- The values of the elements that one access reads. -/
def partVals (parts : List (Nat × Nat × Nat)) (bs : List Byte) : List (Nat × Nat) :=
  parts.map fun p => (p.1, elemValue p.2.2 p.1 ((bs.drop p.2.1).take (max 1 (p.2.2 / 8))))

/-- The old value that arrives for an element of a VAMO. -/
def landOld (id d rb sew i v : Nat) (st : Strand) : Strand :=
  { st with
    out := st.out.filter fun o => o.id != id
    vctx := { st.vctx with vf := elemSet st.vctx.vf rb sew d i v } }

/-- The bytes of a waiting access reach its strand. -/
def land (x : Late) (bs : List Byte) (st : Strand) : Strand :=
  match x.kind with
  | .load d w => landReg x.id d (loadValue w bs) st
  | .amo d _ _ | .cas d _ _ => landReg x.id d (amoResult x.n (ofBytes bs)) st
  | .elem buf parts => landElems buf (partVals parts bs) st
  | .vamo d rb sew i _ _ => landOld x.id d rb sew i (ofBytes bs) st

/-- An operation of the strand that made an access, wherever it stands. -/
def toOwner (x : Late) (f : Strand → Strand) (s : State) : State :=
  let p := isStrand x.fn x.seq x.gang x.lsn
  { s with me := if p s.me then f s.me else s.me, others := s.others.map fun st => if p st then f st else st }

/-- The scratchpads after a request is served. -/
def reqMem (m : List Host.Cell) (r : NetReq) : List Host.Cell :=
  match r.reply, r.late with
  | some _, _ => m
  | none, some x => lateMem m x
  | none, none => putBytes m r.bytes

/-- A request served and its reply delivered. -/
def serveReq (s : State) (r : NetReq) : State :=
  let t := { s with spad := reqMem s.spad r }
  match r.late with
  | none => t
  | some x => toOwner x (land x (r.reply.getD (lateBytes s.spad x))) t

/-- Every request in a port queue or a channel is delivered and served, in the order of each (R36). -/
def settle (s : State) : State :=
  match s.net with
  | [] => s
  | n => ((n.filter fun r => !r.inChannel) ++ n.filter fun r => r.inChannel).foldl serveReq { s with net := [] }

/-! ### The write-combining buffer -/

/-- The open WCB line of a 256-byte address that waits for a number of VFENCEs. -/
def wcbFind (l : List WLine) (line held : Nat) : Option WLine := l.find? fun x => x.line == line && x.held == held

/-- Bytes merged into a line. -/
def lineMerge (x : WLine) (bs : List (Nat × PByte)) : WLine :=
  { x with bytes := bs.foldl (fun t b => tset t b.1 (b.2.after (tget ⟨0, 0⟩ t b.1))) x.bytes }

def wcbMerge (l : List WLine) (line held : Nat) (bs : List (Nat × PByte)) : List WLine :=
  l.map fun x => if x.line = line ∧ x.held = held then lineMerge x bs else x

/-- A new line stands before those that wait for more VFENCEs, whose stores are later in program order (log 65). -/
def wcbInsert (x : WLine) : List WLine → List WLine
  | [] => [x]
  | y :: t => if x.held < y.held then x :: y :: t else y :: wcbInsert x t

/-- The bank of a scratchpad byte: offset[8:3] (R32). -/
def bankOf (k : Nat) : Nat := k / 8 % 64

/-- The port through which a core's requests reach another core's banks, or its own (Table 4.1). -/
def portOf (src dst : Nat) : Nat := if src = dst then 0 else 1

/-- The requests that a line drains into: one for each bank it writes, to the port queue of its own core's bank or to the
die fabric channel of another core's (Table 4.3). -/
def lineReqs (core : Nat) (x : WLine) : List NetReq :=
  let dst := x.line * 256 / spadSize
  ((x.bytes.map fun b => bankOf b.1).eraseDups).map fun bank =>
    { src := core, dst := dst, bank := bank, port := portOf core dst, inChannel := dst != core,
      bytes := x.bytes.filter fun b => bankOf b.1 == bank, late := none, reply := none }

/-- One line drained, where it is open. -/
def drainAt (line held : Nat) (s : State) : State :=
  match wcbFind s.me.wcb line held with
  | none => s
  | some x =>
    { s with
      me := { s.me with wcb := s.me.wcb.filter fun y => !(y.line == line && y.held == held) }
      net := s.net ++ lineReqs s.me.core x }

/-- The Drain move of one line that waits for no VFENCE (Table 4.3, R93). -/
def drainLine (s : State) (line : Nat) : State := drainAt line 0 s

/-- The lines of an address that wait for no more VFENCEs than an atomic does drain ahead of it, in their order (R88). -/
def drainUpTo (held line : Nat) (s : State) : State := (upTo (held + 1)).foldl (fun s h => drainAt line h s) s

/-- A store behind a VFENCE whose address has an open line of stores that wait for none: that line drains first, since an
address has at most one undrained line (R81, R88, R93). -/
def reopens (s : State) (held k : Nat) : Bool := held != 0 && (wcbFind s.me.wcb (k / 256) 0).isSome

/-- A store that finds no line for it: no open line for its address, and all 64 lines taken (R99, R102). -/
def noLine (s : State) (held k : Nat) : Bool :=
  (wcbFind s.me.wcb (k / 256) held).isNone && !reopens s held k && decide (64 ≤ s.me.wcb.length)

def wcbFull (s : State) (k : Nat) : Bool := noLine s 0 k

/-- Bytes at consecutive locations. -/
def cellsAt (k : Nat) (bs : List PByte) : List (Nat × PByte) := ((upTo bs.length).zip bs).map fun x => (k + x.1, x.2)

/-- The oldest line drained. -/
def drainOldest (s : State) : State :=
  match s.me.wcb with
  | [] => s
  | x :: _ => drainLine s x.line

/-- The lines as a new one finds them: one of its address that drains first has left, or with every line taken the oldest. -/
def makeRoom (held k : Nat) (s : State) : State :=
  if reopens s held k then drainLine s (k / 256) else if 64 ≤ s.me.wcb.length then drainOldest s else s

/-- Bytes of a scratchpad store entering the WCB, all in one line. A store that waits for no VFENCE and finds only lines that
wait for one drains as soon as it has entered (log 65). -/
def wcbPutAt (held : Nat) (s : State) (k : Nat) (bs : List PByte) : State :=
  let line := k / 256
  let cells := cellsAt k bs
  match wcbFind s.me.wcb line held with
  | some _ => { s with me := { s.me with wcb := wcbMerge s.me.wcb line held cells } }
  | none =>
    let s := makeRoom held k s
    let t := { s with me := { s.me with wcb := wcbInsert (lineMerge ⟨line, held, []⟩ cells) s.me.wcb } }
    if held = 0 ∧ 64 ≤ s.me.wcb.length then drainLine t line else t

def wcbPut (s : State) (k : Nat) (bs : List PByte) : State := wcbPutAt 0 s k bs

/-! ### The host path (R91) -/

/-- An entry stands before those that wait for more VFENCEs (log 65). -/
def pathInsert (x : HStore) : List HStore → List HStore
  | [] => [x]
  | y :: t => if x.held < y.held then x :: y :: t else y :: pathInsert x t

/-- Bytes of a host-space store entering the host path. -/
def hostPutAt (held : Nat) (s : State) (pa : Nat) (bs : List PByte) : State :=
  { s with me := { s.me with hpath := pathInsert ⟨cellsAt pa bs, held, none⟩ s.me.hpath } }

def hostPut (s : State) (pa : Nat) (bs : List PByte) : State := hostPutAt 0 s pa bs

/-- An entry of the path performed at the host's coherence point. -/
def performHost (s : State) (x : HStore) : State :=
  match x.late with
  | none => { s with host := putBytes s.host x.bytes }
  | some l => toOwner l (land l (lateBytes s.host l)) { s with host := lateMem s.host l }

/-- Whether a waiting access reads without writing. -/
def isLoad (x : Late) : Bool :=
  match x.kind with
  | .amo .. | .cas .. | .vamo .. => false
  | _ => true

/-- The newest bits of the stores of a path at a location. -/
def pathBits (p : List HStore) (pa : Nat) : PByte := p.foldl (fun o e => (tget ⟨0, 0⟩ e.bytes pa).after o) ⟨0, 0⟩

/-- A load of the path performed before the stores still ahead of it, whose bytes it returns (R91). -/
def performLoad (ahead : List HStore) (x : Late) (s : State) : State :=
  let bs := (upTo x.n).map fun j => overlay (cget zeros s.host (x.key + j)) (pathBits ahead (x.key + j))
  toOwner x (land x bs) s

/-- The loads of a path performed, and its atomics after every earlier entry; the stores that wait are left. An atomic that waits
for a VFENCE stays with all that follows it, unless it is forced. -/
def passPath (force : Bool) : List HStore → List HStore → State → State
  | ahead, [], s => { s with me := { s.me with hpath := ahead } }
  | ahead, x :: t, s =>
    match x.late with
    | none => passPath force (ahead ++ [x]) t s
    | some l =>
      if isLoad l then passPath force ahead t (performLoad ahead l s)
      else if x.held = 0 ∨ force = true then passPath force [] t (performHost (ahead.foldl performHost s) x)
      else { s with me := { s.me with hpath := ahead ++ x :: t } }

/-- Every outstanding load and atomic of the strand completes (R102), but for atomics that wait for a VFENCE and, in the host path,
what follows them (R91, R93). -/
def completeOut (s : State) : State :=
  if s.me.out.isEmpty && s.me.vctx.bufs.isEmpty then s
  else
    let s := settle s
    passPath false [] s.me.hpath s

/-! ### Stores and reads -/

/-- A store that waits for a number of VFENCEs. -/
def storeAt (held : Nat) (s : State) (l : Loc) (bs : List PByte) : State :=
  match l with
  | .spad k => wcbPutAt held s k bs
  | .host pa => hostPutAt held s pa bs

def storeLoc (s : State) (l : Loc) (bs : List PByte) : State := storeAt 0 s l bs

/-- The waiting write of a location in a list of writes, none where there is none. -/
def tfind (l : List (Nat × PByte)) (k : Nat) : PByte := tget ⟨0, 0⟩ l k

/-- The newest bits of the strand's own stores that wait at a location. -/
def forwarded (st : Strand) : Loc → PByte
  | .spad k => (st.wcb.filter fun x => x.line == k / 256).foldl (fun o x => (tfind x.bytes k).after o) ⟨0, 0⟩
  | .host pa => pathBits st.hpath pa

/-- A byte at its point of coherence. -/
def atCoherence (s : State) : Loc → Byte
  | .spad k => cget zeros s.spad k
  | .host pa => cget zeros s.host pa

/-- A byte as the strand reads it (R88): its own waiting stores over the point of coherence. -/
def locByte (s : State) (l : Loc) : Byte := overlay (atCoherence s l) (forwarded s.me l)

def readLoc (s : State) (l : Loc) (n : Nat) : List Byte := (upTo n).map fun j => locByte s (l.plus j)

/-- A byte of addressable space as the strand reads it, with every request in flight served. -/
def viewByte (s : State) (e : Nat) : Option Byte :=
  match reach s e .load with
  | .ok l => some (locByte (settle s) l)
  | _ => none

/-- What a data access does besides: requests in flight ahead of it are served, or the host path's earlier loads are performed
and the hub may cache the walk. -/
def visit (s : State) (e : Nat) (l : Loc) : State :=
  match l with
  | .spad _ => settle s
  | .host _ => cacheWalk (completeOut s) s.me.fn e

/-- Every store of the strand performed: its drained lines, its WCB and its host path in path order. -/
def flushAll (s : State) : State :=
  let s := settle s
  s.me.hpath.foldl performHost
    { s with
      spad := s.me.wcb.foldl (fun m x => putBytes m x.bytes) s.spad
      me := { s.me with wcb := [], hpath := [] } }

/-- The stores that wait for no VFENCE performed. -/
def flushFree (s : State) : State :=
  let s := settle s
  (s.me.hpath.filter fun x => x.held == 0).foldl performHost
    { s with
      spad := (s.me.wcb.filter fun x => x.held == 0).foldl (fun m x => putBytes m x.bytes) s.spad
      me := { s.me with
        wcb := s.me.wcb.filter fun x => x.held != 0, hpath := s.me.hpath.filter fun x => x.held != 0 } }

/-- A request to the bank of a scratchpad location, by the crossbar or the die fabric channel. -/
def sendLate (x : Late) (s : State) : State :=
  let dst := x.key / spadSize
  let r : NetReq :=
    { src := s.me.core, dst := dst, bank := bankOf x.key, port := portOf s.me.core dst, inChannel := dst != s.me.core,
      bytes := [], late := some x, reply := none }
  { s with net := s.net ++ [r], nextId := s.nextId + 1 }

/-- An entry of the host path that is no store, behind a number of VFENCEs. -/
def pathLateAt (held : Nat) (x : Late) (s : State) : State :=
  { s with
    nextId := s.nextId + 1
    me := { s.me with hpath := pathInsert ⟨[], held, some x⟩ s.me.hpath } }

/-- A kept access goes on: a store enters the WCB, a load is sent with what its own waiting stores forward, and ahead of an atomic the
lines that it overlaps drain (R88). -/
def sendKept (s : State) (x : HStore) : State :=
  match x.late with
  | none => wcbPutAt x.held s ((x.bytes.map Prod.fst).headD 0) (x.bytes.map Prod.snd)
  | some l =>
    if isLoad l then sendLate { l with fwd := (upTo l.n).map fun j => forwarded s.me (.spad (l.key + j)) } s
    else sendLate l (drainUpTo x.held (l.key / 256) s)

/-- The kept accesses that p names sent, in program order; the others wait on. -/
def sendKeptOf (p : HStore → Bool) (s : State) : State :=
  (s.me.kept.filter p).foldl sendKept { s with me := { s.me with kept := s.me.kept.filter fun x => !p x } }

/-- An atomic of the host path that waits for a VFENCE. -/
def bars (x : HStore) : Bool := x.held != 0 && (match x.late with | some l => !isLoad l | none => false)

/-- The accesses that wait for a VFENCE: those kept, and in the host path the first such atomic with what follows it. -/
def heldBack (st : Strand) : List HStore := st.kept ++ st.hpath.dropWhile fun x => !bars x

/-- Whether an outstanding access is one of them. -/
def outHeld (st : Strand) (o : Pend) : Bool := (heldBack st).any fun x => match x.late with | some l => l.id == o.id | none => false

/-- Every access of the strand performed that a trap waits for, those kept behind a VFENCE too (R29, R278). DEDUCED (log 7). -/
def completeAll (s : State) : State :=
  let s := completeOut s
  if (heldBack s.me).isEmpty then s
  else
    let s := settle (sendKeptOf (fun _ => true) s)
    passPath true [] s.me.hpath s

/-- A VFENCE has completed: the accesses behind it wait for one less (R93). -/
def releaseHeld (s : State) : State :=
  sendKeptOf (fun x => x.held == 0) { s with me := { s.me with
      wcb := s.me.wcb.map fun x => { x with held := x.held - 1 }
      hpath := s.me.hpath.map fun x => { x with held := x.held - 1 }
      kept := s.me.kept.map fun x => { x with held := x.held - 1 } } }

/-- An atomic behind a number of VFENCEs waits for what it must: the WCB lines that it overlaps (R88), or every earlier entry of the
host path (R91). Where it cannot wait for those VFENCEs, the earlier stores behind them go with it (log 7). -/
def beforeAtomic (held : Nat) (s : State) (l : Loc) : State :=
  match l with
  | .spad k => settle (drainUpTo held (k / 256) s)
  | .host _ =>
    (s.me.hpath.filter fun x => decide (x.held ≤ held)).foldl performHost
      { s with me := { s.me with hpath := s.me.hpath.filter fun x => decide (held < x.held) } }

/-- n bytes at the point of coherence. -/
def coherent (s : State) (l : Loc) (n : Nat) : Nat :=
  match l with
  | .spad k => ofBytes (cgets zeros s.spad k n)
  | .host pa => ofBytes (cgets zeros s.host pa n)

/-- A write made at the point of coherence. -/
def writeCoherent (s : State) (l : Loc) (n v : Nat) : State :=
  match l with
  | .spad k => { s with spad := csets zeros s.spad k (toBytes n v) }
  | .host pa => { s with host := csets zeros s.host pa (toBytes n v) }

/-- An atomic behind a number of VFENCEs at the point of coherence (R189, R191): f gives the new value, if one is written. The old
value and the state after it. -/
def rmw (held : Nat) (s : State) (l : Loc) (n : Nat) (f : Nat → Option Nat) : Nat × State :=
  let s := beforeAtomic held s l
  let w := coherent s l n
  match f w with
  | none => (w, s)
  | some v => (w, writeCoherent s l n v)

/-- A store of the device itself into a function's host space; a page that cannot be written drops its bytes (log 13). -/
def hostWriteFn (s : State) (fn va : Nat) (bs : List Byte) : State :=
  ((upTo bs.length).zip bs).foldl (fun s x =>
    match translate s fn (va + x.1) .store with
    | .ok pa _ _ _ _ => { s with host := cset zeros s.host pa x.2 }
    | _ => s) s

/-- A read of the device itself from a function's host space: none where a page cannot be read. -/
def hostReadFn (s : State) (fn va n : Nat) : Option (List Byte) :=
  (upTo n).mapM fun j =>
    match translate s fn (va + j) .load with
    | .ok pa _ _ _ _ => some (cget zeros s.host pa)
    | _ => none

/-! ### Trace (R325, R326) -/

/-- The strand that the function's trace session follows. -/
def traced (s : State) : Bool :=
  let d := (fnOf s s.me.fn).debug
  d.tren && field d.trfilt 63 32 == s.me.lseq && field d.trfilt 31 8 == s.me.gang && field d.trfilt 5 0 == s.me.lsn

/-- VCP: the oldest vector-queue instruction that has not completed, or PC (R29). -/
def vcpOf (st : Strand) : Word :=
  match st.dumped, st.vctx.queue with
  | e :: _, _ => e.addr
  | [], e :: _ => e.addr
  | [], [] => st.pc

/-- An event of the traced strand's clock, kept until the clock is recorded. -/
def traceEvent (s : State) (kind : Nat) (pc vcp : Word) (data : Nat) : State :=
  if traced s then { s with trev := s.trev ++ [⟨s.me.fn, kind, pc, vcp, data⟩] } else s

/-! ### Taking a trap (R278, R279, R280) -/

/-- TCAUSE (Table 16.3). -/
def causeWord (cause tag : Nat) (vec resume : Bool) : Word :=
  word (cause + b2n vec * 2 ^ 8 + b2n resume * 2 ^ 9 + tag * 2 ^ 20)

/-- A stopped or dumped queue discarded, as END in handler mode discards it; a queue that runs is left (R282). -/
def discardQueue (st : Strand) : Strand :=
  { st with
    qstop := false, dumped := []
    vctx := if st.qstop then { st.vctx with queue := [], bufs := [] } else st.vctx }

/-- A trap of delivery H raised in handler mode is not entered: the strand ends as END in handler mode does, TCAUSE holding
the nested cause (R280). -/
def nestedTrap (w : Word) (s : State) : State :=
  { s with me := { discardQueue s.me with tcause := w, ending := true, endOff := true, status := .run, stand := none } }

/-- A trap of delivery H: the strand's outstanding loads complete, TCAUSE, TEPC and TVAL are written, handler mode begins and
control passes to THANDLER (R278). -/
def takeTrap (cause tag : Nat) (vec resume : Bool) (epc tval : Word) (s : State) : State :=
  let s := completeAll s
  if s.me.hm then nestedTrap (causeWord cause tag vec resume) s
  else
    let s := traceEvent s 3 s.me.pc (vcpOf s.me) cause
    { s with me := { s.me with
        tcause := causeWord cause tag vec resume, tepc := epc, tval := tval, hm := true, pc := s.me.thandler,
        status := .run, ending := false } }

/-- A trap of the front end: TEPC is the instruction's address (Table 16.2). -/
def trapFront (cause : Nat) (tval : Word) (s : State) : State := takeTrap cause 0 false false s.me.pc tval s

/-- A trap of the vector queue, whose stopped instructions stand in the queue (R284). -/
def trapQueue (cause : Nat) (tval : Word) (s : State) : State :=
  takeTrap cause 0 true false s.me.pc tval
    { s with me := { s.me with qstop := !s.me.vctx.queue.isEmpty, vctx := { s.me.vctx with bufs := [] } } }

/-- The strand is suspended until its batch is answered; no handler runs (R279). -/
def suspend (vec : Bool) (cause : Nat) (ps : List PFault) (addr : Nat) (write fetch : Bool) (s : State) : State :=
  let r := reportBatch s s.me.fn (myPlace s) cause ps write fetch (.strand s.me.fn s.me.lseq s.me.gang s.me.lsn)
  let x : Susp :=
    { cause := cause, vec := vec, batch := r.2, addr := addr, faults := ps.eraseDups, write := write, fetch := fetch,
      answered := false }
  { r.1 with me := { r.1.me with status := .suspended, susp := some x } }

/-- What a failed check of R109 does to the instruction that made it, at the front end. -/
def memFault (r : MRes) (e : Nat) (write fetch : Bool) (s : State) : State :=
  match r with
  | .ok _ => s
  | .misaligned => trapFront 3 (word e) s
  | .access => trapFront 4 (word e) s
  | .retry p => suspend false 5 [p] e write fetch s
  | .term p => trapFront 7 (word e) (reportTerm s s.me.fn (myPlace s) p write fetch)

/-- The end of a wait at WFE (R283). -/
def endWfe (st : Strand) : Strand := { st with ev := false, status := .run, woke := true }

/-- The event flag of TSTAT, which ends a wait at WFE (R283). -/
def raiseEv (st : Strand) : Strand := if st.status = .wfe then endWfe st else { st with ev := true }

/-- A suspension ends (R279, R283): the faulting instruction is issued again, or its stream goes on. -/
def endSuspension (s : State) : State :=
  updMe s fun st => raiseEv { st with susp := none, status := if st.status = .suspended then .run else st.status }

/-- A suspension that the host answered TERMINAL: cause 0x07 at the same point, delivered as H (R279). -/
def terminate (x : Susp) (s : State) : State :=
  let s := endSuspension s
  if x.vec then trapQueue 7 (word x.addr) s else trapFront 7 (word x.addr) s

/-- Return from a trap (R281): the stopped queue is reissued, then the front end fetches from TEPC. -/
def returnTrap (s : State) : State :=
  { s with me := { s.me with hm := false, qstop := false, pc := s.me.tepc } }

/-! ### Drain points (R99) -/

/-- Strands of a gang that have not ended. -/
def liveCount (g : Gang) : Nat := (g.members.filter fun m => !m.ended).length

/-- Whether the strand is the only one of its gang that has not ended. -/
def alone (s : State) : Bool :=
  match myGang s with
  | none => true
  | some g => decide (liveCount g ≤ 1)

/-- A drain point (R99): in deterministic mode the strand stands at it until a gang drain gives it its turn; a strand
whose gang has no other that has not ended drains at once. -/
def atDrain (i : Instr) (k : State → State) (s : State) : State :=
  if !s.me.det then k s
  else if s.me.permit then k { s with me := { s.me with permit := false, stand := none } }
  else if alone s then k (flushAll s)
  else { s with me := { s.me with stand := some i } }

end Sys2Proof.Machine
end

