-- ==== Sys2Proof/Machine/Flit.lean ====
section
/-! DEFINITION. Hjelvor flits (R333, Table 19.4) and the fence flits of a SYSTEM-scope fence (R334). -/

namespace Sys2Proof.Machine

/-- One bit of the CRC-32 of IEEE 802.3, taken least significant bit first. -/
def crcBit (r : BitVec 32) : BitVec 32 := if r.getLsbD 0 then (r >>> 1) ^^^ 0xEDB88320 else r >>> 1

def crcBits : Nat → BitVec 32 → BitVec 32
  | 0, r => r
  | n + 1, r => crcBits n (crcBit r)

def crcByte (r : BitVec 32) (b : Byte) : BitVec 32 := crcBits 8 (r ^^^ b.setWidth 32)

/-- The register preset to ones, and complemented at the end. -/
def crc32 (bs : List Byte) : BitVec 32 := ~~~(bs.foldl crcByte 0xFFFFFFFF)

/-- Bytes 0 to 11, then 16 to 255. -/
def flitBytes (f : Flit) : List Byte :=
  toBytes 1 f.kind ++ toBytes 1 f.count ++ toBytes 2 0 ++ toBytes 4 f.seq ++ toBytes 4 f.tag ++
    f.payload.take 240 ++ toBytes (240 - (f.payload.take 240).length) 0

/-- The flit's CRC holds. -/
def flitOk (f : Flit) : Bool := f.crc == crc32 (flitBytes f)

/-- A flit with its CRC. -/
def mkFlit (kind count seq tag : Nat) (payload : List Byte) : Flit :=
  let f : Flit := { kind := kind, count := count, seq := seq, tag := tag, crc := 0, payload := payload }
  { f with crc := crc32 (flitBytes f) }

/-- The least link that a window may use and that is up: the device picks one (R334). DESIGN CHOICE (log 86). -/
def linkFor (s : State) (w : Window) : Option Nat :=
  (upTo 12).find? fun l => w.links.getLsbD l && !s.dev.linksDown.getLsbD l

/-- The SEQ that a stream tag delivers next is kept apart from the one that it sends next. -/
def rxKey (tag : Nat) : Nat := 2 ^ 32 + tag

/-- The SEQ that a stream tag sends next. -/
def nextSeqOf (s : State) (tag : Nat) : Nat := tget 0 s.dev.tagSeq tag

/-- A flit handed to a link. -/
def sendFlit (link kind count tag : Nat) (payload : List Byte) (s : State) : State :=
  let n := nextSeqOf s tag
  { s with dev := { s.dev with
    flitsOut := s.dev.flitsOut ++ [(link, mkFlit kind count n tag payload)], tagSeq := tset s.dev.tagSeq tag ((n + 1) % 2 ^ 32) } }

/-- A flit of a function's traffic, counted for its energy (R308). -/
def linkFlit (fn link kind count tag : Nat) (payload : List Byte) (s : State) : State :=
  sendFlit link kind count tag payload (addActivity s fn 4 1)

/-- Records of a width in one flit. -/
def perFlit (width : Nat) : Nat := 240 / width

/-- Records packed whole into flits of a stream. -/
def sendRecords (fn link kind tag width : Nat) : Nat → List Byte → State → State
  | 0, _, s => s
  | n + 1, bs, s =>
    if bs.isEmpty then s
    else
      let size := perFlit width * width
      let now := bs.take size
      sendRecords fn link kind tag width n (bs.drop size) (linkFlit fn link kind (now.length / width) tag now s)

/-! ### What peers have been asked for (R333, R334) -/

def askedOf (s : State) (tag : Nat) : Option Asked := s.dev.asked.find? fun a => a.tag == tag

/-- Peers have answered all that the tags of a command stand for. -/
def peersDone (s : State) (tags : List (Nat × Nat)) : Bool := tags.all fun t => (askedOf s t.2).all fun a => a.left == 0

/-- The operand of a command whose peer answered with a status. -/
def peerRefused (s : State) (tags : List (Nat × Nat)) : Option Nat :=
  (tags.find? fun t => (askedOf s t.2).any fun a => a.status != 0).map Prod.fst

/-- One more entry of what is asked, or more completions to come under a tag in use. -/
def addAsked (x : Asked) (s : State) : State :=
  { s with dev := { s.dev with
      asked := if (askedOf s x.tag).isSome then s.dev.asked.map fun a => if a.tag = x.tag then { a with left := a.left + x.left } else a
        else s.dev.asked ++ [x] } }

def dropAsked (tags : List (Nat × Nat)) (s : State) : State :=
  { s with dev := { s.dev with asked := s.dev.asked.filter fun a => !tags.any fun t => t.2 == a.tag } }

/-- The peer windows that the strand's tenant may use, with a link that is up. -/
def myWindows (s : State) : List (Nat × Nat) :=
  (upTo 16).filterMap fun n =>
    let w := tget Window.reset s.dev.windows n
    if w.valid && w.tenant == (fnOf s s.me.fn).tenant then (linkFor s w).map fun l => (n, l) else none

/-- The stream tags of the fence flits of queue entry id, one for each window. -/
def fenceTag (id n : Nat) : Nat := (id * 16 + n) % 2 ^ 32

/-- A fence flit sent towards each window's package. DEDUCED (log 34). -/
def sendFences (id : Nat) (s : State) : State :=
  (myWindows s).foldl (fun s w =>
    let s := linkFlit s.me.fn w.2 5 0 (fenceTag id w.1) [] s
    { s with dev := { s.dev with fenceWait := s.dev.fenceWait ++ [fenceTag id w.1] } }) s

/-- Whether every fence flit of an entry has been acknowledged. -/
def fencesDone (id : Nat) (s : State) : Bool := (upTo 16).all fun n => !s.dev.fenceWait.contains (fenceTag id n)

end Sys2Proof.Machine
end

