-- ==== Sys2Proof/Machine/Flags.lean ====
section
/-! DEFINITION. The functions of the arithmetic mnemonics with the flags they set: integer results (R150, R151), floating
results (R152, Table 8.2), compares (R153) and classes (R154). Operands are bit patterns of width sew. -/

namespace Sys2Proof.Machine

/-- What a function of an element needs: ETYPE, SEW, SAT and the rounding mode of the element. -/
structure FEnv where
  et : Nat
  sew : Nat
  sat : Bool
  mode : RMode
  deriving DecidableEq, Repr

/-- The arithmetic operations of Tables 8.1 and 8.2. -/
inductive VOp where
  | add | sub | rsub | min | max | and | or | xor
  | mul | mulh | macc | nmacc | div | rem | sll | srl | sra
  | clz | popc | bfx | fshr | sqrt | abs | neg | recip | cls | mv
  deriving DecidableEq, Repr

/-! ### Integers -/

/-- VDIV of R151 as an exact integer. -/
def intDiv (signed : Bool) (w : Nat) (a b : Int) : Int :=
  if b = 0 then (if signed then -1 else (2 ^ w : Nat) - 1) else a.tdiv b

/-- VREM of R151. -/
def intRem (a b : Int) : Int := if b = 0 then a else a.tmod b

/-- VBFX (Table 8.1). -/
def bfxElem (w a b : Nat) : Nat :=
  let h := w / 2
  let pos := a % 2 ^ h
  let len := min (a / 2 ^ h % 2 ^ (w - h)) w
  if w ≤ pos then 0 else b / 2 ^ pos % 2 ^ len

/-- Integer effects of Table 8.1; x, y and z are the patterns of a, b and d. -/
def intOp (o : VOp) (v : FEnv) (x y z : Nat) : FR :=
  let w := v.sew
  let sg := isSigned v.et
  let a := intRead sg w x
  let b := intRead sg w y
  let d := intRead sg w z
  let res := fun (r : Int) => intResolve sg v.sat w r
  match o with
  | .add => res (a + b)
  | .sub => res (a - b)
  | .rsub => res (b - a)
  | .min => ⟨if b < a then y else x, 0⟩
  | .max => ⟨if a < b then y else x, 0⟩
  | .and => ⟨x &&& y, 0⟩
  | .or => ⟨x ||| y, 0⟩
  | .xor => ⟨x ^^^ y, 0⟩
  | .mul => res (a * b)
  | .mulh => ⟨ofInt w (a * b / (2 ^ w : Nat)), 0⟩
  | .macc => res (d + a * b)
  | .nmacc => res (d - a * b)
  | .div => res (intDiv sg w a b)
  | .rem => ⟨ofInt w (intRem a b), 0⟩
  | .sll => ⟨y * 2 ^ (x % w) % 2 ^ w, 0⟩
  | .srl => ⟨y / 2 ^ (x % w), 0⟩
  | .sra => ⟨ofInt w (toInt w y / (2 ^ (x % w) : Nat)), 0⟩
  | .clz => ⟨leadZeros w y, 0⟩
  | .popc => ⟨popCount w y, 0⟩
  | .bfx => ⟨bfxElem w x y, 0⟩
  | .fshr => ⟨(z * 2 ^ w + y) / 2 ^ (x % w) % 2 ^ w, 0⟩
  | .abs => res (b.natAbs : Int)
  | .neg => res (-b)
  | .mv => ⟨y, 0⟩
  | .sqrt | .recip | .cls => ⟨0, 0⟩

/-! ### Floating point -/

/-- A NaN result: NV where a source signals. -/
def nanResult (f : Fmt) (xs : List FV) : FR := ⟨f.canonical, if xs.any FV.isSnan then flNV else 0⟩

/-- An exact result rounded once, an invalid operation, or a NaN operand (Table 8.2). -/
def floatResult (f : Fmt) (mode : RMode) (xs : List FV) (r : FX) : FR :=
  if xs.any FV.isNan then nanResult f xs
  else
    match r with
    | .invalid => ⟨f.canonical, flNV⟩
    | .val x => f.resolve mode x

/-- VMACC and VNMACC: 0 × ∞ is invalid whatever d is, a NaN included. -/
def maccResult (f : Fmt) (mode : RMode) (rdn neg : Bool) (a b d : FV) : FR :=
  if a.isNan || b.isNan then nanResult f [a, b, d]
  else
    match fvMul a b with
    | .invalid => ⟨f.canonical, flNV⟩
    | .val p => floatResult f mode [d] (fvAdd rdn d (if neg then p.neg else p))

/-- VDIV: DZ for a finite nonzero value by zero. -/
def divFlags (a b : FV) : Nat :=
  match a with
  | .fin _ n _ => if n != 0 && b.isZero then flDZ else 0
  | _ => 0

/-- VMIN and VMAX, −0 below +0: whether a is the one to take. -/
def takesFirst (less : Bool) (a b : FV) : Bool :=
  let lt := fvLt a b || (fvEq a b && a.isNeg && !b.isNeg)
  if less then lt || fvEq a b && !(b.isNeg && !a.isNeg) else !lt

/-- VMIN and VMAX: one NaN operand gives the other. -/
def minMax (f : Fmt) (less : Bool) (x y : Nat) : FR :=
  let a := f.read x
  let b := f.read y
  let fl := if a.isSnan || b.isSnan then flNV else 0
  if a.isNan && b.isNan then ⟨f.canonical, fl⟩
  else if a.isNan then ⟨y, fl⟩
  else if b.isNan then ⟨x, fl⟩
  else ⟨if takesFirst less a b then x else y, 0⟩

/-- VSQRT. -/
def sqrtResult (f : Fmt) (mode : RMode) (b : FV) : FR :=
  match b with
  | .nan s => ⟨f.canonical, if s then flNV else 0⟩
  | .inf neg => if neg then ⟨f.canonical, flNV⟩ else ⟨f.signed false f.infCode, 0⟩
  | .fin neg n d =>
    if n = 0 then ⟨f.signed neg 0, 0⟩
    else if neg then ⟨f.canonical, flNV⟩
    else let r := sqrtFrac n d; f.round mode false r.1 r.2

/-- VRECIP: ±0 gives ±∞ with DZ, ±∞ gives ±0. -/
def recipResult (f : Fmt) (mode : RMode) (b : FV) : FR :=
  match b with
  | .nan s => ⟨f.canonical, if s then flNV else 0⟩
  | .inf neg => ⟨f.signed neg 0, 0⟩
  | .fin neg n d => if n = 0 then ⟨f.signed neg f.infCode, flDZ⟩ else f.round mode neg d n

/-- VCLASS (R154). -/
def classOf (f : Fmt) (x : Nat) : Nat :=
  let sub := bits x (f.width - 2) f.m == 0
  match f.read x with
  | .inf true => 2 ^ 0
  | .fin true n _ => if n = 0 then 2 ^ 3 else if sub then 2 ^ 2 else 2 ^ 1
  | .fin false n _ => if n = 0 then 2 ^ 4 else if sub then 2 ^ 5 else 2 ^ 6
  | .inf false => 2 ^ 7
  | .nan true => 2 ^ 8
  | .nan false => 2 ^ 9

/-- VABS and VNEG: the sign bit cleared or inverted; a NaN gives the canonical NaN, with NV where it signals. -/
def signOp (f : Fmt) (neg : Bool) (y : Nat) : FR :=
  match f.read y with
  | .nan s => ⟨f.canonical, if s then flNV else 0⟩
  | _ => ⟨if neg && y < f.signBit then y + f.signBit else y % f.signBit, 0⟩

/-- Floating effects of Table 8.2. -/
def floatOp (o : VOp) (f : Fmt) (v : FEnv) (x y z : Nat) : FR :=
  let a := f.read x
  let b := f.read y
  let d := f.read z
  let rdn := decide (v.mode = .rdn)
  match o with
  | .add => floatResult f v.mode [a, b] (fvAdd rdn a b)
  | .sub => floatResult f v.mode [a, b] (fvAdd rdn a b.neg)
  | .rsub => floatResult f v.mode [a, b] (fvAdd rdn b a.neg)
  | .min => minMax f true x y
  | .max => minMax f false x y
  | .mul => floatResult f v.mode [a, b] (fvMul a b)
  | .macc => maccResult f v.mode rdn false a b d
  | .nmacc => maccResult f v.mode rdn true a b d
  | .div =>
    let r := floatResult f v.mode [a, b] (fvDiv a b)
    ⟨r.v, r.fl ||| (if b.isNan then 0 else divFlags a b)⟩
  | .sqrt => sqrtResult f v.mode b
  | .recip => recipResult f v.mode b
  | .abs => signOp f false y
  | .neg => signOp f true y
  | .cls => ⟨classOf f y, 0⟩
  | .mv => ⟨y, 0⟩
  | .and | .or | .xor | .mulh | .rem | .sll | .srl | .sra | .clz | .popc | .bfx | .fshr => ⟨0, 0⟩

/-- The function of a mnemonic under the current type. -/
def vop (o : VOp) (v : FEnv) (x y z : Nat) : FR :=
  if isInt v.et then intOp o v x y z
  else
    match fmtOf v.et with
    | some f => floatOp o f v x y z
    | none => ⟨y, 0⟩

/-- The ETYPE values for which a mnemonic is defined (Table 3.7). -/
def vopDefined (o : VOp) (et : Nat) : Bool :=
  match o with
  | .add | .sub | .rsub | .min | .max | .mul | .macc | .nmacc | .div | .abs | .neg => isInt et || isFloat et
  | .and | .or | .xor | .mulh | .rem | .sll | .srl | .sra | .clz | .popc | .bfx | .fshr => isInt et
  | .sqrt | .recip | .cls => isFloat et
  | .mv => true

/-! ### Compares (R153) -/

/-- The conditions of Table 8.3 with the flag they set; q is the sub-code. -/
def compare (q : Nat) (et sew x y : Nat) : Bool × Nat :=
  if isInt et then
    let a := intRead (isSigned et) sew x
    let b := intRead (isSigned et) sew y
    match q with
    | 0 => (decide (a = b), 0)
    | 1 => (decide (a ≠ b), 0)
    | 2 => (decide (a < b), 0)
    | 3 => (decide (a ≤ b), 0)
    | 4 => (decide (x % 2 ^ sew < y % 2 ^ sew), 0)
    | _ => (decide (x % 2 ^ sew ≤ y % 2 ^ sew), 0)
  else
    match fmtOf et with
    | none => (false, 0)
    | some f =>
      let a := f.read x
      let b := f.read y
      let un := a.isNan || b.isNan
      let sn := if a.isSnan || b.isSnan then flNV else 0
      match q with
      | 0 => (!un && fvEq a b, sn)
      | 1 => (un || !fvEq a b, sn)
      | 2 => (!un && fvLt a b, if un then flNV else 0)
      | 3 => (!un && (fvLt a b || fvEq a b), if un then flNV else 0)
      | 6 => (un, sn)
      | _ => (!un, sn)

/-- The ETYPE values for which a condition is defined (Table 3.7). -/
def compareDefined (q et : Nat) : Bool :=
  match q with
  | 4 | 5 => isInt et
  | 6 | 7 => isFloat et
  | _ => isInt et || isFloat et

end Sys2Proof.Machine
end

