-- ==== Sys2Proof/WellFormed.lean ====
section
/-! DEFINITION. Which terms of `Instr` are instruction words: the limits that R66 to R73, R77 and the
chapters put on field values. Limits that depend on the declared register count or on VSHAPE are checked
when the instruction issues (R66, R75, R76). -/

namespace Sys2Proof

/-- R68: BC = 0 requires BSZ = 0b00. -/
def VMod.ok (o : VMod) : Bool := o.c == 1 || o.z == 0

def SMod.ok (o : SMod) : Bool := o.c == 1 || o.z == 0

/-- R66: a mask or scale register field is 0 to 7. -/
def lowReg (r : BitVec 5) : Bool := r.toNat < 8

/-- Table 3.5: scope codes 6 and 7 are illegal. -/
def scopeOk (s : BitVec 3) : Bool := s.toNat < 6

/-- The instruction is one of the words of Chamus 1.0. A move or event is no word. -/
def Instr.wellFormed : Instr → Bool
  | .add d a b => !(d == 0 && a == 0 && b == 0)
  | .sub .. | .and .. | .or .. | .xor .. | .sll .. | .srl .. | .sra .. | .slt .. | .sltu .. | .min .. | .max ..
  | .minu .. | .maxu .. | .mul .. | .mulh .. | .mulhu .. | .div .. | .divu .. | .rem .. | .remu ..
  | .clz .. | .ctz .. | .popc .. | .bfx .. | .bfi .. | .fshr .. => true
  | .addi .. | .andi .. | .ori .. | .xori .. | .slli .. | .srli .. | .srai .. | .slti .. | .lui .. | .auipc .. => true
  | .ld _ _ _ w => w.toNat != 7
  | .st .. => true
  | .beq .. | .bne .. | .blt .. | .bge .. | .bltu .. | .bgeu .. | .jal .. | .jalr .. => true
  | .amo _ _ _ s o _ _ => scopeOk s && o.toNat < 9
  | .cas _ _ _ s _ _ => scopeOk s
  | .sysrd .. | .syswr .. | .sysset .. | .sysclr .. => true
  | .trap .. | .eret | .endStrand | .yield | .bkpt .. | .wfe | .vsave .. | .vrest .. => true
  | .vsetl _ a i => a == 0 || i == 0
  | .vcfg .. => true
  | .vregs n => n == 4 || n == 8 || n == 16 || n == 32
  | .mstart .. | .mstop => true
  | .vadd _ _ _ o | .vsub _ _ _ o | .vrsub _ _ _ o | .vmin _ _ _ o | .vmax _ _ _ o | .vand _ _ _ o
  | .vor _ _ _ o | .vxor _ _ _ o => o.ok
  | .vaddVs _ _ _ o | .vsubVs _ _ _ o | .vrsubVs _ _ _ o | .vminVs _ _ _ o | .vmaxVs _ _ _ o | .vandVs _ _ _ o
  | .vorVs _ _ _ o | .vxorVs _ _ _ o => o.ok
  | .vaddVi _ _ _ o | .vsubVi _ _ _ o | .vrsubVi _ _ _ o | .vminVi _ _ _ o | .vmaxVi _ _ _ o | .vandVi _ _ _ o
  | .vorVi _ _ _ o | .vxorVi _ _ _ o => o.ok
  | .vmul _ _ _ o | .vmulh _ _ _ o | .vmacc _ _ _ o | .vnmacc _ _ _ o | .vdiv _ _ _ o | .vrem _ _ _ o
  | .vsll _ _ _ o | .vsrl _ _ _ o => o.ok
  | .vmulVs _ _ _ o | .vmulhVs _ _ _ o | .vmaccVs _ _ _ o | .vnmaccVs _ _ _ o | .vdivVs _ _ _ o | .vremVs _ _ _ o
  | .vsllVs _ _ _ o | .vsrlVs _ _ _ o => o.ok
  | .vsllVi _ _ _ o | .vsrlVi _ _ _ o | .vsraVi _ _ _ o => o.ok
  | .vsra _ _ _ o | .vbfx _ _ _ o | .vfshr _ _ _ o => o.ok
  | .vclz _ _ o | .vpopc _ _ o | .vsqrt _ _ o | .vabs _ _ o | .vneg _ _ o => o.ok
  | .vsraVs _ _ _ o | .vbfxVs _ _ _ o | .vfshrVs _ _ _ o => o.ok
  | .vcmp d _ _ _ o => lowReg d && o.ok
  | .vcmpVs d _ _ _ o | .vcmpVi d _ _ _ o => lowReg d && o.ok
  | .vsel _ _ _ o => o.ok
  | .vmv _ _ o | .vclass _ _ o | .vrecip _ _ o => o.ok
  | .vidx .. => true
  | .vselVs _ _ _ o => o.ok
  | .vmvVs .. => true
  | .mand d a b | .mor d a b | .mxor d a b | .mandn d a b => lowReg d && lowReg a && lowReg b
  | .mnot d a => lowReg d && lowReg a
  | .mffs _ a | .mpopc _ a => lowReg a
  | .vcvtw _ _ v o | .vcvtn _ _ v o | .vcvtf4 _ _ v o | .vcvtdy _ _ v o => v.toNat < 2 && o.ok
  | .vcvti _ _ v o => v.toNat < 4 && o.ok
  | .kset d _ _ => lowReg d
  | .kmv _ a b m => lowReg b && (a == 1 || (a == 0 && m == 0))
  | .kcalc d a _ _ _ => lowReg d && a.toNat < 4
  | .vslup _ _ _ f _ _ | .vsldn _ _ _ f _ _ => f.toNat < 6
  | .vperm .. | .vcmpr .. | .vexpd .. => true
  | .viota _ b _ => lowReg b
  | .vred .. | .vscan .. | .vhist .. | .vtopk .. | .vtkmrg .. => true
  | .vld .. | .vlds .. | .vldx .. | .vldxo .. | .vldff .. | .vldseg .. | .vst .. | .vsts .. | .vstx .. | .vstxo ..
  | .vstseg .. | .mfset .. => true
  | .vamo _ _ _ _ o _ _ => o.toNat < 9
  | .fence r s => r != 0 && scopeOk s
  | .vfence s => scopeOk s
  | .iterset .. | .post .. | .waiti .. | .bar | .bararr | .barwt => true
  | .ropen .. | .rclose .. => true
  | .rstat _ _ o => o.toNat < 4
  | .rdstr .. | .wrstr .. | .qpush .. | .qpop .. | .rsort .. | .rmerge .. | .rjoin .. | .rpart .. | .rwait ..
  | .cspec .. => true
  | .mattach .. | .mdetach => true
  | .mwldCfg _ _ r => r.toNat < 16
  | .mwldSp _ _ r => r.toNat < 16
  | .mwldQ _ _ _ r => r.toNat < 16
  | .mwldSc _ _ r => r.toNat < 16
  | .mxv d _ _ _ _ _ => lowReg d
  | .mop _ _ f _ => f.toNat < 3
  | .maccrd .. | .maccwr .. | .maccz .. | .msave .. | .mrest .. => true
  | .mcensRd .. | .mcensRdclr .. | .mcensClr | .mcensIdx .. => true
  | .qrtld _ c f => f.toNat + (c.toNat + 1) ≤ 64
  | .qrseed _ _ m _ => m.toNat < 3
  | .qrgen _ _ _ o => o.ok
  | .qrgens _ _ _ o => o.ok
  | .pwld _ _ b n _ => n == 0 || b == 0
  | .pwcntSt .. | .pwcntHist .. | .pwcntCnt .. | .pwcntFree .. | .pwchk .. | .pwdrft .. | .pwconf .. | .pwinj .. => true
  | .split .. | .fetch .. | .execute .. | .drain .. | .deliver .. | .serve .. | .hostPerform .. | .push ..
  | .acceptAndProduce .. | .streamRecord .. | .commandComplete .. | .stall .. | .streamPageFault .. | .pop ..
  | .postAndObserve .. | .proof .. | .hearthServe .. | .gangDrain .. | .wfeWake .. | .sliceEnd ..
  | .waitQuantumExpiry .. | .doorbell .. | .launchFetch .. | .gangPlacement .. | .warmSlot ..
  | .priorityPreemption .. | .resumption .. | .graceExpiry .. | .budgetWindow | .budgetExhausted ..
  | .powerInterval .. | .completionWordWrite .. | .queueLevelReset .. | .functionLevelReset .. | .partmapWrite ..
  | .tenantWrite .. | .scrub .. | .faultRecordWrite .. | .faultAnswer .. | .pfFaultAnswer .. | .inv1 .. | .inv2 ..
  | .pageRetirement .. | .snoop .. | .hjelvorReadRequest .. | .hjelvorReadRecords .. | .hjelvorWriteRecords ..
  | .hjelvorCompletionFlit .. | .hjelvorFenceFlit .. | .hjelvorFenceAck .. | .linkDown .. | .powerOn | .load
  | .commit | .config | .quote | .securityAlarm .. | .debugResume .. | .smplostRead .. | .trsigWrite ..
  | .trenClear .. | .registerWrite .. | .illegalInstruction .. | .instructionFetchFault | .resetCompletion ..
  | .mailboxCompletion | .invalidationCompletion => false

end Sys2Proof
end

