-- ==== Sys2Proof/Decode.lean ====
section
/-! DEFINITION. Decoding of instruction words (R63 to R73, R77), total on any word and on any bytes, rejecting
by name, and the encoder written from the same tables. -/

namespace Sys2Proof

/-- Why a word is not an instruction (R77). -/
inductive DecodeError where
  /-- fewer than four bytes -/
  | short
  /-- the word 0x0000_0000 -/
  | zeroWord
  /-- an unassigned major, or a sub-code that no mnemonic holds -/
  | unassigned
  /-- a nonzero reserved bit, or a nonzero field that must be zero -/
  | reservedBits
  /-- a field value that R66 to R73 or the instruction's chapter does not define -/
  | badField
  deriving DecidableEq, Repr

/-- x[lo + n − 1 : lo], read as an unsigned number (R4). -/
def bitsOf (x lo n : Nat) : Nat := x / 2 ^ lo % 2 ^ n

/-- The n-bit field that begins at bit lo of a word. -/
def fld (w lo n : Nat) : BitVec n := BitVec.ofNat n (w / 2 ^ lo)

/-- BSZ, BC, M, CB and CA of a VV word (Table 3.1). -/
def vmodOf (w : Nat) : VMod := ⟨fld w 27 2, fld w 26 1, fld w 24 2, fld w 23 1, fld w 22 1⟩

/-- BSZ, BC, M and CB of a word whose CA is zero. -/
def smodOf (w : Nat) : SMod := ⟨fld w 27 2, fld w 26 1, fld w 24 2, fld w 23 1⟩

/-- A word with the field x placed from bit lo up, where it was zero. -/
def put {n : Nat} (x : BitVec n) (lo w : Nat) : Nat := w + x.toNat * 2 ^ lo

def putSMod (o : SMod) (w : Nat) : Nat := put o.k 23 (put o.m 24 (put o.c 26 (put o.z 27 w)))

def putVMod (o : VMod) (w : Nat) : Nat := put o.j 22 (put o.k 23 (put o.m 24 (put o.c 26 (put o.z 27 w))))

/-- Sub-codes of major 0x00 (Table 3.4). -/
def rawMajor00 (w : Nat) : Option Instr :=
  match bitsOf w 22 10 with
  | 0 => some (.add (fld w 7 5) (fld w 12 5) (fld w 17 5))
  | 1 => some (.sub (fld w 7 5) (fld w 12 5) (fld w 17 5))
  | 2 => some (.and (fld w 7 5) (fld w 12 5) (fld w 17 5))
  | 3 => some (.or (fld w 7 5) (fld w 12 5) (fld w 17 5))
  | 4 => some (.xor (fld w 7 5) (fld w 12 5) (fld w 17 5))
  | 5 => some (.sll (fld w 7 5) (fld w 12 5) (fld w 17 5))
  | 6 => some (.srl (fld w 7 5) (fld w 12 5) (fld w 17 5))
  | 7 => some (.sra (fld w 7 5) (fld w 12 5) (fld w 17 5))
  | 8 => some (.slt (fld w 7 5) (fld w 12 5) (fld w 17 5))
  | 9 => some (.sltu (fld w 7 5) (fld w 12 5) (fld w 17 5))
  | 10 => some (.min (fld w 7 5) (fld w 12 5) (fld w 17 5))
  | 11 => some (.max (fld w 7 5) (fld w 12 5) (fld w 17 5))
  | 12 => some (.minu (fld w 7 5) (fld w 12 5) (fld w 17 5))
  | 13 => some (.maxu (fld w 7 5) (fld w 12 5) (fld w 17 5))
  | _ => none

/-- Sub-codes of major 0x01 (Table 3.4). -/
def rawMajor01 (w : Nat) : Option Instr :=
  match bitsOf w 22 10 with
  | 0 => some (.mul (fld w 7 5) (fld w 12 5) (fld w 17 5))
  | 1 => some (.mulh (fld w 7 5) (fld w 12 5) (fld w 17 5))
  | 2 => some (.mulhu (fld w 7 5) (fld w 12 5) (fld w 17 5))
  | 3 => some (.div (fld w 7 5) (fld w 12 5) (fld w 17 5))
  | 4 => some (.divu (fld w 7 5) (fld w 12 5) (fld w 17 5))
  | 5 => some (.rem (fld w 7 5) (fld w 12 5) (fld w 17 5))
  | 6 => some (.remu (fld w 7 5) (fld w 12 5) (fld w 17 5))
  | _ => none

/-- Sub-codes of major 0x02 (Table 3.4). -/
def rawMajor02 (w : Nat) : Option Instr :=
  match bitsOf w 22 3 with
  | 0 => some (.clz (fld w 7 5) (fld w 12 5))
  | 1 => some (.ctz (fld w 7 5) (fld w 12 5))
  | 2 => some (.popc (fld w 7 5) (fld w 12 5))
  | 3 => some (.bfx (fld w 7 5) (fld w 12 5) (fld w 17 5))
  | 4 => some (.bfi (fld w 7 5) (fld w 12 5) (fld w 17 5))
  | 5 => some (.fshr (fld w 7 5) (fld w 12 5) (fld w 17 5) (fld w 25 6))
  | _ => none

/-- Sub-codes of major 0x03 (Table 3.4). -/
def rawMajor03 (w : Nat) : Option Instr :=
  match bitsOf w 17 3 with
  | 0 => some (.addi (fld w 7 5) (fld w 12 5) (fld w 20 12))
  | 1 => some (.andi (fld w 7 5) (fld w 12 5) (fld w 20 12))
  | 2 => some (.ori (fld w 7 5) (fld w 12 5) (fld w 20 12))
  | 3 => some (.xori (fld w 7 5) (fld w 12 5) (fld w 20 12))
  | 4 => some (.slli (fld w 7 5) (fld w 12 5) (fld w 20 6))
  | 5 => some (.srli (fld w 7 5) (fld w 12 5) (fld w 20 6))
  | 6 => some (.srai (fld w 7 5) (fld w 12 5) (fld w 20 6))
  | 7 => some (.slti (fld w 7 5) (fld w 12 5) (fld w 20 12))
  | _ => none

/-- Sub-codes of major 0x08 (Table 3.4). -/
def rawMajor08 (w : Nat) : Option Instr :=
  match bitsOf w 17 3 with
  | 0 => some (.beq (fld w 7 5) (fld w 12 5) (fld w 20 12))
  | 1 => some (.bne (fld w 7 5) (fld w 12 5) (fld w 20 12))
  | 2 => some (.blt (fld w 7 5) (fld w 12 5) (fld w 20 12))
  | 3 => some (.bge (fld w 7 5) (fld w 12 5) (fld w 20 12))
  | 4 => some (.bltu (fld w 7 5) (fld w 12 5) (fld w 20 12))
  | 5 => some (.bgeu (fld w 7 5) (fld w 12 5) (fld w 20 12))
  | _ => none

/-- Sub-codes of major 0x0D (Table 3.4). -/
def rawMajor0D (w : Nat) : Option Instr :=
  match bitsOf w 17 3 with
  | 0 => some (.sysrd (fld w 7 5) (fld w 20 12))
  | 1 => some (.syswr (fld w 12 5) (fld w 20 12))
  | 2 => some (.sysset (fld w 12 5) (fld w 20 12))
  | 3 => some (.sysclr (fld w 12 5) (fld w 20 12))
  | _ => none

/-- Sub-codes of major 0x0E (Table 3.4). -/
def rawMajor0E (w : Nat) : Option Instr :=
  match bitsOf w 17 3 with
  | 0 => some (.trap (fld w 20 12))
  | 1 => some (.eret)
  | 2 => some (.endStrand)
  | 3 => some (.yield)
  | 4 => some (.bkpt (fld w 20 12))
  | 5 => some (.wfe)
  | 6 => some (.vsave (fld w 12 5))
  | 7 => some (.vrest (fld w 12 5))
  | _ => none

/-- Sub-codes of major 0x13 (Table 3.4). -/
def rawMajor13 (w : Nat) : Option Instr :=
  match bitsOf w 17 3 with
  | 0 => some (.mstart (fld w 7 5) (fld w 12 5) (fld w 20 1))
  | 1 => some (.mstop)
  | _ => none

/-- Sub-codes of major 0x20 (Table 3.4). -/
def rawMajor20 (w : Nat) : Option Instr :=
  match bitsOf w 29 3 with
  | 0 => some (.vadd (fld w 7 5) (fld w 12 5) (fld w 17 5) (vmodOf w))
  | 1 => some (.vsub (fld w 7 5) (fld w 12 5) (fld w 17 5) (vmodOf w))
  | 2 => some (.vrsub (fld w 7 5) (fld w 12 5) (fld w 17 5) (vmodOf w))
  | 3 => some (.vmin (fld w 7 5) (fld w 12 5) (fld w 17 5) (vmodOf w))
  | 4 => some (.vmax (fld w 7 5) (fld w 12 5) (fld w 17 5) (vmodOf w))
  | 5 => some (.vand (fld w 7 5) (fld w 12 5) (fld w 17 5) (vmodOf w))
  | 6 => some (.vor (fld w 7 5) (fld w 12 5) (fld w 17 5) (vmodOf w))
  | 7 => some (.vxor (fld w 7 5) (fld w 12 5) (fld w 17 5) (vmodOf w))
  | _ => none

/-- Sub-codes of major 0x21 (Table 3.4). -/
def rawMajor21 (w : Nat) : Option Instr :=
  match bitsOf w 29 3 with
  | 0 => some (.vaddVs (fld w 7 5) (fld w 12 5) (fld w 17 5) (smodOf w))
  | 1 => some (.vsubVs (fld w 7 5) (fld w 12 5) (fld w 17 5) (smodOf w))
  | 2 => some (.vrsubVs (fld w 7 5) (fld w 12 5) (fld w 17 5) (smodOf w))
  | 3 => some (.vminVs (fld w 7 5) (fld w 12 5) (fld w 17 5) (smodOf w))
  | 4 => some (.vmaxVs (fld w 7 5) (fld w 12 5) (fld w 17 5) (smodOf w))
  | 5 => some (.vandVs (fld w 7 5) (fld w 12 5) (fld w 17 5) (smodOf w))
  | 6 => some (.vorVs (fld w 7 5) (fld w 12 5) (fld w 17 5) (smodOf w))
  | 7 => some (.vxorVs (fld w 7 5) (fld w 12 5) (fld w 17 5) (smodOf w))
  | _ => none

/-- Sub-codes of major 0x22 (Table 3.4). -/
def rawMajor22 (w : Nat) : Option Instr :=
  match bitsOf w 29 3 with
  | 0 => some (.vaddVi (fld w 7 5) (fld w 17 5) (fld w 12 5) (smodOf w))
  | 1 => some (.vsubVi (fld w 7 5) (fld w 17 5) (fld w 12 5) (smodOf w))
  | 2 => some (.vrsubVi (fld w 7 5) (fld w 17 5) (fld w 12 5) (smodOf w))
  | 3 => some (.vminVi (fld w 7 5) (fld w 17 5) (fld w 12 5) (smodOf w))
  | 4 => some (.vmaxVi (fld w 7 5) (fld w 17 5) (fld w 12 5) (smodOf w))
  | 5 => some (.vandVi (fld w 7 5) (fld w 17 5) (fld w 12 5) (smodOf w))
  | 6 => some (.vorVi (fld w 7 5) (fld w 17 5) (fld w 12 5) (smodOf w))
  | 7 => some (.vxorVi (fld w 7 5) (fld w 17 5) (fld w 12 5) (smodOf w))
  | _ => none

/-- Sub-codes of major 0x23 (Table 3.4). -/
def rawMajor23 (w : Nat) : Option Instr :=
  match bitsOf w 29 3 with
  | 0 => some (.vmul (fld w 7 5) (fld w 12 5) (fld w 17 5) (vmodOf w))
  | 1 => some (.vmulh (fld w 7 5) (fld w 12 5) (fld w 17 5) (vmodOf w))
  | 2 => some (.vmacc (fld w 7 5) (fld w 12 5) (fld w 17 5) (vmodOf w))
  | 3 => some (.vnmacc (fld w 7 5) (fld w 12 5) (fld w 17 5) (vmodOf w))
  | 4 => some (.vdiv (fld w 7 5) (fld w 12 5) (fld w 17 5) (vmodOf w))
  | 5 => some (.vrem (fld w 7 5) (fld w 12 5) (fld w 17 5) (vmodOf w))
  | 6 => some (.vsll (fld w 7 5) (fld w 12 5) (fld w 17 5) (vmodOf w))
  | 7 => some (.vsrl (fld w 7 5) (fld w 12 5) (fld w 17 5) (vmodOf w))
  | _ => none

/-- Sub-codes of major 0x24 (Table 3.4). -/
def rawMajor24 (w : Nat) : Option Instr :=
  match bitsOf w 29 3 with
  | 0 => some (.vmulVs (fld w 7 5) (fld w 12 5) (fld w 17 5) (smodOf w))
  | 1 => some (.vmulhVs (fld w 7 5) (fld w 12 5) (fld w 17 5) (smodOf w))
  | 2 => some (.vmaccVs (fld w 7 5) (fld w 12 5) (fld w 17 5) (smodOf w))
  | 3 => some (.vnmaccVs (fld w 7 5) (fld w 12 5) (fld w 17 5) (smodOf w))
  | 4 => some (.vdivVs (fld w 7 5) (fld w 12 5) (fld w 17 5) (smodOf w))
  | 5 => some (.vremVs (fld w 7 5) (fld w 12 5) (fld w 17 5) (smodOf w))
  | 6 => some (.vsllVs (fld w 7 5) (fld w 12 5) (fld w 17 5) (smodOf w))
  | 7 => some (.vsrlVs (fld w 7 5) (fld w 12 5) (fld w 17 5) (smodOf w))
  | _ => none

/-- Sub-codes of major 0x25 (Table 3.4). -/
def rawMajor25 (w : Nat) : Option Instr :=
  match bitsOf w 29 3 with
  | 0 => some (.vsllVi (fld w 7 5) (fld w 17 5) (fld w 12 5) (smodOf w))
  | 1 => some (.vsrlVi (fld w 7 5) (fld w 17 5) (fld w 12 5) (smodOf w))
  | 2 => some (.vsraVi (fld w 7 5) (fld w 17 5) (fld w 12 5) (smodOf w))
  | _ => none

/-- Sub-codes of major 0x26 (Table 3.4). -/
def rawMajor26 (w : Nat) : Option Instr :=
  match bitsOf w 29 3 with
  | 0 => some (.vsra (fld w 7 5) (fld w 12 5) (fld w 17 5) (vmodOf w))
  | 1 => some (.vclz (fld w 7 5) (fld w 17 5) (smodOf w))
  | 2 => some (.vpopc (fld w 7 5) (fld w 17 5) (smodOf w))
  | 3 => some (.vbfx (fld w 7 5) (fld w 12 5) (fld w 17 5) (vmodOf w))
  | 4 => some (.vfshr (fld w 7 5) (fld w 12 5) (fld w 17 5) (vmodOf w))
  | 5 => some (.vsqrt (fld w 7 5) (fld w 17 5) (smodOf w))
  | 6 => some (.vabs (fld w 7 5) (fld w 17 5) (smodOf w))
  | 7 => some (.vneg (fld w 7 5) (fld w 17 5) (smodOf w))
  | _ => none

/-- Sub-codes of major 0x27 (Table 3.4). -/
def rawMajor27 (w : Nat) : Option Instr :=
  match bitsOf w 29 3 with
  | 0 => some (.vsraVs (fld w 7 5) (fld w 12 5) (fld w 17 5) (smodOf w))
  | 3 => some (.vbfxVs (fld w 7 5) (fld w 12 5) (fld w 17 5) (smodOf w))
  | 4 => some (.vfshrVs (fld w 7 5) (fld w 12 5) (fld w 17 5) (smodOf w))
  | _ => none

/-- Sub-codes of major 0x2B (Table 3.4). -/
def rawMajor2B (w : Nat) : Option Instr :=
  match bitsOf w 29 3 with
  | 0 => some (.vsel (fld w 7 5) (fld w 12 5) (fld w 17 5) (vmodOf w))
  | 1 => some (.vmv (fld w 7 5) (fld w 17 5) (smodOf w))
  | 2 => some (.vclass (fld w 7 5) (fld w 17 5) (smodOf w))
  | 3 => some (.vrecip (fld w 7 5) (fld w 17 5) (smodOf w))
  | 4 => some (.vidx (fld w 7 5) (fld w 24 2))
  | _ => none

/-- Sub-codes of major 0x2C (Table 3.4). -/
def rawMajor2C (w : Nat) : Option Instr :=
  match bitsOf w 29 3 with
  | 0 => some (.vselVs (fld w 7 5) (fld w 12 5) (fld w 17 5) (smodOf w))
  | 1 => some (.vmvVs (fld w 7 5) (fld w 12 5) (fld w 24 2))
  | _ => none

/-- Sub-codes of major 0x2D (Table 3.4). -/
def rawMajor2D (w : Nat) : Option Instr :=
  match bitsOf w 29 3 with
  | 0 => some (.mand (fld w 7 5) (fld w 12 5) (fld w 17 5))
  | 1 => some (.mor (fld w 7 5) (fld w 12 5) (fld w 17 5))
  | 2 => some (.mxor (fld w 7 5) (fld w 12 5) (fld w 17 5))
  | 3 => some (.mandn (fld w 7 5) (fld w 12 5) (fld w 17 5))
  | 4 => some (.mnot (fld w 7 5) (fld w 12 5))
  | 5 => some (.mffs (fld w 7 5) (fld w 12 5))
  | 6 => some (.mpopc (fld w 7 5) (fld w 12 5))
  | _ => none

/-- Sub-codes of major 0x35 (Table 3.4). -/
def rawMajor35 (w : Nat) : Option Instr :=
  match bitsOf w 29 3 with
  | 0 => some (.kset (fld w 7 5) (fld w 17 5) (fld w 23 1))
  | 1 => some (.kmv (fld w 7 5) (fld w 12 5) (fld w 17 5) (fld w 24 2))
  | 2 => some (.kcalc (fld w 7 5) (fld w 12 5) (fld w 17 5) (fld w 24 2) (fld w 23 1))
  | _ => none

/-- Sub-codes of major 0x3B (Table 3.4). -/
def rawMajor3B (w : Nat) : Option Instr :=
  match bitsOf w 29 3 with
  | 0 => some (.vcmpr (fld w 7 5) (fld w 17 5) (fld w 24 2) (fld w 23 1))
  | 1 => some (.vexpd (fld w 7 5) (fld w 17 5) (fld w 24 2) (fld w 23 1))
  | 2 => some (.viota (fld w 7 5) (fld w 17 5) (fld w 24 2))
  | _ => none

/-- Sub-codes of major 0x3F (Table 3.4). -/
def rawMajor3F (w : Nat) : Option Instr :=
  match bitsOf w 29 3 with
  | 0 => some (.vtopk (fld w 7 5) (fld w 12 5) (fld w 17 5) (fld w 24 2) (fld w 23 1))
  | 1 => some (.vtkmrg (fld w 7 5) (fld w 12 5) (fld w 17 5) (fld w 23 1) (fld w 22 1))
  | _ => none

/-- Sub-codes of major 0x42 (Table 3.4). -/
def rawMajor42 (w : Nat) : Option Instr :=
  match bitsOf w 29 3 with
  | 0 => some (.vldx (fld w 7 5) (fld w 12 5) (fld w 17 5) (fld w 24 2) (fld w 22 1))
  | 1 => some (.vldxo (fld w 7 5) (fld w 12 5) (fld w 17 5) (fld w 24 2) (fld w 22 1))
  | _ => none

/-- Sub-codes of major 0x47 (Table 3.4). -/
def rawMajor47 (w : Nat) : Option Instr :=
  match bitsOf w 29 3 with
  | 0 => some (.vstx (fld w 7 5) (fld w 12 5) (fld w 17 5) (fld w 24 2) (fld w 22 1))
  | 1 => some (.vstxo (fld w 7 5) (fld w 12 5) (fld w 17 5) (fld w 24 2) (fld w 22 1))
  | _ => none

/-- Sub-codes of major 0x4D (Table 3.4). -/
def rawMajor4D (w : Nat) : Option Instr :=
  match bitsOf w 17 3 with
  | 0 => some (.fence (fld w 23 2) (fld w 20 3))
  | 1 => some (.vfence (fld w 20 3))
  | _ => none

/-- Sub-codes of major 0x4E (Table 3.4). -/
def rawMajor4E (w : Nat) : Option Instr :=
  match bitsOf w 17 3 with
  | 0 => some (.iterset (fld w 12 5) (fld w 20 2))
  | 1 => some (.post (fld w 12 5) (fld w 20 2))
  | 2 => some (.waiti (fld w 12 5) (fld w 20 2))
  | _ => none

/-- Sub-codes of major 0x4F (Table 3.4). -/
def rawMajor4F (w : Nat) : Option Instr :=
  match bitsOf w 17 3 with
  | 0 => some (.bar)
  | 1 => some (.bararr)
  | 2 => some (.barwt)
  | _ => none

/-- Sub-codes of major 0x50 (Table 3.4). -/
def rawMajor50 (w : Nat) : Option Instr :=
  match bitsOf w 26 3 with
  | 0 => some (.ropen (fld w 7 5) (fld w 12 5))
  | 1 => some (.rclose (fld w 12 5))
  | 2 => some (.rstat (fld w 7 5) (fld w 12 5) (fld w 29 3))
  | _ => none

/-- Sub-codes of major 0x51 (Table 3.4). -/
def rawMajor51 (w : Nat) : Option Instr :=
  match bitsOf w 26 3 with
  | 0 => some (.rdstr (fld w 12 5) (fld w 17 5) (fld w 22 4))
  | 1 => some (.wrstr (fld w 12 5) (fld w 22 4))
  | _ => none

/-- Sub-codes of major 0x60 (Table 3.4). -/
def rawMajor60 (w : Nat) : Option Instr :=
  match bitsOf w 30 2 with
  | 0 => some (.mattach (fld w 7 5) (fld w 12 5) (fld w 22 1))
  | 1 => some (.mdetach)
  | _ => none

/-- Sub-codes of major 0x61 (Table 3.4). -/
def rawMajor61 (w : Nat) : Option Instr :=
  match bitsOf w 30 2 with
  | 0 => some (.mwldCfg (fld w 7 5) (fld w 12 5) (fld w 22 8))
  | 1 => some (.mwldSp (fld w 12 5) (fld w 17 5) (fld w 22 8))
  | 2 => some (.mwldQ (fld w 7 5) (fld w 12 4) (fld w 17 5) (fld w 22 8))
  | 3 => some (.mwldSc (fld w 12 5) (fld w 17 5) (fld w 22 8))
  | _ => none

/-- Sub-codes of major 0x64 (Table 3.4). -/
def rawMajor64 (w : Nat) : Option Instr :=
  match bitsOf w 30 2 with
  | 0 => some (.maccrd (fld w 7 5) (fld w 12 5) (fld w 22 8))
  | 1 => some (.maccwr (fld w 7 5) (fld w 12 5) (fld w 22 8))
  | 2 => some (.maccz (fld w 12 5) (fld w 22 8))
  | _ => none

/-- Sub-codes of major 0x65 (Table 3.4). -/
def rawMajor65 (w : Nat) : Option Instr :=
  match bitsOf w 30 2 with
  | 0 => some (.msave (fld w 12 5))
  | 1 => some (.mrest (fld w 12 5))
  | _ => none

/-- Sub-codes of major 0x66 (Table 3.4). -/
def rawMajor66 (w : Nat) : Option Instr :=
  match bitsOf w 30 2 with
  | 0 => some (.mcensRd (fld w 7 5) (fld w 12 5))
  | 1 => some (.mcensRdclr (fld w 7 5) (fld w 12 5))
  | 2 => some (.mcensClr)
  | 3 => some (.mcensIdx (fld w 7 5) (fld w 12 5))
  | _ => none

/-- Sub-codes of major 0x68 (Table 3.4). -/
def rawMajor68 (w : Nat) : Option Instr :=
  match bitsOf w 17 3 with
  | 0 => some (.qrtld (fld w 12 5) (fld w 26 6) (fld w 20 6))
  | 1 => some (.qrseed (fld w 7 5) (fld w 12 5) (fld w 26 2) (fld w 20 6))
  | _ => none

/-- Sub-codes of major 0x69 (Table 3.4). -/
def rawMajor69 (w : Nat) : Option Instr :=
  match bitsOf w 29 3 with
  | 0 => some (.qrgen (fld w 7 5) (fld w 12 5) (fld w 17 5) (vmodOf w))
  | 1 => some (.qrgens (fld w 7 5) (fld w 12 5) (fld w 17 5) (smodOf w))
  | _ => none

/-- Sub-codes of major 0x6C: F6[2:0] is the position, and OPT selects the form of PWCNT (R265). -/
def rawMajor6C (w : Nat) : Option Instr :=
  match bitsOf w 26 3 with
  | 0 => some (.pwld (fld w 7 5) (fld w 12 5) (fld w 17 5) (fld w 29 1) (fld w 22 3))
  | 1 =>
    match bitsOf w 29 3 with
    | 0 => some (.pwcntSt (fld w 7 5) (fld w 12 5))
    | 1 => some (.pwcntHist (fld w 7 5) (fld w 12 5) (fld w 17 5))
    | 2 => some (.pwcntCnt (fld w 7 5) (fld w 12 5) (fld w 17 5))
    | 3 => some (.pwcntFree (fld w 12 5))
    | _ => none
  | _ => none

/-- Sub-codes of major 0x6D (Table 3.4). -/
def rawMajor6D (w : Nat) : Option Instr :=
  match bitsOf w 26 3 with
  | 0 => some (.pwchk (fld w 7 5) (fld w 12 5) (fld w 17 5))
  | 1 => some (.pwdrft (fld w 7 5) (fld w 12 5) (fld w 17 5))
  | 2 => some (.pwconf (fld w 7 5) (fld w 12 5) (fld w 17 5))
  | 3 => some (.pwinj (fld w 7 5) (fld w 12 5))
  | _ => none

/-- The instruction whose major and sub-code a word holds, its fields read at the places of Table 3.1;
whether the word is one of that instruction's words is judged by `decodeNat`. -/
def rawDecode (w : Nat) : Option Instr :=
  match bitsOf w 0 7 with
  | 0x00 => rawMajor00 w
  | 0x01 => rawMajor01 w
  | 0x02 => rawMajor02 w
  | 0x03 => rawMajor03 w
  | 0x04 => some (.lui (fld w 7 5) (fld w 12 20))
  | 0x05 => some (.auipc (fld w 7 5) (fld w 12 20))
  | 0x06 => some (.ld (fld w 7 5) (fld w 12 5) (fld w 20 12) (fld w 17 3))
  | 0x07 => some (.st (fld w 12 5) (fld w 17 5) (fld w 25 7) (fld w 22 2) (fld w 7 5))
  | 0x08 => rawMajor08 w
  | 0x09 => some (.jal (fld w 7 5) (fld w 12 20))
  | 0x0A => some (.jalr (fld w 7 5) (fld w 12 5) (fld w 20 12))
  | 0x0B => some (.amo (fld w 7 5) (fld w 12 5) (fld w 17 5) (fld w 29 3) (fld w 25 4) (fld w 23 2) (fld w 22 1))
  | 0x0C => some (.cas (fld w 7 5) (fld w 12 5) (fld w 17 5) (fld w 29 3) (fld w 23 2) (fld w 22 1))
  | 0x0D => rawMajor0D w
  | 0x0E => rawMajor0E w
  | 0x10 => some (.vsetl (fld w 7 5) (fld w 12 5) (fld w 20 12))
  | 0x11 => some (.vcfg (fld w 7 5) (fld w 12 5))
  | 0x12 => some (.vregs (fld w 20 12))
  | 0x13 => rawMajor13 w
  | 0x20 => rawMajor20 w
  | 0x21 => rawMajor21 w
  | 0x22 => rawMajor22 w
  | 0x23 => rawMajor23 w
  | 0x24 => rawMajor24 w
  | 0x25 => rawMajor25 w
  | 0x26 => rawMajor26 w
  | 0x27 => rawMajor27 w
  | 0x28 => some (.vcmp (fld w 7 5) (fld w 12 5) (fld w 17 5) (fld w 29 3) (vmodOf w))
  | 0x29 => some (.vcmpVs (fld w 7 5) (fld w 12 5) (fld w 17 5) (fld w 29 3) (smodOf w))
  | 0x2A => some (.vcmpVi (fld w 7 5) (fld w 17 5) (fld w 29 3) (fld w 12 5) (smodOf w))
  | 0x2B => rawMajor2B w
  | 0x2C => rawMajor2C w
  | 0x2D => rawMajor2D w
  | 0x30 => some (.vcvtw (fld w 7 5) (fld w 17 5) (fld w 29 3) (smodOf w))
  | 0x31 => some (.vcvtn (fld w 7 5) (fld w 17 5) (fld w 29 3) (smodOf w))
  | 0x32 => some (.vcvti (fld w 7 5) (fld w 17 5) (fld w 29 3) (smodOf w))
  | 0x33 => some (.vcvtf4 (fld w 7 5) (fld w 17 5) (fld w 29 3) (smodOf w))
  | 0x34 => some (.vcvtdy (fld w 7 5) (fld w 17 5) (fld w 29 3) (smodOf w))
  | 0x35 => rawMajor35 w
  | 0x38 => some (.vslup (fld w 7 5) (fld w 12 5) (fld w 17 5) (fld w 29 3) (fld w 24 2) (fld w 23 1))
  | 0x39 => some (.vsldn (fld w 7 5) (fld w 12 5) (fld w 17 5) (fld w 29 3) (fld w 24 2) (fld w 23 1))
  | 0x3A => some (.vperm (fld w 7 5) (fld w 12 5) (fld w 17 5) (fld w 24 2) (fld w 23 1) (fld w 22 1))
  | 0x3B => rawMajor3B w
  | 0x3C => some (.vred (fld w 7 5) (fld w 12 5) (fld w 17 5) (fld w 29 3) (fld w 24 2) (fld w 23 1) (fld w 22 1))
  | 0x3D => some (.vscan (fld w 7 5) (fld w 12 5) (fld w 17 5) (fld w 29 3) (fld w 24 2) (fld w 23 1) (fld w 22 1))
  | 0x3E => some (.vhist (fld w 7 5) (fld w 17 5) (fld w 30 1) (fld w 29 1) (fld w 24 2) (fld w 23 1))
  | 0x3F => rawMajor3F w
  | 0x40 => some (.vld (fld w 7 5) (fld w 12 5) (fld w 24 2))
  | 0x41 => some (.vlds (fld w 7 5) (fld w 12 5) (fld w 17 5) (fld w 24 2))
  | 0x42 => rawMajor42 w
  | 0x43 => some (.vldff (fld w 7 5) (fld w 12 5) (fld w 24 2))
  | 0x44 => some (.vldseg (fld w 7 5) (fld w 12 5) (fld w 26 3) (fld w 24 2))
  | 0x45 => some (.vst (fld w 7 5) (fld w 12 5) (fld w 24 2))
  | 0x46 => some (.vsts (fld w 7 5) (fld w 12 5) (fld w 17 5) (fld w 24 2))
  | 0x47 => rawMajor47 w
  | 0x48 => some (.vstseg (fld w 7 5) (fld w 12 5) (fld w 26 3) (fld w 24 2))
  | 0x49 => some (.mfset (fld w 12 5))
  | 0x4C => some (.vamo (fld w 7 5) (fld w 12 5) (fld w 17 5) (fld w 30 2) (fld w 26 4) (fld w 24 2) (fld w 22 1))
  | 0x4D => rawMajor4D w
  | 0x4E => rawMajor4E w
  | 0x4F => rawMajor4F w
  | 0x50 => rawMajor50 w
  | 0x51 => rawMajor51 w
  | 0x52 => some (.qpush (fld w 7 5) (fld w 31 1) (fld w 29 2) (fld w 22 4))
  | 0x53 => some (.qpop (fld w 7 5) (fld w 12 5) (fld w 29 2) (fld w 22 4))
  | 0x54 => some (.rsort (fld w 7 5) (fld w 12 5) (fld w 30 2) (fld w 29 1) (fld w 22 4))
  | 0x55 => some (.rmerge (fld w 7 5) (fld w 12 5) (fld w 17 5) (fld w 31 1) (fld w 30 1) (fld w 29 1) (fld w 22 4))
  | 0x56 => some (.rjoin (fld w 7 5) (fld w 12 5) (fld w 17 5) (fld w 31 1) (fld w 29 2) (fld w 22 4))
  | 0x57 => some (.rpart (fld w 7 5) (fld w 12 5) (fld w 22 4))
  | 0x58 => some (.rwait (fld w 7 5) (fld w 22 4))
  | 0x59 => some (.cspec (fld w 12 5))
  | 0x60 => rawMajor60 w
  | 0x61 => rawMajor61 w
  | 0x62 => some (.mxv (fld w 7 5) (fld w 12 5) (fld w 17 5) (fld w 31 1) (fld w 30 1) (fld w 22 8))
  | 0x63 => some (.mop (fld w 12 5) (fld w 17 5) (fld w 30 2) (fld w 22 8))
  | 0x64 => rawMajor64 w
  | 0x65 => rawMajor65 w
  | 0x66 => rawMajor66 w
  | 0x68 => rawMajor68 w
  | 0x69 => rawMajor69 w
  | 0x6C => rawMajor6C w
  | 0x6D => rawMajor6D w
  | _ => none

/-- The word of an instruction (Tables 3.1, 3.4 and 3.5): its fixed bits and each field at its place.
A move or event has no word. -/
def encodeNat : Instr → Nat
  | .add d a b => put d 7 (put a 12 (put b 17 0x00000000))
  | .sub d a b => put d 7 (put a 12 (put b 17 0x00400000))
  | .and d a b => put d 7 (put a 12 (put b 17 0x00800000))
  | .or d a b => put d 7 (put a 12 (put b 17 0x00C00000))
  | .xor d a b => put d 7 (put a 12 (put b 17 0x01000000))
  | .sll d a b => put d 7 (put a 12 (put b 17 0x01400000))
  | .srl d a b => put d 7 (put a 12 (put b 17 0x01800000))
  | .sra d a b => put d 7 (put a 12 (put b 17 0x01C00000))
  | .slt d a b => put d 7 (put a 12 (put b 17 0x02000000))
  | .sltu d a b => put d 7 (put a 12 (put b 17 0x02400000))
  | .min d a b => put d 7 (put a 12 (put b 17 0x02800000))
  | .max d a b => put d 7 (put a 12 (put b 17 0x02C00000))
  | .minu d a b => put d 7 (put a 12 (put b 17 0x03000000))
  | .maxu d a b => put d 7 (put a 12 (put b 17 0x03400000))
  | .mul d a b => put d 7 (put a 12 (put b 17 0x00000001))
  | .mulh d a b => put d 7 (put a 12 (put b 17 0x00400001))
  | .mulhu d a b => put d 7 (put a 12 (put b 17 0x00800001))
  | .div d a b => put d 7 (put a 12 (put b 17 0x00C00001))
  | .divu d a b => put d 7 (put a 12 (put b 17 0x01000001))
  | .rem d a b => put d 7 (put a 12 (put b 17 0x01400001))
  | .remu d a b => put d 7 (put a 12 (put b 17 0x01800001))
  | .clz d a => put d 7 (put a 12 0x00000002)
  | .ctz d a => put d 7 (put a 12 0x00400002)
  | .popc d a => put d 7 (put a 12 0x00800002)
  | .bfx d a b => put d 7 (put a 12 (put b 17 0x00C00002))
  | .bfi d a b => put d 7 (put a 12 (put b 17 0x01000002))
  | .fshr d a b s => put d 7 (put a 12 (put b 17 (put s 25 0x01400002)))
  | .addi d a i => put d 7 (put a 12 (put i 20 0x00000003))
  | .andi d a i => put d 7 (put a 12 (put i 20 0x00020003))
  | .ori d a i => put d 7 (put a 12 (put i 20 0x00040003))
  | .xori d a i => put d 7 (put a 12 (put i 20 0x00060003))
  | .slli d a s => put d 7 (put a 12 (put s 20 0x00080003))
  | .srli d a s => put d 7 (put a 12 (put s 20 0x000A0003))
  | .srai d a s => put d 7 (put a 12 (put s 20 0x000C0003))
  | .slti d a i => put d 7 (put a 12 (put i 20 0x000E0003))
  | .lui d i => put d 7 (put i 12 0x00000004)
  | .auipc d i => put d 7 (put i 12 0x00000005)
  | .ld d a i w => put d 7 (put a 12 (put i 20 (put w 17 0x00000006)))
  | .st a b h w l => put a 12 (put b 17 (put h 25 (put w 22 (put l 7 0x00000007))))
  | .beq a b o => put a 7 (put b 12 (put o 20 0x00000008))
  | .bne a b o => put a 7 (put b 12 (put o 20 0x00020008))
  | .blt a b o => put a 7 (put b 12 (put o 20 0x00040008))
  | .bge a b o => put a 7 (put b 12 (put o 20 0x00060008))
  | .bltu a b o => put a 7 (put b 12 (put o 20 0x00080008))
  | .bgeu a b o => put a 7 (put b 12 (put o 20 0x000A0008))
  | .jal d o => put d 7 (put o 12 0x00000009)
  | .jalr d a i => put d 7 (put a 12 (put i 20 0x0000000A))
  | .amo d a b s o r z => put d 7 (put a 12 (put b 17 (put s 29 (put o 25 (put r 23 (put z 22 0x0000000B))))))
  | .cas d a b s r z => put d 7 (put a 12 (put b 17 (put s 29 (put r 23 (put z 22 0x0000000C)))))
  | .sysrd d n => put d 7 (put n 20 0x0000000D)
  | .syswr a n => put a 12 (put n 20 0x0002000D)
  | .sysset a n => put a 12 (put n 20 0x0004000D)
  | .sysclr a n => put a 12 (put n 20 0x0006000D)
  | .trap t => put t 20 0x0000000E
  | .eret => 0x0002000E
  | .endStrand => 0x0004000E
  | .yield => 0x0006000E
  | .bkpt t => put t 20 0x0008000E
  | .wfe => 0x000A000E
  | .vsave a => put a 12 0x000C000E
  | .vrest a => put a 12 0x000E000E
  | .vsetl d a i => put d 7 (put a 12 (put i 20 0x00000010))
  | .vcfg d a => put d 7 (put a 12 0x00000011)
  | .vregs n => put n 20 0x00000012
  | .mstart d a p => put d 7 (put a 12 (put p 20 0x00000013))
  | .mstop => 0x00020013
  | .vadd d a b o => put d 7 (put a 12 (put b 17 (putVMod o 0x00000020)))
  | .vsub d a b o => put d 7 (put a 12 (put b 17 (putVMod o 0x20000020)))
  | .vrsub d a b o => put d 7 (put a 12 (put b 17 (putVMod o 0x40000020)))
  | .vmin d a b o => put d 7 (put a 12 (put b 17 (putVMod o 0x60000020)))
  | .vmax d a b o => put d 7 (put a 12 (put b 17 (putVMod o 0x80000020)))
  | .vand d a b o => put d 7 (put a 12 (put b 17 (putVMod o 0xA0000020)))
  | .vor d a b o => put d 7 (put a 12 (put b 17 (putVMod o 0xC0000020)))
  | .vxor d a b o => put d 7 (put a 12 (put b 17 (putVMod o 0xE0000020)))
  | .vaddVs d a b o => put d 7 (put a 12 (put b 17 (putSMod o 0x00000021)))
  | .vsubVs d a b o => put d 7 (put a 12 (put b 17 (putSMod o 0x20000021)))
  | .vrsubVs d a b o => put d 7 (put a 12 (put b 17 (putSMod o 0x40000021)))
  | .vminVs d a b o => put d 7 (put a 12 (put b 17 (putSMod o 0x60000021)))
  | .vmaxVs d a b o => put d 7 (put a 12 (put b 17 (putSMod o 0x80000021)))
  | .vandVs d a b o => put d 7 (put a 12 (put b 17 (putSMod o 0xA0000021)))
  | .vorVs d a b o => put d 7 (put a 12 (put b 17 (putSMod o 0xC0000021)))
  | .vxorVs d a b o => put d 7 (put a 12 (put b 17 (putSMod o 0xE0000021)))
  | .vaddVi d b i o => put d 7 (put b 17 (put i 12 (putSMod o 0x00000022)))
  | .vsubVi d b i o => put d 7 (put b 17 (put i 12 (putSMod o 0x20000022)))
  | .vrsubVi d b i o => put d 7 (put b 17 (put i 12 (putSMod o 0x40000022)))
  | .vminVi d b i o => put d 7 (put b 17 (put i 12 (putSMod o 0x60000022)))
  | .vmaxVi d b i o => put d 7 (put b 17 (put i 12 (putSMod o 0x80000022)))
  | .vandVi d b i o => put d 7 (put b 17 (put i 12 (putSMod o 0xA0000022)))
  | .vorVi d b i o => put d 7 (put b 17 (put i 12 (putSMod o 0xC0000022)))
  | .vxorVi d b i o => put d 7 (put b 17 (put i 12 (putSMod o 0xE0000022)))
  | .vmul d a b o => put d 7 (put a 12 (put b 17 (putVMod o 0x00000023)))
  | .vmulh d a b o => put d 7 (put a 12 (put b 17 (putVMod o 0x20000023)))
  | .vmacc d a b o => put d 7 (put a 12 (put b 17 (putVMod o 0x40000023)))
  | .vnmacc d a b o => put d 7 (put a 12 (put b 17 (putVMod o 0x60000023)))
  | .vdiv d a b o => put d 7 (put a 12 (put b 17 (putVMod o 0x80000023)))
  | .vrem d a b o => put d 7 (put a 12 (put b 17 (putVMod o 0xA0000023)))
  | .vsll d a b o => put d 7 (put a 12 (put b 17 (putVMod o 0xC0000023)))
  | .vsrl d a b o => put d 7 (put a 12 (put b 17 (putVMod o 0xE0000023)))
  | .vmulVs d a b o => put d 7 (put a 12 (put b 17 (putSMod o 0x00000024)))
  | .vmulhVs d a b o => put d 7 (put a 12 (put b 17 (putSMod o 0x20000024)))
  | .vmaccVs d a b o => put d 7 (put a 12 (put b 17 (putSMod o 0x40000024)))
  | .vnmaccVs d a b o => put d 7 (put a 12 (put b 17 (putSMod o 0x60000024)))
  | .vdivVs d a b o => put d 7 (put a 12 (put b 17 (putSMod o 0x80000024)))
  | .vremVs d a b o => put d 7 (put a 12 (put b 17 (putSMod o 0xA0000024)))
  | .vsllVs d a b o => put d 7 (put a 12 (put b 17 (putSMod o 0xC0000024)))
  | .vsrlVs d a b o => put d 7 (put a 12 (put b 17 (putSMod o 0xE0000024)))
  | .vsllVi d b i o => put d 7 (put b 17 (put i 12 (putSMod o 0x00000025)))
  | .vsrlVi d b i o => put d 7 (put b 17 (put i 12 (putSMod o 0x20000025)))
  | .vsraVi d b i o => put d 7 (put b 17 (put i 12 (putSMod o 0x40000025)))
  | .vsra d a b o => put d 7 (put a 12 (put b 17 (putVMod o 0x00000026)))
  | .vclz d b o => put d 7 (put b 17 (putSMod o 0x20000026))
  | .vpopc d b o => put d 7 (put b 17 (putSMod o 0x40000026))
  | .vbfx d a b o => put d 7 (put a 12 (put b 17 (putVMod o 0x60000026)))
  | .vfshr d a b o => put d 7 (put a 12 (put b 17 (putVMod o 0x80000026)))
  | .vsqrt d b o => put d 7 (put b 17 (putSMod o 0xA0000026))
  | .vabs d b o => put d 7 (put b 17 (putSMod o 0xC0000026))
  | .vneg d b o => put d 7 (put b 17 (putSMod o 0xE0000026))
  | .vsraVs d a b o => put d 7 (put a 12 (put b 17 (putSMod o 0x00000027)))
  | .vbfxVs d a b o => put d 7 (put a 12 (put b 17 (putSMod o 0x60000027)))
  | .vfshrVs d a b o => put d 7 (put a 12 (put b 17 (putSMod o 0x80000027)))
  | .vcmp d a b q o => put d 7 (put a 12 (put b 17 (put q 29 (putVMod o 0x00000028))))
  | .vcmpVs d a b q o => put d 7 (put a 12 (put b 17 (put q 29 (putSMod o 0x00000029))))
  | .vcmpVi d b q i o => put d 7 (put b 17 (put q 29 (put i 12 (putSMod o 0x0000002A))))
  | .vsel d a b o => put d 7 (put a 12 (put b 17 (putVMod o 0x0000002B)))
  | .vmv d b o => put d 7 (put b 17 (putSMod o 0x2000002B))
  | .vclass d b o => put d 7 (put b 17 (putSMod o 0x4000002B))
  | .vrecip d b o => put d 7 (put b 17 (putSMod o 0x6000002B))
  | .vidx d m => put d 7 (put m 24 0x8000002B)
  | .vselVs d a b o => put d 7 (put a 12 (put b 17 (putSMod o 0x0000002C)))
  | .vmvVs d a m => put d 7 (put a 12 (put m 24 0x2000002C))
  | .mand d a b => put d 7 (put a 12 (put b 17 0x0000002D))
  | .mor d a b => put d 7 (put a 12 (put b 17 0x2000002D))
  | .mxor d a b => put d 7 (put a 12 (put b 17 0x4000002D))
  | .mandn d a b => put d 7 (put a 12 (put b 17 0x6000002D))
  | .mnot d a => put d 7 (put a 12 0x8000002D)
  | .mffs d a => put d 7 (put a 12 0xA000002D)
  | .mpopc d a => put d 7 (put a 12 0xC000002D)
  | .vcvtw d b v o => put d 7 (put b 17 (put v 29 (putSMod o 0x00000030)))
  | .vcvtn d b v o => put d 7 (put b 17 (put v 29 (putSMod o 0x00000031)))
  | .vcvti d b v o => put d 7 (put b 17 (put v 29 (putSMod o 0x00000032)))
  | .vcvtf4 d b v o => put d 7 (put b 17 (put v 29 (putSMod o 0x00000033)))
  | .vcvtdy d b v o => put d 7 (put b 17 (put v 29 (putSMod o 0x00000034)))
  | .kset d b k => put d 7 (put b 17 (put k 23 0x00000035))
  | .kmv d a b m => put d 7 (put a 12 (put b 17 (put m 24 0x20000035)))
  | .kcalc d a b m k => put d 7 (put a 12 (put b 17 (put m 24 (put k 23 0x40000035))))
  | .vslup d a b f m k => put d 7 (put a 12 (put b 17 (put f 29 (put m 24 (put k 23 0x00000038)))))
  | .vsldn d a b f m k => put d 7 (put a 12 (put b 17 (put f 29 (put m 24 (put k 23 0x00000039)))))
  | .vperm d a b m k j => put d 7 (put a 12 (put b 17 (put m 24 (put k 23 (put j 22 0x0000003A)))))
  | .vcmpr d b m k => put d 7 (put b 17 (put m 24 (put k 23 0x0000003B)))
  | .vexpd d b m k => put d 7 (put b 17 (put m 24 (put k 23 0x2000003B)))
  | .viota d b m => put d 7 (put b 17 (put m 24 0x4000003B))
  | .vred d a b o m k j => put d 7 (put a 12 (put b 17 (put o 29 (put m 24 (put k 23 (put j 22 0x0000003C))))))
  | .vscan d a b o m k j => put d 7 (put a 12 (put b 17 (put o 29 (put m 24 (put k 23 (put j 22 0x0000003D))))))
  | .vhist d b l w m k => put d 7 (put b 17 (put l 30 (put w 29 (put m 24 (put k 23 0x0000003E)))))
  | .vtopk d a b m k => put d 7 (put a 12 (put b 17 (put m 24 (put k 23 0x0000003F))))
  | .vtkmrg d a b k j => put d 7 (put a 12 (put b 17 (put k 23 (put j 22 0x2000003F))))
  | .vld d a m => put d 7 (put a 12 (put m 24 0x00000040))
  | .vlds d a b m => put d 7 (put a 12 (put b 17 (put m 24 0x00000041)))
  | .vldx d a b m k => put d 7 (put a 12 (put b 17 (put m 24 (put k 22 0x00000042))))
  | .vldxo d a b m k => put d 7 (put a 12 (put b 17 (put m 24 (put k 22 0x20000042))))
  | .vldff d a m => put d 7 (put a 12 (put m 24 0x00000043))
  | .vldseg d a n m => put d 7 (put a 12 (put n 26 (put m 24 0x00000044)))
  | .vst d a m => put d 7 (put a 12 (put m 24 0x00000045))
  | .vsts d a b m => put d 7 (put a 12 (put b 17 (put m 24 0x00000046)))
  | .vstx d a b m k => put d 7 (put a 12 (put b 17 (put m 24 (put k 22 0x00000047))))
  | .vstxo d a b m k => put d 7 (put a 12 (put b 17 (put m 24 (put k 22 0x20000047))))
  | .vstseg d a n m => put d 7 (put a 12 (put n 26 (put m 24 0x00000048)))
  | .mfset a => put a 12 0x00000049
  | .vamo d a b r o m k => put d 7 (put a 12 (put b 17 (put r 30 (put o 26 (put m 24 (put k 22 0x0000004C))))))
  | .fence r s => put r 23 (put s 20 0x0000004D)
  | .vfence s => put s 20 0x0002004D
  | .iterset a l => put a 12 (put l 20 0x0000004E)
  | .post a l => put a 12 (put l 20 0x0002004E)
  | .waiti a l => put a 12 (put l 20 0x0004004E)
  | .bar => 0x0000004F
  | .bararr => 0x0002004F
  | .barwt => 0x0004004F
  | .ropen d a => put d 7 (put a 12 0x00000050)
  | .rclose a => put a 12 0x04000050
  | .rstat d a o => put d 7 (put a 12 (put o 29 0x08000050))
  | .rdstr a b q => put a 12 (put b 17 (put q 22 0x00000051))
  | .wrstr a q => put a 12 (put q 22 0x04000051)
  | .qpush d e k q => put d 7 (put e 31 (put k 29 (put q 22 0x00000052)))
  | .qpop d a k q => put d 7 (put a 12 (put k 29 (put q 22 0x00000053)))
  | .rsort d a y c q => put d 7 (put a 12 (put y 30 (put c 29 (put q 22 0x00000054))))
  | .rmerge d a b u l c q => put d 7 (put a 12 (put b 17 (put u 31 (put l 30 (put c 29 (put q 22 0x00000055))))))
  | .rjoin d a b l j q => put d 7 (put a 12 (put b 17 (put l 31 (put j 29 (put q 22 0x00000056)))))
  | .rpart d a q => put d 7 (put a 12 (put q 22 0x00000057))
  | .rwait d q => put d 7 (put q 22 0x00000058)
  | .cspec a => put a 12 0x00000059
  | .mattach d a w => put d 7 (put a 12 (put w 22 0x00000060))
  | .mdetach => 0x40000060
  | .mwldCfg d a r => put d 7 (put a 12 (put r 22 0x00000061))
  | .mwldSp a b r => put a 12 (put b 17 (put r 22 0x40000061))
  | .mwldQ d a b r => put d 7 (put a 12 (put b 17 (put r 22 0x80000061)))
  | .mwldSc a b r => put a 12 (put b 17 (put r 22 0xC0000061))
  | .mxv d a b z w r => put d 7 (put a 12 (put b 17 (put z 31 (put w 30 (put r 22 0x00000062)))))
  | .mop a b f r => put a 12 (put b 17 (put f 30 (put r 22 0x00000063)))
  | .maccrd d a r => put d 7 (put a 12 (put r 22 0x00000064))
  | .maccwr d a r => put d 7 (put a 12 (put r 22 0x40000064))
  | .maccz a r => put a 12 (put r 22 0x80000064)
  | .msave a => put a 12 0x00000065
  | .mrest a => put a 12 0x40000065
  | .mcensRd d a => put d 7 (put a 12 0x00000066)
  | .mcensRdclr d a => put d 7 (put a 12 0x40000066)
  | .mcensClr => 0x80000066
  | .mcensIdx d a => put d 7 (put a 12 0xC0000066)
  | .qrtld a c f => put a 12 (put c 26 (put f 20 0x00000068))
  | .qrseed d a m n => put d 7 (put a 12 (put m 26 (put n 20 0x00020068)))
  | .qrgen d a b o => put d 7 (put a 12 (put b 17 (putVMod o 0x00000069)))
  | .qrgens d a b o => put d 7 (put a 12 (put b 17 (putSMod o 0x20000069)))
  | .pwld d a b n q => put d 7 (put a 12 (put b 17 (put n 29 (put q 22 0x0000006C))))
  | .pwcntSt d a => put d 7 (put a 12 0x0400006C)
  | .pwcntHist d a b => put d 7 (put a 12 (put b 17 0x2400006C))
  | .pwcntCnt d a b => put d 7 (put a 12 (put b 17 0x4400006C))
  | .pwcntFree a => put a 12 0x6400006C
  | .pwchk d a b => put d 7 (put a 12 (put b 17 0x0000006D))
  | .pwdrft d a b => put d 7 (put a 12 (put b 17 0x0400006D))
  | .pwconf d a b => put d 7 (put a 12 (put b 17 0x0800006D))
  | .pwinj d a => put d 7 (put a 12 0x0C00006D)
  | .split _ _ => 0
  | .fetch _ _ => 0
  | .execute _ _ => 0
  | .drain _ _ _ => 0
  | .deliver _ _ => 0
  | .serve _ _ _ => 0
  | .hostPerform _ _ => 0
  | .push _ _ => 0
  | .acceptAndProduce _ _ _ => 0
  | .streamRecord _ _ _ => 0
  | .commandComplete _ _ _ => 0
  | .stall _ _ _ => 0
  | .streamPageFault _ _ _ => 0
  | .pop _ _ => 0
  | .postAndObserve _ _ => 0
  | .proof _ _ => 0
  | .hearthServe _ _ => 0
  | .gangDrain _ _ _ => 0
  | .wfeWake _ _ => 0
  | .sliceEnd _ => 0
  | .waitQuantumExpiry _ => 0
  | .doorbell _ _ _ => 0
  | .launchFetch _ _ => 0
  | .gangPlacement _ _ _ _ _ _ => 0
  | .warmSlot _ _ _ _ _ => 0
  | .priorityPreemption _ _ _ _ _ _ => 0
  | .resumption _ _ _ _ => 0
  | .graceExpiry _ _ _ => 0
  | .budgetWindow => 0
  | .budgetExhausted _ _ _ => 0
  | .powerInterval _ _ _ _ _ => 0
  | .completionWordWrite _ _ => 0
  | .queueLevelReset _ _ => 0
  | .functionLevelReset _ => 0
  | .partmapWrite _ _ _ => 0
  | .tenantWrite _ _ => 0
  | .scrub _ => 0
  | .faultRecordWrite _ => 0
  | .faultAnswer _ _ => 0
  | .pfFaultAnswer _ _ => 0
  | .inv1 _ _ => 0
  | .inv2 _ _ => 0
  | .pageRetirement _ _ _ _ => 0
  | .snoop _ => 0
  | .hjelvorReadRequest _ _ => 0
  | .hjelvorReadRecords _ _ => 0
  | .hjelvorWriteRecords _ _ => 0
  | .hjelvorCompletionFlit _ _ => 0
  | .hjelvorFenceFlit _ _ => 0
  | .hjelvorFenceAck _ _ => 0
  | .linkDown _ => 0
  | .powerOn => 0
  | .load => 0
  | .commit => 0
  | .config => 0
  | .quote => 0
  | .securityAlarm _ _ => 0
  | .debugResume _ => 0
  | .smplostRead _ => 0
  | .trsigWrite _ => 0
  | .trenClear _ => 0
  | .registerWrite _ _ _ => 0
  | .illegalInstruction _ => 0
  | .instructionFetchFault => 0
  | .resetCompletion _ _ => 0
  | .mailboxCompletion => 0
  | .invalidationCompletion => 0

/-- R77: the word 0, an unassigned major or sub-code, a nonzero bit that must be zero and an undefined field
value are not instructions. The word must be exactly the word of the instruction it names. -/
def decodeNat (w : Nat) : Except DecodeError Instr :=
  if w = 0 then .error .zeroWord
  else
    match rawDecode w with
    | none => .error .unassigned
    | some i =>
      if encodeNat i ≠ w then .error .reservedBits
      else if i.wellFormed then .ok i
      else .error .badField

/-- A word of 32 bits. -/
def decodeWord (w : BitVec 32) : Except DecodeError Instr := decodeNat w.toNat

def encodeWord (i : Instr) : BitVec 32 := BitVec.ofNat 32 (encodeNat i)

/-- The word that four bytes hold, little-endian (R63). -/
def wordOfBytes (b0 b1 b2 b3 : Byte) : Nat :=
  b0.toNat + b1.toNat * 2 ^ 8 + b2.toNat * 2 ^ 16 + b3.toNat * 2 ^ 24

/-- Decode the first word of a list of bytes, with the rest of the list. -/
def decodeBytes : List Byte → Except DecodeError (Instr × List Byte)
  | b0 :: b1 :: b2 :: b3 :: rest =>
    match decodeNat (wordOfBytes b0 b1 b2 b3) with
    | .ok i => .ok (i, rest)
    | .error e => .error e
  | _ => .error .short

/-- The four bytes of an instruction's word, lowest address first. -/
def encodeBytes (i : Instr) : List Byte :=
  let w := encodeNat i
  [BitVec.ofNat 8 w, BitVec.ofNat 8 (w / 2 ^ 8), BitVec.ofNat 8 (w / 2 ^ 16), BitVec.ofNat 8 (w / 2 ^ 24)]

/-- The instruction read from a word of the table: every Chamus word is one 32-bit word, little-endian. -/
def decodeTableWord (_nbits w : Nat) : Option Instr :=
  match decodeBytes [BitVec.ofNat 8 w, BitVec.ofNat 8 (w / 2 ^ 8), BitVec.ofNat 8 (w / 2 ^ 16), BitVec.ofNat 8 (w / 2 ^ 24)] with
  | .ok (i, _) => some i
  | .error _ => none

end Sys2Proof
end

