-- ==== Sys2Proof/Machine/Debug.lean ====
section
/-! DEFINITION. Breakpoints, halted gangs, sample records and trace sessions (R321 to R327). -/

namespace Sys2Proof.Machine

/-- The debug block of a function. -/
def debugOf (s : State) (fn : Nat) : Debug := (fnOf s fn).debug

/-- The debug block of the issuing strand's function. -/
def myDebug (s : State) : Debug := (fnOf s s.me.fn).debug

def updDebug (s : State) (fn : Nat) (f : Debug → Debug) : State := updFn s fn fun x => { x with debug := f x.debug }

/-- A breakpoint of a kind at an address, outside handler mode (R322). -/
def brkHit (s : State) (kind : Nat) (addr : Word) : Bool :=
  !s.me.hm && (myDebug s).brk.toList.any fun b => field b 1 0 == kind && field b 63 2 == addr.toNat / 4 && addr.toNat % 4 == 0

/-- The front end of a strand of a halted gang stops, with no handler, and the strand keeps its slot; its queue stops at the end of the
move, or once nothing holds the stop back (R234, R323). -/
def haltStrand (st : Strand) : Strand := if resident st && st.status != .halted then { st with status := .halting } else st

/-- A match under ROUTE = 1 halts the gang, and is recorded while no other halt is (R323). After a fetch match the breakpoint
does not match again until another instruction has issued. -/
def haltGang (fetch : Bool) (s : State) : State :=
  let fn := s.me.fn
  let d := fun (x : Debug) =>
    if x.halted then x
    else { x with halted := true, hgang := s.me.gang, hlseq := s.me.lseq, dpc := s.me.pc, dvcp := vcpOf s.me }
  let mine := fun (st : Strand) => st.fn == fn && st.lseq == s.me.lseq && st.gang == s.me.gang
  let s := updDebug s fn d
  let s := updMyGang s fun g => { g with halted := true }
  { s with
    me := { haltStrand s.me with skipBrk := if fetch then some s.me.pc else s.me.skipBrk }
    others := s.others.map fun st => if mine st then haltStrand st else st }

/-- A commit breakpoint of the vector queue: the queue stops with the entry after the completed one at its head (R322). That
of a halted gang goes on at RESUME (R30, R323). -/
def commitBreak (s : State) : State :=
  if (myDebug s).route then haltGang false s
  else takeTrap 0x0C 0 true false s.me.pc 0 { s with me := { s.me with qstop := !s.me.vctx.queue.isEmpty } }

/-- A stop of the front end at a breakpoint: before a fetch match, or after a scalar instruction of a commit match. -/
def frontBreak (fetch : Bool) (s : State) : State :=
  if (myDebug s).route then haltGang fetch s else takeTrap 0x0C 0 false false s.me.pc 0 s

/-! ### Samples (R324, Table 18.5) -/

/-- Majors whose instructions are split among the lane clusters; R324 gives only examples of those that are not. DESIGN CHOICE
(log 74). -/
def laneMajor (m : Nat) : Bool := (0x20 ≤ m && m ≤ 0x2C) || (0x30 ≤ m && m ≤ 0x48) || m == 0x4C || m == 0x69

/-- Elements below VL that lie in lane cluster c at LC = 8 (R27). -/
def laneElems (sew vl c : Nat) : Nat := ((upTo vl).filter fun i => i * sew % 2048 / 256 == c).length

/-- A 16-bit clock counter, which stops at 0xFFFF. -/
def clock16 (t k : Nat) : Nat := min (Config.clockCount t k) 0xFFFF

/-- The 16 bytes of lane cluster c. -/
def clusterBytes (e : QEntry) (lc t c : Nat) : List Byte :=
  let m := encodeNat e.instr % 128
  if laneMajor m then
    if lc ≤ c then toBytes 16 0
    else
      let n := if lc = 8 then laneElems (sewOf e.vshape) e.vl c else Config.clockCount t (64 + c)
      toBytes 2 (clock16 t (4 * c + 1)) ++ toBytes 2 (clock16 t (4 * c + 2)) ++ toBytes 2 (clock16 t (4 * c + 3)) ++
        toBytes 2 (clock16 t (4 * c + 4)) ++ toBytes 4 n ++ toBytes 4 0
  else if c = 0 then toBytes 2 (clock16 t 0) ++ toBytes 14 0
  else toBytes 16 0

/-- The sample record of a completed entry. -/
def sampleBytes (s : State) (e : QEntry) : List Byte :=
  let st := s.me
  let m := encodeNat e.instr % 128
  let len := if 0x60 ≤ m ∧ m ≤ 0x66 then field e.mvl 12 0 else e.vl
  toBytes 8 e.addr.toNat ++ toBytes 8 st.pc.toNat ++ toBytes 4 st.lseq ++ toBytes 4 (encodeNat e.instr) ++
    toBytes 4 (st.core * 4 + st.slot) ++ toBytes 1 st.lsn ++ toBytes 3 st.gang ++
    toBytes 4 len ++ toBytes 4 (Config.clockCount s.tick 0) ++
    toBytes 8 (st.issue * 16 + st.lc) ++ toBytes 16 0 ++
    (upTo 8).flatMap (clusterBytes e st.lc s.tick) ++ toBytes 64 0

/-- The completion that brings the count to a multiple of PERIOD writes a record, or counts it lost (R324). -/
def sample (e : QEntry) (s : State) : State :=
  let d := myDebug s
  if d.smpen && d.period != 0 && s.me.nsample % d.period == 0 then
    if (d.smptail - d.smphead).toNat = 2 ^ d.smplog then
      updDebug s s.me.fn fun d => { d with smplost := d.smplost + 1 }
    else
      let a := d.smpbase.toNat + d.smptail.toNat % 2 ^ d.smplog * 256
      let s := bump (hostWriteFn s s.me.fn a (sampleBytes s e))
      updDebug s s.me.fn fun d => { d with smptail := d.smptail + 1 }
  else s

/-! ### Trace sessions (R325, R326) -/

def traceBytes (pc vcp : Word) (time kind data : Nat) : List Byte :=
  toBytes 8 pc.toNat ++ toBytes 8 vcp.toNat ++ toBytes 8 time ++ toBytes 1 kind ++ toBytes 7 data

/-- One record written at the tail of the trace ring. -/
def traceWrite (fn : Nat) (bs : List Byte) (s : State) : State :=
  let d := (fnOf s fn).debug
  let s := hostWriteFn s fn (d.trbase.toNat + d.trtail.toNat % 2 ^ d.trlog * 32) bs
  updDebug s fn fun d => { d with trtail := d.trtail + 1 }

/-- An event record: written while fewer than 2^n − 2 are unread and none has been dropped, else counted (R325). -/
def traceRecord (fn : Nat) (pc vcp : Word) (kind data : Nat) (s : State) : State :=
  let d := (fnOf s fn).debug
  if d.trdrop = 0 ∧ (d.trtail - d.trhead).toNat < 2 ^ d.trlog - 2 then
    traceWrite fn (traceBytes pc vcp (s.traceT - d.trstart) kind data) s
  else updDebug s fn fun d => { d with trdrop := d.trdrop + 1 }

def traceOpen (fn : Nat) (pc vcp : Word) (s : State) : State :=
  let s := updDebug s fn fun d => { d with sessionOpen := true, trstart := s.traceT, trdrop := 0 }
  traceRecord fn pc vcp 1 0 s

/-- The end of a session: an OVERFLOW record where records were dropped, then END with its reason. Where the ring is full of
unread records of an earlier session they take the places of those. DESIGN CHOICE (log 73). -/
def traceEnd (fn : Nat) (pc vcp : Word) (reason : Nat) (s : State) : State :=
  let d := (fnOf s fn).debug
  let time := s.traceT - d.trstart
  let s := if d.trdrop = 0 then s else traceWrite fn (traceBytes pc vcp time 6 d.trdrop) s
  let s := traceWrite fn (traceBytes pc vcp time 5 reason) s
  updDebug s fn fun d => { d with sessionOpen := false, trdrop := 0 }

/-- A trigger of a kind in a clock (R326): kind 1 an instruction issued at val, kind 2 a trap of cause val, kind 3 the
TRSIG bit. -/
def triggered (kind : Nat) (val : Word) (sig : Nat) (evs : List TraceEv) : Bool :=
  match kind with
  | 1 => evs.any fun e => e.kind == 0 && e.pc == val
  | 2 => evs.any fun e => e.kind == 3 && e.data == field val 7 0
  | 3 => evs.any fun e => e.kind == sig
  | _ => false

/-- The clock of a function's traced strand: its events are recorded in their order, under the triggers (R326). Event kinds 0
(an instruction issued), 7 and 8 (START and STOP of TRSIG) are no records. -/
def traceClock (fn : Nat) (pc vcp : Word) (s : State) : State :=
  let evs := s.trev.filter fun e => e.fn == fn
  let s := { s with trev := s.trev.filter fun e => e.fn != fn }
  if evs.isEmpty then s
  else
    let d := (fnOf s fn).debug
    let start := triggered d.startk d.trval0 7 evs
    let stop := triggered d.stopk d.trval1 8 evs
    let put := fun (s : State) => (evs.filter fun e => e.kind == 2 || e.kind == 3 || e.kind == 4).foldl
      (fun s e => traceRecord fn e.pc e.vcp e.kind e.data s) s
    if d.sessionOpen then
      let s := put s
      if stop then traceEnd fn pc vcp 0 s else s
    else if start then
      let s := put (traceOpen fn pc vcp s)
      if stop then traceEnd fn pc vcp 0 s else s
    else s

/-- The strand that a function's trace session names. -/
def tracedStrand (s : State) (fn : Nat) : Option Strand :=
  let f := (debugOf s fn).trfilt
  (s.me :: s.others).find? (isStrand fn (field f 63 32) (field f 31 8) (field f 5 0))

/-- One clock: the events of every traced strand are recorded (log 15). -/
def traceFlush (s : State) : State :=
  let s := ((s.trev.map fun e => e.fn).eraseDups).foldl (fun s fn =>
    match tracedStrand s fn with
    | some st => traceClock fn st.pc (vcpOf st) s
    | none => traceClock fn 0 0 s) s
  { s with traceT := s.traceT + 1 }

end Sys2Proof.Machine
end

