-- ==== Sys2Proof/Machine/Issue.lean ====
section
/-! DEFINITION. The issue of a vector-queue instruction (R23, R24, R78, R79), its entry in the vector instruction queue
(R30), and what its execution does to the strand: completion, a wait, a stop by a trap (R284) or a suspension. -/

namespace Sys2Proof.Machine

/-- What the execution of a queue entry comes to: completed; left at a progress; stopped by a trap at a progress;
suspended by a fault that can be served; suspended by a fault that its stream has reported; or completed with a trap that it
raises (R272). -/
inductive VRes where
  | done (s : State)
  | more (s : State) (prog : Nat)
  | trap (s : State) (prog cause : Nat) (tval : Word)
  | susp (s : State) (prog cause : Nat) (ps : List PFault) (addr : Nat) (write : Bool)
  | held (s : State) (prog : Nat) (u : Susp)
  | fired (s : State) (cause : Nat) (tval : Word)
  deriving DecidableEq, Repr

/-- How an entry executes: the entry, how many units of progress it may make, and the state without it. -/
abbrev Body := QEntry → Nat → State → VRes

/-- More units than any instruction has. -/
def whole : Nat := 1000000

/-- An instruction as it enters the queue: its captured operands, and VSHAPE, VL, MVL, MFCR and N at decode. -/
def mkEntry (i : Instr) (a b d : Word) (s : State) : QEntry :=
  let c := s.me.vctx
  { id := s.nextId, instr := i, addr := s.me.pc, prog := 0, a := a, b := b, d := d, vshape := c.vshape, vl := c.vl,
    mvl := c.mvl, mfcr := c.mfcr, cnt := c.cnt, split := false, vlSpan := c.vlSpan, spec := none, done := false }

/-- An entry at the head of the queue. -/
def queueFront (e : QEntry) (s : State) : State := updCtx s fun c => { c with queue := e :: c.queue }

/-- An entry at the end of the queue. -/
def queueBack (e : QEntry) (s : State) : State := updCtx s fun c => { c with queue := c.queue ++ [e] }

/-- Whether an instruction is one of the Hearth's, majors 0x60 to 0x66. -/
def hearthMajor (m : Nat) : Bool := 0x60 ≤ m && m ≤ 0x66

/-- The activity of a completed instruction: lane-cycles of the vector unit, or bit-cycles of the Hearth (R248, R308).
DESIGN CHOICE (log 61). -/
def addWork (e : QEntry) (st : Strand) : Strand :=
  let m := encodeNat e.instr % 128
  { st with
    laneCycles := if laneMajor m then st.laneCycles + Config.activity 0 e.id else st.laneCycles
    bitCycles := if hearthMajor m then st.bitCycles + Config.activity 2 e.id else st.bitCycles }

/-- A vector-queue instruction completes: it is counted while SMPEN = 1 (R324), sampled and traced. -/
def countEntry (e : QEntry) (s : State) : State :=
  let on := (myDebug s).smpen
  let s := updMe s fun st => { addWork e st with nsample := if on then st.nsample + 1 else st.nsample }
  let s := sample e s
  traceEvent s 4 s.me.pc e.addr (encodeNat e.instr)

/-- A commit breakpoint may match a completed entry (R322). DEDUCED (log 37). -/
def breakEntry (e : QEntry) (s : State) : State := if brkHit s 2 e.addr then commitBreak s else s

def commitEntry (e : QEntry) (s : State) : State := breakEntry e (countEntry e s)

/-- The strand after an entry that stood at the head of its queue has executed. -/
def settleEntry (e : QEntry) : VRes → State
  | .done s => commitEntry e s
  | .more s p => queueFront { e with prog := p } s
  | .trap s p cause tval => trapQueue cause tval (queueFront { e with prog := p } s)
  | .susp s p cause ps addr w => suspend true cause ps addr w false (queueFront { e with prog := p } s)
  | .held s p u => updMe (queueFront { e with prog := p } s) fun st => { st with status := .suspended, susp := some u }
  | .fired s cause tval => breakEntry e (trapQueue cause tval (countEntry e s))

/-- An instruction that has passed its checks enters the queue. With the queue empty it executes at once, unless the
agenda leaves it in the queue (log 2). -/
def enter (i : Instr) (a b d : Word) (body : Body) (s : State) : State :=
  let e := mkEntry i a b d s
  let s := advance { s with nextId := s.nextId + 1 }
  if s.defer || !s.me.vctx.queue.isEmpty then queueBack e s else settleEntry e (body e whole s)

/-- The vector registers that an instruction names and that check 2 of R78 judges (R66). -/
def vecRegs (i : Instr) : List (BitVec 5) :=
  match i with
  | .vadd d a b _ | .vsub d a b _ | .vrsub d a b _ | .vmin d a b _ | .vmax d a b _ | .vand d a b _ | .vor d a b _
  | .vxor d a b _ | .vmul d a b _ | .vmulh d a b _ | .vmacc d a b _ | .vnmacc d a b _ | .vdiv d a b _ | .vrem d a b _
  | .vsll d a b _ | .vsrl d a b _ | .vsra d a b _ | .vbfx d a b _ | .vfshr d a b _ | .vsel d a b _ | .qrgen d a b _
  | .vperm d a b _ _ _ | .vred d a b _ _ _ _ | .vscan d a b _ _ _ _ | .vtkmrg d a b _ _ => [d, a, b]
  | .vaddVs d _ b _ | .vsubVs d _ b _ | .vrsubVs d _ b _ | .vminVs d _ b _ | .vmaxVs d _ b _ | .vandVs d _ b _
  | .vorVs d _ b _ | .vxorVs d _ b _ | .vmulVs d _ b _ | .vmulhVs d _ b _ | .vmaccVs d _ b _ | .vnmaccVs d _ b _
  | .vdivVs d _ b _ | .vremVs d _ b _ | .vsllVs d _ b _ | .vsrlVs d _ b _ | .vsraVs d _ b _ | .vbfxVs d _ b _
  | .vfshrVs d _ b _ | .vselVs d _ b _ | .vaddVi d b _ _ | .vsubVi d b _ _ | .vrsubVi d b _ _ | .vminVi d b _ _
  | .vmaxVi d b _ _ | .vandVi d b _ _ | .vorVi d b _ _ | .vxorVi d b _ _ | .vsllVi d b _ _ | .vsrlVi d b _ _
  | .vsraVi d b _ _ | .vclz d b _ | .vpopc d b _ | .vsqrt d b _ | .vabs d b _ | .vneg d b _ | .vmv d b _
  | .vclass d b _ | .vrecip d b _ | .qrgens d _ b _ | .vcvtw d b _ _ | .vcvtn d b _ _ | .vcvti d b _ _
  | .vcvtf4 d b _ _ | .vcvtdy d b _ _ | .vslup d _ b _ _ _ | .vsldn d _ b _ _ _ | .vcmpr d b _ _ | .vexpd d b _ _
  | .vhist d b _ _ _ _ | .vtopk d _ b _ _ | .vldx d _ b _ _ | .vldxo d _ b _ _ | .vstx d _ b _ _ | .vstxo d _ b _ _
  | .vamo d _ b _ _ _ _ => [d, b]
  | .vcmp _ a b _ _ | .mop a b _ _ => [a, b]
  | .vcmpVs _ _ b _ _ | .vcmpVi _ b _ _ _ | .kset _ b _ | .kcalc _ _ b _ _ | .mxv _ _ b _ _ _ => [b]
  | .kmv d _ _ _ | .viota d _ _ | .vidx d _ | .vmvVs d _ _ | .vld d _ _ | .vlds d _ _ _ | .vldff d _ _
  | .vldseg d _ _ _ | .vst d _ _ | .vsts d _ _ _ | .vstseg d _ _ _ | .qpush d _ _ _ | .qpop d _ _ _ | .maccrd d _ _
  | .maccwr d _ _ => [d]
  | _ => []

/-- Checks 2 to 4 of R78 for a vector-queue instruction whose word is well formed: a vector register at or above the
declared count, ownership of the vector context, and the type state. -/
def vecChecks (i : Instr) (regs : List (BitVec 5)) (wrong : VCtx → Bool) (s : State) : Option (Nat × Word) :=
  if regs.any (aboveCount s.me.vctx.cnt) then some (1, word (encodeNat i))
  else if !s.me.vown then some (9, 0)
  else if wrong s.me.vctx then some (2, word (encodeNat i))
  else none

/-- A trap of R78 takes effect on nothing and is precise at the word (R79). -/
def issueVec (i : Instr) (regs : List (BitVec 5)) (wrong : VCtx → Bool) (a b d : Word) (body : Body) (s : State) : State :=
  match vecChecks i regs wrong s with
  | some (cause, tval) => trapFront cause tval s
  | none => enter i a b d body s

/-- An instruction whose operand value is judged at issue after the checks of R78: a refused value raises "illegal
instruction" at it (R120, R186). -/
def issueVecIf (i : Instr) (regs : List (BitVec 5)) (wrong : VCtx → Bool) (good : State → Bool) (a b d : Word) (body : Body)
    (s : State) : State :=
  match vecChecks i regs wrong s with
  | some (cause, tval) => trapFront cause tval s
  | none => if good s then enter i a b d body s else trapFront 1 (word (encodeNat i)) s

/-- No type state is checked: majors that do not depend on VSHAPE (R75). -/
def anyType (_ : VCtx) : Bool := false

/-- A drain point of the vector queue (R99). -/
def queueDrain (e : QEntry) (k : State → VRes) (s : State) : VRes :=
  if !s.me.det then k s
  else if s.me.permit then k { s with me := { s.me with permit := false, stand := none } }
  else if alone s then k (flushAll s)
  else .more { s with me := { s.me with stand := some e.instr } } e.prog

/-! ### Element groups (R27) -/

/-- A body that works on elements [lo, hi), one or more groups at a time; progress counts groups. -/
def groupBody (sew vl : Nat) (run : QEntry → Nat → Nat → State → State) : Body := fun e quota s =>
  let total := groupsOf sew vl
  let g := min total (e.prog + quota)
  let s := run e (e.prog * epg sew) (min vl (g * epg sew)) s
  if g = total then .done s else .more s g

/-- The elements a masked loop writes: f where the mask enables, z where it does not and MPOL is 1 (R148). -/
def loopVals (c : VCtx) (mpol : Bool) (m z : Nat) (f : Nat → FR) (is : List Nat) : List (Nat × Nat) :=
  is.filterMap fun i => if maskBit c m i then some (i, (f i).v) else if mpol then some (i, z) else none

/-- The flags of the enabled elements (R138). -/
def loopFlags (c : VCtx) (m : Nat) (f : Nat → FR) (is : List Nat) : Nat :=
  is.foldl (fun fl i => if maskBit c m i then fl ||| (f i).fl else fl) 0

/-- OR of flags into XFLAGS. -/
def orFlags (fl : Nat) (s : State) : State :=
  { s with me := { s.me with xflags := s.me.xflags ||| BitVec.ofNat 6 fl } }

/-- The loop of R148 over elements [lo, hi) of a group d of width sew. -/
def elemLoop (rb sew d : Nat) (mpol : Bool) (m z : Nat) (f : VCtx → Nat → FR) (lo hi : Nat) (s : State) : State :=
  let c := s.me.vctx
  let is := span lo hi
  orFlags (loopFlags c m (f c) is)
    (updCtx s fun c' => { c' with vf := elemsSet c'.vf rb sew d (loopVals c mpol m z (f c) is) })

/-- A scalar result of a queue instruction (R26). -/
def doneReg (d : BitVec 5) (v : Word) (s : State) : VRes := .done (setReg s d v)

end Sys2Proof.Machine
end

