-- ==== Sys2Proof/Machine/VArith.lean ====
section
/-! DEFINITION. Vector arithmetic, compares, select, move and mask instructions (R146 to R156). -/

namespace Sys2Proof.Machine

/-- Where a(i) comes from (R147). -/
inductive ASrc where
  | none
  | vec (r : BitVec 5)
  | scalar
  | imm (i : BitVec 5)
  | uimm (i : BitVec 5)
  deriving DecidableEq, Repr

/-- The pattern of an exact integer in a type: modulo 2^SEW for integers, the exact value for floats (R147). -/
def immVal (et sew : Nat) (x : Int) : Nat :=
  if isInt et then ofInt sew x
  else
    match fmtOf et with
    | some f => (f.round .rne (decide (x < 0)) x.natAbs 1).v
    | none => ofInt sew x

/-- a(i) as a pattern of width SEW. -/
def aVal (src : ASrc) (e : QEntry) (c : VCtx) (i : Nat) : Nat :=
  let sew := sewOf e.vshape
  match src with
  | .none => 0
  | .vec r => elemGet c.vf (rbOf e.cnt) sew r.toNat i
  | .scalar => e.a.toNat % 2 ^ sew
  | .imm x => immVal (etypeOf e.vshape) sew x.toInt
  | .uimm x => immVal (etypeOf e.vshape) sew x.toNat

/-- b(i), replicated under BC (R68). -/
def bVal (b : BitVec 5) (z : BitVec 2) (bc : BitVec 1) (e : QEntry) (c : VCtx) (i : Nat) : Nat :=
  elemGet c.vf (rbOf e.cnt) (sewOf e.vshape) b.toNat (repIdx z bc i)

/-- d(i) as it stood before the instruction. -/
def dVal (d : BitVec 5) (e : QEntry) (c : VCtx) (i : Nat) : Nat :=
  elemGet c.vf (rbOf e.cnt) (sewOf e.vshape) d.toNat i

/-- The environment of element i. -/
def envOf (e : QEntry) (c : VCtx) (dseed : BitVec 32) (i : Nat) : FEnv :=
  { et := etypeOf e.vshape, sew := sewOf e.vshape, sat := satOf e.vshape, mode := modeOf e.vshape c dseed i }

/-- Whether the elements that a replicated B repeats lie in the registers of D: they are then read before any element is written, so
the instruction executes whole. -/
def repeatsD (d b : BitVec 5) (z : BitVec 2) (bc : BitVec 1) (e : QEntry) : Bool :=
  bc == 1 && overlap (d.toNat * rbOf e.cnt) (lmulOf e.vshape * rbOf e.cnt) (b.toNat * rbOf e.cnt) (ceilDiv (segOf z * sewOf e.vshape) 8)

/-- The loop of R148 for a function f of the element index. -/
def mapBody (d b : BitVec 5) (z : BitVec 2) (bc : BitVec 1) (m : BitVec 2) (f : QEntry → BitVec 32 → VCtx → Nat → FR) : Body :=
  fun e quota s =>
    groupBody (sewOf e.vshape) e.vl
      (fun e lo hi s => elemLoop (rbOf e.cnt) (sewOf e.vshape) d.toNat (mpolOf e.vshape) m.toNat (zeroOf (etypeOf e.vshape))
        (f e s.me.dseed) lo hi s)
      e (if repeatsD d b z bc e then whole else quota) s

/-- An arithmetic mnemonic over its operands. -/
def arithBody (o : VOp) (src : ASrc) (d b : BitVec 5) (z : BitVec 2) (bc : BitVec 1) (m : BitVec 2) : Body :=
  mapBody d b z bc m fun e seed c i => vop o (envOf e c seed i) (aVal src e c i) (bVal b z bc e c i) (dVal d e c i)

/-- Type traps of R156. -/
def arithWrong (o : VOp) (rs : List (BitVec 5)) (c : VCtx) : Bool := !vopDefined o (etypeOf c.vshape) || badGroups c rs

def vvArith (i : Instr) (o : VOp) (d a b : BitVec 5) (q : VMod) (s : State) : Out :=
  onStrand s (issueVec i [d, a, b] (arithWrong o [d, a, b]) 0 0 0 (arithBody o (.vec a) d b q.z q.c q.m) s)

def vsArith (i : Instr) (o : VOp) (d a b : BitVec 5) (q : SMod) (s : State) : Out :=
  onStrand s (issueVec i [d, b] (arithWrong o [d, b]) (reg s a) 0 0 (arithBody o .scalar d b q.z q.c q.m) s)

def viArith (i : Instr) (o : VOp) (src : ASrc) (d b : BitVec 5) (q : SMod) (s : State) : Out :=
  onStrand s (issueVec i [d, b] (arithWrong o [d, b]) 0 0 0 (arithBody o src d b q.z q.c q.m) s)

/-- One source: the source is B. -/
def unArith (i : Instr) (o : VOp) (d b : BitVec 5) (q : SMod) (s : State) : Out :=
  onStrand s (issueVec i [d, b] (arithWrong o [d, b]) 0 0 0 (arithBody o .none d b q.z q.c q.m) s)

/-- VADD of two vectors (R148, R150, R152). -/
def execVadd (d a b : BitVec 5) (q : VMod) (s : State) : Out := vvArith (.vadd d a b q) .add d a b q s

/-- VSUB of two vectors (R148, R150, R152). -/
def execVsub (d a b : BitVec 5) (q : VMod) (s : State) : Out := vvArith (.vsub d a b q) .sub d a b q s

/-- VRSUB of two vectors (R148, R150, R152). -/
def execVrsub (d a b : BitVec 5) (q : VMod) (s : State) : Out := vvArith (.vrsub d a b q) .rsub d a b q s

/-- VMIN of two vectors (R148, R150, R152). -/
def execVmin (d a b : BitVec 5) (q : VMod) (s : State) : Out := vvArith (.vmin d a b q) .min d a b q s

/-- VMAX of two vectors (R148, R150, R152). -/
def execVmax (d a b : BitVec 5) (q : VMod) (s : State) : Out := vvArith (.vmax d a b q) .max d a b q s

/-- VAND of two vectors (R148, R150, R152). -/
def execVand (d a b : BitVec 5) (q : VMod) (s : State) : Out := vvArith (.vand d a b q) .and d a b q s

/-- VOR of two vectors (R148, R150, R152). -/
def execVor (d a b : BitVec 5) (q : VMod) (s : State) : Out := vvArith (.vor d a b q) .or d a b q s

/-- VXOR of two vectors (R148, R150, R152). -/
def execVxor (d a b : BitVec 5) (q : VMod) (s : State) : Out := vvArith (.vxor d a b q) .xor d a b q s

/-- VMUL of two vectors (R148, R150, R152). -/
def execVmul (d a b : BitVec 5) (q : VMod) (s : State) : Out := vvArith (.vmul d a b q) .mul d a b q s

/-- VMULH of two vectors (R148, R150, R152). -/
def execVmulh (d a b : BitVec 5) (q : VMod) (s : State) : Out := vvArith (.vmulh d a b q) .mulh d a b q s

/-- VMACC of two vectors (R148, R150, R152). -/
def execVmacc (d a b : BitVec 5) (q : VMod) (s : State) : Out := vvArith (.vmacc d a b q) .macc d a b q s

/-- VNMACC of two vectors (R148, R150, R152). -/
def execVnmacc (d a b : BitVec 5) (q : VMod) (s : State) : Out := vvArith (.vnmacc d a b q) .nmacc d a b q s

/-- VDIV of two vectors (R148, R150, R152). -/
def execVdiv (d a b : BitVec 5) (q : VMod) (s : State) : Out := vvArith (.vdiv d a b q) .div d a b q s

/-- VREM of two vectors (R148, R150, R152). -/
def execVrem (d a b : BitVec 5) (q : VMod) (s : State) : Out := vvArith (.vrem d a b q) .rem d a b q s

/-- VSLL of two vectors (R148, R150, R152). -/
def execVsll (d a b : BitVec 5) (q : VMod) (s : State) : Out := vvArith (.vsll d a b q) .sll d a b q s

/-- VSRL of two vectors (R148, R150, R152). -/
def execVsrl (d a b : BitVec 5) (q : VMod) (s : State) : Out := vvArith (.vsrl d a b q) .srl d a b q s

/-- VSRA of two vectors (R148, R150, R152). -/
def execVsra (d a b : BitVec 5) (q : VMod) (s : State) : Out := vvArith (.vsra d a b q) .sra d a b q s

/-- VBFX of two vectors (R148, R150, R152). -/
def execVbfx (d a b : BitVec 5) (q : VMod) (s : State) : Out := vvArith (.vbfx d a b q) .bfx d a b q s

/-- VFSHR of two vectors (R148, R150, R152). -/
def execVfshr (d a b : BitVec 5) (q : VMod) (s : State) : Out := vvArith (.vfshr d a b q) .fshr d a b q s

/-- VADD with a scalar A (R148, R150, R152). -/
def execVaddVs (d a b : BitVec 5) (q : SMod) (s : State) : Out := vsArith (.vaddVs d a b q) .add d a b q s

/-- VSUB with a scalar A (R148, R150, R152). -/
def execVsubVs (d a b : BitVec 5) (q : SMod) (s : State) : Out := vsArith (.vsubVs d a b q) .sub d a b q s

/-- VRSUB with a scalar A (R148, R150, R152). -/
def execVrsubVs (d a b : BitVec 5) (q : SMod) (s : State) : Out := vsArith (.vrsubVs d a b q) .rsub d a b q s

/-- VMIN with a scalar A (R148, R150, R152). -/
def execVminVs (d a b : BitVec 5) (q : SMod) (s : State) : Out := vsArith (.vminVs d a b q) .min d a b q s

/-- VMAX with a scalar A (R148, R150, R152). -/
def execVmaxVs (d a b : BitVec 5) (q : SMod) (s : State) : Out := vsArith (.vmaxVs d a b q) .max d a b q s

/-- VAND with a scalar A (R148, R150, R152). -/
def execVandVs (d a b : BitVec 5) (q : SMod) (s : State) : Out := vsArith (.vandVs d a b q) .and d a b q s

/-- VOR with a scalar A (R148, R150, R152). -/
def execVorVs (d a b : BitVec 5) (q : SMod) (s : State) : Out := vsArith (.vorVs d a b q) .or d a b q s

/-- VXOR with a scalar A (R148, R150, R152). -/
def execVxorVs (d a b : BitVec 5) (q : SMod) (s : State) : Out := vsArith (.vxorVs d a b q) .xor d a b q s

/-- VMUL with a scalar A (R148, R150, R152). -/
def execVmulVs (d a b : BitVec 5) (q : SMod) (s : State) : Out := vsArith (.vmulVs d a b q) .mul d a b q s

/-- VMULH with a scalar A (R148, R150, R152). -/
def execVmulhVs (d a b : BitVec 5) (q : SMod) (s : State) : Out := vsArith (.vmulhVs d a b q) .mulh d a b q s

/-- VMACC with a scalar A (R148, R150, R152). -/
def execVmaccVs (d a b : BitVec 5) (q : SMod) (s : State) : Out := vsArith (.vmaccVs d a b q) .macc d a b q s

/-- VNMACC with a scalar A (R148, R150, R152). -/
def execVnmaccVs (d a b : BitVec 5) (q : SMod) (s : State) : Out := vsArith (.vnmaccVs d a b q) .nmacc d a b q s

/-- VDIV with a scalar A (R148, R150, R152). -/
def execVdivVs (d a b : BitVec 5) (q : SMod) (s : State) : Out := vsArith (.vdivVs d a b q) .div d a b q s

/-- VREM with a scalar A (R148, R150, R152). -/
def execVremVs (d a b : BitVec 5) (q : SMod) (s : State) : Out := vsArith (.vremVs d a b q) .rem d a b q s

/-- VSLL with a scalar A (R148, R150, R152). -/
def execVsllVs (d a b : BitVec 5) (q : SMod) (s : State) : Out := vsArith (.vsllVs d a b q) .sll d a b q s

/-- VSRL with a scalar A (R148, R150, R152). -/
def execVsrlVs (d a b : BitVec 5) (q : SMod) (s : State) : Out := vsArith (.vsrlVs d a b q) .srl d a b q s

/-- VSRA with a scalar A (R148, R150, R152). -/
def execVsraVs (d a b : BitVec 5) (q : SMod) (s : State) : Out := vsArith (.vsraVs d a b q) .sra d a b q s

/-- VBFX with a scalar A (R148, R150, R152). -/
def execVbfxVs (d a b : BitVec 5) (q : SMod) (s : State) : Out := vsArith (.vbfxVs d a b q) .bfx d a b q s

/-- VFSHR with a scalar A (R148, R150, R152). -/
def execVfshrVs (d a b : BitVec 5) (q : SMod) (s : State) : Out := vsArith (.vfshrVs d a b q) .fshr d a b q s

/-- VADD with an immediate A (R148, R150, R152). -/
def execVaddVi (d b i : BitVec 5) (q : SMod) (s : State) : Out := viArith (.vaddVi d b i q) .add (.imm i) d b q s

/-- VSUB with an immediate A (R148, R150, R152). -/
def execVsubVi (d b i : BitVec 5) (q : SMod) (s : State) : Out := viArith (.vsubVi d b i q) .sub (.imm i) d b q s

/-- VRSUB with an immediate A (R148, R150, R152). -/
def execVrsubVi (d b i : BitVec 5) (q : SMod) (s : State) : Out := viArith (.vrsubVi d b i q) .rsub (.imm i) d b q s

/-- VMIN with an immediate A (R148, R150, R152). -/
def execVminVi (d b i : BitVec 5) (q : SMod) (s : State) : Out := viArith (.vminVi d b i q) .min (.imm i) d b q s

/-- VMAX with an immediate A (R148, R150, R152). -/
def execVmaxVi (d b i : BitVec 5) (q : SMod) (s : State) : Out := viArith (.vmaxVi d b i q) .max (.imm i) d b q s

/-- VAND with an immediate A (R148, R150, R152). -/
def execVandVi (d b i : BitVec 5) (q : SMod) (s : State) : Out := viArith (.vandVi d b i q) .and (.imm i) d b q s

/-- VOR with an immediate A (R148, R150, R152). -/
def execVorVi (d b i : BitVec 5) (q : SMod) (s : State) : Out := viArith (.vorVi d b i q) .or (.imm i) d b q s

/-- VXOR with an immediate A (R148, R150, R152). -/
def execVxorVi (d b i : BitVec 5) (q : SMod) (s : State) : Out := viArith (.vxorVi d b i q) .xor (.imm i) d b q s

/-- VSLL with an immediate A (R148, R150, R152). -/
def execVsllVi (d b i : BitVec 5) (q : SMod) (s : State) : Out := viArith (.vsllVi d b i q) .sll (.uimm i) d b q s

/-- VSRL with an immediate A (R148, R150, R152). -/
def execVsrlVi (d b i : BitVec 5) (q : SMod) (s : State) : Out := viArith (.vsrlVi d b i q) .srl (.uimm i) d b q s

/-- VSRA with an immediate A (R148, R150, R152). -/
def execVsraVi (d b i : BitVec 5) (q : SMod) (s : State) : Out := viArith (.vsraVi d b i q) .sra (.uimm i) d b q s

/-- VCLZ (R148, R150, R152, R154). -/
def execVclz (d b : BitVec 5) (q : SMod) (s : State) : Out := unArith (.vclz d b q) .clz d b q s

/-- VPOPC (R148, R150, R152, R154). -/
def execVpopc (d b : BitVec 5) (q : SMod) (s : State) : Out := unArith (.vpopc d b q) .popc d b q s

/-- VSQRT (R148, R150, R152, R154). -/
def execVsqrt (d b : BitVec 5) (q : SMod) (s : State) : Out := unArith (.vsqrt d b q) .sqrt d b q s

/-- VABS (R148, R150, R152, R154). -/
def execVabs (d b : BitVec 5) (q : SMod) (s : State) : Out := unArith (.vabs d b q) .abs d b q s

/-- VNEG (R148, R150, R152, R154). -/
def execVneg (d b : BitVec 5) (q : SMod) (s : State) : Out := unArith (.vneg d b q) .neg d b q s

/-- VMV (R148, R150, R152, R154). -/
def execVmv (d b : BitVec 5) (q : SMod) (s : State) : Out := unArith (.vmv d b q) .mv d b q s

/-- VCLASS (R148, R150, R152, R154). -/
def execVclass (d b : BitVec 5) (q : SMod) (s : State) : Out := unArith (.vclass d b q) .cls d b q s

/-- VRECIP (R148, R150, R152, R154). -/
def execVrecip (d b : BitVec 5) (q : SMod) (s : State) : Out := unArith (.vrecip d b q) .recip d b q s

/-- VIDX: i mod 2^SEW (Table 8.1). -/
def idxBody (d : BitVec 5) (m : BitVec 2) : Body :=
  mapBody d 0 0 0 m fun e _ _ i => ⟨i % 2 ^ sewOf e.vshape, 0⟩

/-- VIDX (R150). -/
def execVidx (d : BitVec 5) (m : BitVec 2) (s : State) : Out :=
  onStrand s (issueVec (.vidx d m) [d] (fun c => !isInt (etypeOf c.vshape) || badGroups c [d]) 0 0 0 (idxBody d m) s)

/-- VMV from a scalar: f is the scalar A (R154). -/
def mvsBody (d : BitVec 5) (m : BitVec 2) : Body :=
  mapBody d 0 0 0 m fun e _ c i => ⟨aVal .scalar e c i, 0⟩

/-- VMV from a scalar (R154). -/
def execVmvVs (d a : BitVec 5) (m : BitVec 2) (s : State) : Out :=
  onStrand s (issueVec (.vmvVs d a m) [d] (fun c => badGroups c [d]) (reg s a) 0 0 (mvsBody d m) s)

/-- VSEL writes a(i) where the mask enables and b(i) elsewhere; MPOL does not apply (R154). -/
def selBody (src : ASrc) (d b : BitVec 5) (z : BitVec 2) (bc : BitVec 1) (m : BitVec 2) : Body :=
  mapBody d b z bc 0 fun e _ c i => ⟨if maskBit c m.toNat i then aVal src e c i else bVal b z bc e c i, 0⟩

/-- VSEL of two vectors (R154). -/
def execVsel (d a b : BitVec 5) (q : VMod) (s : State) : Out :=
  onStrand s (issueVec (.vsel d a b q) [d, a, b] (fun c => badGroups c [d, a, b]) 0 0 0 (selBody (.vec a) d b q.z q.c q.m) s)

/-- VSEL with a scalar A (R154). -/
def execVselVs (d a b : BitVec 5) (q : SMod) (s : State) : Out :=
  onStrand s (issueVec (.vselVs d a b q) [d, b] (fun c => badGroups c [d, b]) (reg s a) 0 0 (selBody .scalar d b q.z q.c q.m) s)

/-- VCMP writes bits of mask register D; a masked-off bit becomes 0 when MPOL is 1 (R153). -/
def cmpRun (cond : Nat) (src : ASrc) (d b : BitVec 5) (z : BitVec 2) (bc : BitVec 1) (m : BitVec 2) (e : QEntry) (lo hi : Nat)
    (s : State) : State :=
  let c := s.me.vctx
  let r := fun i => compare cond (etypeOf e.vshape) (sewOf e.vshape) (aVal src e c i) (bVal b z bc e c i)
  let bits := (span lo hi).filterMap fun i =>
    if maskBit c m.toNat i then some (i, (r i).1) else if mpolOf e.vshape then some (i, false) else none
  let fl := (span lo hi).foldl (fun fl i => if maskBit c m.toNat i then fl ||| (r i).2 else fl) 0
  orFlags fl (updCtx s fun c => { c with masks := masksSet c.masks d.toNat bits })

def cmpBody (cond : Nat) (src : ASrc) (d b : BitVec 5) (z : BitVec 2) (bc : BitVec 1) (m : BitVec 2) : Body :=
  fun e quota s => groupBody (sewOf e.vshape) e.vl (cmpRun cond src d b z bc m) e quota s

def cmpWrong (cond : Nat) (rs : List (BitVec 5)) (c : VCtx) : Bool := !compareDefined cond (etypeOf c.vshape) || badGroups c rs

/-- VCMP of two vectors (R153). -/
def execVcmp (d a b : BitVec 5) (cond : BitVec 3) (q : VMod) (s : State) : Out :=
  onStrand s (issueVec (.vcmp d a b cond q) [a, b] (cmpWrong cond.toNat [a, b]) 0 0 0
    (cmpBody cond.toNat (.vec a) d b q.z q.c q.m) s)

/-- VCMP with a scalar A (R153). -/
def execVcmpVs (d a b : BitVec 5) (cond : BitVec 3) (q : SMod) (s : State) : Out :=
  onStrand s (issueVec (.vcmpVs d a b cond q) [b] (cmpWrong cond.toNat [b]) (reg s a) 0 0
    (cmpBody cond.toNat .scalar d b q.z q.c q.m) s)

/-- VCMP with an immediate A (R153). -/
def execVcmpVi (d b : BitVec 5) (cond : BitVec 3) (i : BitVec 5) (q : SMod) (s : State) : Out :=
  onStrand s (issueVec (.vcmpVi d b cond i q) [b] (cmpWrong cond.toNat [b]) 0 0 0
    (cmpBody cond.toNat (.imm i) d b q.z q.c q.m) s)

/-! ### Mask instructions (R155) -/

/-- A mask instruction on bits lo to hi − 1. -/
def maskRun (d : BitVec 5) (f : VCtx → Nat → Bool) (lo hi : Nat) (s : State) : State :=
  let c := s.me.vctx
  updCtx s fun c' => { c' with masks := masksSet c'.masks d.toNat ((span lo hi).map fun i => (i, f c i)) }

/-- A mask instruction on bits 0 to VL − 1, by the element groups that hold the elements (R149). -/
def maskBody (d : BitVec 5) (f : VCtx → Nat → Bool) : Body := fun e quota s =>
  groupBody (sewOf e.vshape) e.vl (fun _ lo hi s => maskRun d f lo hi s) e quota s

def mandBody (d a b : BitVec 5) : Body := maskBody d fun c i => maskBit c a.toNat i && maskBit c b.toNat i
def morBody (d a b : BitVec 5) : Body := maskBody d fun c i => maskBit c a.toNat i || maskBit c b.toNat i
def mxorBody (d a b : BitVec 5) : Body := maskBody d fun c i => maskBit c a.toNat i != maskBit c b.toNat i
def mandnBody (d a b : BitVec 5) : Body := maskBody d fun c i => maskBit c a.toNat i && !maskBit c b.toNat i
def mnotBody (d a : BitVec 5) : Body := maskBody d fun c i => !maskBit c a.toNat i

/-- MAND (R155). -/
def execMand (d a b : BitVec 5) (s : State) : Out := onStrand s (issueVec (.mand d a b) [] anyType 0 0 0 (mandBody d a b) s)

/-- MOR (R155). -/
def execMor (d a b : BitVec 5) (s : State) : Out := onStrand s (issueVec (.mor d a b) [] anyType 0 0 0 (morBody d a b) s)

/-- MXOR (R155). -/
def execMxor (d a b : BitVec 5) (s : State) : Out := onStrand s (issueVec (.mxor d a b) [] anyType 0 0 0 (mxorBody d a b) s)

/-- MANDN (R155). -/
def execMandn (d a b : BitVec 5) (s : State) : Out :=
  onStrand s (issueVec (.mandn d a b) [] anyType 0 0 0 (mandnBody d a b) s)

/-- MNOT (R155). -/
def execMnot (d a : BitVec 5) (s : State) : Out := onStrand s (issueVec (.mnot d a) [] anyType 0 0 0 (mnotBody d a) s)

/-- The least index below VL whose bit is 1, or all ones (Table 8.4). -/
def firstSet (c : VCtx) (a vl : Nat) : Word :=
  match (upTo vl).find? (fun i => maskBit c a i) with
  | some i => word i
  | none => BitVec.allOnes 64

def countSet (c : VCtx) (a vl : Nat) : Word := word ((upTo vl).filter fun i => maskBit c a i).length

/-- A result of a whole mask, whose bits are taken by element groups (R149): D receives it with the last of them. -/
def countBody (d : BitVec 5) (f : VCtx → Nat → Word) : Body := fun e quota s =>
  match groupBody (sewOf e.vshape) e.vl (fun _ _ _ s => s) e quota s with
  | .done t => doneReg d (f t.me.vctx e.vl) t
  | r => r

def mffsBody (d a : BitVec 5) : Body := countBody d fun c vl => firstSet c a.toNat vl
def mpopcBody (d a : BitVec 5) : Body := countBody d fun c vl => countSet c a.toNat vl

/-- MFFS (R155). -/
def execMffs (d a : BitVec 5) (s : State) : Out := onStrand s (issueVec (.mffs d a) [] anyType 0 0 0 (mffsBody d a) s)

/-- MPOPC (R155). -/
def execMpopc (d a : BitVec 5) (s : State) : Out := onStrand s (issueVec (.mpopc d a) [] anyType 0 0 0 (mpopcBody d a) s)

end Sys2Proof.Machine
end

