-- ==== Sys2Proof/Machine/Permute.lean ====
section
/-! DEFINITION. Slides, permutes, reductions, scans, histograms and top-k selection (R175 to R187). These instructions
deliver their destinations whole, at completion (R175). -/

namespace Sys2Proof.Machine

/-- The value one of a type (Table 10.2). -/
def oneOf (et : Nat) : Nat :=
  match fmtOf et with
  | some f => f.bias * 2 ^ f.m
  | none => if et = 9 then 0x07 else 1

/-- The greatest value of a type (Table 10.2). -/
def greatest (et sew : Nat) : Nat :=
  match fmtOf et with
  | some f => if f.special = .ieee then f.infCode else f.maxCode
  | none => if et = 9 then 0x00 else ofInt sew (intMax (isSigned et) sew)

/-- The least value of a type (Table 10.2). -/
def least (et sew : Nat) : Nat :=
  match fmtOf et with
  | some f => (if f.special = .ieee then f.infCode else f.maxCode) + f.signBit
  | none => if et = 9 then 0x88 else ofInt sew (intMin (isSigned et) sew)

/-- The fill of Table 10.2; none leaves the element undisturbed. -/
def fillVal (f : BitVec 3) (et sew : Nat) (a : Word) : Option Nat :=
  match f.toNat with
  | 0 => none
  | 1 => some (zeroOf et)
  | 2 => some (oneOf et)
  | 3 => some (greatest et sew)
  | 4 => some (least et sew)
  | _ => some (a.toNat % 2 ^ sew)

/-- The amount of a slide: 1 for `.s1`, else the value of A (R177). -/
def slideBy (f : BitVec 3) (a : Word) : Nat := if f = 5 then 1 else a.toNat

/-- The source element of a slide, where there is one (R178). -/
def slideSrc (up : Bool) (k vl i : Nat) : Option Nat :=
  if up then (if k ≤ i then some (i - k) else none) else if i + k < vl then some (i + k) else none

/-- The elements written by a masked loop that may leave an enabled element undisturbed. -/
def optVals (c : VCtx) (mpol : Bool) (m z : Nat) (f : Nat → Option Nat) (is : List Nat) : List (Nat × Nat) :=
  is.filterMap fun i =>
    if maskBit c m i then (f i).map (fun v => (i, v)) else if mpol then some (i, z) else none

/-- A group written by such a loop over every element below VL. -/
def optLoop (e : QEntry) (d m : Nat) (f : VCtx → Nat → Option Nat) (s : State) : State :=
  let c := s.me.vctx
  updCtx s fun c' => { c' with
    vf := elemsSet c'.vf (rbOf e.cnt) (sewOf e.vshape) d
      (optVals c (mpolOf e.vshape) m (zeroOf (etypeOf e.vshape)) (f c) (upTo e.vl)) }

/-- elem(r, i) under an entry's shape. -/
def elemOf (e : QEntry) (c : VCtx) (r i : Nat) : Nat := elemGet c.vf (rbOf e.cnt) (sewOf e.vshape) r i

def slideBody (up : Bool) (d b : BitVec 5) (f : BitVec 3) (m : BitVec 2) : Body := fun e _ s =>
  .done (optLoop e d.toNat m.toNat (fun c i =>
    match slideSrc up (slideBy f e.a) e.vl i with
    | some j => some (elemOf e c b.toNat j)
    | none => fillVal f (etypeOf e.vshape) (sewOf e.vshape) e.a) s)

/-- VSLUP (R177, R178). -/
def execVslup (d a b : BitVec 5) (f : BitVec 3) (m : BitVec 2) (k : BitVec 1) (s : State) : Out :=
  onStrand s (issueVec (.vslup d a b f m k) [d, b] (fun c => badGroups c [d, b]) (reg s a) 0 0 (slideBody true d b f m) s)

/-- VSLDN (R177, R178). -/
def execVsldn (d a b : BitVec 5) (f : BitVec 3) (m : BitVec 2) (k : BitVec 1) (s : State) : Out :=
  onStrand s (issueVec (.vsldn d a b f m k) [d, b] (fun c => badGroups c [d, b]) (reg s a) 0 0 (slideBody false d b f m) s)

/-- LI, the registers of an index group (R159, R176). -/
def indexRegs (vs : Word) : Nat := max 1 (lmulOf vs * 32 / sewOf vs)

/-- Element i of an index group: 32-bit unsigned. -/
def idxOf (e : QEntry) (c : VCtx) (b i : Nat) : Nat := elemGet c.vf (rbOf e.cnt) 32 b i

def permBody (d a b : BitVec 5) (m : BitVec 2) : Body := fun e _ s =>
  .done (optLoop e d.toNat m.toNat (fun c i =>
    let j := idxOf e c b.toNat i
    some (if j < e.vl then elemOf e c a.toNat j else zeroOf (etypeOf e.vshape))) s)

/-- VPERM (R179). -/
def execVperm (d a b : BitVec 5) (m : BitVec 2) (k j : BitVec 1) (s : State) : Out :=
  onStrand s (issueVec (.vperm d a b m k j) [d, a, b]
    (fun c => badGroups c [d, a] || badGroup c.cnt (indexRegs c.vshape) b.toNat) 0 0 0 (permBody d a b m) s)

/-- e(i): the number of enabled elements before i (R180). -/
def rankOf (c : VCtx) (m i : Nat) : Nat := ((upTo i).filter (maskBit c m)).length

def cmprBody (d b : BitVec 5) (m : BitVec 2) : Body := fun e _ s =>
  let c := s.me.vctx
  let on := (upTo e.vl).filter (maskBit c m.toNat)
  let vals := (upTo on.length).zip (on.map fun i => elemOf e c b.toNat i)
  let rest := if mpolOf e.vshape then (span on.length e.vl).map (fun i => (i, zeroOf (etypeOf e.vshape))) else []
  .done (updCtx s fun c' => { c' with vf := elemsSet c'.vf (rbOf e.cnt) (sewOf e.vshape) d.toNat (vals ++ rest) })

/-- VCMPR (R180). -/
def execVcmpr (d b : BitVec 5) (m : BitVec 2) (k : BitVec 1) (s : State) : Out :=
  onStrand s (issueVec (.vcmpr d b m k) [d, b] (fun c => badGroups c [d, b]) 0 0 0 (cmprBody d b m) s)

def expdBody (d b : BitVec 5) (m : BitVec 2) : Body := fun e _ s =>
  .done (optLoop e d.toNat m.toNat (fun c i => some (elemOf e c b.toNat (rankOf c m.toNat i))) s)

/-- VEXPD (R180). -/
def execVexpd (d b : BitVec 5) (m : BitVec 2) (k : BitVec 1) (s : State) : Out :=
  onStrand s (issueVec (.vexpd d b m k) [d, b] (fun c => badGroups c [d, b]) 0 0 0 (expdBody d b m) s)

def iotaBody (d b : BitVec 5) (m : BitVec 2) : Body := fun e _ s =>
  .done (optLoop e d.toNat m.toNat (fun c i =>
    some (((upTo i).filter fun j => maskBit c m.toNat j && maskBit c b.toNat j).length % 2 ^ sewOf e.vshape)) s)

/-- VIOTA (R180). -/
def execViota (d b : BitVec 5) (m : BitVec 2) (s : State) : Out :=
  onStrand s (issueVec (.viota d b m) [d] (fun c => !isInt (etypeOf c.vshape) || badGroups c [d]) 0 0 0 (iotaBody d b m) s)

/-! ### Reductions and scans (R181 to R184) -/

/-- One pass of the pairwise tree: neighbours combined, an odd last one passed up (R182). -/
def pairUp {α : Type} (op : α → α → α × Nat) : List α → List α × Nat
  | [] => ([], 0)
  | [x] => ([x], 0)
  | x :: y :: t =>
    let r := op x y
    let u := pairUp op t
    (r.1 :: u.1, r.2 ||| u.2)

/-- Passes until one value is left. -/
def treeOf {α : Type} (op : α → α → α × Nat) : Nat → List α → List α × Nat
  | 0, xs => (xs, 0)
  | n + 1, xs =>
    if xs.length ≤ 1 then (xs, 0)
    else
      let u := pairUp op xs
      let r := treeOf op n u.1
      (r.1, u.2 ||| r.2)

/-- One step of the log-step scan: element i from those at i − d and i of the step before (R183). -/
def scanStep {α : Type} (op : α → α → α × Nat) (d : Nat) (ys : List α) : List α × Nat :=
  let rs := (ys.take (ys.length - d)).zip (ys.drop d) |>.map fun p => op p.1 p.2
  (ys.take d ++ rs.map Prod.fst, rs.foldl (fun f r => f ||| r.2) 0)

/-- Steps of doubling distance while it is below the length. -/
def scanOf {α : Type} (op : α → α → α × Nat) : Nat → Nat → List α → List α × Nat
  | 0, _, ys => (ys, 0)
  | n + 1, d, ys =>
    if d < ys.length then
      let u := scanStep op d ys
      let r := scanOf op n (2 * d) u.1
      (r.1, u.2 ||| r.2)
    else (ys, 0)

/-- The mode of a reduction's roundings: RND, with DITH ignored (Table 10.3). -/
def rndMode (vs : Word) : RMode :=
  match rndOf vs with
  | 0 => .rne
  | 1 => .rtz
  | 2 => .rdn
  | _ => .rup

/-- x ⊕ y of Table 10.3. -/
def redOp (o : Nat) (vs : Word) (x y : Nat) : Nat × Nat :=
  let v : FEnv := { et := etypeOf vs, sew := sewOf vs, sat := satOf vs, mode := rndMode vs }
  let r := vop (match o with | 0 => .add | 1 => .min | 2 => .max | 3 => .and | 4 => .or | _ => .xor) v x y 0
  (r.v, r.fl)

/-- The identity of an operation (Table 10.3). -/
def redId (o : Nat) (vs : Word) : Nat :=
  let et := etypeOf vs
  let sew := sewOf vs
  match o with
  | 0 => (match fmtOf et with | some f => f.signBit | none => 0)
  | 1 => greatest et sew
  | 2 => least et sew
  | 3 => 2 ^ sew - 1
  | 6 => greatest et sew
  | 7 => least et sew
  | _ => 0

/-- x below y in a type, with −0 below +0. -/
def valLt (vs : Word) (x y : Nat) : Bool :=
  match fmtOf (etypeOf vs) with
  | some f =>
    let a := f.read x
    let b := f.read y
    fvLt a b || (fvEq a b && a.isNeg && !b.isNeg)
  | none => decide (intRead (isSigned (etypeOf vs)) (sewOf vs) x < intRead (isSigned (etypeOf vs)) (sewOf vs) y)

/-- Whether a pattern is a NaN, and a signalling one. -/
def valNan (vs : Word) (x : Nat) : Bool := match fmtOf (etypeOf vs) with | some f => (f.read x).isNan | none => false

def valSnan (vs : Word) (x : Nat) : Bool := match fmtOf (etypeOf vs) with | some f => (f.read x).isSnan | none => false

/-- The value that a NaN does not have. -/
def noIdentity : Nat := 0xFFFFFFFF

/-- The pair of R184: the better value, then the lesser identity. -/
def locOp (o : Nat) (vs : Word) (p q : Nat × Nat) : (Nat × Nat) × Nat :=
  let better := fun x y => if o = 6 then valLt vs x y else valLt vs y x
  (if better p.1 q.1 || (!better q.1 p.1 && decide (p.2 ≤ q.2)) then p else q, 0)

/-- A pair as an operand: a NaN enters as the identity pair. -/
def locIn (o : Nat) (vs : Word) (p : Nat × Nat) : Nat × Nat := if valNan vs p.1 then (redId o vs, noIdentity) else p

/-- NV for a signalling NaN among values. -/
def snanFlags (vs : Word) (xs : List Nat) : Nat := if xs.any (valSnan vs) then flNV else 0

/-- Values of B with the identity in place of masked-off elements. -/
def redIn (e : QEntry) (c : VCtx) (o b m : Nat) : List Nat :=
  (upTo e.vl).map fun i => if maskBit c m i then elemOf e c b i else redId o e.vshape

/-- Pairs of B (R184): masked-off and NaN elements enter as the identity pair. -/
def locList (e : QEntry) (c : VCtx) (o b m : Nat) : List (Nat × Nat) :=
  (upTo e.vl).map fun i =>
    if maskBit c m i then locIn o e.vshape (elemOf e c b i, (c.didx.toNat + i) % 2 ^ 32) else (redId o e.vshape, noIdentity)

/-- A 32-bit identity in bytes 4j to 4j + 3 of a register. -/
def idGet (e : QEntry) (c : VCtx) (r j : Nat) : Nat := elemGet c.vf (rbOf e.cnt) 32 r j

/-- Steps enough for any VL. -/
def redFuel : Nat := 17

/-- Each distinct (major, sub-code, length) executed is noted for the manifest (Table 18.3). -/
def noteTree (major sub len : Nat) (s : State) : State :=
  noteManifest s fun m => { m with tree := recInsert m.tree (toBytes 1 major ++ toBytes 1 sub ++ toBytes 4 len) }

/-- NV of the pairs' values: those of the enabled elements of B and of the initial pair, which counts even where no element is
enabled. DESIGN CHOICE (log 66). -/
def locFlags (e : QEntry) (c : VCtx) (a b m : Nat) : Nat :=
  snanFlags e.vshape (elemOf e c a 0 :: ((upTo e.vl).filter (maskBit c m)).map fun i => elemOf e c b i)

def redBody (d a b : BitVec 5) (o : BitVec 3) (m : BitVec 2) : Body := fun e _ s =>
  let s := noteTree 0x3C o.toNat e.vl s
  let c := s.me.vctx
  let rb := rbOf e.cnt
  let sew := sewOf e.vshape
  let l := lmulOf e.vshape
  if e.vl = 0 then .done s
  else if o.toNat < 6 then
    let t := treeOf (redOp o.toNat e.vshape) redFuel (redIn e c o.toNat b.toNat m.toNat)
    let r := redOp o.toNat e.vshape (elemOf e c a.toNat 0) (t.1.headD 0)
    .done (orFlags (t.2 ||| r.2) (updCtx s fun c' => { c' with vf := elemSet c'.vf rb sew d.toNat 0 r.1 }))
  else
    let t := treeOf (locOp o.toNat e.vshape) redFuel (locList e c o.toNat b.toNat m.toNat)
    let init := locIn o.toNat e.vshape (elemOf e c a.toNat 0, idGet e c (a.toNat + l) 0)
    let r := (locOp o.toNat e.vshape init (t.1.headD (0, 0))).1
    .done (orFlags (locFlags e c a.toNat b.toNat m.toNat) (updCtx s fun c' => { c' with
      vf := elemSet (elemSet c'.vf rb sew d.toNat 0 r.1) rb 32 (d.toNat + l) 0 r.2 }))

/-- Types of Table 10.1 for VRED and VSCAN, and their further registers. -/
def redWrong (scan : Bool) (d a b : BitVec 5) (o : BitVec 3) (c : VCtx) : Bool :=
  let et := etypeOf c.vshape
  let l := lmulOf c.vshape
  let n := nregsOf c.cnt
  let k := if scan then indexRegs c.vshape else 1
  (if 3 ≤ o.toNat && o.toNat ≤ 5 then !isInt et else !(isInt et || isFloat et)) || badGroups c [d, a, b] ||
    (decide (6 ≤ o.toNat) &&
      (decide (n < d.toNat + l + k) || overlap (d.toNat + l) k b.toNat l ||
       decide (n < a.toNat + l + 1) || overlap (a.toNat + l) 1 b.toNat l))

/-- VRED (R181, R182, R184). -/
def execVred (d a b : BitVec 5) (o : BitVec 3) (m : BitVec 2) (k j : BitVec 1) (s : State) : Out :=
  onStrand s (issueVec (.vred d a b o m k j) [d, a, b] (redWrong false d a b o) 0 0 0 (redBody d a b o m) s)

/-- The values of a scan with A's element 0 in front, and the flags of the last combination. -/
def scanOut {α : Type} (op : α → α → α × Nat) (init : α) (on : Nat → Bool) (ys : List α) : List (Nat × α) × Nat :=
  let rs := ((upTo ys.length).zip ys).filterMap fun p => if on p.1 then some (p.1, op init p.2) else none
  (rs.map fun r => (r.1, r.2.1), rs.foldl (fun f r => f ||| r.2.2) 0)

/-- Masked-off elements below VL under MPOL. -/
def maskedOff (e : QEntry) (c : VCtx) (m : Nat) : List Nat :=
  if mpolOf e.vshape then (upTo e.vl).filter (fun i => !maskBit c m i) else []

def scanBody (d a b : BitVec 5) (o : BitVec 3) (m : BitVec 2) : Body := fun e _ s =>
  let s := noteTree 0x3D o.toNat e.vl s
  let c := s.me.vctx
  let rb := rbOf e.cnt
  let sew := sewOf e.vshape
  let l := lmulOf e.vshape
  let z := (maskedOff e c m.toNat).map fun i => (i, zeroOf (etypeOf e.vshape))
  if e.vl = 0 then .done s
  else if o.toNat < 6 then
    let y := scanOf (redOp o.toNat e.vshape) redFuel 1 (redIn e c o.toNat b.toNat m.toNat)
    let r := scanOut (redOp o.toNat e.vshape) (elemOf e c a.toNat 0) (maskBit c m.toNat) y.1
    .done (orFlags (y.2 ||| r.2) (updCtx s fun c' => { c' with vf := elemsSet c'.vf rb sew d.toNat (r.1 ++ z) }))
  else
    let y := scanOf (locOp o.toNat e.vshape) redFuel 1 (locList e c o.toNat b.toNat m.toNat)
    let init := locIn o.toNat e.vshape (elemOf e c a.toNat 0, idGet e c (a.toNat + l) 0)
    let r := (scanOut (locOp o.toNat e.vshape) init (maskBit c m.toNat) y.1).1
    .done (orFlags (locFlags e c a.toNat b.toNat m.toNat) (updCtx s fun c' => { c' with
      vf := elemsSet (elemsSet c'.vf rb sew d.toNat (r.map (fun p => (p.1, p.2.1)) ++ z)) rb 32 (d.toNat + l)
        (r.map (fun p => (p.1, p.2.2)) ++ (maskedOff e c m.toNat).map fun i => (i, 0)) }))

/-- VSCAN (R181, R183, R184). -/
def execVscan (d a b : BitVec 5) (o : BitVec 3) (m : BitVec 2) (k j : BitVec 1) (s : State) : Out :=
  onStrand s (issueVec (.vscan d a b o m k j) [d, a, b] (redWrong true d a b o) 0 0 0 (scanBody d a b o m) s)

/-! ### Histograms and top-k (R185 to R187) -/

def histBody (d b : BitVec 5) (clr wide : BitVec 1) (m : BitVec 2) : Body := fun e _ s =>
  let c := s.me.vctx
  let rb := rbOf e.cnt
  let w := if wide = 0 then 4 else 8
  let digits := ((upTo e.vl).filter (maskBit c m.toNat)).map fun i => elemOf e c b.toNat i % 2 ^ w
  let start := if clr = 1 then elemsSet c.vf rb 32 d.toNat ((upTo (2 ^ w)).map fun j => (j, 0)) else c.vf
  .done (updCtx s fun c' => { c' with
    vf := digits.foldl (fun vf j => elemSet vf rb 32 d.toNat j ((elemGet vf rb 32 d.toNat j + 1) % 2 ^ 32)) start })

/-- VHIST (R185). -/
def execVhist (d b : BitVec 5) (l w : BitVec 1) (m : BitVec 2) (k : BitVec 1) (s : State) : Out :=
  onStrand s (issueVec (.vhist d b l w m k) [d, b]
    (fun c => !isInt (etypeOf c.vshape) || (w == 1 && decide (sewOf c.vshape < 8)) || badGroups c [b] ||
      overlap d.toNat 1 b.toNat (lmulOf c.vshape)) 0 0 0 (histBody d b l w m) s)

/-- An entry placed in order: value descending, then identity ascending (R186). -/
def topInsert (vs : Word) (x : Nat × Nat) : List (Nat × Nat) → List (Nat × Nat)
  | [] => [x]
  | y :: t =>
    if valLt vs y.1 x.1 || (!valLt vs x.1 y.1 && decide (x.2 < y.2)) then x :: y :: t else y :: topInsert vs x t

def topSort (vs : Word) (xs : List (Nat × Nat)) : List (Nat × Nat) := xs.foldl (fun l x => topInsert vs x l) []

/-- The first k entries of a sorted list, padded with (least value, no identity). -/
def topPad (vs : Word) (k : Nat) (xs : List (Nat × Nat)) : List (Nat × Nat) :=
  (upTo k).map fun j => (xs[j]?).getD (least (etypeOf vs) (sewOf vs), noIdentity)

/-- A list written to D and its identities to register D + L. -/
def topWrite (e : QEntry) (d : Nat) (xs : List (Nat × Nat)) (s : State) : State :=
  let is := upTo xs.length
  updCtx s fun c => { c with
    vf := elemsSet (elemsSet c.vf (rbOf e.cnt) (sewOf e.vshape) d (is.zip (xs.map Prod.fst))) (rbOf e.cnt) 32
      (d + lmulOf e.vshape) (is.zip (xs.map Prod.snd)) }

def topkBody (d a b : BitVec 5) (m : BitVec 2) : Body := fun e _ s =>
  let c := s.me.vctx
  let vs := e.vshape
  let on := ((upTo e.vl).filter (maskBit c m.toNat)).map fun i => (elemOf e c b.toNat i, (c.didx.toNat + i) % 2 ^ 32)
  let el := topSort vs (on.filter fun p => !valNan vs p.1)
  let k := e.a.toNat
  let s := orFlags (snanFlags vs (on.map Prod.fst)) (topWrite e d.toNat (topPad vs k el) s)
  doneReg a (word (min k el.length)) s

/-- VTOPK (R186): a k outside 1 to 64 is illegal at the instruction. -/
def execVtopk (d a b : BitVec 5) (m : BitVec 2) (k : BitVec 1) (s : State) : Out :=
  let i := Instr.vtopk d a b m k
  let wrong := fun (c : VCtx) =>
    !(isInt (etypeOf c.vshape) || isFloat (etypeOf c.vshape)) || badGroups c [d, b] ||
      decide (nregsOf c.cnt < d.toNat + lmulOf c.vshape + 1) ||
      overlap (d.toNat + lmulOf c.vshape) 1 b.toNat (lmulOf c.vshape)
  onStrand s (issueVecIf i [d, b] wrong (fun s => decide (1 ≤ (reg s a).toNat ∧ (reg s a).toNat ≤ 64)) (reg s a) 0 0
    (topkBody d a b m) s)

/-- Entries of a list: its values in a group and its identities in the register after it. -/
def topList (e : QEntry) (c : VCtx) (r : Nat) : List (Nat × Nat) :=
  (upTo e.vl).map fun j => (elemOf e c r j, idGet e c (r + lmulOf e.vshape) j)

/-- Entries whose identity equals an earlier one's removed. -/
def dedupe : List (Nat × Nat) → List (Nat × Nat) → List (Nat × Nat)
  | seen, [] => seen.reverse
  | seen, x :: t => if seen.any (fun y => y.2 == x.2) then dedupe seen t else dedupe (x :: seen) t

/-- VTKMRG (R187). A signalling NaN sets NV wherever it stands among the VL entries of either list. DESIGN CHOICE (log 66). -/
def tkmrgBody (d a b : BitVec 5) : Body := fun e _ s =>
  let c := s.me.vctx
  let vs := e.vshape
  let all := topList e c a.toNat ++ topList e c b.toNat
  let u := dedupe [] (all.filter fun p => p.2 != noIdentity && !valNan vs p.1)
  let fl := snanFlags vs (all.map Prod.fst)
  .done (orFlags fl (topWrite e d.toNat (topPad vs e.vl (topSort vs u)) s))

/-- VTKMRG (R187). DEDUCED (log 50). -/
def execVtkmrg (d a b : BitVec 5) (k j : BitVec 1) (s : State) : Out :=
  let wrong := fun (c : VCtx) =>
    let l := lmulOf c.vshape
    let n := nregsOf c.cnt
    !(isInt (etypeOf c.vshape) || isFloat (etypeOf c.vshape)) || decide (64 < c.vlGrant) || decide (c.vlGrant = 0) ||
      badGroups c [d, a, b] || decide (n < d.toNat + l + 1) || decide (n < a.toNat + l + 1) ||
      decide (n < b.toNat + l + 1) || overlap d.toNat (l + 1) b.toNat l
  onStrand s (issueVec (.vtkmrg d a b k j) [d, a, b] wrong 0 0 0 (tkmrgBody d a b) s)

end Sys2Proof.Machine
end

