-- ==== Sys2Proof/Machine/RunSpace.lean ====
section
/-! DEFINITION. Run space (R205 to R207, R293), descriptors and handles (R208 to R211), stored encodings (R171 to R174) and
peer windows (R334). -/

namespace Sys2Proof.Machine

/-! ### Partitions and vaults (R15, R205) -/

/-- Whether hearth group g belongs to the partition of a function (Table 17.1). -/
def mapBit (f : Func) (g : Nat) : Bool := if g < 64 then bit f.map0.toNat g else bit f.map1.toNat (g - 64)

def partGroups (f : Func) : List Nat := (upTo 128).filter (mapBit f)

/-- The partition's number: the least of its hearth groups. -/
def partNo (f : Func) : Nat := (partGroups f).headD 0

/-- The partition's vaults in ascending global number: the four above the cores of each hearth group. -/
def partVaults (f : Func) : List Nat := (partGroups f).flatMap fun g => [4 * g, 4 * g + 1, 4 * g + 2, 4 * g + 3]

/-- A byte of a run: a vault byte by frame × 2^21 + offset with frames numbered vault × 384 + FRAME, a system physical
address, or a byte at a peer by (package × 64 + function) × 2^48 + address. -/
inductive RLoc where
  | vault (k : Nat)
  | host (pa : Nat)
  | peer (k : Nat)
  deriving DecidableEq, Repr

/-- What stops an access to a run at an address: a page that can be served with its cause, or a terminal fault with its page; or
a malformed frame at a byte offset of the run. -/
inductive RFault where
  | page (cause : Nat) (p : PFault) (addr : Nat)
  | term (addr : Nat) (p : PFault)
  | format (off : Nat)
  deriving DecidableEq, Repr

/-- The frame that stands for a frame: itself, or the spare it was retired to (R298). -/
def frameOf (s : State) (k : Nat) : Nat := tget k s.dev.retired k

/-- A level-0 entry of a run page table (R293). -/
def runLeaf (s : State) (v va a page e : Nat) (write : Bool) : Except RFault RLoc :=
  if !bit e 0 then .error (.page 6 ⟨false, false, page⟩ a)
  else if bits e 7 2 ≠ 0 ∨ bits e 63 17 ≠ 0 ∨ 383 < bits e 16 8 ∨ (write = true ∧ bit e 1 = false) then
    .error (.term a ⟨false, false, page⟩)
  else .ok (.vault (frameOf s (v * 384 + bits e 16 8) * 2 ^ 21 + va % 2 ^ 21))

/-- An entry of level 2 or 1: the next table, or the end of the walk. -/
def runNode (a page e : Nat) (next : Nat → Except RFault RLoc) : Except RFault RLoc :=
  if !bit e 0 then .error (.page 6 ⟨false, false, page⟩ a)
  else if bit e 4 then .error (.term a ⟨false, false, page⟩)
  else next (bits e 51 12 * 4096)

/-- The least run-space address of the 2 MiB vault page that holds vault address va of partition vault i of n.
DEDUCED (log 28). -/
def runPage (n i va : Nat) : Nat := (va / 2 ^ 21 * 512 * n + i) * 4096

/-- The walk of R293 for a run-space address of a partition with vaults vs. DESIGN CHOICE (log 33). -/
def runWalk (s : State) (f : Func) (a : Nat) (write : Bool) : Except RFault RLoc :=
  let vs := partVaults f
  let n := vs.length
  let i := a / 4096 % n
  let va := a / 4096 / n * 4096 + a % 4096
  let page := runPage n i va
  let t := readPhys s (tget 0 s.dev.runRoots (partNo f) + 8 * i) 8
  runNode a page (readPhys s (t + 8 * bits va 47 39) 8) fun t =>
    runNode a page (readPhys s (t + 8 * bits va 38 30) 8) fun t =>
      runLeaf s (vs.getD i 0) va a page (readPhys s (t + 8 * bits va 29 21) 8) write

/-- A peer address (R334): its window must be valid, of the function's tenant, long enough and on a link that is up. -/
def peerLoc (s : State) (f : Func) (a : Nat) : Except RFault RLoc :=
  let w := tget Window.reset s.dev.windows (bits a 46 43)
  let o := a % 2 ^ 43
  if w.valid = false ∨ w.tenant ≠ f.tenant ∨ w.size * 2 ^ 21 ≤ o ∨ w.links &&& ~~~s.dev.linksDown = 0 then
    .error (.term a ⟨false, false, a / 2 ^ 21 * 2 ^ 21⟩)
  else .ok (.peer ((w.pkg.toNat * 64 + w.rvf.toNat) * 2 ^ 48 + w.rbase.toNat + o))

/-- The byte at an address of a run: host space under the function's translation, the partition's vaults, or a peer. -/
def runLoc (s : State) (fn : Nat) (host : Bool) (a : Nat) (write : Bool) : Except RFault RLoc :=
  if host then
    match translate s fn a (if write then .store else .load) with
    | .ok pa _ _ _ _ => .ok (.host pa)
    | .retry s2 w addr => .error (.page 5 ⟨s2, w, addr⟩ a)
    | .term p => .error (.term a p)
  else if bit a 47 then peerLoc s (fnOf s fn) a
  else runWalk s (fnOf s fn) a write

def runLocs (s : State) (fn : Nat) (host : Bool) (a n : Nat) (write : Bool) : Except RFault (List RLoc) :=
  (upTo n).mapM fun j => runLoc s fn host (a + j) write

/-- A vault byte that nothing has written since its vault's key was erased or passed to another tenant is unspecified (R310,
R341): a free value for each erasure; else zero (log 1). -/
def vaultDflt (erased : List (Nat × Nat)) (k : Nat) : Byte :=
  match tget 0 erased (k / 2 ^ 21 / 384) with
  | 0 => 0
  | t => Config.freeByte (t * 2 ^ 60 + k)

def rget (s : State) : RLoc → Byte
  | .vault k => cget (vaultDflt s.dev.erased) s.vault k
  | .host pa => cget zeros s.host pa
  | .peer k => cget zeros s.dev.peer k

def rput (s : State) (l : RLoc) (b : Byte) : State :=
  match l with
  | .vault k => { s with vault := cset (vaultDflt s.dev.erased) s.vault k b }
  | .host pa => { s with host := cset zeros s.host pa b }
  | .peer k => { s with dev := { s.dev with peer := cset zeros s.dev.peer k b } }

/-- The faults among the bytes of an access. -/
def faultsAt (s : State) (fn : Nat) (host : Bool) (a n : Nat) (write : Bool) : List RFault :=
  (upTo n).filterMap fun j => match runLoc s fn host (a + j) write with | .error f => some f | .ok _ => none

/-- The distinct pages that can be served, of one cause, among faults. -/
def servable (cause : Nat) (fs : List RFault) : List PFault :=
  (fs.filterMap fun f => match f with | .page c p _ => if c = cause then some p else none | _ => none).eraseDups

/-- n bytes of a run. -/
def runRead (s : State) (fn : Nat) (host : Bool) (a n : Nat) : Except RFault (List Byte) :=
  match runLocs s fn host a n false with
  | .ok ls => .ok (ls.map (rget s))
  | .error f => .error f

/-- Bytes written whole, or none where a page cannot be written. -/
def runWrite (s : State) (fn : Nat) (host : Bool) (a : Nat) (bs : List Byte) : Except RFault State :=
  match runLocs s fn host a bs.length true with
  | .ok ls => .ok ((ls.zip bs).foldl (fun s x => rput s x.1 x.2) s)
  | .error f => .error f

/-- Bytes whose contents a command leaves unspecified (R210, R217, R221): those on pages that can be written take free values.
DESIGN CHOICE (log 35). -/
def scramble (s : State) (fn : Nat) (host : Bool) (a n : Nat) : State :=
  bump ((upTo n).foldl (fun t j =>
    match runLoc s fn host (a + j) true with
    | .ok l => rput t l (Config.freeByte (s.tick * 2 ^ 60 + j))
    | .error _ => t) s)

/-! ### Descriptors (R208 to R210) -/

def Handle.host (h : Handle) : Bool := bit h.base.toNat 63
def Handle.addr (h : Handle) : Nat := field h.base 55 0

def fmtRw (f : Word) : Nat := 8 * 2 ^ field f 1 0
def fmtKw (f : Word) : Nat := if bit f.toNat 2 then 8 else 4
def fmtSorted (f : Word) : Bool := bit f.toNat 3
def fmtDkey (f : Word) : Bool := field f 7 4 == 1

/-- The type byte and offset of value field j, 1 to 3. -/
def fmtType (f : Word) (j : Nat) : Nat := field f (16 * j + 7) (16 * j)
def fmtOff (f : Word) (j : Nat) : Nat := field f (16 * j - 1) (16 * j - 8)

/-- PRESENT of a type byte, its ETYPE and SEW code as VSHAPE holds them, and fw in bits (R208). -/
def tyPresent (t : Nat) : Bool := bit t 7
def tyShape (t : Nat) : Word := word (t % 128)
def tyWidth (t : Nat) : Nat := sewOfType (t % 128)
where
  /-- Table 3.6. -/
  sewOfType (x : Nat) : Nat :=
    match x % 16 with
    | 0 => 4 * 2 ^ (x / 16)
    | 1 => 4 * 2 ^ (x / 16)
    | 2 => 64
    | 3 => 32
    | 4 => 16
    | 5 => 16
    | 8 => 4
    | _ => 8

/-- The bytes that a field occupies. DEDUCED (log 30). -/
def tyBytes (t : Nat) : Nat := (tyWidth t + 7) / 8

/-- A type byte with its offset is assigned, or absent and zero. A present float or Dyad8 type has SEW code 0. -/
def typeOk (f : Word) (j : Nat) : Bool :=
  let t := fmtType f j
  if tyPresent t then
    decide (t % 16 < 10) && (if t % 16 < 2 then decide (1 ≤ t / 16 % 8 ∧ t / 16 % 8 ≤ 4) else t / 16 % 8 == 0)
  else t == 0 && fmtOff f j == 0

/-- A present field lies in the record beyond the key, aligned to its width. -/
def placeOk (f : Word) (j : Nat) : Bool :=
  let t := fmtType f j
  !tyPresent t ||
    (decide (fmtKw f ≤ fmtOff f j ∧ fmtOff f j + tyBytes t ≤ fmtRw f) && fmtOff f j % max 1 (tyWidth t / 8) == 0)

/-- Two present fields share no byte. -/
def apart (f : Word) (i j : Nat) : Bool :=
  !tyPresent (fmtType f i) || !tyPresent (fmtType f j) ||
    decide (fmtOff f i + tyBytes (fmtType f i) ≤ fmtOff f j ∨ fmtOff f j + tyBytes (fmtType f j) ≤ fmtOff f i)

/-- The extent in bytes of a capacity (R210). -/
def extentOf (f : Word) (cap : Nat) : Nat :=
  if fmtDkey f then ceilDiv cap 64 * (272 + 64 * (fmtRw f - fmtKw f)) else cap * fmtRw f

/-- Whether an extent crosses a peer window's boundary or the boundary at 2^47 (R334). -/
def crosses (a n : Nat) : Bool :=
  n != 0 && (if a < 2 ^ 47 then decide (2 ^ 47 < a + n) else a / 2 ^ 43 != (a + n - 1) / 2 ^ 43)

/-- The refusal code of a descriptor's four words, 0 for a valid one (R209, R334). A run-space ADDR with a bit of [55:48] set meets
the limit of the extent alone, code 3. DESIGN CHOICE (log 67). -/
def refusal (w0 w1 w2 w3 : Word) : Nat :=
  let len := field w1 39 0
  let cap := if field w2 39 0 = 0 then len else field w2 39 0
  let host := bit w0.toNat 63
  let a := field w0 55 0
  let e := extentOf w3 cap
  if field w0 62 56 ≠ 0 ∨ field w1 63 40 ≠ 0 ∨ field w2 63 40 ≠ 0 ∨ bit w3.toNat 63 = true ∨ 1 < field w3 7 4 ∨
      (fmtDkey w3 = true ∧ fmtSorted w3 = false) ∨
      !(typeOk w3 1 && typeOk w3 2 && typeOk w3 3 && placeOk w3 1 && placeOk w3 2 && placeOk w3 3 &&
        apart w3 1 2 && apart w3 1 3 && apart w3 2 3) then 2
  else if cap < len ∨ (if host then 2 ^ 56 else 2 ^ 48) < a + e ∨ (host = false ∧ crosses a e = true) then 3
  else if a % 16 ≠ 0 then 4
  else 0

/-- The handle slot that a valid descriptor fills (R211). -/
def fillHandle (part : Nat) (w0 w1 w2 w3 : Word) : Handle :=
  { base := w0, len := field w1 39 0, cap := if field w2 39 0 = 0 then field w1 39 0 else field w2 39 0,
    fmt := word (w3.toNat % 2 ^ 56 + part * 2 ^ 56) }

/-! ### The handle table (R211) -/

/-- gen of a slot: 1 at placement. -/
def genOf (st : Strand) (slot : Nat) : Nat := (cget (fun _ => 1) st.gens slot).toNat

/-- The next gen, from 255 back to 1. -/
def nextGen (g : Nat) : Nat := if g = 255 then 1 else g + 1

/-- The slot that a register value names, where it is a handle. -/
def handleOf (st : Strand) (v : Word) : Option Cap :=
  let slot := v.toNat % 256
  match st.handles.find? fun h => h.1 == slot with
  | none => none
  | some h => if v.toNat < 2 ^ 16 ∧ v.toNat / 256 = genOf st slot then some ⟨slot, genOf st slot, h.2⟩ else none

/-- The least free slot. -/
def freeSlot (st : Strand) : Option Nat := (upTo 256).find? fun k => !thas st.handles k

/-! ### Records (R171 to R174) -/

def recKey (kw : Nat) (r : Rec) : Nat := ofBytes (r.take kw)

/-- Keys of a frame: K0, then each delta added. -/
def frameKeys (k0 w n d : Nat) : List Nat :=
  (upTo (n - 1)).foldl (fun ks j => ks ++ [ks.getLastD 0 + d / 2 ^ (j * w) % 2 ^ w]) [k0]

/-- The DKEY frame at byte off of a run, whose earlier frames hold done records: its records and its length (R172, R173).
DEDUCED (log 29). -/
def frameAt (s : State) (fn : Nat) (h : Handle) (off done : Nat) : Except RFault (List Rec × Nat) :=
  let kw := fmtKw h.fmt
  let rw := fmtRw h.fmt
  let ext := extentOf h.fmt h.cap
  if ext < off + 16 then .error (.format off)
  else
    match runRead s fn h.host (h.addr + off) 16 with
    | .error f => .error f
    | .ok hd =>
      let k0 := ofBytes (hd.take 8)
      let w := ofBytes ((hd.drop 8).take 1)
      let n := ofBytes ((hd.drop 9).take 1)
      let p := 8 * ceilDiv ((n - 1) * w) 64
      let total := (16 + p + n * (rw - kw) + 15) / 16 * 16
      if 32 < w ∨ n = 0 ∨ 64 < n ∨ ofBytes (hd.drop 10) ≠ 0 ∨ ext < off + total ∨ h.len < done + n then .error (.format off)
      else
        match runRead s fn h.host (h.addr + off + 16) (total - 16) with
        | .error f => .error f
        | .ok body =>
          let d := ofBytes (body.take p)
          let ks := frameKeys k0 w n d
          let vals := body.drop p
          if 2 ^ ((n - 1) * w) ≤ d ∨ (ks.any fun k => decide (2 ^ (8 * kw) ≤ k)) = true ∨
              ofBytes (vals.drop (n * (rw - kw))) ≠ 0 then .error (.format off)
          else
            .ok (((upTo n).zip ks).map (fun x => toBytes kw x.2 ++ (vals.drop (x.1 * (rw - kw))).take (rw - kw)), total)

/-- Record j of a DKEY run, its frames read in order; fuel bounds the frames. -/
def dkeyAt (s : State) (fn : Nat) (h : Handle) (j : Nat) : Nat → Nat → Nat → Except RFault Rec
  | 0, off, _ => .error (.format off)
  | n + 1, off, done =>
    match frameAt s fn h off done with
    | .error f => .error f
    | .ok (rs, size) =>
      if j < done + rs.length then .ok (rs.getD (j - done) []) else dkeyAt s fn h j n (off + size) (done + rs.length)

/-- Record j of a run. -/
def recordAt (s : State) (fn : Nat) (h : Handle) (j : Nat) : Except RFault Rec :=
  if fmtDkey h.fmt then dkeyAt s fn h j h.len 0 0
  else runRead s fn h.host (h.addr + j * fmtRw h.fmt) (fmtRw h.fmt)

/-- n records of a run from record j on, as a command reads them, up to the first that cannot be read. -/
def recsFrom (s : State) (fn : Nat) (h : Handle) : Nat → Nat → List Rec × Option RFault
  | 0, _ => ([], none)
  | n + 1, j =>
    match recordAt s fn h j with
    | .error f => ([], some f)
    | .ok r =>
      let t := recsFrom s fn h n (j + 1)
      (r :: t.1, t.2)

/-- Every record of a run. -/
def records (s : State) (fn : Nat) (h : Handle) : Except RFault (List Rec) :=
  match recsFrom s fn h h.len 0 with
  | (rs, none) => .ok rs
  | (_, some f) => .error f

/-- The vaults of a partition of n that the extent of a run in run space lies in (R205); none for a run elsewhere. -/
def vaultsOf (n : Nat) (h : Handle) : List Nat :=
  let e := extentOf h.fmt h.cap
  if h.host || bit h.addr 47 || e == 0 || n == 0 then []
  else (upTo (min n ((h.addr + e - 1) / 4096 + 1 - h.addr / 4096))).map fun j => (h.addr / 4096 + j) % n

/-- The number of bits of n. -/
def bitLen (n : Nat) : Nat := if n = 0 then 0 else Nat.log2 n + 1

/-- Differences of neighbouring keys. -/
def deltas : List Nat → List Nat
  | a :: b :: t => (b - a) :: deltas (b :: t)
  | _ => []

/-- The canonical DKEY frame of up to 64 records with non-decreasing keys (R174). With deltas above 32 bits (log 29) it can be longer than
the bound of R210, and is written past the run's extent. DESIGN CHOICE (log 80). -/
def frameBytes (fmt : Word) (rs : List Rec) : List Byte :=
  let kw := fmtKw fmt
  let ds := deltas (rs.map (recKey kw))
  let w := ds.foldl (fun w d => max w (bitLen d)) 0
  let p := 8 * ceilDiv (ds.length * w) 64
  let d := ds.foldr (fun x acc => x + 2 ^ w * acc) 0
  let bs := toBytes 8 (recKey kw (rs.headD [])) ++ toBytes 1 w ++ toBytes 1 rs.length ++ toBytes 6 0 ++ toBytes p d ++
    rs.flatMap (fun r => r.drop kw)
  bs ++ toBytes ((16 - bs.length % 16) % 16) 0

/-- Groups of 64. -/
def chunks {α : Type} : Nat → List α → List (List α)
  | 0, _ => []
  | n + 1, l => if l.isEmpty then [] else l.take 64 :: chunks n (l.drop 64)

/-- What is written whole to a run: its byte offset, its bytes and how many records it holds. -/
abbrev RUnit := Nat × List Byte × Nat

/-- Units laid one after another from an offset. -/
def layUnits (off : Nat) : List (List Byte × Nat) → List RUnit
  | [] => []
  | x :: t => (off, x.1, x.2) :: layUnits (off + x.1.length) t

/-- The units of a run's records from its start: each record, or each canonical frame. -/
def unitsOf (fmt : Word) (rs : List Rec) : List RUnit :=
  layUnits 0 (if fmtDkey fmt then (chunks rs.length rs).map (fun f => (frameBytes fmt f, f.length)) else rs.map fun r => (r, 1))

end Sys2Proof.Machine
end

