-- ==== Sys2Proof/Machine/Kneader.lean ====
section
/-! DEFINITION. The Kneaders: the checks of a command (R216, R221), its output (R220, R223, R224), its states (Table 12.6)
and its completion (R215 to R217), streams and their faults (R218, R228 to R230). -/

namespace Sys2Proof.Machine

/-- The issuing strand's FIFO q. -/
def fifoOf (st : Strand) (q : Nat) : Fifo := tget Fifo.reset st.fifos q

def updFifo (q : Nat) (f : Fifo → Fifo) (s : State) : State :=
  updMe s fun st => { st with fifos := tset st.fifos q (f (fifoOf st q)) }

/-! ### Checks (R216, R221, R222) -/

/-- A field is an integer of width 8 × KW. -/
def keyLike (f : Word) (j : Nat) : Bool :=
  tyPresent (fmtType f j) && decide (fmtType f j % 16 < 2) && tyWidth (fmtType f j) == 8 * fmtKw f

/-- Equal RW, KW, present-field offsets and types; ENC, SORTED and PART may differ. -/
def sameLayout (f g : Word) : Bool := field f 55 8 == field g 55 8 && field f 2 0 == field g 2 0

/-- The operation and argument of field j in CSPEC0 (Table 12.4). -/
def specOp (c : Word) (j : Nat) : Nat := field c (4 * j - 1) (4 * j - 4)
def specArg (c : Word) (j : Nat) : Nat := field c (2 * j + 11) (2 * j + 10)

/-- Values of CSPEC0 that Table 12.4 accepts. -/
def cspecOk (c : Word) : Bool :=
  field c 63 19 == 0 &&
    [1, 2, 3].all fun j => decide (specOp c j ≤ 10) && ((specArg c j != 0) == (specOp c j == 10))

/-- FP8, FP4 and Dyad8 types. -/
def narrow (t : Nat) : Bool := 6 ≤ t % 16

/-- The combine specification is valid for a layout (R223). DEDUCED (log 31). -/
def specFits (fmt c : Word) : Bool :=
  [1, 2, 3].all fun j =>
    let t := fmtType fmt j
    !tyPresent t ||
      (!(decide (2 ≤ specOp c j ∧ specOp c j ≤ 4) && narrow t) &&
        (specOp c j != 10 || (tyPresent (fmtType fmt (specArg c j)) && !narrow (fmtType fmt (specArg c j)))))

/-- Whether a command delivers groups instead of combining them (R223). -/
def delivers (c : Cmd) : Bool :=
  let mode := bit (c.cspec.headD 0).toNat 18
  match c.kind with
  | .rsort cmb _ => cmb && mode
  | .rmerge cmb _ => cmb && mode
  | _ => false

/-- Whether a command is a read stream. -/
def isReader (c : Cmd) : Bool := (match c.kind with | .rdstr _ => true | _ => false) || delivers c

def isWriter (c : Cmd) : Bool := match c.kind with | .wrstr => true | _ => false

/-- Whether a command combines groups. -/
def combines (c : Cmd) : Bool :=
  match c.kind with
  | .rsort cmb _ => cmb && !delivers c
  | .rmerge cmb _ => cmb && !delivers c
  | .rjoin _ _ => true
  | _ => false

/-- The field that a sort exchanges or a join seeks by, 0 for none. -/
def byField (c : Cmd) : Nat :=
  match c.kind with
  | .rsort _ b => b
  | .rjoin j _ => j
  | _ => 0

/-- The runs that a command writes. -/
def outputs (c : Cmd) : List Cap := if delivers c then [] else c.dsts

def srcFmt (c : Cmd) : Word := match c.srcs with | x :: _ => x.h.fmt | [] => 0

/-- A D of s0 with MODE = 0 (R224). -/
def lacksDst (c : Cmd) : Bool :=
  match c.kind with
  | .rsort _ _ => !delivers c && c.dsts.isEmpty
  | .rmerge _ _ => !delivers c && c.dsts.isEmpty
  | _ => false

def layoutBad (c : Cmd) : Bool :=
  (c.srcs ++ outputs c).any (fun x => !sameLayout x.h.fmt (srcFmt c)) || (byField c != 0 && !keyLike (srcFmt c) (byField c))

def uniqOf (c : Cmd) : Bool := match c.kind with | .rmerge _ u => u | _ => false

def specBad (c : Cmd) : Bool :=
  c.bad == 6 || (combines c && !specFits (srcFmt c) (c.cspec.headD 0)) || (uniqOf c && !tyPresent (fmtType (srcFmt c) 1))

def unsortedBad (c : Cmd) : Bool :=
  let un := fun (x : Cap) => !fmtSorted x.h.fmt
  match c.kind with
  | .rmerge _ _ => c.srcs.any un
  | .rjoin j _ => (c.srcs.drop 1).any un || (j == 0 && (c.srcs.take 1).any un)
  | _ => false

/-- The bytes of the work area that follows the destination's extent (R221). -/
def workSize (c : Cmd) : Nat :=
  let e := match c.dsts with | d :: _ => extentOf d.h.fmt d.h.cap | [] => 0
  let n := match c.srcs with | x :: _ => x.h.len | [] => 0
  match c.kind with
  | .rsort _ _ => if delivers c then 0 else max e (16 * n)
  | .rjoin j _ => if j = 0 then 0 else max e (16 * n)
  | _ => 0

/-- Whether two byte ranges share a byte. -/
def bytesMeet (a n b m : Nat) : Bool := n != 0 && m != 0 && decide (a < b + m) && decide (b < a + n)

def aliasBad (c : Cmd) : Bool :=
  (outputs c).any fun d => c.srcs.any fun x => d.h.host == x.h.host &&
    bytesMeet d.h.addr (extentOf d.h.fmt d.h.cap + workSize c) x.h.addr (extentOf x.h.fmt x.h.cap)

/-- The status that the checks before any write decide, in their order; 0 where all pass (R221). Streams have none. -/
def checkStatus (c : Cmd) : Nat :=
  match c.kind with
  | .rdstr _ => 0
  | .wrstr => 0
  | _ =>
    if c.bad = 7 ∨ lacksDst c = true then 7
    else if layoutBad c then 3
    else if specBad c then 6
    else if unsortedBad c then 2
    else if aliasBad c then 4
    else 0

/-! ### Combining (R223) -/

/-- A record with its side: 0 for a, 1 for b. -/
abbrev Sided := Rec × Nat

/-- Field j of a record, of fw bits. -/
def getField (fmt : Word) (j : Nat) (r : Rec) : Nat :=
  ofBytes ((r.drop (fmtOff fmt j)).take (tyBytes (fmtType fmt j))) % 2 ^ tyWidth (fmtType fmt j)

/-- Bytes of r from offset o replaced. -/
def patch (r : Rec) (o : Nat) (bs : List Byte) : Rec := r.take o ++ bs ++ r.drop (o + bs.length)

def setField (fmt : Word) (j : Nat) (v : Nat) (r : Rec) : Rec :=
  let t := fmtType fmt j
  let old := ofBytes ((r.drop (fmtOff fmt j)).take (tyBytes t))
  patch r (fmtOff fmt j) (toBytes (tyBytes t) (old / 2 ^ tyWidth t * 2 ^ tyWidth t + v % 2 ^ tyWidth t))

/-- ADD, MIN or MAX folded in order, with flags. -/
def foldOp (o : VOp) (t : Nat) : Nat → List Nat → Nat × Nat
  | v, [] => (v, 0)
  | v, x :: xs =>
    let r := vop o { et := t % 16, sew := tyWidth t, sat := false, mode := .rne } v x 0
    let u := foldOp o t r.v xs
    (u.1, r.fl ||| u.2)

/-- The index of the first least value, a NaN counting as greatest. -/
def argMin (t : Nat) : Nat → Nat → Nat → List Nat → Nat
  | _, best, _, [] => best
  | i, best, v, x :: xs =>
    let vs := tyShape t
    if !valNan vs x && (valNan vs v || valLt vs x v) then argMin t (i + 1) i x xs else argMin t (i + 1) best v xs

/-- Field j of the combined record of a group, with flags. -/
def combineField (fmt c : Word) (j : Nat) (g : List Sided) : Nat × Nat :=
  let t := fmtType fmt j
  let vs := g.map fun x => getField fmt j x.1
  let v0 := vs.headD 0
  match specOp c j with
  | 0 => (v0, 0)
  | 1 => (vs.getLastD 0, 0)
  | 2 => foldOp .add t v0 (vs.drop 1)
  | 3 => foldOp .min t v0 (vs.drop 1)
  | 4 => foldOp .max t v0 (vs.drop 1)
  | 5 => ((vs.drop 1).foldl (fun a b => a ||| b) v0, 0)
  | 6 => ((vs.drop 1).foldl (fun a b => a &&& b) v0, 0)
  | 7 => ((vs.drop 1).foldl (fun a b => a ^^^ b) v0, 0)
  | 8 => ((match g.find? (fun x => x.2 == 0) with | some x => getField fmt j x.1 | none => v0), 0)
  | 9 => ((match g.reverse.find? (fun x => x.2 == 1) with | some x => getField fmt j x.1 | none => vs.getLastD 0), 0)
  | _ =>
    let a := specArg c j
    let xs := g.map fun x => getField fmt a x.1
    (vs.getD (argMin (fmtType fmt a) 1 0 (xs.headD 0) (xs.drop 1)) 0, 0)

/-- The combined record of a group, and the flags it raises. -/
def combine (fmt c : Word) (g : List Sided) : Rec × Nat :=
  let r0 := match g with | x :: _ => x.1 | [] => []
  [1, 2, 3].foldl (fun acc j =>
    if tyPresent (fmtType fmt j) then
      let v := combineField fmt c j g
      (setField fmt j v.1 acc.1, acc.2 ||| v.2)
    else acc) (r0, 0)

/-- Records grouped by equal neighbouring keys. -/
def groupKeys (kw : Nat) (xs : List Sided) : List (List Sided) :=
  xs.foldr (fun x gs =>
    match gs with
    | (y :: g) :: t => if recKey kw x.1 = recKey kw y.1 then (x :: y :: g) :: t else [x] :: (y :: g) :: t
    | _ => [x] :: gs) []

/-- A record placed before the first whose key is not less: with foldr, a stable sort. -/
def sortIn (kw : Nat) (x : Sided) : List Sided → List Sided
  | [] => [x]
  | y :: t => if recKey kw x.1 ≤ recKey kw y.1 then x :: y :: t else y :: sortIn kw x t

/-- Ascending key, equal keys in their input order (R220). -/
def sortRecs (kw : Nat) (xs : List Sided) : List Sided := xs.foldr (sortIn kw) []

/-- Key and field b exchanged (RSORT with BY). -/
def exchange (fmt : Word) (b : Nat) (r : Rec) : Rec :=
  let kw := fmtKw fmt
  patch (setField fmt b (recKey kw r) r) 0 (toBytes kw (getField fmt b r))

/-- Records whose key and field 1 equal those of an earlier one of their group dropped. -/
def dropRepeats (fmt : Word) (g : List Sided) : List Sided :=
  g.foldl (fun kept x => if kept.any (fun y => getField fmt 1 y.1 == getField fmt 1 x.1) then kept else kept ++ [x]) []

/-- The record of defaults for an unmatched probe: p's key, and fields from CSPEC1 to CSPEC3. -/
def defaultRec (fmt : Word) (cs : List Word) (p : Rec) : Rec :=
  let r := toBytes (fmtRw fmt) (recKey (fmtKw fmt) p)
  [1, 2, 3].foldl (fun r j => if tyPresent (fmtType fmt j) then setField fmt j (cs.getD j 0).toNat r else r) r

/-- The output of RJOIN for one probe record. -/
def joinOne (fmt : Word) (cs : List Word) (jf : Nat) (left : Bool) (build : List Rec) (p : Rec) : List (Rec × Nat) :=
  let key := if jf = 0 then recKey (fmtKw fmt) p else getField fmt jf p
  let hits := build.filter fun b => recKey (fmtKw fmt) b == key
  let hits := if hits.isEmpty && left then [defaultRec fmt cs p] else hits
  hits.map fun b => combine fmt (cs.headD 0) [(p, 0), (b, 1)]

/-- Groups combined, or records as they are. -/
def foldGroups (fmt : Word) (cs : List Word) (on : Bool) (xs : List Sided) : List (Rec × Nat) :=
  if on then (groupKeys (fmtKw fmt) xs).map (combine fmt (cs.headD 0)) else xs.map fun x => (x.1, 0)

/-- The part of RPART for a key: the number of splitters not above it. -/
def partOf (splitters : List Nat) (key : Nat) : Nat := (splitters.filter fun x => decide (x ≤ key)).length

/-- The output of a command over its sources' records: the destination's number, the record and flags, in order (R220). -/
def output (c : Cmd) (ins : List (List Rec)) : List (Nat × Rec × Nat) :=
  let fmt := srcFmt c
  let kw := fmtKw fmt
  match c.kind with
  | .rsort cmb b =>
    let xs := (ins.headD []).map fun r => (if b = 0 then r else exchange fmt b r, 0)
    (foldGroups fmt c.cspec (cmb && !delivers c) (sortRecs kw xs)).map fun r => (0, r)
  | .rmerge cmb uniq =>
    let xs := ((upTo ins.length).zip ins).flatMap fun x => x.2.map fun r => (r, if x.1 = 0 then 0 else 1)
    let ys := sortRecs kw xs
    let zs := if uniq then (groupKeys kw ys).flatMap (dropRepeats fmt) else ys
    (foldGroups fmt c.cspec (cmb && !delivers c) zs).map fun r => (0, r)
  | .rjoin jf left =>
    ((ins.headD []).flatMap (joinOne fmt c.cspec jf left (ins.getD 1 []))).map fun r => (0, r)
  | .rpart sp => (ins.headD []).map fun r => (partOf sp (recKey kw r), r, 0)
  | .rdstr _ => (ins.headD []).map fun r => (0, r, 0)
  | .wrstr => []

/-- SORTED of the output. -/
def outSorted (c : Cmd) : Bool :=
  match c.kind with
  | .rsort _ _ => true
  | .rmerge _ _ => true
  | .wrstr => c.sorted
  | _ => fmtSorted (srcFmt c)

/-! ### Writing the output -/

/-- The records of the output that its destinations take, with the status of the first that one does not: OVERFLOW beyond a
capacity, ORDER where a DKEY run's keys decrease. got counts what each destination has, with its last key. -/
def letIn (dsts : List Cap) (kw : Nat) : List (Nat × Nat × Nat) → List (Nat × Rec × Nat) → List (Nat × Rec × Nat) × Nat
  | _, [] => ([], 0)
  | got, x :: t =>
    match dsts[x.1]? with
    | none => ([], 0)
    | some d =>
      let g := tget (0, 0) got x.1
      if d.h.cap ≤ g.1 then ([], 1)
      else if fmtDkey d.h.fmt && decide (g.1 ≠ 0) && decide (recKey kw x.2.1 < g.2) then ([], 5)
      else
        let r := letIn dsts kw (tset got x.1 (g.1 + 1, recKey kw x.2.1)) t
        (x :: r.1, r.2)

/-- Units written in order from a run's start until one cannot be: the state, the records written, and what stopped it. -/
def writeUnits (fn : Nat) (h : Handle) : List RUnit → State → Nat → State × Nat × Option RFault
  | [], s, n => (s, n, none)
  | u :: t, s, n =>
    match runWrite s fn h.host (h.addr + u.1) u.2.1 with
    | .ok s => writeUnits fn h t s (n + u.2.2)
    | .error f => (s, n, some f)

/-- Every destination's records written, destination by destination; the records each received. DEDUCED (log 32). -/
def writeAll (fn : Nat) (out : List (Nat × Rec × Nat)) : List (Nat × Cap) → State → State × List Nat × Option RFault
  | [], s => (s, [], none)
  | d :: t, s =>
    let rs := (out.filter fun x => x.1 == d.1).map fun x => x.2.1
    match writeUnits fn d.2.h (unitsOf d.2.h.fmt rs) s 0 with
    | (s, n, none) =>
      let r := writeAll fn out t s
      (r.1, n :: r.2.1, r.2.2)
    | (s, n, some f) => (s, n :: t.map (fun _ => 0), some f)

/-! ### Completion, stalls and moves (R215, R217, R225 to R230) -/

/-- Statuses after which an RWAIT sets LEN and SORTED (R217). -/
def updates (status : Nat) : Bool := [0, 1, 5, 8, 9, 10, 11].contains status

/-- The completion element (Table 12.2). -/
def doneWord (status flags count : Nat) : Word := word (status % 256 * 2 ^ 56 + flags % 64 * 2 ^ 48 + count % 2 ^ 40)

/-- The head command of FIFO q replaced. -/
def putCmd (q : Nat) (c : Cmd) (s : State) : State := updFifo q (fun f => { f with cmds := c :: f.cmds.drop 1 }) s

/-- The device's terminal record of a command: at no strand (R294, R296). -/
def commandTerm (s : State) (p : PFault) (write : Bool) : State := reportTerm s s.me.fn nobody p write false

/-- A page of a run that a peer has refused. -/
def peerPage (a : Nat) : PFault := ⟨false, false, a / 2 ^ 21 * 2 ^ 21⟩

/-- A command's energy: the records of its completion, and the vault beats they took (R308). DESIGN CHOICE (log 61). -/
def countRecords (n : Nat) (s : State) : State := addActivity (addActivity s s.me.fn 3 n) s.me.fn 1 (Config.activity 1 n)

/-- The completion of the head command of FIFO q takes its place behind its records, and its arrival is an event. Where a peer
refused what it wrote, its status is TRANSLATION (R334). -/
def placeDone (q : Nat) (c : Cmd) (w : Word) (upd : List (Nat × Nat × Nat × Bool)) (s : State) : State :=
  let bad := peerRefused s c.writes
  let s := match bad with
    | some i => (match (outputs c)[i]? with | some d => commandTerm s (peerPage d.h.addr) true | none => s)
    | none => s
  let w := if bad.isSome then word (8 * 2 ^ 56 + field w 55 0) else w
  updMe (updFifo q (fun f => { f with cmds := f.cmds.drop 1, res := f.res ++ [.done w upd] })
    (dropAsked (c.reads ++ c.writes) (countRecords (field w 39 0) s))) raiseEv

/-- The head command of FIFO q completes, once the peers to which it wrote have answered (R333, R334). -/
def complete (q : Nat) (c : Cmd) (status flags : Nat) (got : List Nat) (s : State) : State :=
  let total := if (outputs c).isEmpty then c.count else got.foldl (· + ·) 0
  let upd := if updates status then
      ((outputs c).zip got).map fun x => (x.1.slot, x.1.gen, x.2, outSorted c) else []
  let w := doneWord status flags total
  if peersDone s c.writes then placeDone q c w upd s else putCmd q { c with held := some (w, upd) } s

/-- Pages that can be served, of source i: STALL at address a, the pages reported at once as one batch (R225, R228, R229, R296).
DEDUCED (log 24). -/
def stallCmd (q : Nat) (c : Cmd) (cause : Nat) (ps : List PFault) (a i : Nat) (write : Bool) (s : State) : State :=
  let r := reportBatch s s.me.fn (myPlace s) cause ps write false (.command s.me.fn s.me.lseq s.me.gang s.me.lsn q)
  putCmd q { c with phase := .stall, resume := c.phase, addr := a, src := i, cause := cause, faults := ps.eraseDups, batch := r.2 } r.1

/-! ### Bytes left unspecified (R210, R217, R221) -/

/-- The bytes of a run's extent beyond those that its records fill. -/
def spoilTail (fn : Nat) (h : Handle) (used : Nat) (s : State) : State :=
  scramble s fn h.host (h.addr + used) (extentOf h.fmt h.cap - used)

/-- The work area of a command that has one. -/
def spoilWork (c : Cmd) (s : State) : State :=
  match c.dsts with
  | d :: _ => if workSize c = 0 then s else scramble s s.me.fn d.h.host (d.h.addr + extentOf d.h.fmt d.h.cap) (workSize c)
  | [] => s

/-- The bytes that the first n records of a destination's output fill. -/
def filled (fmt : Word) (rs : List Rec) (n : Nat) : Nat :=
  ((unitsOf fmt (rs.take n)).map fun u => u.2.1.length).foldl (· + ·) 0

/-- A command ends before it has written a record: its destinations and work area keep nothing that is specified. The prefix of
Table 12.3 is then empty. DESIGN CHOICE (log 52). -/
def endUnwritten (q : Nat) (c : Cmd) (status : Nat) (s : State) : State :=
  complete q c status 0 ((outputs c).map fun _ => 0)
    (spoilWork c ((outputs c).foldl (fun s d => spoilTail s.me.fn d.h 0 s) s))

/-- The faults that a command meets in reading its sources. -/
def readFaults (s : State) (c : Cmd) : List RFault :=
  c.srcs.flatMap fun x => (upTo x.h.len).flatMap fun j =>
    if fmtDkey x.h.fmt then (match recordAt s s.me.fn x.h j with | .error f => [f] | .ok _ => [])
    else faultsAt s s.me.fn x.h.host (x.h.addr + j * fmtRw x.h.fmt) (fmtRw x.h.fmt) false

/-- The faults that units written from a run's start meet. -/
def unitFaults (s : State) (fn : Nat) (h : Handle) (us : List RUnit) : List RFault :=
  us.flatMap fun u => faultsAt s fn h.host (h.addr + u.1) u.2.1.length true

/-- The faults that a command meets in writing its destinations. -/
def writeFaults (s : State) (c : Cmd) (out : List (Nat × Rec × Nat)) : List RFault :=
  ((upTo c.dsts.length).zip c.dsts).flatMap fun d =>
    unitFaults s s.me.fn d.2.h (unitsOf d.2.h.fmt ((out.filter fun x => x.1 == d.1).map fun x => x.2.1))

/-- The faults of the work area that RSORT and RJOIN use (R221, R224). -/
def workFaults (s : State) (c : Cmd) : List RFault :=
  match c.dsts with
  | d :: _ => faultsAt s s.me.fn d.h.host (d.h.addr + extentOf d.h.fmt d.h.cap) (workSize c) true
  | [] => []

/-- A fault of a read stream in source i: a page stalls it; any other stops it for its consumer. -/
def stopReader (q : Nat) (c : Cmd) (i : Nat) (f : RFault) (s : State) : State :=
  match f with
  | .page cause p a =>
    let all := match c.kind with | .rsort _ _ => servable cause (readFaults s c) | _ => [p]
    stallCmd q c cause all a i false s
  | .term a p => putCmd q { c with fixed := 8, addr := a, src := i } (commandTerm s p false)
  | .format o => putCmd q { c with fixed := 11, addr := o, src := i } s

/-- A fault of a command's reading, or of its work area: a page stalls it; any other ends it with nothing written. -/
def stopPass (q : Nat) (c : Cmd) (ps : List RFault) (write : Bool) (f : RFault) (s : State) : State :=
  match f with
  | .page cause _ a => stallCmd q c cause (servable cause ps) a 0 write s
  | .term _ p => endUnwritten q c 8 (commandTerm s p write)
  | .format _ => endUnwritten q c 11 s

/-- The records of every source. -/
def readAll (s : State) (c : Cmd) : Except RFault (List (List Rec)) := c.srcs.mapM fun x => records s s.me.fn x.h

/-- The records of one destination among the output. -/
def recsOf (out : List (Nat × Rec × Nat)) (d : Nat) : List Rec := (out.filter fun x => x.1 == d).map fun x => x.2.1

/-- The destinations after a command has written: what its records do not fill, and its work area, are unspecified. -/
def spoilRest (c : Cmd) (out : List (Nat × Rec × Nat)) (got : List Nat) (s : State) : State :=
  spoilWork c (((upTo c.dsts.length).zip (c.dsts.zip got)).foldl
    (fun s x => spoilTail s.me.fn x.2.1.h (filled x.2.1.h.fmt (recsOf out x.1) x.2.2) s) s)

/-! ### Runs at peers (R333, R334) -/

def atPeer (x : Cap) : Bool := !x.h.host && bit x.h.addr 47

/-- The record width in which a run's bytes travel: DKEY frames by 8 bytes (log 19). -/
def flitWidth (f : Word) : Nat := if fmtDkey f then 8 else fmtRw f

/-- The bytes of a source that a command reads. -/
def askBytes (h : Handle) : Nat := if fmtDkey h.fmt then extentOf h.fmt h.cap else h.len * fmtRw h.fmt

/-- The window of a run at a peer, a link for it, and where its bytes stand; none where it fails the checks of R334. -/
def peerWay (s : State) (x : Cap) : Option (Window × Nat × Nat) :=
  let w := tget Window.reset s.dev.windows (bits x.h.addr 46 43)
  match linkFor s w, peerLoc s (fnOf s s.me.fn) x.h.addr with
  | some link, .ok (.peer k) => some (w, link, k)
  | _, _ => none

/-- The read request for a source at a peer. -/
def askRead (id : Nat) (s : State) (x : Nat × Cap) : State :=
  match peerWay s x.2 with
  | none => s
  | some (w, link, k) =>
    let tag := fenceTag id x.1
    let width := flitWidth x.2.h.fmt
    let what := [w.pkg.toNat, w.rvf.toNat, k % 2 ^ 48, width, askBytes x.2.h / width]
    addAsked ⟨tag, link, 1, 0, k, width⟩ (linkFlit s.me.fn link 1 0 tag (Config.requestPayload tag what) s)

/-- Bytes written to a run at a peer go there in flits, each of which the peer answers. -/
def askWrite (tag : Nat) (x : Cap) (bs : List Byte) (s : State) : State :=
  match peerWay s x with
  | none => s
  | some (_, link, k) =>
    let width := flitWidth x.h.fmt
    addAsked ⟨tag, link, ceilDiv bs.length (perFlit width * width), 0, k, width⟩
      (sendRecords s.me.fn link 3 tag width bs.length bs s)

/-- The operands of a list that lie at peers, by number. -/
def peerCaps (l : List Cap) : List (Nat × Cap) := ((upTo l.length).zip l).filter fun x => atPeer x.2

/-- A command that is accepted asks the peers for its sources, and takes tags for its destinations there. -/
def askPeers (c : Cmd) (s : State) : Cmd × State :=
  let rs := peerCaps c.srcs
  let ws := peerCaps (outputs c)
  if rs.isEmpty && ws.isEmpty then (c, s)
  else
    let id := s.nextId
    let tags := fun (id : Nat) (l : List (Nat × Cap)) => l.map fun x => (x.1, fenceTag id x.1)
    ({ c with reads := tags id rs, writes := tags (id + 1) ws }, rs.foldl (askRead id) { s with nextId := id + 2 })

/-- What destination d of a command was given is sent to its peer. -/
def sendTo (c : Cmd) (d : Nat) (bs : List Byte) (s : State) : State :=
  match (c.writes.find? fun t => t.1 == d), (outputs c)[d]? with
  | some t, some x => if bs.isEmpty then s else askWrite t.2 x bs s
  | _, _ => s

/-- The bytes of the first n records of a destination's output. -/
def unitBytes (fmt : Word) (rs : List Rec) (n : Nat) : List Byte := (unitsOf fmt (rs.take n)).flatMap fun u => u.2.1

/-- A source whose peer refused its read ends the command, or stops the stream for its consumer. -/
def refusedMove (q : Nat) (c : Cmd) (i : Nat) (s : State) : State :=
  let a := match c.srcs[i]? with | some x => x.h.addr | none => 0
  let s := commandTerm s (peerPage a) false
  if isReader c then putCmd q { c with fixed := 8, addr := a, src := i } s else endUnwritten q c 8 s

/-! ### PASS -/

/-- What each destination was given sent to its peer, where it lies at one. -/
def sendAll (c : Cmd) (out : List (Nat × Rec × Nat)) (got : List Nat) (s : State) : State :=
  ((upTo c.dsts.length).zip (c.dsts.zip got)).foldl (fun s x => sendTo c x.1 (unitBytes x.2.1.h.fmt (recsOf out x.1) x.2.2) s) s

/-- PASS: the whole output is formed from what the sources hold now, written and completed in one move. DESIGN CHOICE (log 53).
FLAGS are those of the combines of the records let in, written or not. DESIGN CHOICE (log 82). -/
def passMove (q : Nat) (c : Cmd) (s : State) : State :=
  match readAll s c with
  | .error f => stopPass q c (readFaults s c) false f s
  | .ok ins =>
    match workFaults s c with
    | f :: fs => stopPass q c (f :: fs) true f s
    | [] =>
      let r := letIn c.dsts (fmtKw (srcFmt c)) [] (output c ins)
      let fl := r.1.foldl (fun a x => a ||| x.2.2) 0
      match writeAll s.me.fn r.1 ((upTo c.dsts.length).zip c.dsts) s with
      | (t, got, none) => complete q c r.2 fl got (spoilRest c r.1 got (sendAll c r.1 got t))
      | (_, _, some (.page cause _ a)) => stallCmd q c cause (servable cause (writeFaults s c r.1)) a 0 true s
      | (t, got, some (.term _ p)) => complete q c 8 fl got (spoilRest c r.1 got (sendAll c r.1 got (commandTerm t p true)))
      | (t, got, some (.format _)) => complete q c 11 fl got (spoilRest c r.1 got (sendAll c r.1 got t))

/-! ### Streams (R213, R218, R228) -/

/-- The number of records waiting in a result FIFO. -/
def waiting (f : Fifo) : Nat := (f.res.filter fun x => match x with | .record _ => true | .done _ _ => false).length

/-- One record delivered to the result FIFO. -/
def deliverRec (q : Nat) (c : Cmd) (r : Rec) (s : State) : State :=
  updMe (updFifo q (fun f => { f with res := f.res ++ [.record r] }) (putCmd q { c with count := c.count + 1 } s)) raiseEv

/-- A merge up to the first record that it cannot name: left counts, for each source that a fault stops, its readable records
not yet taken, and the merge ends at the source that has none left. -/
def mergeTill : List (Nat × Nat) → List Sided → List Sided × Option Nat
  | left, [] => ([], (left.find? fun x => x.2 == 0).map Prod.fst)
  | left, x :: t =>
    match left.find? fun x => x.2 == 0 with
    | some i => ([], some i.1)
    | none =>
      let r := mergeTill (left.map fun y => if y.1 = x.2 then (y.1, y.2 - 1) else y) t
      (x :: r.1, r.2)

/-- What a stream of sorted or merged records can deliver, and the source and the fault that end it (R223, R228). -/
def streamable (s : State) (c : Cmd) : List Rec × Option (Nat × RFault) :=
  let ps := c.srcs.map fun x => recsFrom s s.me.fn x.h x.h.len 0
  let is := (upTo ps.length).zip ps
  let kw := fmtKw (srcFmt c)
  let fault := fun (i : Nat) => (ps[i]?.bind Prod.snd).map fun f => (i, f)
  match c.kind with
  | .rmerge _ uniq =>
    let xs := is.flatMap fun x => x.2.1.map fun r => (r, x.1)
    let r := mergeTill (is.filterMap fun x => x.2.2.map fun _ => (x.1, x.2.1.length)) (sortRecs kw xs)
    let zs := if uniq then (groupKeys kw r.1).flatMap (dropRepeats (srcFmt c)) else r.1
    (zs.map Prod.fst, r.2.bind fault)
  | _ =>
    match is.find? fun x => x.2.2.isSome with
    | some x => ([], fault x.1)
    | none => ((output c (ps.map Prod.fst)).map fun x => x.2.1, none)

/-- STREAM of a read stream: the next record is delivered where the FIFO has room, or after the last the stream completes, whose
element has a place of its own (R213, R218, R225). -/
def readMove (q : Nat) (c : Cmd) (s : State) : Option State :=
  let full := decide (256 ≤ waiting (fifoOf s.me q))
  if c.fixed = 10 then some (complete q c 10 0 [] s)
  else if c.fixed ≠ 0 then none
  else
    match c.kind with
    | .rdstr first =>
      match c.srcs with
      | [] => some (complete q c 0 0 [] s)
      | x :: _ =>
        if x.h.len ≤ first + c.count then some (complete q c 0 0 [] s)
        else if full then none
        else
          match recordAt s s.me.fn x.h (first + c.count) with
          | .ok r => some (deliverRec q c r s)
          | .error f => some (stopReader q c 0 f s)
    | _ =>
      match streamable s c with
      | (rs, stop) =>
        match rs[c.count]?, stop with
        | some r, _ => if full then none else some (deliverRec q c r s)
        | none, some (i, f) => if full then none else some (stopReader q c i f s)
        | none, none => some (complete q c 0 0 [] s)

/-- The records that a write stream writes next: one, or a frame once it is whole or the stream has ended. -/
def nextUnit (c : Cmd) (fmt : Word) : List Rec :=
  if fmtDkey fmt then
    (if 64 ≤ c.pushed.length || c.pushEnd then c.pushed.take 64 else [])
  else c.pushed.take 1

/-- How many of the records a destination takes, and the status of the first that it does not (R216, R218). -/
def takeable (c : Cmd) (h : Handle) (rs : List Rec) : List Rec × Nat :=
  let kw := fmtKw h.fmt
  let got := if c.count = 0 then [] else [(0, c.count, c.lastKey)]
  let r := letIn [⟨0, 0, h⟩] kw got (rs.map fun x => (0, x, 0))
  (r.1.map fun x => x.2.1, r.2)

/-- Whether keys after last never decrease. -/
def nonDecreasing (kw : Nat) : Nat → List Rec → Bool
  | _, [] => true
  | last, r :: t => decide (last ≤ recKey kw r) && nonDecreasing kw (recKey kw r) t

/-- A write stream completes. -/
def endWriter (q : Nat) (c : Cmd) (h : Handle) (s : State) : State :=
  complete q c c.fixed 0 [c.count] (spoilTail s.me.fn h c.off s)

/-- The status of a write stream that a write cannot go on for: ABORT where its strand's streams were drained (R230). -/
def writerStatus (c : Cmd) (status : Nat) : Nat := if c.fixed = 10 then 10 else status

/-- STREAM of a write stream (R218, R228): the next records are written, those it cannot take end its writing, and after
the end of the stream it completes. Once its status is settled it discards what is pushed. DEDUCED (log 27). -/
def writeMove (q : Nat) (c : Cmd) (s : State) : Option State :=
  match c.dsts with
  | [] => none
  | d :: _ =>
    let close := if c.pushEnd then some (endWriter q c d.h s) else none
    if c.fixed ≠ 0 ∧ c.fixed ≠ 10 then
      if !c.pushed.isEmpty then some (putCmd q { c with pushed := [] } s) else close
    else
      match nextUnit c d.h.fmt with
      | [] => close
      | rs =>
        let t := takeable c d.h rs
        let kw := fmtKw d.h.fmt
        let bs := if fmtDkey d.h.fmt then frameBytes d.h.fmt t.1 else t.1.flatten
        let fixed := writerStatus c t.2
        if t.1.isEmpty then some (putCmd q { c with fixed := fixed, pushed := [] } s)
        else
          match runWrite s s.me.fn d.h.host (d.h.addr + c.off) bs with
          | .ok u =>
            some (putCmd q { c with
              count := c.count + t.1.length
              off := c.off + bs.length
              sorted := c.sorted && nonDecreasing kw (if c.count = 0 then 0 else c.lastKey) t.1
              lastKey := recKey kw (t.1.getLastD [])
              fixed := fixed
              pushed := if t.2 = 0 then c.pushed.drop rs.length else [] } (sendTo c 0 bs u))
          | .error (.page cause _ a) =>
            some (stallCmd q c cause (servable cause (unitFaults s s.me.fn d.h [(c.off, bs, t.1.length)])) a 0 true s)
          | .error (.term a p) =>
            some (putCmd q { c with fixed := writerStatus c 8, addr := a, pushed := [] } (commandTerm s p true))
          | .error (.format _) => some (putCmd q { c with fixed := writerStatus c 11, pushed := [] } s)

/-- Whether the runs of a command lie in more than one vault of the partition (R205, Table 12.6). -/
def overVaults (s : State) (c : Cmd) : Bool :=
  let n := (partVaults (fnOf s s.me.fn)).length
  decide (1 < (((c.srcs ++ outputs c).flatMap fun x => vaultsOf n x.h).eraseDups).length)

/-- ACCEPTED: the captured operands are checked (R216, R221), and the command enters its first working state. A sort, or a join
by a field, over more than one vault samples splitters, which affect only timing (Table 12.6, R226). -/
def acceptMove (q : Nat) (c : Cmd) (s : State) : State :=
  if isReader c && c.fixed = 10 then complete q c 10 0 [] s
  else if checkStatus c ≠ 0 then complete q c (checkStatus c) 0 ((outputs c).map fun _ => 0) s
  else
    let next : Phase :=
      if isReader c || isWriter c then .stream
      else match c.kind with
        | .rsort _ _ => if overVaults s c then .sample else .pass
        | .rjoin j _ => if j != 0 && overVaults s c then .sample else .pass
        | _ => .pass
    let a := askPeers c s
    putCmd q { a.1 with phase := next } a.2

/-- A read that waits for its peers. -/
def asksStill (s : State) (c : Cmd) : Bool := !peersDone s c.reads && c.fixed == 0

/-- One move of the head command of FIFO q of the issuing strand; none where it has no move to make. -/
def knead (q : Nat) (s : State) : Option State :=
  match (fifoOf s.me q).cmds with
  | [] => none
  | c :: _ =>
    match c.held with
    | some x => if peersDone s c.writes then some (placeDone q c x.1 x.2 s) else none
    | none =>
      match c.phase with
      | .queued => some (acceptMove q c s)
      | .stall => none
      | .sample => some (putCmd q { c with phase := .pass } s)
      | p =>
        if asksStill s c then none
        else
          match peerRefused s c.reads, c.fixed with
          | some i, 0 => some (refusedMove q c i s)
          | _, _ => if p == .pass then some (passMove q c s) else if isWriter c then writeMove q c s else readMove q c s

/-- Moves of FIFO q until enough holds or none is left. -/
def kneadTill (q : Nat) (enough : Fifo → Bool) : Nat → State → State
  | 0, s => s
  | n + 1, s =>
    if enough (fifoOf s.me q) then s
    else match knead q s with
      | none => s
      | some t => kneadTill q enough n t

/-- Records at the head of a result FIFO, before any completion element. -/
def headRecs : List ResElem → List Rec
  | .record r :: t => r :: headRecs t
  | _ => []

/-- Whether a completion element stands behind the head records. -/
def doneNext (l : List ResElem) : Bool := match l.drop (headRecs l).length with | .done _ _ :: _ => true | _ => false

/-! ### Drains (R230, R282) -/

/-- The commands of a FIFO when its strand's streams are drained: a write stream writes what was pushed and ends with ABORT;
a waiting read stream will end with ABORT. -/
def drainRest (c : Cmd) : Cmd :=
  if isWriter c && !c.pushEnd then
    { c with pushEnd := true, fixed := 10, pushed := if c.fixed = 0 then c.pushed else [] }
  else if isReader c then { c with fixed := 10 }
  else c

/-- One FIFO drained: a running read stream completes at once, with its own status where its fault caused the drain. A WRSTR that
still stands in the stopped queue has opened no stream: WS stays for it. DESIGN CHOICE (log 54). -/
def drainFifo (cause : Option Nat) (q : Nat) (s : State) : State :=
  let f := fifoOf s.me q
  let open' := f.cmds.any fun c => isWriter c && !c.pushEnd
  let queued := s.me.vctx.queue.any fun e => match e.instr with | .wrstr _ k => k.toNat == q && !e.done | _ => false
  let s := updFifo q (fun f => { f with ws := f.ws && (!open' || queued) }) s
  match f.cmds with
  | [] => s
  | c :: t =>
    if isReader c && c.phase != .queued then
      complete q c (if cause = some q ∧ c.fixed ≠ 0 then c.fixed else 10) 0 []
        (updFifo q (fun f => { f with cmds := c :: t.map drainRest }) s)
    else updFifo q (fun f => { f with cmds := f.cmds.map drainRest }) s

/-- Every stream of the strand drained, because of the fault of the stream on a FIFO or of none. -/
def drainStreams (cause : Option Nat) (s : State) : State :=
  (upTo 16).foldl (fun s q => if thas s.me.fifos q then drainFifo cause q s else s) s

/-! ### Acceptance (R84, R96) -/

/-- A command that its engine has accepted. -/
def accepted (c : Cmd) : Bool := c.phase != .queued

/-- Every pushed command has been accepted. In deterministic mode each is, in the turn of its push (R99). DESIGN CHOICE (log 55). -/
def allAccepted (s : State) : Bool := s.me.det || s.me.fifos.all fun f => f.2.cmds.all accepted

/-- Commands kneaded until every pushed one has been accepted, or none can move (R96). -/
def acceptAll (s : State) : State :=
  if allAccepted s then s
  else
    (upTo 16).foldl (fun s q =>
      if thas s.me.fifos q then kneadTill q (fun f => f.cmds.all accepted) whole s else s) s

/-- A release (R94, R95): every earlier access of the strand performed, its pushes accepted where their engines can. -/
def releaseAll (s : State) : State := acceptAll (flushFree s)

end Sys2Proof.Machine
end

