-- ==== Sys2Proof/Machine/Convert.lean ====
section
/-! DEFINITION. Conversions (R139 to R143) and scale instructions (R144, R145). -/

namespace Sys2Proof.Machine

/-- An element type with its width. -/
inductive Ty where
  | int (signed : Bool) (w : Nat)
  | flt (f : Fmt)
  | dyad
  deriving DecidableEq, Repr

def Ty.width : Ty → Nat
  | .int _ w => w
  | .flt f => f.width
  | .dyad => 8

/-- The canonical +0 of a type. -/
def Ty.zero : Ty → Nat
  | .dyad => 0x77
  | _ => 0

/-- The type that VSHAPE names. -/
def tyOf (vs : Word) : Ty :=
  match etypeOf vs with
  | 0 => .int true (sewOf vs)
  | 1 => .int false (sewOf vs)
  | 9 => .dyad
  | et => match fmtOf et with
    | some f => .flt f
    | none => .dyad

def Ty.read : Ty → Nat → FV
  | .int sg w, x => .fin (decide (intRead sg w x < 0)) (intRead sg w x).natAbs 1
  | .flt f, x => f.read x
  | .dyad, x => dyadRead x

/-- resolve(x, dst) of R141 for a value read in src. -/
def convert (src dst : Ty) (sat : Bool) (mode : RMode) (x : Nat) : FR :=
  match src, dst with
  | .int sg w, .int sg' w' => intResolve sg' sat w' (intRead sg w x)
  | s, .int sg w => intFromFloat sg w mode (s.read x)
  | s, .flt f => f.resolve mode (s.read x)
  | s, .dyad => dyadResolve mode (s.read x)

/-- A conversion of Table 7.8: its source and destination types and the group size of D. -/
structure Conv where
  src : Ty
  dst : Ty
  group : Nat
  deriving DecidableEq, Repr

/-- VCVTW (Table 7.8). -/
def convW (vs : Word) (v : Nat) : Option Conv :=
  let l := lmulOf vs
  let w := sewOf vs
  let mk := fun d => some ⟨tyOf vs, d, 2 * l⟩
  match etypeOf vs, v with
  | 0, 0 => if w ≤ 32 then mk (.int true (2 * w)) else none
  | 1, 0 => if w ≤ 32 then mk (.int false (2 * w)) else none
  | 8, 0 => mk (.flt e4m3)
  | 6, 0 => mk (.flt fp16)
  | 7, 0 => mk (.flt fp16)
  | 9, 0 => mk (.flt fp16)
  | 6, 1 => mk (.flt bf16)
  | 7, 1 => mk (.flt bf16)
  | 9, 1 => mk (.flt bf16)
  | 5, 0 => mk (.flt fp32)
  | 4, 0 => mk (.flt fp32)
  | 3, 0 => mk (.flt fp64)
  | _, _ => none

/-- VCVTN (Table 7.8). -/
def convN (vs : Word) (v : Nat) : Option Conv :=
  let l := max 1 (lmulOf vs / 2)
  let w := sewOf vs
  let mk := fun d => some ⟨tyOf vs, d, l⟩
  match etypeOf vs, v with
  | 0, 0 => if 8 ≤ w then mk (.int true (w / 2)) else none
  | 0, 1 => if 8 ≤ w then mk (.int false (w / 2)) else none
  | 1, 0 => if 8 ≤ w then mk (.int false (w / 2)) else none
  | 1, 1 => if 8 ≤ w then mk (.int true (w / 2)) else none
  | 2, 0 => mk (.flt fp32)
  | 3, 0 => mk (.flt fp16)
  | 3, 1 => mk (.flt bf16)
  | 5, 0 => mk (.flt e4m3)
  | 5, 1 => mk (.flt e5m2)
  | 4, 0 => mk (.flt e4m3)
  | 4, 1 => mk (.flt e5m2)
  | 6, 0 => mk (.flt e2m1)
  | 7, 0 => mk (.flt e2m1)
  | _, _ => none

/-- VCVTI: ETYPE names the float side; variants 2 and 3 read an integer (Table 7.8). -/
def convI (vs : Word) (v : Nat) : Option Conv :=
  if isFloat (etypeOf vs) then
    let w := sewOf vs
    match v with
    | 0 => some ⟨tyOf vs, .int true w, lmulOf vs⟩
    | 1 => some ⟨tyOf vs, .int false w, lmulOf vs⟩
    | 2 => some ⟨.int true w, tyOf vs, lmulOf vs⟩
    | 3 => some ⟨.int false w, tyOf vs, lmulOf vs⟩
    | _ => none
  else none

/-- VCVTF4 and VCVTDY take FP32 (Table 7.8). -/
def convF4 (vs : Word) : Option Conv :=
  if etypeOf vs = 3 then some ⟨.flt fp32, .flt e2m1, max 1 (lmulOf vs / 8)⟩ else none

def convDy (vs : Word) : Option Conv :=
  if etypeOf vs = 3 then some ⟨.flt fp32, .dyad, max 1 (lmulOf vs / 4)⟩ else none

/-- The checks of R140, with VL under the source shape (R114). -/
def convWrong (k : Word → Option Conv) (d b : BitVec 5) (c : VCtx) : Bool :=
  match k c.vshape with
  | none => true
  | some x =>
    let l := lmulOf c.vshape
    badGroup c.cnt l b.toNat || badGroup c.cnt x.group d.toNat || overlap d.toNat x.group b.toNat l || overVl c

/-- One element of a conversion (R141). -/
def convElem (x : Conv) (b : BitVec 5) (z : BitVec 2) (bc : BitVec 1) (e : QEntry) (seed : BitVec 32) (c : VCtx) (i : Nat) : FR :=
  convert x.src x.dst (satOf e.vshape) (modeOf e.vshape c seed i) (bVal b z bc e c i)

/-- VCVTW, VCVTN and VCVTI (R141): progress counts source element groups (R143). -/
def convBody (k : Word → Option Conv) (d b : BitVec 5) (q : SMod) : Body := fun e quota s =>
  match k e.vshape with
  | none => .done s
  | some x =>
    groupBody (sewOf e.vshape) e.vl
      (fun e lo hi s => elemLoop (rbOf e.cnt) x.dst.width d.toNat (mpolOf e.vshape) q.m.toNat x.dst.zero
        (convElem x b q.z q.c e s.me.dseed) lo hi s)
      e quota s

/-- VCVTW (R141). -/
def execVcvtw (d b : BitVec 5) (v : BitVec 3) (q : SMod) (s : State) : Out :=
  onStrand s (issueVec (.vcvtw d b v q) [d, b] (convWrong (fun vs => convW vs v.toNat) d b) 0 0 0
    (convBody (fun vs => convW vs v.toNat) d b q) s)

/-- VCVTN (R141). -/
def execVcvtn (d b : BitVec 5) (v : BitVec 3) (q : SMod) (s : State) : Out :=
  onStrand s (issueVec (.vcvtn d b v q) [d, b] (convWrong (fun vs => convN vs v.toNat) d b) 0 0 0
    (convBody (fun vs => convN vs v.toNat) d b q) s)

/-- VCVTI (R141). -/
def execVcvti (d b : BitVec 5) (v : BitVec 3) (q : SMod) (s : State) : Out :=
  onStrand s (issueVec (.vcvti d b v q) [d, b] (convWrong (fun vs => convI vs v.toNat) d b) 0 0 0
    (convBody (fun vs => convI vs v.toNat) d b q) s)

/-! ### Block scales (R142) -/

/-- The FP32 bits of 2^k, for k from −149 to 127. -/
def pow2Bits (k : Int) : Nat := if -126 ≤ k then (k + 127).toNat * 2 ^ 23 else 2 ^ (k + 149).toNat

/-- The greater of two magnitudes. -/
def magMax (x y : Nat × Nat) : Nat × Nat := if x.1 * y.2 < y.1 * x.2 then y else x

/-- |x| with ±∞ counted as 2^128; none for a NaN. -/
def magOf : FV → Option (Nat × Nat)
  | .nan _ => none
  | .inf _ => some (2 ^ 128, 1)
  | .fin _ n d => some (n, d)

/-- pscale of the values of a block (R142): 1.0 for no value or only zeros. -/
def pscale (t : Int) (xs : List FV) : Nat :=
  let mx := (xs.filterMap magOf).foldl magMax (0, 1)
  if mx.1 = 0 then 0x3F800000
  else
    let k := log2Frac mx.1 mx.2 - t
    pow2Bits (if k < -149 then -149 else if 127 < k then 127 else k)

/-- The enabled values of block b. -/
def blockVals (src : Ty) (b : BitVec 5) (z : BitVec 2) (bc : BitVec 1) (m : Nat) (e : QEntry) (c : VCtx) (blk : Nat) : List FV :=
  ((span (blk * blkOf e.vshape) (min e.vl (blk * blkOf e.vshape + blkOf e.vshape))).filter (maskBit c m)).map fun i =>
    src.read (bVal b z bc e c i)

/-- Whether a scale may divide: not zero, negative, infinite or NaN. -/
def usable : FV → Bool
  | .fin neg n _ => !neg && n != 0
  | _ => false

/-- One element of VCVTF4 or VCVTDY under the scale s: the exact quotient, resolved once. -/
def scaledElem (x : Conv) (scale : Nat) (mode : RMode) (v : Nat) : FR :=
  let sv := fp32.read scale
  if usable sv then
    match fvDiv (fp32.read v) sv with
    | .val q => (match x.dst with | .flt f => f.resolve mode q | _ => dyadResolve mode q)
    | .invalid => ⟨x.dst.zero, flNV⟩
  else ⟨x.dst.zero, flNV⟩

/-- The source groups of a unit of progress: with F3 = 0 whole blocks (R143). -/
def blockUnit (v : BitVec 3) (vs : Word) : Nat := if v = 0 then max 1 (blkOf vs / epg (sewOf vs)) else 1

/-- VCVTF4 and VCVTDY (R142, R143): with F3 = 0 each block's scale is computed and written to k[KSEL] before the block is. -/
def blockBody (k : Word → Option Conv) (t : Int) (d b : BitVec 5) (v : BitVec 3) (q : SMod) : Body := fun e quota s =>
  match k e.vshape with
  | none => .done s
  | some x =>
    let ks := kselOf e.vshape
    let blk := blkOf e.vshape
    let unit := blockUnit v e.vshape
    groupBody (sewOf e.vshape) e.vl
      (fun e lo hi s =>
        let c := s.me.vctx
        let scales := if v = 0 then
            scalesSet c.scales ks ((span (lo / blk) (ceilDiv hi blk)).map fun j =>
              (j, pscale t (blockVals (.flt fp32) b q.z q.c q.m.toNat e c j)))
          else c.scales
        let c' := { c with scales := scales }
        let f := fun i => scaledElem x (scaleGet c' ks (i / blk)) (modeOf e.vshape c s.me.dseed i) (bVal b q.z q.c e c i)
        elemLoop (rbOf e.cnt) x.dst.width d.toNat (mpolOf e.vshape) q.m.toNat x.dst.zero (fun _ => f) lo hi (updCtx s fun _ => c'))
      e (ceilDiv (e.prog + quota) unit * unit - e.prog) s

/-- VCVTF4 (R142): target offset 2. -/
def execVcvtf4 (d b : BitVec 5) (v : BitVec 3) (q : SMod) (s : State) : Out :=
  onStrand s (issueVec (.vcvtf4 d b v q) [d, b] (convWrong convF4 d b) 0 0 0 (blockBody convF4 2 d b v q) s)

/-- VCVTDY (R142): target offset 0. -/
def execVcvtdy (d b : BitVec 5) (v : BitVec 3) (q : SMod) (s : State) : Out :=
  onStrand s (issueVec (.vcvtdy d b v q) [d, b] (convWrong convDy d b) 0 0 0 (blockBody convDy 0 d b v q) s)

/-! ### Scale instructions (R144, R145) -/

/-- KSET: FP32 bits copied unchanged. -/
def ksetBody (d b : BitVec 5) : Body := fun e quota s =>
  groupBody (sewOf e.vshape) e.vl (fun e lo hi s =>
    let c := s.me.vctx
    updCtx s fun c' => { c' with
      scales := scalesSet c'.scales d.toNat ((span lo hi).map fun i => (i, elemGet c.vf (rbOf e.cnt) 32 b.toNat i)) }) e quota s

/-- KSET (R144, R145). DEDUCED (log 50). -/
def execKset (d b : BitVec 5) (k : BitVec 1) (s : State) : Out :=
  onStrand s (issueVec (.kset d b k) [b]
    (fun c => etypeOf c.vshape != 3 || decide (4096 < c.vlGrant) || badGroups c [b]) 0 0 0 (ksetBody d b) s)

/-- KMV: `.c` copies scale i to element i; `.x` gives each element its block's scale. -/
def kmvBody (d a b : BitVec 5) (m : BitVec 2) : Body := fun e quota s =>
  let f := fun (c : VCtx) i => (⟨scaleGet c b.toNat (if a = 0 then i else i / blkOf e.vshape), 0⟩ : FR)
  groupBody (sewOf e.vshape) e.vl (fun e lo hi s => elemLoop (rbOf e.cnt) 32 d.toNat (mpolOf e.vshape) m.toNat 0 f lo hi s) e quota s

/-- KMV (R144, R145). DEDUCED (log 50). -/
def execKmv (d a b : BitVec 5) (m : BitVec 2) (s : State) : Out :=
  onStrand s (issueVec (.kmv d a b m) [d]
    (fun c => etypeOf c.vshape != 3 || (a == 0 && decide (4096 < c.vlGrant)) || badGroups c [d]) 0 0 0 (kmvBody d a b m) s)

/-- The target offset of KCALC: E2M1, Dyad8, E4M3, E5M2. -/
def kcalcTarget (a : BitVec 5) : Int :=
  match a.toNat with
  | 0 => 2
  | 1 => 0
  | 2 => 8
  | _ => 15

/-- KCALC (R145), whose unit of progress is whole blocks. DESIGN CHOICE (log 79). -/
def kcalcBody (d a b : BitVec 5) (m : BitVec 2) : Body := fun e quota s =>
  let blk := blkOf e.vshape
  let unit := blockUnit 0 e.vshape
  groupBody (sewOf e.vshape) e.vl (fun e lo hi s =>
    let c := s.me.vctx
    updCtx s fun c' => { c' with
      scales := scalesSet c'.scales d.toNat ((span (lo / blk) (ceilDiv hi blk)).map fun j =>
        (j, pscale (kcalcTarget a) (blockVals (tyOf e.vshape) b 0 0 m.toNat e c j))) })
    e (ceilDiv (e.prog + quota) unit * unit - e.prog) s

/-- KCALC (R144, R145). -/
def execKcalc (d a b : BitVec 5) (m : BitVec 2) (k : BitVec 1) (s : State) : Out :=
  onStrand s (issueVec (.kcalc d a b m k) [b] (fun c => !isFloat (etypeOf c.vshape) || badGroups c [b]) 0 0 0
    (kcalcBody d a b m) s)

end Sys2Proof.Machine
end

