-- ==== Sys2Proof/Machine/LoadStore.lean ====
section
/-! DEFINITION. Scalar loads and stores (R108 to R111), and the accesses that are issued and performed later (R102). -/

namespace Sys2Proof.Machine

def isVfence (i : Instr) : Bool := match i with | .vfence _ => true | _ => false

/-- The queued VFENCEs that a store issued now waits for (R93). -/
def fencesAhead (st : Strand) : Nat := ((st.dumped ++ st.vctx.queue).filter fun e => isVfence e.instr).length

/-! ### Accesses that are performed later (R102, R191) -/

/-- The bits of its own waiting stores that an access of n bytes forwards. -/
def fwdBits (s : State) (l : Loc) (n : Nat) : List PByte := (upTo n).map fun j => forwarded s.me (l.plus j)

/-- Whether they give its whole value. -/
def fwdWhole (ps : List PByte) : Bool := ps.all fun p => p.mask == 0xFF

def lateOf (s : State) (key n : Nat) (fwd : List PByte) (kind : LateKind) : Late :=
  { id := s.nextId, fn := s.me.fn, seq := s.me.lseq, gang := s.me.gang, lsn := s.me.lsn, key := key, n := n, fwd := fwd,
    kind := kind }

/-- Whether an entry touches one of n bytes from k on. -/
def entryMeets (k n : Nat) (x : HStore) : Bool :=
  (match x.late with | some l => overlap l.key l.n k n | none => false) || x.bytes.any fun b => decide (k ≤ b.1 ∧ b.1 < k + n)

/-- Whether an access of n bytes from k on of the scratchpads keeps program order with one that is kept behind a VFENCE (R88). -/
def meetsKept (st : Strand) (k n : Nat) : Bool := st.kept.any (entryMeets k n)

/-- An access of the scratchpads kept behind a number of VFENCEs, or behind an access that is. -/
def keep (held : Nat) (bytes : List (Nat × PByte)) (late : Option Late) (s : State) : State :=
  updMe { s with nextId := s.nextId + 1 } fun st => { st with kept := st.kept ++ [⟨bytes, held, late⟩] }

/-- An access on its way to its point of coherence, behind a number of VFENCEs in the host path (R91). -/
def putAccess (held : Nat) (l : Loc) (n : Nat) (fwd : List PByte) (kind : LateKind) (s : State) : State :=
  match l with
  | .spad k => sendLate (lateOf s k n fwd kind) s
  | .host pa => pathLateAt held (lateOf s pa n [] kind) s

/-- The same, kept back in the scratchpads. -/
def keepAccess (held : Nat) (l : Loc) (n : Nat) (kind : LateKind) (s : State) : State :=
  match l with
  | .spad k => keep held [] (some (lateOf s k n (List.replicate n ⟨0, 0⟩) kind)) s
  | .host pa => pathLateAt held (lateOf s pa n [] kind) s

/-- An access issued as put says, outstanding as p says. -/
def issueLate (put : State → State) (p : Nat → Pend) (s : State) : State :=
  updMe (put s) fun st => { st with out := st.out ++ [p s.nextId] }

/-- An outstanding scalar load, scalar atomic and element of a VAMO. -/
def pendLoad (d : BitVec 5) (id : Nat) : Pend := { id := id, dst := d, load := true, acq := false, vec := false }
def pendAtomic (d : BitVec 5) (acq : Bool) (id : Nat) : Pend := { id := id, dst := d, load := false, acq := acq, vec := false }
def pendElem (id : Nat) : Pend := { id := id, dst := 0, load := false, acq := false, vec := true }

/-- An atomic on its way: the strand's WCB lines that it overlaps drain ahead of it (R88), and in the host path it stands after
every earlier entry (R91). -/
def atomicLater (held n : Nat) (l : Loc) (kind : LateKind) (p : Nat → Pend) (s : State) : State :=
  let s := match l with | .spad k => drainUpTo held (k / 256) s | .host _ => s
  issueLate (putAccess held l n (List.replicate n ⟨0, 0⟩) kind) p s

/-- Whether an atomic has to wait for a queued VFENCE (R93). A handler's does not wait for one that is stopped or dumped, and in
deterministic mode the front end holds it (Machine/Front.lean). -/
def keepsAtomic (s : State) : Bool :=
  decide (0 < fencesAhead s.me) && !s.me.qstop && !s.me.det && !(s.me.hm && !s.me.dumped.isEmpty)

/-- Such an atomic: it has been issued, and waits for the VFENCE in the host path, or before it is sent to its bank. -/
def keepAtomic (n : Nat) (l : Loc) (kind : LateKind) (p : Nat → Pend) (s : State) : State :=
  issueLate (keepAccess (fencesAhead s.me) l n kind) p s

/-! ### LD and ST -/

/-- The effective address (A + displacement) mod 2^64. -/
def effAddr (s : State) (a : BitVec 5) (i : BitVec 12) : Word := reg s a + sext i

/-- Whether a load stands behind an atomic that waits for a VFENCE: one of its bytes, or one of the host path (R88, R91). -/
def behindAtomic (st : Strand) (l : Loc) (n : Nat) : Bool :=
  match l with
  | .spad k => meetsKept st k n
  | .host _ => st.hpath.any bars

/-- Whether a load leaves its value to a later move: it stands behind an atomic that waits, or the agenda defers it (log 2) and its
own waiting stores do not give its value at once (Table 4.3). -/
def loadLater (s : State) (l : Loc) (n : Nat) : Bool :=
  behindAtomic s.me l n || (s.defer && match l with
    | .spad _ => !fwdWhole (fwdBits s l n)
    | .host _ => true)

/-- A load that is performed later: kept with an access of its bytes that is kept, else on its way. -/
def putLoad (l : Loc) (n : Nat) (kind : LateKind) (s : State) : State :=
  let held := fencesAhead s.me
  match l with
  | .spad k => if meetsKept s.me k n then keepAccess held l n kind s else putAccess held l n (fwdBits s l n) kind s
  | .host _ => putAccess held l n [] kind s

/-- LD of every width (R102, R108 to R111). DEDUCED (log 9). -/
def execLd (d a : BitVec 5) (i : BitVec 12) (w : BitVec 3) (s : State) : Out :=
  let e := (effAddr s a i).toNat
  let n := loadSize w
  match resolve s e n .load with
  | .ok l =>
    if loadLater s l n then
      let t := match l with | .spad _ => s | .host _ => cacheWalk s s.me.fn e
      onStrand s (advance (issueLate (putLoad l n (.load d w)) (pendLoad d) t))
    else
      let t := visit s e l
      onStrand s (advance (setReg t d (loadValue w (readLoc t l n))))
  | r => onStrand s (memFault r e false false s)

/-- The displacement that immh and imml hold. -/
def storeDisp (h : BitVec 7) (l : BitVec 5) : BitVec 12 := h ++ l

/-- ST of every width (R93, R102, R108 to R111): one of bytes of an atomic that is kept behind a VFENCE follows it (R88). In
deterministic mode a store that finds all 64 lines taken is a drain point (R99). -/
def execSt (a b : BitVec 5) (h : BitVec 7) (w : BitVec 2) (l : BitVec 5) (s : State) : Out :=
  let e := (effAddr s a (storeDisp h l)).toNat
  let n := 2 ^ w.toNat
  let held := fencesAhead s.me
  match resolve s e n .store with
  | .ok (.spad k) =>
    let bs := (toBytes n (reg s b).toNat).map full
    let put := fun s => advance (wcbPutAt held s k bs)
    onStrand s (
      if meetsKept s.me k n then advance (keep held (cellsAt k bs) none s)
      else if noLine s held k then atDrain (.st a b h w l) put s
      else put s)
  | .ok (.host pa) =>
    onStrand s (advance (hostPutAt held (cacheWalk s s.me.fn e) pa ((toBytes n (reg s b).toNat).map full)))
  | r => onStrand s (memFault r e true false s)

end Sys2Proof.Machine
end

