-- ==== Sys2Proof/Machine/VMem.lean ====
section
/-! DEFINITION. Vector loads and stores (R157 to R170) and MFSET (R163, R166). -/

namespace Sys2Proof.Machine

/-! ### Element addresses and checks (R158, R160) -/

/-- How element addresses are formed (Table 9.2). -/
inductive AForm where
  | unit
  | stride
  | index (b : BitVec 5)
  deriving DecidableEq, Repr

/-- The address of element i, of width sew bits; all address arithmetic is modulo 2^64. -/
def elemAddr (f : AForm) (e : QEntry) (c : VCtx) (sew i : Nat) : Nat :=
  match f with
  | .unit => (e.a.toNat + (if sew = 4 then i / 2 else i * (sew / 8))) % 2 ^ 64
  | .stride => (e.a.toNat + i * e.b.toNat) % 2 ^ 64
  | .index b => (e.a.toNat + idxOf e c b.toNat i) % 2 ^ 64

/-- Check(e) of R160; SEW 4 has no alignment condition. -/
def checkElem (s : State) (sew e : Nat) (a : Acc) : MRes := resolve s e (if sew = 4 then 1 else sew / 8) a

/-- A fault that can be served. -/
def isPage : MRes → Bool
  | .retry _ => true
  | _ => false

def isOk : MRes → Bool
  | .ok _ => true
  | _ => false

def locOf : MRes → Option Loc
  | .ok l => some l
  | _ => none

/-- The stop of a queue instruction at a faulting element (R167, Table 16.2). -/
def vecFault (r : MRes) (e prog : Nat) (write : Bool) (s : State) : VRes :=
  match r with
  | .ok _ => .more s prog
  | .misaligned => .trap s prog 3 (word e)
  | .access => .trap s prog 4 (word e)
  | .retry p => .susp s prog 5 [p] e write
  | .term p => .trap (reportTerm s s.me.fn (myPlace s) p write false) prog 7 (word e)

/-- The bytes that element i of SEW bits stores: at SEW 4 its nibble alone (R161). -/
def elemBytes (sew i x : Nat) : List PByte :=
  if sew = 4 then
    if i % 2 = 0 then [⟨BitVec.ofNat 8 (x % 16), 0x0F⟩] else [⟨BitVec.ofNat 8 (x % 16 * 16), 0xF0⟩]
  else (toBytes (sew / 8) x).map full

def elemSize (sew : Nat) : Nat := if sew = 4 then 1 else sew / 8

/-! ### Element buffers (R81, R87) -/

/-- The value fetched ahead for an element of an entry. -/
def bufVal (c : VCtx) (id i : Nat) : Option Nat :=
  c.bufs.findSome? fun b => if b.entry = id then (b.vals.find? fun p => p.1 == i).map Prod.snd else none

/-- A location as a byte range of n bytes: whether in host space, the first byte and the size. -/
def rangeOf (l : Loc) (n : Nat) : Bool × Nat × Nat :=
  match l with
  | .spad k => (false, k, n)
  | .host pa => (true, pa, n)

/-- Two ranges with a common byte. -/
def rangesMeet (x y : Bool × Nat × Nat) : Bool := x.1 == y.1 && overlap x.2.1 x.2.2 y.2.1 y.2.2

/-- The buffers, which stand in program order, without those of entries behind id that read a byte of one of the ranges: their
groups are fetched again, and so are later ones that read a byte of a discarded group, so that loads keep their order (R87,
R88). -/
def keptBufs (id : Nat) : List (Bool × Nat × Nat) → List ElemBuf → List ElemBuf
  | _, [] => []
  | rs, b :: t =>
    if id < b.entry && b.ranges.any (fun r => rs.any (rangesMeet r)) then keptBufs id (rs ++ b.ranges) t
    else b :: keptBufs id rs t

/-- A store of n bytes at a scratchpad location discards the groups of later loads that read any of them (R87). -/
def discardBufs (id : Nat) (l : Loc) (n : Nat) (s : State) : State :=
  match l with
  | .host _ => s
  | .spad _ => updCtx s fun c => { c with bufs := keptBufs id [rangeOf l n] c.bufs }

/-- Bytes that a load reads only as it executes: later loads read theirs after it (R88). -/
def readAfter (id : Nat) (rs : List (Bool × Nat × Nat)) (s : State) : State :=
  updCtx s fun c => { c with bufs := keptBufs id rs c.bufs }

/-- The buffers of a completed entry are consumed. -/
def dropBufs (id : Nat) (s : State) : State := updCtx s fun c => { c with bufs := c.bufs.filter fun b => b.entry != id }

/-! ### Loads and stores (R161, R167) -/

/-- An element of one pass: its index, address and the outcome of its check. -/
abbrev Elem := Nat × Nat × MRes

/-- The enabled elements among is, with their checks. -/
def elemList (s : State) (e : QEntry) (f : AForm) (sew : Nat) (on : Nat → Bool) (a : Acc) (is : List Nat) : List Elem :=
  (is.filter on).map fun i =>
    let ad := elemAddr f e s.me.vctx sew i
    (i, ad, checkElem s sew ad a)

/-- What the accesses of a list of elements do besides. -/
def visitAll (s : State) (es : List Elem) : State :=
  es.foldl (fun s x => match x.2.2 with | .ok l => visit s x.2.1 l | _ => s) s

/-- The values that elements load. -/
def loadVals (s : State) (e : QEntry) (sew : Nat) (es : List Elem) : List (Nat × Nat) :=
  es.filterMap fun x =>
    match x.2.2 with
    | .ok l =>
      some (x.1, match bufVal s.me.vctx e.id x.1 with
        | some v => v
        | none => elemValue sew x.1 (readLoc s l (elemSize sew)))
    | _ => none

/-- The ranges of the elements whose values are not in a buffer. -/
def unfetched (c : VCtx) (id sew : Nat) (es : List Elem) : List (Bool × Nat × Nat) :=
  es.filterMap fun x =>
    match x.2.2 with
    | .ok l => if (bufVal c id x.1).isSome then none else some (rangeOf l (elemSize sew))
    | _ => none

/-- Whether a store must wait for a drain of the gang: in deterministic mode with all 64 lines taken (R99). -/
def needsDrain (s : State) : Loc → Bool
  | .spad k => s.me.det && wcbFull s k
  | .host _ => false

/-- The element just stored performed before the next one (R90): only an ordered form asks it; in deterministic mode the gang
drain makes every store of a turn visible at once. -/
def performNow (ordered : Bool) (l : Loc) (s : State) : State := if ordered && !s.me.det then beforeAtomic 0 s l else s

/-- The VFENCEs that stand before an entry in the queue: its stores wait for them (R93). -/
def fencesBefore (e : QEntry) (s : State) : Nat := (s.me.vctx.queue.filter fun x => isVfence x.instr && decide (x.id < e.id)).length

/-- Stores made one after another; in deterministic mode one that finds every line taken stands at a drain point. -/
def storeLoop (ordered : Bool) (e : QEntry) : List (Nat × Loc × List PByte) → State → State × Option Nat
  | [], s => (s, none)
  | (k, l, bs) :: t, s =>
    let put := fun s => performNow ordered l (discardBufs e.id l bs.length (storeAt (fencesBefore e s) s l bs))
    if needsDrain s l then
      if alone s then storeLoop ordered e t (put (flushAll s))
      else ({ s with me := { s.me with stand := some e.instr } }, some k)
    else storeLoop ordered e t (put s)

/-- A strand that has had its turn of a drain goes on. -/
def takePermit (s : State) : State := { s with me := { s.me with permit := false, stand := none } }

/-- The last element index that a pass reaches, from progress lo with a number of groups allowed. -/
def passEnd (sew vl lo quota : Nat) : Nat := min vl ((lo / epg sew + quota) * epg sew)

/-- A load that stops at its first faulting element (R161, R167): VLD, VLDS and VLDXO. -/
def loadBody (f : AForm) (d : BitVec 5) (m : BitVec 2) : Body := fun e quota s =>
  let sew := sewOf e.vshape
  let hi := passEnd sew e.vl e.prog quota
  let on := maskBit s.me.vctx m.toNat
  let es := elemList s e f sew on .load (span e.prog hi)
  let bad := es.find? fun x => !isOk x.2.2
  let stop := match bad with | some x => x.1 | none => hi
  let good := es.filter fun x => decide (x.1 < stop)
  let s := visitAll s good
  let vals := loadVals s e sew good
  let s := readAfter e.id (unfetched s.me.vctx e.id sew good) s
  let off := if mpolOf e.vshape then
      ((span e.prog stop).filter fun i => !on i).map fun i => (i, zeroOf (etypeOf e.vshape)) else []
  let s := updCtx s fun c => { c with vf := elemsSet c.vf (rbOf e.cnt) sew d.toNat (vals ++ off) }
  match bad with
  | some x => vecFault x.2.2 x.2.1 stop false s
  | none => if hi = e.vl then .done (dropBufs e.id s) else .more s hi

/-- Whether element i outlasts j where both store to one location: the higher index in deterministic mode; in normal mode
either may (R90, log 6). -/
def outlasts (fixed : Bool) (id i j : Nat) : Bool :=
  if fixed then decide (j < i)
  else decide (Config.elemRank id j < Config.elemRank id i) ||
    (decide (Config.elemRank id j = Config.elemRank id i) && decide (j < i))

/-- An element in host space. -/
def inHost : MRes → Bool
  | .ok (.host _) => true
  | _ => false

/-- The elements that are stored: of those that collide in the scratchpads one, whole (R90); in host space every one, in
ascending index (R91). -/
def survivors (fixed : Bool) (id : Nat) (es : List Elem) : List Elem :=
  es.filter fun x => inHost x.2.2 ||
    (es.filter fun y => y.2.2 == x.2.2 && y.1 != x.1).all fun y => outlasts fixed id x.1 y.1

/-- The stores of a list of elements. -/
def storeList (s : State) (e : QEntry) (sew : Nat) (d : BitVec 5) (es : List Elem) : List (Nat × Loc × List PByte) :=
  es.filterMap fun x =>
    match x.2.2 with
    | .ok l => some (x.1, l, elemBytes sew x.1 (elemOf e s.me.vctx d.toNat x.1))
    | _ => none

/-- The pages that host stores touch may be cached. -/
def cacheAll (s : State) (es : List Elem) : State :=
  es.foldl (fun s x => match x.2.2 with | .ok (.host _) => cacheWalk s s.me.fn x.2.1 | _ => s) s

/-- A store that stops at its first faulting element: VST, VSTS and VSTXO. At SEW 4 two elements share a byte, so every
element of such a store is made; so is every element of an ordered form. -/
def storeBody (f : AForm) (ordered : Bool) (d : BitVec 5) (m : BitVec 2) : Body := fun e quota s =>
  let s := takePermit s
  let sew := sewOf e.vshape
  let hi := passEnd sew e.vl e.prog quota
  let es := elemList s e f sew (maskBit s.me.vctx m.toNat) .store (span e.prog hi)
  let bad := es.find? fun x => !isOk x.2.2
  let stop := match bad with | some x => x.1 | none => hi
  let good := es.filter fun x => decide (x.1 < stop)
  let live := if sew = 4 || f = .unit || ordered then good else survivors s.me.det e.id good
  match storeLoop ordered e (storeList s e sew d live) (cacheAll s good) with
  | (s, some k) => .more s k
  | (s, none) =>
    match bad with
    | some x => vecFault x.2.2 x.2.1 stop true s
    | none => if hi = e.vl then .done s else .more s hi

/-- Type traps of the vector memory instructions (R159). -/
def memWrong (d : BitVec 5) (nibble : Bool) (c : VCtx) : Bool := (!nibble && sewOf c.vshape == 4) || badGroups c [d]

def memIdxWrong (d b : BitVec 5) (c : VCtx) : Bool :=
  memWrong d false c || badGroup c.cnt (indexRegs c.vshape) b.toNat ||
    overlap d.toNat (lmulOf c.vshape) b.toNat (indexRegs c.vshape)

/-- VLD (R158 to R161, R167). -/
def execVld (d a : BitVec 5) (m : BitVec 2) (s : State) : Out :=
  onStrand s (issueVec (.vld d a m) [d] (memWrong d true) (reg s a) 0 0 (loadBody .unit d m) s)

/-- VLDS (R158 to R161, R167). -/
def execVlds (d a b : BitVec 5) (m : BitVec 2) (s : State) : Out :=
  onStrand s (issueVec (.vlds d a b m) [d] (memWrong d false) (reg s a) (reg s b) 0 (loadBody .stride d m) s)

/-- VLDXO (R158 to R162, R167). -/
def execVldxo (d a b : BitVec 5) (m : BitVec 2) (k : BitVec 1) (s : State) : Out :=
  onStrand s (issueVec (.vldxo d a b m k) [d, b] (memIdxWrong d b) (reg s a) 0 0 (loadBody (.index b) d m) s)

/-- VST (R158 to R161, R167). -/
def execVst (d a : BitVec 5) (m : BitVec 2) (s : State) : Out :=
  onStrand s (issueVec (.vst d a m) [d] (memWrong d true) (reg s a) 0 0 (storeBody .unit false d m) s)

/-- VSTS (R158 to R161, R167). -/
def execVsts (d a b : BitVec 5) (m : BitVec 2) (s : State) : Out :=
  onStrand s (issueVec (.vsts d a b m) [d] (memWrong d false) (reg s a) (reg s b) 0 (storeBody .stride false d m) s)

/-- VSTXO (R158 to R162, R167). -/
def execVstxo (d a b : BitVec 5) (m : BitVec 2) (k : BitVec 1) (s : State) : Out :=
  onStrand s (issueVec (.vstxo d a b m k) [d, b] (memIdxWrong d b) (reg s a) 0 0 (storeBody (.index b) true d m) s)

/-! ### VLDFF (R168, R169) -/

/-- VL trimmed to j: the strand's VL and that of every later entry of the same span of program order (R169). -/
def trimVl (e : QEntry) (j : Nat) (s : State) : State :=
  updCtx s fun c => { c with
    vl := if c.vlSpan = e.vlSpan then min c.vl j else c.vl
    queue := c.queue.map fun x => if x.vlSpan = e.vlSpan then { x with vl := min x.vl j } else x }

def vldffBody (d : BitVec 5) (m : BitVec 2) : Body := fun e quota s =>
  let sew := sewOf e.vshape
  let es := elemList s e .unit sew (maskBit s.me.vctx m.toNat) .load (upTo e.vl)
  match es.find? fun x => !isOk x.2.2 with
  | none => loadBody .unit d m e whole s
  | some x =>
    if es.any fun y => decide (y.1 < x.1) then
      match loadBody .unit d m { e with vl := x.1 } whole s with
      | .done s => .done (trimVl e x.1 s)
      | r => r
    else loadBody .unit d m e quota s

/-- VLDFF (R168, R169). -/
def execVldff (d a : BitVec 5) (m : BitVec 2) (s : State) : Out :=
  onStrand s (issueVec (.vldff d a m) [d] (memWrong d true) (reg s a) 0 0 (vldffBody d m) s)

/-! ### Forms that record their faults in m7 (R170) -/

/-- Progress of such a form: twice the elements passed, plus 1 in the m7 pass (log 16). -/
def inM7 (e : QEntry) : Bool := e.prog % 2 == 1

/-- The elements a pass acts on: those of the mask, or those of m7 in an m7 pass. -/
def passOn (e : QEntry) (c : VCtx) (m i : Nat) : Bool := if inM7 e then maskBit c 7 i else maskBit c m i

/-- m7 bits of elements [lo, hi): whether the element is enabled and faulted. -/
def writeM7 (lo hi : Nat) (faulty : Nat → Bool) (s : State) : State :=
  updCtx s fun c => { c with masks := masksSet c.masks 7 ((span lo hi).map fun i => (i, faulty i)) }

/-- Whether element i is among those that fault. -/
def faultyIn (es : List Elem) (i : Nat) : Bool := es.any fun x => x.1 == i && !isOk x.2.2

/-- The page faults of a list of elements, one a page. -/
def pageFaults (es : List Elem) : List PFault := es.filterMap fun x => match x.2.2 with | .retry p => some p | _ => none

/-- The end of a pass, m7 written: with no bit of it set the instruction completes; page faults alone suspend the strand with
one batch; any other fault traps with that of the least element. The instruction then stands at its m7 pass, which follows at
once where every fault has gone meanwhile. -/
def endPass (e : QEntry) (f : AForm) (a : Acc) (s : State) : VRes :=
  let es := elemList s e f (sewOf e.vshape) (maskBit s.me.vctx 7) a (upTo e.vl)
  let write := a == .store
  match es.find? (fun x => !isOk x.2.2 && !isPage x.2.2) with
  | some x => vecFault x.2.2 x.2.1 1 write s
  | none =>
    match es.find? (fun x => !isOk x.2.2) with
    | some x => .susp s 1 5 (pageFaults es) x.2.1 write
    | none => if es.isEmpty then .done s else .more s 1

/-- What follows the elements [lo, hi) of a pass: the next ones, or its end. -/
def nextPass (e : QEntry) (f : AForm) (a : Acc) (hi : Nat) (s : State) : VRes :=
  if hi < e.vl then .more s (2 * hi + e.prog % 2) else endPass e f a s

/-- VLDX (R170). -/
def vldxBody (d b : BitVec 5) (m : BitVec 2) : Body := fun e quota s =>
  let sew := sewOf e.vshape
  let lo := e.prog / 2
  let hi := passEnd sew e.vl lo quota
  let c := s.me.vctx
  let es := elemList s e (.index b) sew (passOn e c m.toNat) .load (span lo hi)
  let s := visitAll s es
  let vals := loadVals s e sew es
  let s := readAfter e.id (unfetched s.me.vctx e.id sew es) s
  let off := if mpolOf e.vshape && !inM7 e then
      ((span lo hi).filter fun i => !maskBit c m.toNat i).map fun i => (i, zeroOf (etypeOf e.vshape)) else []
  let s := updCtx s fun c => { c with vf := elemsSet c.vf (rbOf e.cnt) sew d.toNat (vals ++ off) }
  let s := writeM7 lo hi (faultyIn es) s
  nextPass e (.index b) .load hi (if hi < e.vl then s else dropBufs e.id s)

/-- VSTX (R170). A drain point in the middle of a pass records the m7 bits of the elements already passed. -/
def vstxBody (d b : BitVec 5) (m : BitVec 2) : Body := fun e quota s =>
  let s := takePermit s
  let sew := sewOf e.vshape
  let lo := e.prog / 2
  let hi := passEnd sew e.vl lo quota
  let es := elemList s e (.index b) sew (passOn e s.me.vctx m.toNat) .store (span lo hi)
  let live := survivors s.me.det e.id es
  match storeLoop false e (storeList s e sew d live) (cacheAll s es) with
  | (s, some k) => .more (writeM7 lo k (faultyIn es) s) (2 * k + e.prog % 2)
  | (s, none) => nextPass e (.index b) .store hi (writeM7 lo hi (faultyIn es) s)

/-- VLDX (R158 to R162, R170). -/
def execVldx (d a b : BitVec 5) (m : BitVec 2) (k : BitVec 1) (s : State) : Out :=
  onStrand s (issueVec (.vldx d a b m k) [d, b] (memIdxWrong d b) (reg s a) 0 0 (vldxBody d b m) s)

/-- VSTX (R158 to R162, R170). -/
def execVstx (d a b : BitVec 5) (m : BitVec 2) (k : BitVec 1) (s : State) : Out :=
  onStrand s (issueVec (.vstx d a b m k) [d, b] (memIdxWrong d b) (reg s a) 0 0 (vstxBody d b m) s)

/-! ### Segments (R163 to R165) -/

/-- Values of MFCR that R163 accepts. -/
def mfcrOk (v : Word) : Bool := field v 63 40 == 0 && (upTo 8).all fun j => decide (field v (4 * j + 3) (4 * j) < 11)

/-- MTf. -/
def mtOf (mfcr : Word) (f : Nat) : Nat := field mfcr (4 * f + 3) (4 * f)

/-- mw of a memory type (Table 9.4). -/
def mtWidth (sew mt : Nat) : Nat :=
  match mt with
  | 0 => sew / 8
  | 1 | 9 | 10 => 1
  | 2 | 7 | 8 => 2
  | 3 | 6 => 4
  | _ => 8

/-- Memory types allowed with an ETYPE (Table 9.4). -/
def mtAllowed (et sew mt : Nat) : Bool :=
  if mt = 0 then decide (8 ≤ sew)
  else if mt ≤ 4 then isInt et
  else isFloat et || et == 6 || et == 7

/-- The type that a memory type names. -/
def mtTy (vs : Word) (mt : Nat) : Ty :=
  match mt with
  | 0 => tyOf vs
  | 1 => .int (isSigned (etypeOf vs)) 8
  | 2 => .int (isSigned (etypeOf vs)) 16
  | 3 => .int (isSigned (etypeOf vs)) 32
  | 4 => .int (isSigned (etypeOf vs)) 64
  | 5 => .flt fp64
  | 6 => .flt fp32
  | 7 => .flt fp16
  | 8 => .flt bf16
  | 9 => .flt e4m3
  | _ => .flt e5m2

/-- cin and cout: bits unchanged for one type, else the value resolved (R165). -/
def fieldConv (src dst : Ty) (sat : Bool) (mode : RMode) (x : Nat) : FR :=
  if src = dst then ⟨x, 0⟩ else convert src dst sat mode x

/-- The offset of field f in a record. -/
def segOff (e : QEntry) (f : Nat) : Nat :=
  (upTo f).foldl (fun o g => o + mtWidth (sewOf e.vshape) (mtOf e.mfcr g)) 0

/-- RS of k fields. -/
def recSize (e : QEntry) (k : Nat) : Nat := segOff e k + field e.mfcr 39 32

/-- The checks of an element's fields, field 0 first: the first that fails, or every location. -/
def segCheck (s : State) (e : QEntry) (k i : Nat) (a : Acc) : Nat × MRes × List Loc :=
  let rs := (upTo k).map fun f =>
    let ad := (e.a.toNat + i * recSize e k + segOff e f) % 2 ^ 64
    (ad, resolve s ad (mtWidth (sewOf e.vshape) (mtOf e.mfcr f)) a)
  match rs.find? (fun x => !isOk x.2) with
  | some x => (x.1, x.2, [])
  | none => ((rs.headD (0, .access)).1, .ok (.spad 0), rs.filterMap fun x => locOf x.2)

/-- An element of a segment instruction: its index, the address and outcome of its check, and its fields' locations. -/
abbrev SElem := Nat × Nat × MRes × List Loc

def segList (s : State) (e : QEntry) (k : Nat) (on : Nat → Bool) (a : Acc) (is : List Nat) : List SElem :=
  (is.filter on).map fun i => (i, segCheck s e k i a)

/-- Each field of the elements, with its address' location. -/
def segFields (es : List SElem) : List (Nat × Nat × Loc) :=
  es.flatMap fun x => ((upTo x.2.2.2.length).zip x.2.2.2).map fun p => (x.1, p.1, p.2)

/-- The address of field f of record i. -/
def segAddr (e : QEntry) (k i f : Nat) : Nat := (e.a.toNat + i * recSize e k + segOff e f) % 2 ^ 64

/-- The number of field f of element i in an element buffer. -/
def segKey (i f : Nat) : Nat := 8 * i + f

/-- The pages that the fields touch may be cached. -/
def segCache (e : QEntry) (k : Nat) (es : List SElem) (s : State) : State :=
  (segFields es).foldl (fun s x =>
    match x.2.2 with | .host _ => cacheWalk s s.me.fn (segAddr e k x.1 x.2.1) | .spad _ => s) s

/-- VLDSEG (R165, R167). -/
def ldsegBody (d : BitVec 5) (n : BitVec 3) (m : BitVec 2) : Body := fun e quota s =>
  let sew := sewOf e.vshape
  let l := lmulOf e.vshape
  let k := n.toNat + 1
  let hi := passEnd sew e.vl e.prog quota
  let c := s.me.vctx
  let on := maskBit c m.toNat
  let es := segList s e k on .load (span e.prog hi)
  let bad := es.find? fun x => !isOk x.2.2.1
  let stop := match bad with | some x => x.1 | none => hi
  let good := es.filter fun x => decide (x.1 < stop)
  let fs := segFields good
  let s := fs.foldl (fun s x => visit s (segAddr e k x.1 x.2.1) x.2.2) s
  let mw := fun f => mtWidth sew (mtOf e.mfcr f)
  let kept := fun x : Nat × Nat × Loc => bufVal s.me.vctx e.id (segKey x.1 x.2.1)
  let res := fs.map fun x =>
    let mt := mtOf e.mfcr x.2.1
    let v := (kept x).getD (ofBytes (readLoc s x.2.2 (mw x.2.1)))
    (x.1, x.2.1, fieldConv (mtTy e.vshape mt) (tyOf e.vshape) (satOf e.vshape) (modeOf e.vshape c s.me.dseed x.1) v)
  let s := readAfter e.id ((fs.filter fun x => (kept x).isNone).map fun x => rangeOf x.2.2 (mw x.2.1)) s
  let off := if mpolOf e.vshape then (span e.prog stop).filter fun i => !on i else []
  let vf := res.foldl (fun vf r => elemSet vf (rbOf e.cnt) sew (d.toNat + r.2.1 * l) r.1 r.2.2.v) s.me.vctx.vf
  let vf := off.foldl (fun vf i => (upTo k).foldl (fun vf f =>
    elemSet vf (rbOf e.cnt) sew (d.toNat + f * l) i (zeroOf (etypeOf e.vshape))) vf) vf
  let s := orFlags (res.foldl (fun fl r => fl ||| r.2.2.fl) 0) (updCtx s fun c => { c with vf := vf })
  match bad with
  | some x => vecFault x.2.2.1 x.2.1 stop false s
  | none => if hi = e.vl then .done (dropBufs e.id s) else .more s hi

/-- The stores of a list of segment elements, with the flags of each element's conversions. -/
def segStores (s : State) (e : QEntry) (d : BitVec 5) (es : List SElem) : List (Nat × Loc × List PByte × Nat) :=
  let c := s.me.vctx
  (segFields es).map fun x =>
    let mt := mtOf e.mfcr x.2.1
    let r := fieldConv (tyOf e.vshape) (mtTy e.vshape mt) (satOf e.vshape) (modeOf e.vshape c s.me.dseed x.1)
      (elemOf e c (d.toNat + x.2.1 * lmulOf e.vshape) x.1)
    (x.1, x.2.2, (toBytes (mtWidth (sewOf e.vshape) mt) r.v).map full, r.fl)

/-- VSTSEG (R165, R167). A stop at a drain point lies before a whole element. -/
def stsegBody (d : BitVec 5) (n : BitVec 3) (m : BitVec 2) : Body := fun e quota s =>
  let s := takePermit s
  let sew := sewOf e.vshape
  let k := n.toNat + 1
  let hi := passEnd sew e.vl e.prog quota
  let es := segList s e k (maskBit s.me.vctx m.toNat) .store (span e.prog hi)
  let bad := es.find? fun x => !isOk x.2.2.1
  let stop := match bad with | some x => x.1 | none => hi
  let st := segStores s e d (es.filter fun x => decide (x.1 < stop))
  let flags := fun (hi : Nat) => st.foldl (fun fl x => if x.1 < hi then fl ||| x.2.2.2 else fl) 0
  match storeLoop false e (st.map fun x => (x.1, x.2.1, x.2.2.1)) (segCache e k es s) with
  | (s, some j) => .more (orFlags (flags j) s) j
  | (s, none) =>
    let s := orFlags (flags stop) s
    match bad with
    | some x => vecFault x.2.2.1 x.2.1 stop true s
    | none => if hi = e.vl then .done s else .more s hi

/-- Type traps of the segment instructions (R159, R164, R165). -/
def segWrong (d : BitVec 5) (n : BitVec 3) (c : VCtx) : Bool :=
  let l := lmulOf c.vshape
  let sew := sewOf c.vshape
  sew == 4 || (upTo (n.toNat + 1)).any (fun f => !mtAllowed (etypeOf c.vshape) sew (mtOf c.mfcr f)) ||
    d.toNat % l != 0 || decide (nregsOf c.cnt < d.toNat + (n.toNat + 1) * l) || overVl c

/-- VLDSEG (R163 to R167). -/
def execVldseg (d a : BitVec 5) (n : BitVec 3) (m : BitVec 2) (s : State) : Out :=
  onStrand s (issueVec (.vldseg d a n m) [d] (segWrong d n) (reg s a) 0 0 (ldsegBody d n m) s)

/-- VSTSEG (R163 to R167). -/
def execVstseg (d a : BitVec 5) (n : BitVec 3) (m : BitVec 2) (s : State) : Out :=
  onStrand s (issueVec (.vstseg d a n m) [d] (segWrong d n) (reg s a) 0 0 (stsegBody d n m) s)

/-- MFSET keeps its place in the queue; MFCR takes its value in program order, at issue (R166). -/
def placeBody : Body := fun _ _ s => .done s

/-- MFSET (R163, R166): a refused value raises "illegal instruction" after the checks of R78. -/
def execMfset (a : BitVec 5) (s : State) : Out :=
  let i := Instr.mfset a
  onStrand s (match vecChecks i [] anyType s with
    | some (cause, tval) => trapFront cause tval s
    | none =>
      if mfcrOk (reg s a) then enter i (reg s a) 0 0 placeBody (updCtx s fun c => { c with mfcr := reg s a })
      else trapFront 1 (word (encodeNat i)) s)

end Sys2Proof.Machine
end

