-- ==== Sys2Proof/Machine/Runs.lean ====
section
/-! DEFINITION. The instructions on runs and engine FIFOs (R211 to R219, R222, R224). A command captures its handles and
CSPEC when it leaves the queue, in program order; the checks at issue count what still stands in the queue. -/

namespace Sys2Proof.Machine

/-! ### Issue -/

/-- A vector-queue instruction with further checks at issue after those of R78, and an effect that program order gives it
at issue. -/
def issueWith (i : Instr) (regs : List (BitVec 5)) (wrong : VCtx → Bool) (more : State → Option (Nat × Word))
    (upd : State → State) (a b d : Word) (body : Body) (s : State) : State :=
  match vecChecks i regs wrong s with
  | some (cause, tval) => trapFront cause tval s
  | none =>
    match more s with
    | some (cause, tval) => trapFront cause tval s
    | none => enter i a b d body (upd s)

/-- The first of two checks that fails. -/
def first (x y : Option (Nat × Word)) : Option (Nat × Word) := match x with | some c => some c | none => y

/-- Whether an RCLOSE of a handle stands in the queue: in program order the handle is closed (R211). -/
def closing (st : Strand) (v : Word) : Bool :=
  st.vctx.queue.any fun e => match e.instr with | .rclose _ => e.a == v | _ => false

/-- R211: a register value that is no handle, as program order leaves the table, raises "access fault" with the value. -/
def badHandle (s : State) (v : Word) : Option (Nat × Word) :=
  match handleOf s.me v with
  | some _ => if closing s.me v then some (4, v) else none
  | none => some (4, v)

/-- R213 for a command. -/
def fifoBusy (s : State) (q : Nat) : Option (Nat × Word) :=
  if (fifoOf s.me q).ws || decide (16 ≤ (fifoOf s.me q).out) then some (0x11, 0) else none

/-- R213 for QPOP and RWAIT. -/
def fifoIdle (s : State) (q : Nat) : Option (Nat × Word) :=
  if (fifoOf s.me q).ws || (fifoOf s.me q).out == 0 then some (0x11, 0) else none

/-- OUT and WS after a command's issue (R213). -/
def countOut (q : Nat) (write : Bool) (s : State) : State := updFifo q (fun f => { f with out := f.out + 1, ws := f.ws || write }) s

/-! ### Scratchpad operands (R212, R222, R224) -/

/-- The check of one unit: scratchpad regions only. -/
def padUnit (s : State) (e n : Nat) : MRes :=
  if e < hostSize then .access else if e % n ≠ 0 then .misaligned else reach s e .load

/-- count units of n bytes at e, which must be a multiple of 8, read as vector-queue loads: the first that fails with its
address, or the bytes. A host-space address is judged before its alignment. DESIGN CHOICE (log 72). -/
def padRead (s : State) (e n count : Nat) : Except (Nat × MRes) (List Byte) :=
  if hostSize ≤ e ∧ e % 8 ≠ 0 then .error (e, .misaligned)
  else
    let us := (upTo count).map fun j => let a := (e + n * j) % 2 ^ 64; (a, padUnit s a n)
    match us.find? (fun x => !isOk x.2) with
    | some x => .error x
    | none => .ok (us.flatMap fun x => match x.2 with | .ok l => readLoc (settle s) l n | _ => [])

/-- Word k of bytes. -/
def wordAt (bs : List Byte) (k : Nat) : Word := word (ofBytes ((bs.drop (8 * k)).take 8))

/-! ### Handles (R212) -/

def ropenBody (d : BitVec 5) : Body := fun e _ s =>
  match padRead s e.a.toNat 8 4 with
  | .error (ad, r) => vecFault r ad 0 false s
  | .ok bs =>
    let s := settle s
    match freeSlot s.me with
    | none => doneReg d (0 - 1) s
    | some slot =>
      let c := refusal (wordAt bs 0) (wordAt bs 1) (wordAt bs 2) (wordAt bs 3)
      if c ≠ 0 then doneReg d (0 - word c) s
      else
        let h := fillHandle (partNo (fnOf s s.me.fn)) (wordAt bs 0) (wordAt bs 1) (wordAt bs 2) (wordAt bs 3)
        doneReg d (word (genOf s.me slot * 256 + slot)) (updMe s fun st => { st with handles := tset st.handles slot h })

/-- ROPEN (R208 to R212). -/
def execRopen (d a : BitVec 5) (s : State) : Out :=
  onStrand s (issueVec (.ropen d a) [] anyType (reg s a) 0 0 (ropenBody d) s)

/-- A slot freed, its gen advanced (R211). -/
def closeSlot (slot : Nat) (st : Strand) : Strand :=
  { st with
    handles := tdel st.handles slot
    gens := cset (fun _ => 1) st.gens slot (BitVec.ofNat 8 (nextGen (genOf st slot))) }

def rcloseBody : Body := fun e _ s => .done (updMe s (closeSlot (e.a.toNat % 256)))

/-- RCLOSE (R211, R212). -/
def execRclose (a : BitVec 5) (s : State) : Out :=
  onStrand s (issueWith (.rclose a) [] anyType (fun s => badHandle s (reg s a)) id (reg s a) 0 0 rcloseBody s)

/-- What RSTAT reads (R212). -/
def statOf (o : Nat) (h : Handle) : Word :=
  match o with
  | 0 => word h.len
  | 1 => h.fmt
  | 2 => h.base
  | _ => word h.cap

def rstatBody (d : BitVec 5) (o : BitVec 3) : Body := fun e _ s =>
  match handleOf s.me e.a with
  | some c => doneReg d (statOf o.toNat c.h) s
  | none => .done s

/-- RSTAT (R211, R212). -/
def execRstat (d a : BitVec 5) (o : BitVec 3) (s : State) : Out :=
  onStrand s (issueWith (.rstat d a o) [] anyType (fun s => badHandle s (reg s a)) id (reg s a) 0 0 (rstatBody d o) s)

/-! ### Pushes of commands (R96, R99, R214, R218, R224) -/

/-- A command as it is pushed. -/
def newCmd (s : State) (k : CmdKind) (srcs dsts : List Cap) (bad : Nat) : Cmd :=
  { kind := k, srcs := srcs, dsts := dsts, cspec := s.me.cspec.toList, bad := bad, phase := .queued, count := 0,
    pushed := [], pushEnd := false, sorted := true, lastKey := 0, addr := 0, src := 0, cause := 0, faults := [],
    resume := .queued, off := 0, fixed := 0, batch := (0, 0), reads := [], writes := [], held := none }

/-- The FORMAT word of the run that a command streams (R219): that of its first valid source, else of its destination, else 0.
DESIGN CHOICE (log 81). -/
def concerned (c : Cmd) : Word := match c.srcs ++ c.dsts with | x :: _ => x.h.fmt | [] => 0

/-- A command at the end of its FIFO. In deterministic mode the engine accepts it at once (R96, R99), unless an earlier command
of the FIFO has not completed: it then waits, as R214 gives. DESIGN CHOICE (log 55). -/
def appendCmd (q : Nat) (c : Cmd) (s : State) : State :=
  let rd := match c.kind with | .rdstr _ => true | _ => false
  let s := updFifo q (fun f => { f with cmds := f.cmds ++ [c], unpopped := f.unpopped ++ [(rd, concerned c)] }) s
  if s.me.det && (fifoOf s.me q).cmds.length == 1 then acceptMove q c s else s

/-- The commands on runs, which use their handles and CSPEC as they stand at the push in program order (R214). -/
def isCommand (i : Instr) : Bool :=
  match i with
  | .rdstr _ _ _ | .wrstr _ _ | .rsort _ _ _ _ _ | .rmerge _ _ _ _ _ _ _ | .rjoin _ _ _ _ _ _ | .rpart _ _ _ => true
  | _ => false

/-- CSPEC as it stood at the push in program order (R214). -/
def withSpec (e : QEntry) (c : Cmd) : Cmd := match e.spec with | some v => { c with cspec := v.toList } | none => c

/-- A push: a drain point and a release; what it reads at the push may fault. -/
def pushBody (q : BitVec 4) (mk : QEntry → State → Except (Nat × MRes) Cmd) : Body := fun e _ s =>
  queueDrain e (fun s =>
    let s := flushFree (completeOut s)
    match mk e s with
    | .error (ad, r) => vecFault r ad 0 false s
    | .ok c => .done (appendCmd q.toNat (withSpec e c) s)) s

/-- The handles that values name, those that name none left out. -/
def capsOf (s : State) (vs : List Word) : List Cap := vs.filterMap (handleOf s.me)

def rdstrCmd (e : QEntry) (s : State) : Except (Nat × MRes) Cmd :=
  .ok (newCmd s (.rdstr e.b.toNat) (capsOf s [e.a]) [] 0)

/-- RDSTR (R213, R218). -/
def execRdstr (a b : BitVec 5) (q : BitVec 4) (s : State) : Out :=
  onStrand s (issueWith (.rdstr a b q) [] anyType
    (fun s => first (badHandle s (reg s a)) (fifoBusy s q.toNat)) (countOut q.toNat false)
    (reg s a) (reg s b) 0 (pushBody q rdstrCmd) s)

def wrstrCmd (e : QEntry) (s : State) : Except (Nat × MRes) Cmd := .ok (newCmd s .wrstr [] (capsOf s [e.a]) 0)

/-- WRSTR (R213, R218). -/
def execWrstr (a : BitVec 5) (q : BitVec 4) (s : State) : Out :=
  onStrand s (issueWith (.wrstr a q) [] anyType
    (fun s => first (badHandle s (reg s a)) (fifoBusy s q.toNat)) (countOut q.toNat true)
    (reg s a) 0 0 (pushBody q wrstrCmd) s)

/-- The check of a destination: with `.cmb` a D of s0 is left to the command (R211). -/
def badDst (s : State) (cmb : Bool) (d : BitVec 5) : Option (Nat × Word) :=
  if cmb && d == 0 then none else badHandle s (reg s d)

def rsortCmd (y : BitVec 2) (c : BitVec 1) (e : QEntry) (s : State) : Except (Nat × MRes) Cmd :=
  .ok (newCmd s (.rsort (c == 1) y.toNat) (capsOf s [e.a]) (capsOf s [e.d]) 0)

/-- RSORT (R224). -/
def execRsort (d a : BitVec 5) (y : BitVec 2) (c : BitVec 1) (q : BitVec 4) (s : State) : Out :=
  onStrand s (issueWith (.rsort d a y c q) [] anyType
    (fun s => first (badHandle s (reg s a)) (first (badDst s (c == 1) d) (fifoBusy s q.toNat))) (countOut q.toNat false)
    (reg s a) 0 (reg s d) (pushBody q (rsortCmd y c)) s)

/-- The 16-bit handles in bytes. -/
def halfWords (bs : List Byte) (n : Nat) : List Word := (upTo n).map fun j => word (ofBytes ((bs.drop (2 * j)).take 2))

/-- A command whose sources or destinations were read from memory: HANDLE where one of them is invalid. -/
def listed (s : State) (vs : List Word) (other : Nat) : Nat := if (capsOf s vs).length = vs.length then other else 7

def rmergeCmd (u l c : BitVec 1) (e : QEntry) (s : State) : Except (Nat × MRes) Cmd :=
  let k := CmdKind.rmerge (c == 1) (u == 1)
  let n := e.b.toNat
  if l = 0 then .ok (newCmd s k (capsOf s [e.a, e.b]) (capsOf s [e.d]) 0)
  else if n < 2 ∨ 16 < n then .ok (newCmd s k [] (capsOf s [e.d]) 7)
  else
    match padRead s e.a.toNat 2 n with
    | .error x => .error x
    | .ok bs => .ok (newCmd s k (capsOf s (halfWords bs n)) (capsOf s [e.d]) (listed s (halfWords bs n) 0))

/-- RMERGE (R224). -/
def execRmerge (d a b : BitVec 5) (u l c : BitVec 1) (q : BitVec 4) (s : State) : Out :=
  onStrand s (issueWith (.rmerge d a b u l c q) [] anyType
    (fun s =>
      first (if l = 0 then first (badHandle s (reg s a)) (badHandle s (reg s b)) else none)
        (first (badDst s (c == 1) d) (fifoBusy s q.toNat)))
    (countOut q.toNat false) (reg s a) (reg s b) (reg s d) (pushBody q (rmergeCmd u l c)) s)

def rjoinCmd (l : BitVec 1) (j : BitVec 2) (e : QEntry) (s : State) : Except (Nat × MRes) Cmd :=
  .ok (newCmd s (.rjoin j.toNat (l == 1)) (capsOf s [e.a, e.b]) (capsOf s [e.d]) 0)

/-- RJOIN (R224). -/
def execRjoin (d a b : BitVec 5) (l : BitVec 1) (j : BitVec 2) (q : BitVec 4) (s : State) : Out :=
  onStrand s (issueWith (.rjoin d a b l j q) [] anyType
    (fun s =>
      first (badHandle s (reg s a)) (first (badHandle s (reg s b)) (first (badHandle s (reg s d)) (fifoBusy s q.toNat))))
    (countOut q.toNat false) (reg s a) (reg s b) (reg s d) (pushBody q (rjoinCmd l j)) s)

/-- Whether numbers never decrease. -/
def rising : List Nat → Bool
  | a :: b :: t => decide (a ≤ b) && rising (b :: t)
  | _ => true

/-- The block of RPART: P from 2 to 16, zeros, P − 1 splitters that never decrease, then P handles. A block that breaks this
gives SPEC, and a bad handle in it HANDLE. -/
def rpartCmd (e : QEntry) (s : State) : Except (Nat × MRes) Cmd :=
  let src := capsOf s [e.a]
  match padRead s e.d.toNat 8 1 with
  | .error x => .error x
  | .ok hd =>
    let p := ofBytes (hd.take 2)
    if p < 2 ∨ 16 < p then .ok (newCmd s (.rpart []) src [] 6)
    else
      match padRead s (e.d.toNat + 8) 8 (p - 1 + (2 * p + 7) / 8) with
      | .error x => .error x
      | .ok bs =>
        let sp := (upTo (p - 1)).map fun j => (wordAt bs j).toNat
        let hs := halfWords (bs.drop (8 * (p - 1))) p
        let other := if ofBytes (hd.drop 2) = 0 ∧ rising sp = true then 0 else 6
        .ok (newCmd s (.rpart sp) src (capsOf s hs) (listed s hs other))

/-- RPART (R224). -/
def execRpart (d a : BitVec 5) (q : BitVec 4) (s : State) : Out :=
  onStrand s (issueWith (.rpart d a q) [] anyType
    (fun s => first (badHandle s (reg s a)) (fifoBusy s q.toNat)) (countOut q.toNat false)
    (reg s a) 0 (reg s d) (pushBody q rpartCmd) s)

/-! ### CSPEC and RWAIT (R217, R222) -/

def cspecBody : Body := fun e _ s =>
  match padRead s e.a.toNat 8 4 with
  | .error (ad, r) => vecFault r ad 0 false s
  | .ok bs =>
    if cspecOk (wordAt bs 0) then
      .done (noteManifest
        (updMe (settle s) fun st => { st with cspec := #v[wordAt bs 0, wordAt bs 1, wordAt bs 2, wordAt bs 3] })
        fun m => { m with cspec := recInsert m.cspec bs })
    else .trap s 0 1 (word (encodeNat e.instr))

/-- CSPEC (R222). -/
def execCspec (a : BitVec 5) (s : State) : Out :=
  onStrand s (issueVec (.cspec a) [] anyType (reg s a) 0 0 cspecBody s)

/-- LEN and SORTED of a destination handle still open with its gen (R217). -/
def setLen (u : Nat × Nat × Nat × Bool) (st : Strand) : Strand :=
  match st.handles.find? fun h => h.1 == u.1 with
  | none => st
  | some h =>
    if genOf st u.1 = u.2.1 then
      { st with handles := tset st.handles u.1 { h.2 with
          len := u.2.2.1, fmt := word (setBit h.2.fmt.toNat 3 u.2.2.2) } }
    else st

/-- The pop of a completion element: the handles it sets, and the flags it carries. -/
def takeDone (q : Nat) (w : Word) (upd : List (Nat × Nat × Nat × Bool)) (s : State) : State :=
  let s := updFifo q (fun f => { f with res := f.res.drop 1, unpopped := f.unpopped.drop 1 }) s
  let s := updMe s fun st => upd.foldl (fun st u => setLen u st) st
  orFlags (field w 53 48) s

/-- RWAIT's waiting (R217, R228): records are discarded; a read stream that its own fault stopped ends with its status, COUNT
counting every record delivered to the FIFO, those of the stopped group among them. DESIGN CHOICE (log 56). -/
def rwaitLoop (q : Nat) : Nat → State → State × Option (Word × List (Nat × Nat × Nat × Bool))
  | 0, s => (s, none)
  | n + 1, s =>
    let s := updFifo q (fun f => { f with res := f.res.drop (headRecs f.res).length }) s
    match (fifoOf s.me q).res with
    | .done w upd :: _ => (s, some (w, upd))
    | _ =>
      match knead q s with
      | some t => rwaitLoop q n t
      | none =>
        match (fifoOf s.me q).cmds with
        | c :: _ => if isReader c && c.fixed != 0 then rwaitLoop q n (complete q c c.fixed 0 [] s) else (s, none)
        | [] => (s, none)

def rwaitBody (d : BitVec 5) (q : BitVec 4) : Body := fun e _ s =>
  match rwaitLoop q.toNat whole s with
  | (s, some (w, upd)) => doneReg d w (takeDone q.toNat w upd s)
  | (s, none) => .more s e.prog

/-- RWAIT (R213, R217). -/
def execRwait (d : BitVec 5) (q : BitVec 4) (s : State) : Out :=
  onStrand s (issueWith (.rwait d q) [] anyType (fun s => fifoIdle s q.toNat)
    (updFifo q.toNat fun f => { f with out := f.out - 1 }) 0 0 0 (rwaitBody d q) s)

/-! ### QPUSH and QPOP (R219) -/

/-- The first two conditions of R219 with the SEW they need. -/
def qWrong (d : BitVec 5) (k : Nat) (c : VCtx) : Bool :=
  let l := lmulOf c.vshape
  sewOf c.vshape == 4 || d.toNat % l != 0 || decide (nregsOf c.cnt < d.toNat + k * l) || overVl c

/-- The last two conditions, on the layout of the command concerned. -/
def fieldsOk (fmt vs mfcr : Word) (k : Nat) : Bool :=
  (upTo k).all fun f =>
    let w := if f = 0 then 8 * fmtKw fmt else if tyPresent (fmtType fmt f) then tyWidth (fmtType fmt f) else 0
    w == 8 * mtWidth (sewOf vs) (mtOf mfcr f) && mtAllowed (etypeOf vs) (sewOf vs) (mtOf mfcr f)

def fieldTrap (i : Instr) (fmt : Word) (k : Nat) (s : State) : Option (Nat × Word) :=
  if fieldsOk fmt s.me.vctx.vshape s.me.vctx.mfcr k then none else some (2, word (encodeNat i))

/-- Record i of a QPUSH with its flags: fields k and above and padding are zero. -/
def pushRec (e : QEntry) (fmt : Word) (d k i : Nat) (s : State) : Rec × Nat :=
  let c := s.me.vctx
  (upTo k).foldl (fun acc f =>
    let r := fieldConv (tyOf e.vshape) (mtTy e.vshape (mtOf e.mfcr f)) (satOf e.vshape) (modeOf e.vshape c s.me.dseed i)
      (elemOf e c (d + f * lmulOf e.vshape) i)
    (if f = 0 then patch acc.1 0 (toBytes (fmtKw fmt) r.v) else setField fmt f r.v acc.1, acc.2 ||| r.fl))
    (toBytes (fmtRw fmt) 0, 0)

/-- The FORMAT word of the run that a queued command on FIFO q will stream, none for one already pushed and for any other
instruction. -/
def queuedCmd (st : Strand) (q : Nat) (e : QEntry) : Option (Bool × Word) :=
  let fmt := fun (v : Word) => match handleOf st v with | some c => c.h.fmt | none => 0
  if e.done then none
  else match e.instr with
  | .rdstr _ _ k => if k.toNat = q then some (true, fmt e.a) else none
  | .wrstr _ k | .rsort _ _ _ _ k | .rmerge _ _ _ _ _ _ k | .rjoin _ _ _ _ _ k | .rpart _ _ k =>
    if k.toNat = q then some (false, fmt e.a) else none
  | _ => none

/-- The commands of FIFO q whose completion has not been popped, in program order: those of the queue count (R213, R219). -/
def unpoppedAt (st : Strand) (q : Nat) : List (Bool × Word) :=
  st.vctx.queue.foldl (fun l e =>
    match e.instr with
    | .rwait _ k => if k.toNat = q && !e.done then l.drop 1 else l
    | _ => match queuedCmd st q e with | some x => l ++ [x] | none => l) (fifoOf st q).unpopped

/-- The open write stream of a FIFO. -/
def openWriter (f : Fifo) : Option Cmd := f.cmds.find? fun c => isWriter c && !c.pushEnd

/-- Records pushed to the open write stream, and the end of it. -/
def pushRecs (q : Nat) (rs : List Rec) (ends : Bool) (s : State) : State :=
  updFifo q (fun f => { f with
    cmds := f.cmds.map fun c =>
      if isWriter c && !c.pushEnd then { c with pushed := c.pushed ++ rs, pushEnd := ends } else c }) s

/-- QPUSH: it waits while its stream is stalled (R228); a stream that was drained takes nothing more (R230). -/
def qpushBody (d : BitVec 5) (en : BitVec 1) (k : BitVec 2) (q : BitVec 4) : Body := fun e _ s =>
  match openWriter (fifoOf s.me q.toNat) with
  | none => .done s
  | some c =>
    if c.phase = .stall then .more s e.prog
    else
      queueDrain e (fun s =>
        let s := flushFree (completeOut s)
        let rs := (upTo e.vl).map fun i => pushRec e (concerned c) d.toNat (k.toNat + 1) i s
        let fl := rs.foldl (fun a r => a ||| r.2) 0
        .done (orFlags fl (pushRecs q.toNat (rs.map Prod.fst) (en == 1) s))) s

/-- QPUSH (R213, R219): `.end` clears WS. -/
def execQpush (d : BitVec 5) (en : BitVec 1) (k : BitVec 2) (q : BitVec 4) (s : State) : Out :=
  let i := Instr.qpush d en k q
  onStrand s (issueWith i [d] (qWrong d (k.toNat + 1))
    (fun s =>
      let f := fifoOf s.me q.toNat
      if !f.ws then some (0x11, 0) else fieldTrap i ((unpoppedAt s.me q.toNat).getLastD (false, 0)).2 (k.toNat + 1) s)
    (updFifo q.toNat fun f => { f with ws := f.ws && en == 0 }) 0 0 0 (qpushBody d en k q) s)

/-- Popped records in elements c onward, and the flags of their conversions. -/
def popInto (e : QEntry) (fmt : Word) (d k c0 : Nat) (rs : List Rec) (s : State) : State :=
  let c := s.me.vctx
  let es := ((upTo rs.length).zip rs).flatMap fun x => (upTo k).map fun f =>
    let v := if f = 0 then recKey (fmtKw fmt) x.2 else getField fmt f x.2
    (f, c0 + x.1, fieldConv (mtTy e.vshape (mtOf e.mfcr f)) (tyOf e.vshape) (satOf e.vshape)
      (modeOf e.vshape c s.me.dseed (c0 + x.1)) v)
  orFlags (es.foldl (fun a x => a ||| x.2.2.fl) 0)
    (updCtx s fun c => { c with vf := es.foldl (fun vf x =>
      elemSet vf (rbOf e.cnt) (sewOf e.vshape) (d + x.1 * lmulOf e.vshape) x.2.1 x.2.2.v) c.vf })

/-- n records taken from a result FIFO. -/
def dropRecs (q n : Nat) (s : State) : State := updFifo q (fun f => { f with res := f.res.drop n }) s

/-- The trap of a stream at its consumer: its cause and TVAL (Table 16.2). -/
def streamTrap (c : Cmd) : Nat × Word :=
  match c.fixed with
  | 11 =>
    let h := match c.srcs[c.src]? with | some x => x.gen * 256 + x.slot | none => 0
    (8, word (h * 2 ^ 48 + c.addr % 2 ^ 48))
  | 9 => (0x0F, word c.addr)
  | _ => (7, word c.addr)

/-- The suspension of a consumer at a stalled stream, which has reported its page (R228). -/
def streamSusp (c : Cmd) : Susp :=
  { cause := c.cause, vec := true, batch := c.batch, addr := c.addr, faults := c.faults, write := false, fetch := false,
    answered := false }

/-- What a consumer does at a stream that delivers no more of the n records that stand in its last, partial group: a fault
drains the strand's streams and traps (R230), and the group is never delivered (R173); a page that can be served suspends;
else it waits. -/
def streamStop (q n prog : Nat) (s : State) : VRes :=
  match (fifoOf s.me q).cmds with
  | [] => .more s prog
  | c :: _ =>
    if c.fixed ≠ 0 then
      let t := streamTrap c
      .trap (drainStreams (some q) (dropRecs q n (putCmd q { c with count := c.count - n } s))) prog t.1 t.2
    else if c.phase = .stall then .held s prog (streamSusp c)
    else .more s prog

/-- QPOP by element groups (R219): a group is taken when it is whole or the completion element follows it.
DEDUCED (log 26). -/
def qpopLoop (d a : BitVec 5) (k q : Nat) : Nat → QEntry → State → VRes
  | 0, e, s => .more s e.prog
  | n + 1, e, s =>
    let g := epg (sewOf e.vshape)
    let hi := min e.vl ((e.prog / g + 1) * g)
    let need := hi - e.prog
    if e.vl ≤ e.prog then doneReg a (word e.prog) s
    else
      let s := kneadTill q (fun f => decide (need ≤ (headRecs f.res).length) || doneNext f.res) 1024 s
      let f := fifoOf s.me q
      let rs := (headRecs f.res).take need
      let fmt := (f.unpopped.headD (false, 0)).2
      if rs.length = need then
        let s := popInto e fmt d.toNat k e.prog rs (dropRecs q need s)
        if hi = e.vl then doneReg a (word hi) s else qpopLoop d a k q n { e with prog := hi } s
      else if doneNext f.res then
        doneReg a (word (e.prog + rs.length)) (popInto e fmt d.toNat k e.prog rs (dropRecs q rs.length s))
      else streamStop q rs.length e.prog s

def qpopBody (d a : BitVec 5) (k : BitVec 2) (q : BitVec 4) : Body := fun e quota s =>
  qpopLoop d a (k.toNat + 1) q.toNat quota e s

/-- QPOP (R213, R219). -/
def execQpop (d a : BitVec 5) (k : BitVec 2) (q : BitVec 4) (s : State) : Out :=
  let i := Instr.qpop d a k q
  onStrand s (issueWith i [d] (qWrong d (k.toNat + 1))
    (fun s => first (fifoIdle s q.toNat)
      (fieldTrap i ((unpoppedAt s.me q.toNat).headD (false, 0)).2 (k.toNat + 1) s))
    id 0 0 0 (qpopBody d a k q) s)

end Sys2Proof.Machine
end

