-- ==== Sys2Proof/Machine/Sync.lean ====
section
/-! DEFINITION. Fences (R92, R93, R96, R196), the iteration ring (R197 to R200) and barriers (R201 to R203). -/

namespace Sys2Proof.Machine

/-! ### The node of a strand's core (R197, R204) -/

/-- Strands that have arrived in the current phase, ended ones included (Table 11.1). -/
def arrived (g : Gang) : Nat := (g.members.filter fun m => m.ended || m.arr).length

/-- What a gang's state gives the node of a strand. -/
def viewNow (g : Gang) (m : Member) : NodeView := { loops := g.loops, phase := g.phase, arr := m.arr, count := arrived g }

/-- The state that a change leaves is on its way to every node of the gang, after those before it. -/
def announceView (g : Gang) : Gang :=
  { g with members := g.members.map fun m =>
      if viewNow g m = m.coming.getLast?.getD m.seen then m else { m with coming := m.coming ++ [viewNow g m] } }

/-- A change that the ring applies to the gang of the issuing strand (R197). -/
def applyRing (f : Gang → Gang) (s : State) : State := updMyGang s fun g => announceView (f g)

/-- The node of the issuing strand changed. -/
def updNode (f : Gang → Member → Member) (s : State) : State :=
  updMyGang s fun g =>
    match g.members[s.me.lsn]? with
    | some m => { g with members := g.members.set s.me.lsn (f g m) }
    | none => g

/-- The strand's node observes every change that the ring has applied; when it does is the device's choice. DESIGN CHOICE (log
69). -/
def observe (s : State) : State :=
  updMe (updNode (fun g m => { m with seen := viewNow g m, coming := [] }) s) fun st => { st with acquired := false }

/-- It observes the next change on its way, in ring order (R197). -/
def observeOne (s : State) : State :=
  updNode (fun _ m => match m.coming with | v :: t => { m with seen := v, coming := t } | [] => m) s

/-- An observation that the agenda may leave to a later move (log 2), unless an atomic that acquires has come back (log 69). -/
def lookAt (s : State) : State := if s.defer && !s.me.det && !s.me.acquired then s else observe s

/-- What the strand's node has observed. -/
def nodeView (s : State) : NodeView :=
  match myGang s with
  | none => NodeView.reset
  | some g => match g.members[s.me.lsn]? with | some m => m.seen | none => NodeView.reset

/-! ### Fences -/

/-- Scope SYSTEM (Table 4.2). -/
def isSystem (sc : BitVec 3) : Bool := sc == 5

/-- Whether a command writes a run at a peer (R334). -/
def crossCmd (c : Cmd) : Bool := (outputs c).any fun x => !x.h.host && bit x.h.addr 47

/-- Every record that the FIFO's commands have for a peer has been sent there. -/
def linkIdle (f : Fifo) : Bool :=
  f.cmds.all fun c => !crossCmd c || c.held.isSome || (isWriter c && c.phase != .queued && c.phase != .stall && c.pushed.isEmpty)

def linksIdle (s : State) : Bool := s.me.fifos.all fun f => linkIdle f.2

/-- Commands kneaded until their records for a peer have been sent, or none can move (R96). -/
def sendLinks (s : State) : State :=
  if linksIdle s then s
  else (upTo 16).foldl (fun s q => if thas s.me.fifos q then kneadTill q linkIdle whole s else s) s

/-- A fence whose own accesses are performed: at scope SYSTEM, whatever its order, it sends fence flits to the peers and
completes after their acknowledgement (R334); with pushes, it waits for their acceptance, and at SYSTEM for the records of earlier
commands to go before its flits (R96). Progress 1 records that it has passed its drain point, and 2 that its flits are sent. -/
def fenceEnd (pushes : Bool) (sc : BitVec 3) (e : QEntry) (k : State → State) (s : State) : VRes :=
  let s := if pushes then acceptAll s else s
  let s := if isSystem sc then sendLinks s else s
  let ready := (!pushes || allAccepted s) && (!isSystem sc || linksIdle s)
  let s := if isSystem sc && ready && decide (e.prog < 2) then sendFences e.id s else s
  if ready && (!isSystem sc || fencesDone e.id s) then .done (k s)
  else .more s (if isSystem sc && ready then 2 else max 1 e.prog)

/-- An entry that has passed its drain point is not held at it again. -/
def drainOnce (e : QEntry) (k : State → VRes) (s : State) : VRes := if e.prog = 0 then queueDrain e k s else k s

/-- FENCE: `.acq` orders loads, the other orders loads and stores (Table 4.4). Below SYSTEM every scope is given the widest
effect, as R83 allows. DESIGN CHOICE (log 57). -/
def fenceBody (r : BitVec 2) (sc : BitVec 3) : Body := fun e _ s =>
  if r = 1 then fenceEnd false sc e observe (completeOut s)
  else drainOnce e (fun s => fenceEnd true sc e (if r = 2 then id else observe) (flushAll (completeOut s))) s

/-- FENCE (R92, R96, R196): it holds the front end until it completes. -/
def execFence (r : BitVec 2) (sc : BitVec 3) (s : State) : Out :=
  onStrand s (issueVec (.fence r sc) [] anyType 0 0 0 (fenceBody r sc) s)

/-- VFENCE performs the stores before it; those behind it then wait for it no longer (R93). -/
def vfenceBody (sc : BitVec 3) : Body := fun e _ s => drainOnce e (fun s => fenceEnd true sc e releaseHeld (flushFree s)) s

/-- VFENCE (R93, R96, R196). -/
def execVfence (sc : BitVec 3) (s : State) : Out := onStrand s (issueVec (.vfence sc) [] anyType 0 0 0 (vfenceBody sc) s)

/-! ### Gang events (R283) -/

/-- An operation on every strand of the issuing strand's gang. -/
def updGangStrands (f : Strand → Strand) (s : State) : State :=
  let mine := fun (st : Strand) => st.status != .free && st.fn == s.me.fn && st.lseq == s.me.lseq && st.gang == s.me.gang
  { s with me := if mine s.me then f s.me else s.me, others := s.others.map fun st => if mine st then f st else st }

def gangEvent (s : State) : State := updGangStrands raiseEv s

/-! ### The iteration ring -/

/-- Iteration n is posted (R197). -/
def postedIn (l : Loop) (n : Nat) : Bool := n < l.f.toNat || (n - l.f.toNat < 64 && l.w.getLsbD (n - l.f.toNat))

/-- The window shifted over its posted prefix. -/
def advanceLoop : Nat → Loop → Loop
  | 0, l => l
  | n + 1, l => if l.w.getLsbD 0 then advanceLoop n { l with w := l.w >>> 1, f := l.f + 1 } else l

/-- A post of iteration n (R199). -/
def postLoop (l : Loop) (n : Nat) : Loop :=
  advanceLoop 64 { l with w := l.w ||| ((1 : Word) <<< (n - l.f.toNat)) }

/-- A loop of the issuing strand's gang. -/
def loopOf (s : State) (k : BitVec 2) : Loop :=
  match myGang s with
  | some g => g.loops.get k.toFin
  | none => Loop.reset

def setLoop (k : BitVec 2) (l : Loop) (s : State) : State :=
  applyRing (fun g => { g with loops := g.loops.set k.toFin l }) s

/-- Iterations beyond 2^64 − 65 are refused. -/
def iterBad (l : Loop) (n : Nat) : Bool := !l.set || decide (2 ^ 64 - 65 < n)

/-- A strand held at a wait or a POST that an earlier drain could not apply. -/
def heldAt (e : QEntry) (prog : Nat) (s : State) : VRes :=
  .more (if s.me.det then { s with me := { s.me with stand := some e.instr } } else s) prog

/-- A release (R95): what follows it takes place once every earlier access is performed, pushes among them. -/
def whenReleased (e : QEntry) (k : State → VRes) (s : State) : VRes :=
  let s := releaseAll (completeOut s)
  if allAccepted s then k s else heldAt e e.prog s

def itersetBody (l : BitVec 2) : Body := fun e _ s =>
  queueDrain e (whenReleased e fun s => .done (observe (setLoop l ⟨true, e.a, 0⟩ s))) s

/-- ITERSET (R198 to R200). -/
def execIterset (a : BitVec 5) (l : BitVec 2) (s : State) : Out :=
  onStrand s (issueVec (.iterset a l) [] anyType (reg s a) 0 0 (itersetBody l) s)

def postBody (l : BitVec 2) : Body := fun e _ s =>
  queueDrain e (whenReleased e fun s =>
    let x := loopOf s l
    let n := e.a.toNat
    if iterBad x n then .trap s 0 0x11 0
    else if x.f.toNat + 64 ≤ n then heldAt e 0 s
    else if postedIn x n then .trap s 0 0x11 0
    else .done (observe (gangEvent (setLoop l (postLoop x n) s)))) s

/-- POST (R198 to R200). -/
def execPost (a : BitVec 5) (l : BitVec 2) (s : State) : Out :=
  onStrand s (issueVec (.post a l) [] anyType (reg s a) 0 0 (postBody l) s)

def waitiBody (l : BitVec 2) : Body := fun e _ s =>
  queueDrain e (fun s =>
    let s := lookAt s
    let x := (nodeView s).loops.get l.toFin
    let n := e.a.toNat
    if iterBad x n then .trap s 0 0x11 0
    else if postedIn x n then .done s
    else heldAt e 0 s) s

/-- WAITI (R198 to R200): judged by what the strand's node has observed; it holds the front end until it is satisfied. -/
def execWaiti (a : BitVec 5) (l : BitVec 2) (s : State) : Out :=
  onStrand s (issueVec (.waiti a l) [] anyType (reg s a) 0 0 (waitiBody l) s)

/-! ### Barriers -/

/-- Every strand that has not ended has arrived, and at least one has. -/
def phaseFull (g : Gang) : Bool := (g.members.all fun m => m.ended || m.arr) && g.members.any fun m => !m.ended && m.arr

/-- The lane clusters that a gang holds from a completed phase on: the dispatcher's choice, a change advancing the epoch
(R116). -/
def regrant (det : Bool) (lc : Nat) (g : Gang) : Gang :=
  if det || g.lc == lc then g else { g with lc := lc, epoch := (g.epoch + 1) % 256 }

/-- A full phase completes: P + 1, every arrival cleared; an event of the gang. -/
def tryPhase (s : State) : State :=
  match myGang s with
  | none => s
  | some g =>
    if phaseFull g then
      gangEvent (applyRing (fun g =>
        regrant s.me.det s.dev.dispLc { g with phase := g.phase + 1, members := g.members.map fun m => { m with arr := false } }) s)
    else s

/-- The strand's part in the barrier. -/
def memberOf (s : State) : Option Member :=
  match myGang s with
  | none => none
  | some g => g.members[s.me.lsn]?

def hasArrived (s : State) : Bool := match memberOf s with | some m => m.arr | none => false

/-- The arrival of R202. -/
def arrive (s : State) : State :=
  tryPhase (applyRing (fun g =>
    match g.members[s.me.lsn]? with
    | some m => { g with members := g.members.set s.me.lsn { m with arr := true, target := g.phase + 1 } }
    | none => g) s)

/-- P ≥ a(s). -/
def released (s : State) : Bool :=
  match myGang s with
  | none => true
  | some g => match g.members[s.me.lsn]? with | some m => decide (m.target ≤ g.phase) | none => true

/-- A strand takes up the gang's lane clusters and epoch (R116). -/
def takeGrant (s : State) : State :=
  match myGang s with
  | some g => if s.me.det then s else { s with me := { s.me with lc := g.lc, epoch := g.epoch } }
  | none => s

def bararrBody : Body := fun e _ s =>
  queueDrain e (fun s => if hasArrived s then .trap s 0 0x11 0 else whenReleased e (fun s => .done (arrive s)) s) s

/-- BARARR (R201 to R203). -/
def execBararr (s : State) : Out := onStrand s (issueVec .bararr [] anyType 0 0 0 bararrBody s)

/-- The wait of BARWT and BAR. -/
def barJudge (e : QEntry) (s : State) : VRes := if released s then .done (observe (takeGrant s)) else heldAt e e.prog s

def barwtBody : Body := fun e _ s => queueDrain e (barJudge e) s

/-- BARWT (R201 to R203): it holds the front end until it completes. -/
def execBarwt (s : State) : Out := onStrand s (issueVec .barwt [] anyType 0 0 0 barwtBody s)

/-- BAR: its arrival, then its wait alone, at progress 1 (R203). In a gang drain the wait is judged after the drain. -/
def barBody : Body := fun e _ s =>
  if e.prog = 0 then
    queueDrain e (fun s =>
      if hasArrived s then .trap s 0 0x11 0
      else
        whenReleased e (fun s =>
          let s := arrive s
          if s.me.det && !alone s then heldAt e 1 s else barJudge { e with prog := 1 } s) s) s
  else queueDrain e (barJudge e) s

/-- BAR (R201 to R203): it holds the front end until it completes. -/
def execBar (s : State) : Out := onStrand s (issueVec .bar [] anyType 0 0 0 barBody s)

end Sys2Proof.Machine
end

