-- ==== Sys2Proof/Machine/Atomics.lean ====
section
/-! DEFINITION. Scalar atomics (R188 to R191) and vector atomics (R193 to R195). -/

namespace Sys2Proof.Machine

/-! ### Scalar atomics (R188 to R191) -/

/-- The size of AMO and CAS: F3[0]. -/
def amoSize (z : BitVec 1) : Nat := if z = 0 then 4 else 8

/-- rel or acqrel: every earlier access is performed before the atomic (R94). -/
def releases (r : BitVec 2) : Bool := r.toNat / 2 == 1

/-- acq or acqrel: the atomic is performed before any later access (R94). -/
def acquires (r : BitVec 2) : Bool := r.toNat % 2 == 1

/-- The step of an atomic at its point of coherence. -/
def amoStep (kind : LateKind) (n w : Nat) : Option Nat :=
  match kind with
  | .amo _ op b => some (amoNew op n w b)
  | .cas _ v b => if w = v then some b else none
  | _ => none

/-- An atomic of the front end made at once: its step at the point of coherence, then D (R189, R191). -/
def atomicNow (d : BitVec 5) (n : Nat) (l : Loc) (kind : LateKind) (s : State) : State :=
  let r := rmw (fencesAhead s.me) (completeOut s) l n (amoStep kind n)
  setReg r.2 d (amoResult n r.1)

/-- An atomic of the front end (R189, R191, R94): one that releases waits until every earlier access is performed. It may be made in
a later move, where the agenda defers it or a VFENCE is queued ahead of it, D pending until then; after one that acquires, later
accesses wait for it (Machine/Front.lean). In host space a handler's behind a stopped VFENCE is made at once (log 7). -/
def scalarAtomic (d : BitVec 5) (n : Nat) (r : BitVec 2) (l : Loc) (kind : LateKind) (s : State) : State :=
  let s := if releases r then releaseAll (completeOut s) else s
  if releases r && !allAccepted s then s
  else if keepsAtomic s then advance (keepAtomic n l kind (pendAtomic d (acquires r)) s)
  else if s.defer && !s.me.det && (fencesAhead s.me == 0 || (l matches .spad _)) then
    advance (atomicLater (fencesAhead s.me) n l kind (pendAtomic d (acquires r)) s)
  else advance ((if acquires r then observe else id) (atomicNow d n l kind s))

/-- AMO (R188 to R191). -/
def execAmo (d a b : BitVec 5) (sc : BitVec 3) (o : BitVec 4) (r : BitVec 2) (z : BitVec 1) (s : State) : Out :=
  let e := (reg s a).toNat
  let n := amoSize z
  match resolve s e n .store with
  | .ok l =>
    onStrand s (atDrain (.amo d a b sc o r z)
      (fun s => scalarAtomic d n r l (.amo d o.toNat ((reg s b).toNat % 2 ^ (8 * n))) s) s)
  | m => onStrand s (memFault m e true false s)

/-- CAS (R188 to R191). -/
def execCas (d a b : BitVec 5) (sc : BitVec 3) (r : BitVec 2) (z : BitVec 1) (s : State) : Out :=
  let e := (reg s a).toNat
  let n := amoSize z
  match resolve s e n .store with
  | .ok l =>
    onStrand s (atDrain (.cas d a b sc r z)
      (fun s => scalarAtomic d n r l
        (.cas d ((reg s d).toNat % 2 ^ (8 * n)) ((reg s b).toNat % 2 ^ (8 * n))) s) s)
  | m => onStrand s (memFault m e true false s)

/-! ### Vector atomics (R193 to R195) -/

/-- An element inserted before the first one at its location that is applied after it. -/
def orderInsert (fixed : Bool) (id : Nat) (x : Elem) : List Elem → List Elem
  | [] => [x]
  | y :: t =>
    if y.2.2 == x.2.2 && outlasts fixed id y.1 x.1 then x :: y :: t else y :: orderInsert fixed id x t

/-- The order in which colliding elements are applied: ascending index in deterministic mode and in host space, some order
in normal mode. -/
def amoOrder (det : Bool) (id : Nat) (es : List Elem) : List Elem :=
  es.foldl (fun l x => orderInsert (det || inHost x.2.2) id x l) []

/-- One element's atomic and the element's new content, the old value (R194). -/
def amoElem (e : QEntry) (d : BitVec 5) (op : Nat) (x : Elem) (s : State) : State :=
  match x.2.2 with
  | .ok l =>
    let sew := sewOf e.vshape
    let b := elemOf e s.me.vctx d.toNat x.1
    let r := rmw (fencesBefore e s) (visit s x.2.1 l) l (sew / 8) (fun w => some (amoNew op (sew / 8) w b))
    updCtx (discardBufs e.id l (sew / 8) r.2) fun c => { c with vf := elemSet c.vf (rbOf e.cnt) sew d.toNat x.1 r.1 }
  | _ => s

/-- The elements [lo, hi) of a pass of VAMO. -/
def amoPart (d b : BitVec 5) (op : Nat) (m : BitVec 2) (e : QEntry) (lo hi : Nat) (s : State) : State :=
  let c := s.me.vctx
  let es := elemList s e (.index b) (sewOf e.vshape) (passOn e c m.toNat) .store (span lo hi)
  let s := (amoOrder s.me.det e.id (es.filter fun x => isOk x.2.2)).foldl (fun s x => amoElem e d op x s) s
  let off := if mpolOf e.vshape && !inM7 e then ((span lo hi).filter fun i => !maskBit c m.toNat i).map fun i => (i, 0) else []
  let s := updCtx s fun c => { c with vf := elemsSet c.vf (rbOf e.cnt) (sewOf e.vshape) d.toNat off }
  writeM7 lo hi (faultyIn es) s

/-- One element's atomic on its way, as one access of its own (R191); its old value comes back to D later. -/
def amoSend (e : QEntry) (d : BitVec 5) (op : Nat) (s : State) (x : Elem) : State :=
  match x.2.2 with
  | .ok l =>
    let sew := sewOf e.vshape
    let b := elemOf e s.me.vctx d.toNat x.1
    let s := match l with | .spad _ => s | .host _ => cacheWalk s s.me.fn x.2.1
    discardBufs e.id l (sew / 8) (atomicLater (fencesBefore e s) (sew / 8) l (.vamo d.toNat (rbOf e.cnt) sew x.1 op b) pendElem s)
  | _ => s

/-- The elements of one group sent in the order in which colliding ones are applied. -/
def amoSends (d b : BitVec 5) (op : Nat) (m : BitVec 2) (e : QEntry) (lo hi : Nat) (s : State) : State :=
  let c := s.me.vctx
  let es := elemList s e (.index b) (sewOf e.vshape) (passOn e c m.toNat) .store (span lo hi)
  let off := if mpolOf e.vshape && !inM7 e then ((span lo hi).filter fun i => !maskBit c m.toNat i).map fun i => (i, 0) else []
  let s := (amoOrder false e.id (es.filter fun x => isOk x.2.2)).foldl (amoSend e d op) s
  let s := updCtx s fun c => { c with vf := elemsSet c.vf (rbOf e.cnt) (sewOf e.vshape) d.toNat off }
  writeM7 lo hi (faultyIn es) s

/-- Whether elements of a VAMO are on their way. -/
def amosOut (s : State) : Bool := s.me.out.any Pend.vec

/-- A VAMO whose moves the agenda makes one at a time: a group's atomics are sent, and with none left it ends once every old
value has come back. -/
def amoLater (d b : BitVec 5) (op : Nat) (m : BitVec 2) (k : State → State) : Body := fun e quota s =>
  let hi := passEnd (sewOf e.vshape) e.vl (e.prog / 2) quota
  if e.prog / 2 < e.vl then .more (amoSends d b op m e (e.prog / 2) hi s) (2 * hi + e.prog % 2)
  else if amosOut s then .more s e.prog
  else nextPass e (.index b) .store hi (k s)

/-- VAMO (R193 to R195): faults as R170 gives; in deterministic mode a drain point. Its ordering bits act as R94 gives: what
stands behind it waits for its end (Machine/Front.lean). -/
def amoBody (d b : BitVec 5) (r : BitVec 2) (op : BitVec 4) (m : BitVec 2) : Body := fun e quota s =>
  queueDrain e (fun s =>
    let seenNow := fun s => if acquires r then observe s else s
    let k := fun s =>
      if s.defer && !s.me.det then amoLater d b op.toNat m seenNow e quota s
      else
        let hi := passEnd (sewOf e.vshape) e.vl (e.prog / 2) quota
        let s := amoPart d b op.toNat m e (e.prog / 2) hi (completeOut s)
        nextPass e (.index b) .store hi (if e.vl ≤ hi then seenNow s else s)
    if releases r then whenReleased e k s else k s) s

/-- VAMO is defined for sint and uint at SEW 32 and 64 (R193). -/
def amoWrong (d b : BitVec 5) (c : VCtx) : Bool :=
  !(isInt (etypeOf c.vshape) && (sewOf c.vshape == 32 || sewOf c.vshape == 64)) || memIdxWrong d b c

/-- VAMO (R193 to R195). -/
def execVamo (d a b : BitVec 5) (r : BitVec 2) (o : BitVec 4) (m : BitVec 2) (k : BitVec 1) (s : State) : Out :=
  onStrand s (issueVec (.vamo d a b r o m k) [d, b] (amoWrong d b) (reg s a) 0 0 (amoBody d b r o m) s)

end Sys2Proof.Machine
end

