-- ==== Sys2Proof/Machine/Branch.lean ====
section
/-! DEFINITION. Branches and jumps (R112). -/

namespace Sys2Proof.Machine

/-- The transfer of a taken branch or jump, which a trace session records with its target (Table 18.6). -/
def transfer (t : Word) (s : State) : State :=
  traceEvent { s with me := { s.me with pc := t } } 2 t (vcpOf { s.me with pc := t }) s.me.pc.toNat

/-- PC := P + sext(off12) × 4 when c holds, else PC := P + 4 (R112). -/
def branch (c : Bool) (o : BitVec 12) (s : State) : Out :=
  onStrand s (if c then transfer (s.me.pc + (sext o <<< 2)) s else advance s)

/-- BEQ (R112). -/
def execBeq (a b : BitVec 5) (o : BitVec 12) (s : State) : Out := branch (reg s a == reg s b) o s

/-- BNE (R112). -/
def execBne (a b : BitVec 5) (o : BitVec 12) (s : State) : Out := branch (reg s a != reg s b) o s

/-- BLT (R112). -/
def execBlt (a b : BitVec 5) (o : BitVec 12) (s : State) : Out := branch ((reg s a).slt (reg s b)) o s

/-- BGE (R112). -/
def execBge (a b : BitVec 5) (o : BitVec 12) (s : State) : Out := branch (!(reg s a).slt (reg s b)) o s

/-- BLTU (R112). -/
def execBltu (a b : BitVec 5) (o : BitVec 12) (s : State) : Out := branch ((reg s a).ult (reg s b)) o s

/-- BGEU (R112). -/
def execBgeu (a b : BitVec 5) (o : BitVec 12) (s : State) : Out := branch (!(reg s a).ult (reg s b)) o s

/-- JAL (R112): D := P + 4; PC := P + sext(off20) × 4. -/
def execJal (d : BitVec 5) (o : BitVec 20) (s : State) : Out :=
  onStrand s (transfer (s.me.pc + (sext o <<< 2)) (setReg s d (s.me.pc + 4)))

/-- JALR (R112): the target is read before D is written; its low bits are not cleared. -/
def execJalr (d a : BitVec 5) (i : BitVec 12) (s : State) : Out :=
  onStrand s (transfer (reg s a + sext i) (setReg s d (s.me.pc + 4)))

end Sys2Proof.Machine
end

