-- ==== Sys2Proof/Machine/Dredger.lean ====
section
/-! DEFINITION. The Dredger instructions (R249 to R257). The point itself is in Machine/Operands.lean (R251). -/

namespace Sys2Proof.Machine

/-- The 32 direction numbers of one dimension at e, its 16 words checked as R160 with n = 8: or the first that faults. -/
def readDim (s : State) (e : Nat) : Except (Nat × MRes) (List Byte) :=
  let us := (upTo 16).map fun j => let a := (e + 8 * j) % 2 ^ 64; (a, resolve s a 8 .load)
  match us.find? (fun x => !isOk x.2) with
  | some x => .error x
  | none => .ok (us.flatMap fun x => match x.2 with | .ok l => readLoc s l 8 | _ => [])

/-- V(d, b) of one dimension from its bytes. -/
def setDim (d : Nat) (bs : List Byte) (c : VCtx) : VCtx :=
  let vs := (upTo 32).map fun b => BitVec.ofNat 32 (ofBytes ((bs.drop (4 * b)).take 4))
  { c with dirs := csets dirDefault c.dirs (32 * d) vs }

/-- What the loads of a dimension do besides: every earlier access of the strand to their locations is performed first (R88). -/
def visitWords (n : Nat) (s : State) (e : Nat) : State :=
  (upTo n).foldl (fun s j =>
    let a := (e + 8 * j) % 2 ^ 64
    match reach s a .load with
    | .ok l => visit s a l
    | _ => s) s

def visitDim (s : State) (e : Nat) : State := visitWords 16 s e

/-- Dimensions loaded one at a time (R253); each is noted for the manifest (Table 18.3). -/
def dimLoop (f c : Nat) (e : QEntry) : Nat → Nat → State → VRes
  | 0, j, s => if c ≤ j then .done s else .more s j
  | n + 1, j, s =>
    if c ≤ j then .done s
    else
      let a := (e.a.toNat + 128 * j) % 2 ^ 64
      match readDim (visitDim s a) a with
      | .error (ad, r) => vecFault r ad j false s
      | .ok bs =>
        dimLoop f c e n (j + 1)
          (noteManifest (updCtx (visitDim s a) (setDim (f + j) bs)) fun m =>
            { m with dred := recInsert m.dred (BitVec.ofNat 8 (f + j) :: bs) })

def qrtldBody (c f : BitVec 6) : Body := fun e quota s =>
  dimLoop f.toNat (c.toNat + 1) e (min quota (c.toNat + 1 - e.prog)) e.prog s

/-- QRTLD (R253): first dimension f, count c + 1. -/
def execQrtld (a : BitVec 5) (c f : BitVec 6) (s : State) : Out :=
  onStrand s (issueVec (.qrtld a c f) [] anyType (reg s a) 0 0 (qrtldBody c f) s)

/-- MODE(d) × 2^32 + SEED(d). -/
def seedWord (c : VCtx) (d : Nat) : Word :=
  word ((cget modeDefault c.modes d).toNat * 2 ^ 32 + (cget zeros c.seeds d).toNat)

def qrseedBody (d : BitVec 5) (m : BitVec 2) (n : BitVec 6) : Body := fun e _ s =>
  let old := seedWord s.me.vctx n.toNat
  let v := BitVec.ofNat 32 e.a.toNat
  let s := updCtx s fun c => { c with
    seeds := cset zeros c.seeds n.toNat v
    modes := cset modeDefault c.modes n.toNat m }
  let s := noteManifest s fun x =>
    { x with seed := recInsert x.seed (BitVec.ofNat 8 n.toNat :: BitVec.ofNat 8 m.toNat :: toBytes 4 v.toNat) }
  doneReg d old s

/-- QRSEED (R254). -/
def execQrseed (d a : BitVec 5) (m : BitVec 2) (n : BitVec 6) (s : State) : Out :=
  onStrand s (issueVec (.qrseed d a m n) [] anyType (reg s a) 0 0 (qrseedBody d m n) s)

/-- The output of a point under a selector (R256). -/
def genValue (et sew x sel : Nat) : Nat :=
  if et = 3 then
    let m := x / 2 ^ 8
    (fp32.round .rne false m (2 ^ 24)).v
  else
    let k := sel / 2 ^ (sew / 2) % 2 ^ (sew / 2)
    if k = 0 then x else x * k / 2 ^ 32

/-- The elements of QRGEN and QRGENS; every source is read as it stood before any element is written (R255). -/
def genBody (d b : BitVec 5) (z : BitVec 2) (bc : BitVec 1) (m : BitVec 2) (idx : QEntry → VCtx → Nat → Nat) : Body :=
  fun e quota s =>
    let seed := s.me.vctx
    mapBody d b z bc m (fun e _ c i =>
      let sel := bVal b z bc e c i
      ⟨genValue (etypeOf e.vshape) (sewOf e.vshape) (ctxPoint seed (sel % 64) (idx e c i)) sel, 0⟩) e quota s

/-- IW. -/
def idxWidth (vs : Word) : Nat := if sewOf vs = 64 then 64 else 32

/-- QRGEN and QRGENS are defined for uint at SEW 32 and 64 and for FP32 (R255). -/
def genWrong (rs : List (BitVec 5)) (c : VCtx) : Bool :=
  !((etypeOf c.vshape == 1 && (sewOf c.vshape == 32 || sewOf c.vshape == 64)) || etypeOf c.vshape == 3) || badGroups c rs

def qrgenBody (d a b : BitVec 5) (q : VMod) : Body :=
  genBody d b q.z q.c q.m fun e c i => elemOf e c a.toNat i % 2 ^ idxWidth e.vshape

/-- QRGEN (R255, R256). -/
def execQrgen (d a b : BitVec 5) (q : VMod) (s : State) : Out :=
  onStrand s (issueVec (.qrgen d a b q) [d, a, b] (genWrong [d, a, b]) 0 0 0 (qrgenBody d a b q) s)

def qrgensBody (d b : BitVec 5) (q : SMod) : Body :=
  genBody d b q.z q.c q.m fun e _ i => (e.a.toNat + i) % 2 ^ idxWidth e.vshape

/-- QRGENS (R255, R256). -/
def execQrgens (d a b : BitVec 5) (q : SMod) (s : State) : Out :=
  onStrand s (issueVec (.qrgens d a b q) [d, b] (genWrong [d, b]) (reg s a) 0 0 (qrgensBody d b q) s)

end Sys2Proof.Machine
end

