-- ==== Sys2Proof/Machine/Hearth.lean ====
section
/-! DEFINITION. The Hearth matrix instructions (R231 to R247) and the census (R246). A strand's accumulator rows lie under
its own names, rows acc.0 upward. -/

namespace Sys2Proof.Machine

/-! ### The Hearth (R231 to R233) -/

/-- The Hearth of a core: one for four. -/
def hearthOf (s : State) (core : Nat) : Hearth := tget Hearth.reset s.hearths (core / 4)

def updHearth (core : Nat) (f : Hearth → Hearth) (s : State) : State :=
  { s with hearths := tset s.hearths (core / 4) (f (hearthOf s core)) }

/-- The height of a tile slot, 0 for a free one. -/
def tileHeight (h : Hearth) (slot : Nat) : Nat := tget 0 h.heights slot

/-- FREEMAC. -/
def freeMacros (h : Hearth) : Nat := 16 - h.heights.foldl (fun a x => a + x.2 / 1024) 0

/-- Accumulator rows granted or reserved on a Hearth. -/
def heldRows (s : State) (core : Nat) : Nat :=
  (s.me :: s.others).foldl (fun a st =>
    if st.core / 4 = core / 4 ∧ st.status ≠ .free then a + st.accRows + st.reserved else a) 0

/-- FREEROWS. -/
def freeRows (s : State) (core : Nat) : Nat := 256 - heldRows s core

/-- Every weight of a new slot is the canonical zero, every scale 1.0 (R232). -/
def zeroWeight (_ : Nat) : BitVec 8 := 0x77

def weightAt (h : Hearth) (slot row col : Nat) : Nat := (cget zeroWeight h.weights ((slot * 4096 + row) * 256 + col)).toNat

def wscaleAt (h : Hearth) (slot blk col : Nat) : Nat := (cget one32 h.wscales ((slot * 64 + blk) * 256 + col)).toNat

/-- A slot's weights and scales back at their values for a new slot. -/
def clearTile (slot : Nat) (h : Hearth) : Hearth :=
  { h with
    weights := cclear (slot * 4096 * 256) (4096 * 256) h.weights
    wscales := cclear (slot * 64 * 256) (64 * 256) h.wscales }

/-! ### Accumulator rows (R235, R236) -/

def accGet (st : Strand) (r c : Nat) : Nat := (cget zeros st.acc (r * 256 + c)).toNat

def accSet (acc : Cells 32) (r : Nat) (xs : List (Nat × Nat)) : Cells 32 :=
  xs.foldl (fun acc x => cset zeros acc (r * 256 + x.1) (BitVec.ofNat 32 x.2)) acc

/-- Every row released (R235, R126). -/
def releaseRows (s : State) : State :=
  updCtx (updMe s fun st => { st with acc := [], accRows := 0 }) fun c => { c with mgrant := 0 }

/-- New rows beyond those held, each element +0. -/
def grantRows (n : Nat) (s : State) : State :=
  updCtx (updMe s fun st => { st with accRows := st.accRows + n, acc := cclear (st.accRows * 256) (n * 256) st.acc })
    fun c => { c with mgrant := c.mgrant + n }

/-! ### The matrix checks (R126, R234) -/

def mvlOf (v : Word) : Nat := field v 12 0
def matrixOn (v : Word) : Bool := bit v.toNat 14
def matrixPath (v : Word) : Bool := bit v.toNat 13

/-- Cause 0x0A at issue outside matrix mode. -/
def needMatrix (i : Instr) (s : State) : Option (Nat × Word) :=
  if matrixOn s.me.vctx.mvl then none else some (0x0A, word (encodeNat i))

/-- Cause 0x0A on the other path. -/
def needPath (i : Instr) (mop : Bool) (s : State) : Option (Nat × Word) :=
  if matrixPath s.me.vctx.mvl = mop then none else some (0x0A, word (encodeNat i))

/-- "illegal instruction" where an operand value breaks a limit. -/
def needOk (i : Instr) (good : Bool) : Option (Nat × Word) := if good then none else some (1, word (encodeNat i))

/-- Cause 0x0A at execution, VCP naming the instruction. -/
def shortGrant (e : QEntry) (prog : Nat) (s : State) : VRes := .trap s prog 0x0A (word (encodeNat e.instr))

/-- "access fault" at a tile slot (R234, R237): no address is involved; TVAL is the operand that names the rows (log 17). -/
def tileFault (v : Word) (prog : Nat) (s : State) : VRes := .trap s prog 4 v

/-! ### MATTACH and MDETACH (R235) -/

def mattachBody (d : BitVec 5) (w : BitVec 1) : Body := fun e _ s =>
  let q := e.a.toNat
  let g := s.me.vctx.mgrant
  let avail := freeRows s s.me.core
  if q ≤ g then doneReg d (word g) s
  else if w = 1 ∧ avail < q - g then .more s e.prog
  else
    let add := min (q - g) avail / 16 * 16
    doneReg d (word (g + add)) (grantRows add s)

/-- MATTACH (R234, R235). Matrix mode is judged before the operand. DESIGN CHOICE (log 72). -/
def execMattach (d a : BitVec 5) (w : BitVec 1) (s : State) : Out :=
  let i := Instr.mattach d a w
  onStrand s (issueWith i [] anyType
    (fun s => first (needMatrix i s) (needOk i (decide ((reg s a).toNat % 16 = 0 ∧ (reg s a).toNat ≤ 256)))) id
    (reg s a) 0 0 (mattachBody d w) s)

def releaseBody : Body := fun _ _ s => .done (releaseRows s)

/-- MDETACH (R235). -/
def execMdetach (s : State) : Out := onStrand s (issueVec .mdetach [] anyType 0 0 0 releaseBody s)

/-! ### MWLD (R237, R238) -/

/-- A span's first row or block, and its count. -/
def spanFirst (b : Word) : Nat := field b 15 0
def spanCount (b : Word) : Nat := field b 31 16

def rowSpanOk (b : Word) : Bool :=
  field b 63 32 == 0 && spanFirst b % 64 == 0 && spanCount b % 64 == 0 && spanCount b != 0

def blockSpanOk (b : Word) : Bool := field b 63 32 == 0 && spanCount b != 0

/-- n bytes of scratchpad at a multiple of 256, or the first byte that faults with its outcome (R237). -/
def hearthRead (s : State) (e n : Nat) : Except (Nat × MRes) (List Byte) :=
  if e % 256 ≠ 0 then .error (e, .misaligned)
  else
    let us := (upTo (n / 256)).map fun j => let a := (e + 256 * j) % 2 ^ 64; (a, if a < hostSize then MRes.access else reach s a .load)
    match us.find? (fun x => !isOk x.2) with
    | some x => .error x
    | none => .ok (us.flatMap fun x => match x.2 with | .ok l => readLoc (settle s) l 256 | _ => [])

/-- Rows of a slot written from bytes, 256 to a row. -/
def putRows (slot row : Nat) (bs : List Byte) (h : Hearth) : Hearth :=
  { h with weights := csets zeroWeight h.weights ((slot * 4096 + row) * 256) bs }

/-- Words of four bytes. -/
def words32 (n : Nat) (bs : List Byte) : List (BitVec 32) :=
  (upTo n).map fun j => BitVec.ofNat 32 (ofBytes ((bs.drop (4 * j)).take 4))

def putScales (slot blk : Nat) (bs : List Byte) (h : Hearth) : Hearth :=
  { h with wscales := csets one32 h.wscales ((slot * 64 + blk) * 256) (words32 256 bs) }

/-! ### The ports of a Hearth (R245) -/

/-- A unit written where its tile slot is still allocated, and else dropped. DESIGN CHOICE (log 83). -/
def putReq (r : HReq) (h : Hearth) : Hearth :=
  if tileHeight h r.slot = 0 then h
  else if r.scale then putScales r.slot r.first r.bytes h
  else putRows r.slot r.first r.bytes h

/-- An operation of the queue entry that a request belongs to. -/
def ownEntry (r : HReq) (f : QEntry → QEntry) (st : Strand) : Strand :=
  if isStrand r.fn r.seq r.gang r.lsn st then
    { st with vctx := { st.vctx with queue := st.vctx.queue.map fun e => if e.id = r.entry then f e else e } }
  else st

/-- A request served: the unit is written whole, and its entry has made one unit more, a dropped one too. DESIGN
CHOICE (log 83). -/
def serveUnit (r : HReq) (s : State) : State :=
  let s := updHearth r.core (putReq r) s
  let f := ownEntry r fun e => { e with prog := e.prog + 1 }
  { s with me := f s.me, others := s.others.map f }

/-- The requests at the port of a core. -/
def portReqs (s : State) (core : Nat) : List HReq := (hearthOf s core).ports.filter fun r => r.core == core

/-- Every request at the port of a core served, in order. -/
def servePort (core : Nat) (s : State) : State :=
  (portReqs s core).foldl (fun s r => serveUnit r s)
    (updHearth core (fun h => { h with ports := h.ports.filter fun r => r.core != core }) s)

/-- Whether a unit of an entry stands at its port. -/
def unitOut (e : QEntry) (s : State) : Bool := (portReqs s s.me.core).any fun r => r.entry == e.id

/-- A unit that joins the port of the strand's core. -/
def sendUnit (e : QEntry) (scale : Bool) (slot first : Nat) (bs : List Byte) (s : State) : State :=
  let r : HReq :=
    { fn := s.me.fn, seq := s.me.lseq, gang := s.me.gang, lsn := s.me.lsn, entry := e.id, core := s.me.core, scale := scale,
      slot := slot, first := first, bytes := bs }
  updHearth s.me.core (fun h => { h with ports := h.ports ++ [r] }) s

/-- The unit that stands at the port is served before the entry goes on; its progress then. -/
def unitDone (e : QEntry) (s : State) : Nat × State := (e.prog + b2n (unitOut e s), servePort s.me.core s)

/-- A unit read and served: the entry stands at its port where the agenda leaves the serve to a later move (log 2). -/
def putUnit (e : QEntry) (scale : Bool) (slot first : Nat) (bs : List Byte) (s : State) : State :=
  let t := sendUnit e scale slot first bs s
  if s.defer then t else servePort s.me.core t

def cfgBody (d : BitVec 5) (slot : Nat) : Body := fun e _ s =>
  let core := s.me.core
  let s := servePort core s
  let h := hearthOf s core
  let n := e.a.toNat
  let cur := tileHeight h slot
  if n = 0 then doneReg d 0 (updHearth core (fun h => { clearTile slot h with heights := tdel h.heights slot }) s)
  else if cur = 0 then
    if n / 1024 ≤ freeMacros h then
      doneReg d 0 (updHearth core (fun h => { clearTile slot h with heights := tset h.heights slot n }) s)
    else doneReg d 1 s
  else if cur = n then doneReg d 0 s
  else doneReg d 2 s

/-- MWLD .cfg (R237, R238). -/
def execMwldCfg (d a : BitVec 5) (r : BitVec 8) (s : State) : Out :=
  let i := Instr.mwldCfg d a r
  onStrand s (issueWith i [] anyType
    (fun s => needOk i ([0, 1024, 2048, 4096].contains (reg s a).toNat)) id (reg s a) 0 0 (cfgBody d r.toNat) s)

/-- Units of a load of the weight or scale store, each written when the Hearth serves it (R245). -/
def tileLoop (scale : Bool) (slot unit step first total : Nat) (e : QEntry) : Nat → Nat → State → VRes
  | 0, k, s => if k = total then .done s else .more s k
  | n + 1, k, s =>
    if total ≤ k then .done s
    else if tileHeight (hearthOf s s.me.core) slot = 0 then tileFault e.b k s
    else
      match hearthRead s ((e.a.toNat + unit * k) % 2 ^ 64) unit with
      | .error (ad, r) => vecFault r ad k false s
      | .ok bs =>
        let t := putUnit e scale slot (first + step * k) bs (settle s)
        if s.defer then .more t k else tileLoop scale slot unit step first total e n (k + 1) t

/-- MWLD `.sp` and `.sc`: a span of units that the slot holds. The slot and the span are checked before the address. DESIGN CHOICE
(log 58): R237 gives the two checks no order. -/
def tileBody (scale : Bool) (slot unit step first rows total : Nat) : Body := fun e quota s =>
  if s.defer && unitOut e s then .more s e.prog
  else
    let (k, s) := unitDone e s
    if tileHeight (hearthOf s s.me.core) slot < rows ∧ k < total then tileFault e.b k s
    else tileLoop scale slot unit step first total e (min quota (total - k)) k s

def spBody (slot : Nat) : Body := fun e =>
  tileBody false slot 16384 64 (spanFirst e.b) (spanFirst e.b + spanCount e.b) (spanCount e.b / 64) e

/-- MWLD .sp (R237, R238). -/
def execMwldSp (a b : BitVec 5) (r : BitVec 8) (s : State) : Out :=
  let i := Instr.mwldSp a b r
  onStrand s (issueWith i [] anyType (fun s => needOk i (rowSpanOk (reg s b))) id (reg s a) (reg s b) 0 (spBody r.toNat) s)

def scBody (slot : Nat) : Body := fun e =>
  tileBody true slot 1024 1 (spanFirst e.b) (64 * (spanFirst e.b + spanCount e.b)) (spanCount e.b) e

/-- MWLD .sc (R237, R238). -/
def execMwldSc (a b : BitVec 5) (r : BitVec 8) (s : State) : Out :=
  let i := Instr.mwldSc a b r
  onStrand s (issueWith i [] anyType (fun s => needOk i (blockSpanOk (reg s b))) id (reg s a) (reg s b) 0 (scBody r.toNat) s)

/-- The blocks of MWLD .q: 256 records each; a partial block's records are consumed and discarded. -/
def tileStream (d : BitVec 5) (q slot : Nat) (e : QEntry) : Nat → Nat → State → VRes
  | 0, k, s => .more s k
  | n + 1, k, s =>
    if spanCount e.b ≤ 64 * k then doneReg d (word (64 * k)) s
    else if tileHeight (hearthOf s s.me.core) slot = 0 then tileFault e.b k s
    else
      let s := kneadTill q (fun f => decide (256 ≤ (headRecs f.res).length) || doneNext f.res) 1024 s
      let f := fifoOf s.me q
      let rs := (headRecs f.res).take 256
      if rs.length = 256 then
        let t := putUnit e false slot (spanFirst e.b + 64 * k) rs.flatten (dropRecs q 256 s)
        if s.defer then .more t k else tileStream d q slot e n (k + 1) t
      else if doneNext f.res then doneReg d (word (64 * k)) (dropRecs q rs.length s)
      else streamStop q rs.length k s

def tqBody (d : BitVec 5) (q slot : Nat) : Body := fun e quota s =>
  if s.defer && unitOut e s then .more s e.prog
  else
    let (k, s) := unitDone e s
    if tileHeight (hearthOf s s.me.core) slot < spanFirst e.b + spanCount e.b ∧ 64 * k < spanCount e.b then tileFault e.b k s
    else tileStream d q slot e quota k s

/-- R238: the FIFO's oldest command whose completion has not been popped is an RDSTR of a run with RW = 64. -/
def streams64 (s : State) (q : Nat) : Option (Nat × Word) :=
  let u := (unpoppedAt s.me q).headD (false, 0)
  if u.1 && fmtRw u.2 == 64 then none else some (0x11, 0)

/-- MWLD .q (R237, R238): the span is judged before the FIFO. DESIGN CHOICE (log 72). -/
def execMwldQ (d : BitVec 5) (a : BitVec 4) (b : BitVec 5) (r : BitVec 8) (s : State) : Out :=
  let i := Instr.mwldQ d a b r
  onStrand s (issueWith i [] anyType
    (fun s => first (needOk i (rowSpanOk (reg s b))) (first (fifoIdle s a.toNat) (streams64 s a.toNat))) id
    0 (reg s b) 0 (tqBody d a.toNat r.toNat) s)

/-! ### MXV (R239, R240) -/

/-- One step of an accumulator element: its new pattern, the flags of its roundings, and whether the first of two gave an
infinity. -/
structure AccStep where
  v : Nat
  fl : Nat
  tinf : Bool
  deriving DecidableEq, Repr

/-- Activation x(i) of register B. -/
def actOf (c : VCtx) (rb b : Nat) (i4 : Bool) (i : Nat) : Int :=
  if i4 then toInt 4 (elemGet c.vf rb 4 b i) else toInt 8 (elemGet c.vf rb 8 b i)

/-- 64 times the value of a stored weight (R130, R131): an integer. -/
def weight64 (x : Nat) : Int :=
  match dyadRead x with
  | .fin neg n d => (if neg then -1 else 1) * ((n * 64 / d : Nat) : Int)
  | _ => 0

/-- 64 × S of a block: exact. -/
def blockSum (h : Hearth) (c : VCtx) (rb b : Nat) (i4 : Bool) (slot row0 lo hi col : Nat) : Int :=
  (span lo hi).foldl (fun a i => a + actOf c rb b i4 i * weight64 (weightAt h slot (row0 + i) col)) 0

def isInfinite : FV → Bool
  | .inf _ => true
  | _ => false

/-- A product that may be invalid, as an operand of the next. -/
def fxVal : FX → FV
  | .val v => v
  | .invalid => .nan false

def fxBad : FX → Bool
  | .invalid => true
  | .val _ => false

/-- The three-way product scale × weight scale × S, taken left to right and rounded once. A NaN scale gives the canonical NaN.
An S of 0 counts as +0. DESIGN CHOICE (log 76). -/
def scaleProduct (x y : Nat) (s64 : Int) : FR :=
  let fx := fp32.read x
  let fy := fp32.read y
  if fx.isNan || fy.isNan then ⟨fp32.canonical, if fx.isSnan || fy.isSnan then flNV else 0⟩ else
  let p := fvMul fx fy
  let q := fvMul (fxVal p) (.fin (decide (s64 < 0)) s64.natAbs 64)
  let nv := if fxBad p || fxBad q then flNV else 0
  let r := fp32.resolve .rne (fxVal q)
  ⟨r.v, r.fl ||| nv⟩

/-- acc + t, rounded. -/
def accAdd (acc t : Nat) : FR := vop .add { et := 3, sew := 32, sat := false, mode := .rne } acc t 0

/-- One element of one block: t, then the sum. -/
def mxvElem (h : Hearth) (c : VCtx) (rb b kreg : Nat) (i4 : Bool) (slot row0 mvl acc j col : Nat) : AccStep :=
  let s64 := blockSum h c rb b i4 slot row0 (64 * j) (min mvl (64 * j + 64)) col
  let t := scaleProduct (scaleGet c kreg j) (wscaleAt h slot (row0 / 64 + j) col) s64
  let r := accAdd acc t.v
  ⟨r.v, t.fl ||| r.fl, isInfinite (fp32.read t.v)⟩

/-! ### The census (R246, R247) -/

/-- h(P). -/
def siteHash (p : Nat) : Nat := bits p 9 2 ^^^ bits p 17 10 ^^^ bits p 25 18 ^^^ bits p 33 26

/-- A 16-bit counter of an entry, which stops at 0xFFFF. -/
def stopAt (x n : Nat) : Nat := min (x + n) 0xFFFF

/-- The counters that one update adds 1 to: NAN, INF, SAT and UNF. -/
def exceptional (x : AccStep) : Nat × Nat × Nat × Nat :=
  let v := fp32.read x.v
  (b2n v.isNan, b2n (x.tinf || isInfinite v), b2n (bit x.fl 2), b2n (bit x.fl 1))

def censusAdd (e : BitVec 64) (n i o u : Nat) : BitVec 64 :=
  BitVec.ofNat 64 (stopAt (field e 63 48) n * 2 ^ 48 + stopAt (field e 47 32) i * 2 ^ 32 + stopAt (field e 31 16) o * 2 ^ 16 +
    stopAt (field e 15 0) u)

/-- Updates counted in the core's entry for an instruction's address. -/
def countSite (addr : Word) (xs : List AccStep) (s : State) : State :=
  let k := s.me.core * 256 + siteHash addr.toNat
  let t := xs.foldl (fun a x => let y := exceptional x; (a.1 + y.1, a.2.1 + y.2.1, a.2.2.1 + y.2.2.1, a.2.2.2 + y.2.2.2))
    (0, 0, 0, 0)
  { s with census := cset zeros s.census k (censusAdd (cget zeros s.census k) t.1 t.2.1 t.2.2.1 t.2.2.2) }

/-- A unit's updates: rows' elements, flags and census. -/
def accUpdate (e : QEntry) (xs : List (Nat × Nat × AccStep)) (s : State) : State :=
  let s := updMe s fun st => { st with
    acc := xs.foldl (fun acc x => cset zeros acc (x.1 * 256 + x.2.1) (BitVec.ofNat 32 x.2.2.v)) st.acc }
  countSite e.addr (xs.map fun x => x.2.2) (orFlags (xs.foldl (fun a x => a ||| x.2.2.fl) 0) s)

def mxvLoop (slot row0 r b kreg mvl : Nat) (i4 : Bool) (e : QEntry) : Nat → Nat → State → VRes
  | 0, j, s => if ceilDiv mvl 64 ≤ j then .done s else .more s j
  | n + 1, j, s =>
    if ceilDiv mvl 64 ≤ j then .done s
    else
      let h := hearthOf s s.me.core
      if tileHeight h slot < row0 + mvl ∨ tileHeight h slot = 0 then tileFault e.a j s
      else
        let c := s.me.vctx
        let xs := (upTo 256).map fun col =>
          (r, col, mxvElem h c (rbOf e.cnt) b kreg i4 slot row0 mvl (accGet s.me r col) j col)
        mxvLoop slot row0 r b kreg mvl i4 e n (j + 1) (accUpdate e xs s)

/-- The tile selector: slot in [3:0], start row in [31:16]. -/
def selSlot (v : Word) : Nat := field v 3 0
def selRow (v : Word) : Nat := field v 31 16

/-- MXV (R239). Its row is judged against MGRANT before its slot and the rows there. DESIGN CHOICE (log 72). The sub-code noted for
the manifest is F2 (log 77). -/
def mxvBody (d b : BitVec 5) (z w : BitVec 1) (r : BitVec 8) : Body := fun e quota s =>
  let mvl := mvlOf e.mvl
  let s := servePort s.me.core s
  let h := hearthOf s s.me.core
  if s.me.vctx.mgrant ≤ r.toNat then shortGrant e e.prog s
  else if tileHeight h (selSlot e.a) = 0 ∨ tileHeight h (selSlot e.a) < selRow e.a + mvl then tileFault e.a e.prog s
  else
    let s := if z = 1 ∧ 0 < mvl ∧ e.prog = 0 then
        updMe s fun st => { st with acc := cclear (r.toNat * 256) 256 st.acc } else s
    mxvLoop (selSlot e.a) (selRow e.a) r.toNat b.toNat d.toNat mvl (w == 1) e (min quota (ceilDiv mvl 64 - e.prog)) e.prog
      (noteTree 0x62 (z.toNat * 2 + w.toNat) mvl s)

/-- MXV (R234, R239, R240, R245): each block is a load at one serve of its core's port. Of several breaches at issue the
mode's and PATH's is raised. DESIGN CHOICE (log 72). -/
def execMxv (d a b : BitVec 5) (z w : BitVec 1) (r : BitVec 8) (s : State) : Out :=
  let i := Instr.mxv d a b z w r
  onStrand s (issueWith i [b] anyType
    (fun s =>
      let v := reg s a
      first (needMatrix i s) (first (needPath i false s)
        (needOk i (field v 15 4 == 0 && field v 63 32 == 0 && selRow v % 64 == 0))))
    id (reg s a) 0 0 (mxvBody d b z w r) s)

/-! ### MOP (R241) -/

/-- The operand format of MOP: BF16, E4M3 or E5M2. -/
def mopFmt (f : Nat) : Fmt :=
  match f with
  | 0 => bf16
  | 1 => e4m3
  | _ => e5m2

/-- acc + a × b, the product exact, rounded once. -/
def mopElem (f : Fmt) (acc x y : Nat) : AccStep :=
  let va := f.read x
  let vb := f.read y
  let vc := fp32.read acc
  let p := fvMul va vb
  let u := fvAdd false (fxVal p) vc
  let nan := va.isNan || vb.isNan || vc.isNan
  let nv := if va.isSnan || vb.isSnan || vc.isSnan || fxBad p || (!nan && fxBad u) then flNV else 0
  if nan || fxBad p || fxBad u then ⟨fp32.canonical, nv, false⟩
  else
    let r := fp32.resolve .rne (fxVal u)
    ⟨r.v, r.fl ||| nv, false⟩

def mopLoop (f : Fmt) (h a b mvl : Nat) (e : QEntry) : Nat → Nat → State → VRes
  | 0, j, s => if ceilDiv mvl 16 ≤ j then .done s else .more s j
  | n + 1, j, s =>
    if ceilDiv mvl 16 ≤ j then .done s
    else
      let c := s.me.vctx
      let rb := rbOf e.cnt
      let xs := (span (16 * j) (min mvl (16 * j + 16))).flatMap fun i => (upTo mvl).map fun k =>
        (h + i, k, mopElem f (accGet s.me (h + i) k) (elemGet c.vf rb f.width a i) (elemGet c.vf rb f.width b k))
      mopLoop f h a b mvl e n (j + 1) (accUpdate e xs s)

/-- The sub-code noted for the manifest is F2 (log 77). -/
def mopBody (a b : BitVec 5) (f : BitVec 2) (r : BitVec 8) : Body := fun e quota s =>
  let mvl := mvlOf e.mvl
  if s.me.vctx.mgrant < r.toNat + mvl then shortGrant e e.prog s
  else mopLoop (mopFmt f.toNat) r.toNat a.toNat b.toNat mvl e (min quota (ceilDiv mvl 16 - e.prog)) e.prog
    (noteTree 0x63 f.toNat mvl s)

/-- MOP (R234, R241). -/
def execMop (a b : BitVec 5) (f : BitVec 2) (r : BitVec 8) (s : State) : Out :=
  let i := Instr.mop a b f r
  onStrand s (issueWith i [a, b] anyType (fun s => first (needMatrix i s) (needPath i true s)) id 0 0 0 (mopBody a b f r) s)

/-! ### Moves of rows (R242) -/

/-- n: value(A), or 1 when A = 0. -/
def rowCount (s : State) (a : BitVec 5) : Word := if a = 0 then 1 else reg s a

/-- n is at least 1, ends at row 256, and for a register fits it. -/
def rowsOk (s : State) (a : BitVec 5) (r : BitVec 8) (vec : Bool) : Bool :=
  let n := (rowCount s a).toNat
  decide (1 ≤ n ∧ n ≤ 256 - r.toNat) && (!vec || decide (n ≤ 262144 / (nregsOf s.me.vctx.cnt * 1024)))

/-- The rows [lo, hi) of a move, one at a time. -/
def rowBody (r : BitVec 8) (f : Nat → State → State) : Body := fun e quota s =>
  let n := e.a.toNat
  if s.me.vctx.mgrant < r.toNat + n then shortGrant e e.prog s
  else
    let hi := min n (e.prog + quota)
    let s := (span e.prog hi).foldl (fun s j => f j s) s
    if hi = n then .done s else .more s hi

/-- MACCRD, whose consumers wait in the queue until it completes (R242). -/
def maccrdBody (d : BitVec 5) (r : BitVec 8) : Body := fun e quota s =>
  rowBody r (fun j s => updCtx s fun c => { c with
    vf := elemsSet c.vf (rbOf e.cnt) 32 d.toNat ((upTo 256).map fun k => (256 * j + k, accGet s.me (r.toNat + j) k)) }) e quota s

def maccwrBody (d : BitVec 5) (r : BitVec 8) : Body := fun e quota s =>
  rowBody r (fun j s => updMe s fun st => { st with
    acc := accSet st.acc (r.toNat + j)
      ((upTo 256).map fun k => (k, elemGet st.vctx.vf (rbOf e.cnt) 32 d.toNat (256 * j + k))) }) e quota s

def macczBody (r : BitVec 8) : Body := fun e quota s =>
  rowBody r (fun j s => updMe s fun st => { st with acc := cclear ((r.toNat + j) * 256) 256 st.acc }) e quota s

/-- MACCRD (R234, R242). Matrix mode is judged before the operand. DESIGN CHOICE (log 72). -/
def execMaccrd (d a : BitVec 5) (r : BitVec 8) (s : State) : Out :=
  let i := Instr.maccrd d a r
  onStrand s (issueWith i [d] anyType (fun s => first (needMatrix i s) (needOk i (rowsOk s a r true))) id
    (rowCount s a) 0 0 (maccrdBody d r) s)

/-- MACCWR (R234, R242). Matrix mode is judged before the operand. DESIGN CHOICE (log 72). -/
def execMaccwr (d a : BitVec 5) (r : BitVec 8) (s : State) : Out :=
  let i := Instr.maccwr d a r
  onStrand s (issueWith i [d] anyType (fun s => first (needMatrix i s) (needOk i (rowsOk s a r true))) id
    (rowCount s a) 0 0 (maccwrBody d r) s)

/-- MACCZ (R234, R242). Matrix mode is judged before the operand. DESIGN CHOICE (log 72). -/
def execMaccz (a : BitVec 5) (r : BitVec 8) (s : State) : Out :=
  let i := Instr.maccz a r
  onStrand s (issueWith i [] anyType (fun s => first (needMatrix i s) (needOk i (rowsOk s a r false))) id
    (rowCount s a) 0 0 (macczBody r) s)

/-! ### MSAVE and MREST (R243, R289) -/

/-- The save area's checks (R243, R160 with n = 8): a multiple of 256, in scratchpad or, where host is allowed, host
space. Its words' locations, or the first that faults. -/
def areaLocs (s : State) (host : Bool) (e n : Nat) (a : Acc) : Except (Nat × MRes) (List Loc) :=
  if e % 256 ≠ 0 then .error (e, .misaligned)
  else
    let us := (upTo (n / 8)).map fun j =>
      let ad := (e + 8 * j) % 2 ^ 64
      (ad, if ad < hostSize && !host then MRes.access else reach s ad a)
    match us.find? (fun x => !isOk x.2) with
    | some x => .error x
    | none => .ok (us.filterMap fun x => locOf x.2)

/-- The header of a save area. -/
def saveHeader (rows : Nat) : List Byte := toBytes 8 rows ++ toBytes 56 0

/-- The bytes of the strand's rows. -/
def rowBytes (st : Strand) (rows : Nat) : List Byte := (upTo (rows * 256)).flatMap fun k => toBytes 4 (cget zeros st.acc k).toNat

/-- The stores of eight bytes at each location, from word k on. -/
def wordStores (ls : List Loc) (bs : List Byte) (k : Nat) : List (Nat × Loc × List PByte) :=
  (((upTo ls.length).zip ls).drop k).map fun x => (x.1, x.2, ((bs.drop (8 * x.1)).take 8).map full)

/-- MSAVE's effect from word k on: the area written, every row released; or, in deterministic mode, a drain point at the word
that finds every line taken (R99). -/
def msaveAt (host : Bool) (en : QEntry) (e k : Nat) (s : State) : Except (Nat × MRes) (State × Option Nat) :=
  let rows := s.me.vctx.mgrant
  let bs := saveHeader rows ++ rowBytes s.me rows
  match areaLocs s host e bs.length .store with
  | .error x => .error x
  | .ok ls =>
    match storeLoop false en (wordStores ls bs k) s with
    | (s, some j) => .ok (s, some j)
    | (s, none) => .ok (releaseRows s, none)

/-- What MREST comes to: done, a failed check of the area, or a trap. -/
inductive Rest where
  | ok (s : State)
  | mem (addr : Nat) (r : MRes)
  | bad (cause : Nat) (tval : Word)
  deriving DecidableEq, Repr

/-- Bytes at locations of eight bytes each. -/
def loadWords (s : State) (ls : List Loc) : List Byte := ls.flatMap fun l => readLoc (settle s) l 8

/-- MREST's effect (R243): rows that the Hearth can grant, those reserved for this strand among them. Rows held are judged
before the area, and the area before what the Hearth can grant. DESIGN CHOICE (log 72). -/
def mrestAt (host : Bool) (e : Nat) (w : Word) (s : State) : Rest :=
  if s.me.accRows ≠ 0 then .bad 0x11 0
  else
    match areaLocs s host e 64 .load with
    | .error x => .mem x.1 x.2
    | .ok hd =>
      let bs := loadWords s hd
      let rows := ofBytes (bs.take 8)
      if rows % 16 ≠ 0 ∨ 256 < rows ∨ ofBytes (bs.drop 8) ≠ 0 then .bad 4 (word e)
      else
        match areaLocs s host e (64 + rows * 1024) .load with
        | .error x => .mem x.1 x.2
        | .ok ls =>
          if freeRows s s.me.core + s.me.reserved < rows then .bad 0x0A w
          else
            let cells := words32 (rows * 256) ((loadWords s ls).drop 64)
            .ok (updCtx (updMe (settle s) fun st => { st with
              accRows := rows, reserved := 0, acc := csets zeros [] 0 cells }) fun c => { c with mgrant := rows })

/-- MSAVE. While it stands at a drain point its progress counts its stores; no stop falls there (Table 13.4, log 59). -/
def msaveBody : Body := fun e _ s =>
  match msaveAt false e e.a.toNat e.prog (takePermit s) with
  | .ok (s, none) => .done s
  | .ok (s, some k) => .more s k
  | .error (ad, r) => vecFault r ad e.prog true s

def mrestBody : Body := fun e _ s =>
  match mrestAt false e.a.toNat (word (encodeNat e.instr)) s with
  | .ok s => .done s
  | .mem ad r => vecFault r ad 0 false s
  | .bad cause tval => .trap s 0 cause tval

/-- MSAVE of a pre-emption handler, from the word that its drain point has reached: the dispatcher records the saved row count
with the gang (R244). In deterministic mode a store that finds every line taken is a drain point here too (R99, log 59). -/
def handlerMsaveAt (i : Instr) (e : Nat) (s : State) : Except (Nat × MRes) (State × Bool) :=
  let rows := s.me.vctx.mgrant
  match msaveAt true (mkEntry i 0 0 0 s) e s.me.areaProg (takePermit s) with
  | .ok (s, none) => .ok (updMe s fun st => { st with savedRows := rows, areaProg := 0 }, true)
  | .ok (s, some k) => .ok (updMe s fun st => { st with areaProg := k }, false)
  | .error x => .error x

/-- A vector-queue instruction that executes at issue in such a handler has completed: it is counted, sampled and traced
(R324, R325). -/
def countIssued (i : Instr) (s : State) : State := countEntry (mkEntry i 0 0 0 s) { s with nextId := s.nextId + 1 }

/-- In handler mode with cause 0x0E (R289). -/
def inPreemption (s : State) : Bool := s.me.hm && field s.me.tcause 7 0 == 0x0E

/-- MSAVE (R243); in handler mode with cause 0x0E it executes at issue, its area in host space too (R289). -/
def execMsave (a : BitVec 5) (s : State) : Out :=
  onStrand s (
    if inPreemption s then
      match handlerMsaveAt (.msave a) (reg s a).toNat s with
      | .ok (s, done) => if done then advance (countIssued (.msave a) s) else s
      | .error (ad, r) => memFault r ad true false s
    else issueVec (.msave a) [] anyType (reg s a) 0 0 msaveBody s)

/-- MREST (R243); in handler mode with cause 0x0E it executes at issue, its area in host space too (R289). -/
def execMrest (a : BitVec 5) (s : State) : Out :=
  let w := word (encodeNat (.mrest a))
  onStrand s (
    if inPreemption s then
      match mrestAt true (reg s a).toNat w (completeOut s) with
      | .ok s => advance (countIssued (.mrest a) s)
      | .mem ad r => memFault r ad false false s
      | .bad cause tval => trapFront cause tval s
    else issueVec (.mrest a) [] anyType (reg s a) 0 0 mrestBody s)

/-! ### MCENS (R247) -/

def censusKey (s : State) (v : Word) : Nat := s.me.core * 256 + v.toNat % 256

def mcensRdBody (d : BitVec 5) : Body := fun e _ s => doneReg d (cget zeros s.census (censusKey s e.a)) s

/-- MCENS .rd (R247). -/
def execMcensRd (d a : BitVec 5) (s : State) : Out :=
  onStrand s (issueVec (.mcensRd d a) [] anyType (reg s a) 0 0 (mcensRdBody d) s)

def mcensRdclrBody (d : BitVec 5) : Body := fun e _ s =>
  doneReg d (cget zeros s.census (censusKey s e.a)) { s with census := cclear (censusKey s e.a) 1 s.census }

/-- MCENS .rdclr (R247). -/
def execMcensRdclr (d a : BitVec 5) (s : State) : Out :=
  onStrand s (issueVec (.mcensRdclr d a) [] anyType (reg s a) 0 0 (mcensRdclrBody d) s)

def mcensClrBody : Body := fun _ _ s => .done { s with census := cclear (s.me.core * 256) 256 s.census }

/-- MCENS .clr (R247). -/
def execMcensClr (s : State) : Out := onStrand s (issueVec .mcensClr [] anyType 0 0 0 mcensClrBody s)

def mcensIdxBody (d : BitVec 5) : Body := fun e _ s => doneReg d (word (siteHash e.a.toNat)) s

/-- MCENS .idx (R247). -/
def execMcensIdx (d a : BitVec 5) (s : State) : Out :=
  onStrand s (issueVec (.mcensIdx d a) [] anyType (reg s a) 0 0 (mcensIdxBody d) s)

end Sys2Proof.Machine
end

