-- ==== Sys2Proof/Machine/Proofer.lean ====
section
/-! DEFINITION. The Proofers: sequences and pools (R258, R259), watch entries (R260), the check (R262, R263) and the
instructions (R264 to R273). -/

namespace Sys2Proof.Machine

/-! ### Pools (R258, R259, Table 17.1) -/

/-- The stack of a core. -/
def stackOf (core : Nat) : Nat := core / 64

/-- The pool of a function on a stack: BASE and COUNT. -/
def poolOf (f : Func) (stack : Nat) : Nat × Nat := tget (0, 0) f.pools stack

/-- The key of identifier id on the issuing strand's stack. -/
def seqKey (s : State) (id : Nat) : Nat := stackOf s.me.core * 4096 + id

def seqAt (s : State) (key : Nat) : Seq := tget Seq.reset s.seqs key

/-- A FREE sequence is not listed. -/
def putSeq (s : State) (key : Nat) (q : Seq) : State :=
  { s with seqs := if q = Seq.reset then tdel s.seqs key else tset s.seqs key q }

def inRange (p : Nat × Nat) (id : Nat) : Bool := decide (p.1 ≤ id ∧ id < p.1 + p.2)

/-- An identifier of the strand's pool. A sequence that is not FREE stays with the function that loaded it when the pool's
range changes (Table 17.1). DEDUCED (log 36). -/
def inPool (s : State) (id : Nat) : Bool :=
  let q := seqAt s (seqKey s id)
  decide (id < 4096) && (if q.st = 0 then inRange (poolOf (fnOf s s.me.fn) (stackOf s.me.core)) id else q.owner == s.me.fn)

/-- The least FREE identifier of the strand's pool. -/
def leastFree (s : State) : Option Nat :=
  let p := poolOf (fnOf s s.me.fn) (stackOf s.me.core)
  (span p.1 (p.1 + p.2)).find? fun id => (seqAt s (seqKey s id)).st == 0

/-! ### Watch entries (R260, Table 15.3) -/

/-- Word j of 32 bits. -/
def tok32 (bs : List Byte) (j : Nat) : BitVec 32 := BitVec.ofNat 32 (ofBytes ((bs.drop (4 * j)).take 4))

def watchEntry (bs : List Byte) : WEntry :=
  let c := wordAt bs 6
  { pats := (upTo 8).map (tok32 bs), injs := (upTo 4).map fun j => tok32 bs (8 + j), ninj := field c 28 26,
    bit := field c 25 21, once := bit c.toNat 19, act := field c 18 16, wild := BitVec.ofNat 8 (field c 15 8),
    len := field c 4 2, kind := field c 1 0, limit := field (wordAt bs 7) 31 0 }

/-- NINJ agrees with ACT. -/
def injOk (w : WEntry) : Bool := if w.act = 2 then decide (1 ≤ w.ninj ∧ w.ninj ≤ 4) else w.ninj == 0

/-- The entry of 64 bytes is well formed. -/
def watchOk (bs : List Byte) : Bool :=
  let w := watchEntry bs
  let c := wordAt bs 6
  let reserved := field c 63 29 == 0 && !bit c.toNat 20 && field c 7 5 == 0 && field (wordAt bs 7) 63 32 == 0
  let tail := (upTo 4).all fun j => decide (j < w.ninj) || w.injs.getD j 0 == 0
  match w.kind with
  | 0 => bs.all fun b => b == 0
  | 1 => reserved && tail && decide (w.act ≤ 4) && injOk w && w.limit == 0 &&
      (upTo 8).all fun j => decide (j ≤ w.len) || (w.pats.getD j 0 == 0 && !w.wild.getLsbD j)
  | 2 => reserved && tail && decide (w.act ≤ 4) && injOk w && w.len == 0 && w.wild == 0 &&
      w.pats.all (fun p => p == 0) && decide (1 ≤ w.limit)
  | _ => false

/-- An empty table slot. -/
def emptyEntry : WEntry := watchEntry (List.replicate 64 0)

/-- A sequence just loaded with a table (R261). -/
def loadedSeq (fn tenant : Nat) (ws : List WEntry) : Seq :=
  let es := (upTo 8).map fun j => ws.getD j emptyEntry
  let armed := (upTo 8).foldl (fun a j => if (es.getD j emptyEntry).kind = 0 then a else a ||| ((1 : BitVec 8) <<< j)) 0
  { Seq.reset with st := 1, owner := fn, tenants := [tenant], entries := es, h := { Hist.reset with armed := armed } }

/-! ### The check (R262) -/

def entryAt (es : List WEntry) (e : Nat) : WEntry := es.getD e emptyEntry

def isArmed (h : Hist) (e : Nat) : Bool := h.armed.getLsbD e

def countAt (h : Hist) (e : Nat) : Nat := (cget zeros h.cnt e).toNat

/-- The newest 8 of a history. -/
def newest (l : List (BitVec 32)) : List (BitVec 32) := l.drop (l.length - 8)

/-- join. -/
def joinTok (es : List WEntry) (t : BitVec 32) (h : Hist) : Hist :=
  { h with
    toks := newest (h.toks ++ [t]), total := h.total + 1,
    cnt := (upTo 8).foldl (fun c e =>
      if isArmed h e && (entryAt es e).kind == 2 then cset zeros c e (BitVec.ofNat 32 (min (countAt h e + 1) (2 ^ 32 - 1)))
      else c) h.cnt }

/-- Whether an entry's condition holds. -/
def matchesAt (w : WEntry) (h : Hist) (e : Nat) : Bool :=
  match w.kind with
  | 1 =>
    let n := h.toks.length
    decide (w.len + 1 ≤ n) &&
      (upTo (w.len + 1)).all fun j => w.wild.getLsbD j || w.pats.getD j 0 == h.toks.getD (n - (w.len + 1) + j) 0
  | 2 => decide (w.limit ≤ countAt h e)
  | _ => false

/-- F. -/
def firing (es : List WEntry) (h : Hist) : List Nat := (upTo 8).filter fun e => isArmed h e && matchesAt (entryAt es e) h e

/-- The entry of least ACT code, ties to the least index. -/
def leastAct (es : List WEntry) : List Nat → Option Nat
  | [] => none
  | e :: t =>
    match leastAct es t with
    | none => some e
    | some f => if (entryAt es f).act < (entryAt es e).act then some f else some e

/-- select: Nset and w. -/
def selectSet (es : List WEntry) (h : Hist) : List Nat × Option Nat :=
  let f := firing es h
  (f.filter (fun e => (entryAt es e).act == 4), leastAct es (f.filter fun e => (entryAt es e).act != 4))

/-- consume. -/
def consume (es : List WEntry) (e : Nat) (h : Hist) : Hist :=
  let w := entryAt es e
  if w.once then { h with armed := h.armed &&& ~~~((1 : BitVec 8) <<< e) }
  else if w.kind = 2 then { h with cnt := cset zeros h.cnt e 0 }
  else h

/-! ### Firing (R263, R273) -/

/-- A function's interrupt vector signalled. -/
def raiseVector (fn v : Nat) (s : State) : State := updFn s fn fun f => { f with msix := f.msix ++ [v] }

/-- NOTIFY.BITS[j] := 1: a rising bit is an event (R283), and signals vector 8 under PWCTL.IE. -/
def notifyBit (j : Nat) (s : State) : State :=
  if s.me.notify.getLsbD j then s
  else
    let s := updMe s fun st => raiseEv { st with notify := st.notify ||| ((1 : BitVec 34) <<< j) }
    if s.me.pwctl.getLsbD j then raiseVector s.me.fn 8 s else s

/-- NOTIFY.FF or QF, whose rising is an event too (R283). -/
def notifyFlag (n : Nat) (s : State) : State :=
  if s.me.notify.getLsbD n then s else updMe s fun st => raiseEv { st with notify := st.notify ||| ((1 : BitVec 34) <<< n) }

/-- What firing came to, for the result word (Table 15.4). -/
structure Fired where
  act : Nat
  ent : Nat
  child : Nat
  qf : Bool
  ff : Bool
  deriving DecidableEq, Repr

def Fired.none : Fired := ⟨7, 0, 0, false, false⟩

/-- PWSTAT (Table 15.6). -/
def statWord (tok : BitVec 32) (id dpos : Nat) (conf : Bool) (e : Nat) : Word :=
  word (tok.toNat * 2 ^ 32 + id * 2 ^ 20 + dpos * 2 ^ 16 + b2n conf * 2 ^ 15 + e * 2 ^ 12)

/-- A degraded action: a NOTIFY of the entry's own BIT with QF (33) or FF (32). -/
def degraded (j n : Nat) (s : State) : State := notifyFlag n (notifyBit j s)

/-- The child of a FORK. -/
def childSeq (q : Seq) : Seq := { q with st := 1, fq := [], drafts := [], shadow := Hist.reset }

/-- The action of w on the sequence id, its consumption made. -/
def act (id e dpos : Nat) (conf : Bool) (s : State) : State × Fired :=
  let k := seqKey s id
  let q := seqAt s k
  let w := entryAt q.entries e
  match w.act with
  | 0 => (putSeq s k { q with st := 2, fq := [], drafts := [], shadow := Hist.reset }, ⟨0, e, 0, false, false⟩)
  | 1 => (updMe s fun st => { st with pwstat := statWord (q.h.toks.getLastD 0) id dpos conf e }, ⟨1, e, 0, false, false⟩)
  | 2 =>
    if q.fq.length + w.ninj ≤ 16 then
      let ts := w.injs.take w.ninj
      (putSeq s k { q with h := ts.foldl (fun h t => joinTok q.entries t h) q.h, fq := q.fq ++ ts }, ⟨2, e, 0, false, false⟩)
    else (degraded w.bit 33 s, ⟨4, e, 0, true, false⟩)
  | _ =>
    match leastFree s with
    | some c => (putSeq s (seqKey s c) (childSeq q), ⟨3, e, c, false, false⟩)
    | none => (degraded w.bit 32 s, ⟨4, e, 0, false, true⟩)

def consumeSeq (id e : Nat) (s : State) : State :=
  let q := seqAt s (seqKey s id)
  putSeq s (seqKey s id) { q with h := consume q.entries e q.h }

/-- fire. -/
def fire (id : Nat) (nset : List Nat) (w : Option Nat) (dpos : Nat) (conf : Bool) (s : State) : State × Fired :=
  let es := (seqAt s (seqKey s id)).entries
  let s := nset.foldl (fun s e => consumeSeq id e (notifyBit (entryAt es e).bit s)) s
  match w with
  | none => (s, match nset with | [] => Fired.none | e :: _ => ⟨4, e, 0, false, false⟩)
  | some e => act id e dpos conf (consumeSeq id e s)

/-- The result word. -/
def resultWord (n : Nat) (q : Seq) (f : Fired) : Word :=
  word (n * 2 ^ 28 + q.fq.length * 2 ^ 23 + b2n f.qf * 2 ^ 22 + b2n f.ff * 2 ^ 21 + q.st * 2 ^ 19 + f.act * 2 ^ 16 +
    f.ent * 2 ^ 12 + f.child)

def joinSeq (id : Nat) (t : BitVec 32) (s : State) : State :=
  let q := seqAt s (seqKey s id)
  putSeq s (seqKey s id) { q with h := joinTok q.entries t q.h }

def discardDrafts (id : Nat) (s : State) : State :=
  let q := seqAt s (seqKey s id)
  putSeq s (seqKey s id) { q with drafts := [], shadow := Hist.reset }

/-- D written, and the Proofer trap where a TRAP fired (R272). -/
def endProof (d : BitVec 5) (id n : Nat) (f : Fired) (s : State) : VRes :=
  let s := setReg s d (resultWord n (seqAt s (seqKey s id)) f)
  if f.act = 1 then .fired s 0x0B 0 else .done s

/-- A Proofer instruction on a sequence operand of the strand's pool (R264); TVAL is the operand. DEDUCED (log 17). -/
def onSeq (k : Nat → Word → State → VRes) : Body := fun e _ s =>
  if inPool s e.a.toNat then k e.a.toNat e.b s else .trap s 0 4 e.a

def tokenOf (b : Word) : BitVec 32 := b.setWidth 32

/-! ### PWLD (R266) -/

/-- The bytes of a table, its 8-byte words checked in order. -/
def tableRead (s : State) (e n : Nat) : Except (Nat × MRes) (List Byte) :=
  if e % 64 ≠ 0 then .error (e, .misaligned)
  else
    let us := (upTo (8 * n)).map fun j => let a := (e + 8 * j) % 2 ^ 64; (a, resolve s a 8 .load)
    match us.find? (fun x => !isOk x.2) with
    | some x => .error x
    | none => .ok (us.flatMap fun x => match x.2 with | .ok l => readLoc (settle s) l 8 | _ => [])

/-- The tables of a block of 64-byte entries. -/
def tableOf (bs : List Byte) (n : Nat) : List (List Byte) := (upTo n).map fun j => (bs.drop (64 * j)).take 64

def loadSeq (d : BitVec 5) (id : Nat) (ws : List (List Byte)) (s : State) : VRes :=
  doneReg d (word id) (putSeq s (seqKey s id) (loadedSeq s.me.fn (fnOf s s.me.fn).tenant (ws.map watchEntry)))

def pwldBody (d : BitVec 5) (new : BitVec 1) (q : BitVec 3) : Body := fun e _ s =>
  let n := q.toNat + 1
  match tableRead (visitWords (8 * n) s e.a.toNat) e.a.toNat n with
  | .error (ad, r) => vecFault r ad 0 false s
  | .ok bs =>
    let ws := tableOf bs n
    let id := e.b.toNat
    let s := noteManifest (visitWords (8 * n) s e.a.toNat) fun m => { m with proof := recInsert m.proof bs }
    if new = 0 ∧ inPool s id = false then .trap s 0 4 e.b
    else
      if ws.any (fun w => !watchOk w) then doneReg d (0 - 2) s
      else if new = 0 then loadSeq d id ws s
      else
        match leastFree s with
        | none => doneReg d (0 - 1) s
        | some id => loadSeq d id ws s

/-- PWLD (R264, R266). -/
def execPwld (d a b : BitVec 5) (n : BitVec 1) (q : BitVec 3) (s : State) : Out :=
  onStrand s (issueVec (.pwld d a b n q) [] anyType (reg s a) (reg s b) 0 (pwldBody d n q) s)

/-! ### PWCNT (R267) -/

/-- The status word. -/
def seqStatus (q : Seq) : Word :=
  word (q.h.total.toNat * 2 ^ 32 + q.h.armed.toNat * 2 ^ 20 + q.drafts.length * 2 ^ 16 + q.fq.length * 2 ^ 8 +
    q.h.toks.length * 2 ^ 4 + q.st)

def pwcntStBody (d : BitVec 5) : Body := onSeq fun id _ s => doneReg d (seqStatus (seqAt s (seqKey s id))) s

/-- PWCNT .st (R264, R267). -/
def execPwcntSt (d a : BitVec 5) (s : State) : Out :=
  onStrand s (issueVec (.pwcntSt d a) [] anyType (reg s a) 0 0 (pwcntStBody d) s)

/-- The token j places back from the newest. -/
def histTok (h : Hist) (j : Nat) : Word :=
  if h.toks.length ≤ j then 0 - 1 else (h.toks.getD (h.toks.length - 1 - j) 0).setWidth 64

def pwcntHistBody (d : BitVec 5) : Body := onSeq fun id b s => doneReg d (histTok (seqAt s (seqKey s id)).h b.toNat) s

/-- An index value above 7 is illegal at issue (R265). -/
def indexOk (i : Instr) (v : Word) : Option (Nat × Word) := needOk i (decide (v.toNat ≤ 7))

/-- PWCNT .hist (R264, R265, R267). -/
def execPwcntHist (d a b : BitVec 5) (s : State) : Out :=
  let i := Instr.pwcntHist d a b
  onStrand s (issueWith i [] anyType (fun s => indexOk i (reg s b)) id (reg s a) (reg s b) 0 (pwcntHistBody d) s)

def cntWord (q : Seq) (e : Nat) : Word := word (b2n (isArmed q.h e) * 2 ^ 32 + countAt q.h e)

def pwcntCntBody (d : BitVec 5) : Body := onSeq fun id b s => doneReg d (cntWord (seqAt s (seqKey s id)) b.toNat) s

/-- PWCNT .cnt (R264, R265, R267). -/
def execPwcntCnt (d a b : BitVec 5) (s : State) : Out :=
  let i := Instr.pwcntCnt d a b
  onStrand s (issueWith i [] anyType (fun s => indexOk i (reg s b)) id (reg s a) (reg s b) 0 (pwcntCntBody d) s)

def pwcntFreeBody : Body := onSeq fun id _ s => .done (putSeq s (seqKey s id) Seq.reset)

/-- PWCNT .free (R264, R267). -/
def execPwcntFree (a : BitVec 5) (s : State) : Out :=
  onStrand s (issueVec (.pwcntFree a) [] anyType (reg s a) 0 0 pwcntFreeBody s)

/-! ### PWCHK, PWDRFT, PWCONF, PWINJ (R268 to R271) -/

def pwchkBody (d : BitVec 5) : Body := onSeq fun id b s =>
  let q := seqAt s (seqKey s id)
  if q.st ≠ 1 then endProof d id 0 Fired.none s
  else
    let s := joinSeq id (tokenOf b) (discardDrafts id s)
    let q := seqAt s (seqKey s id)
    let x := selectSet q.entries q.h
    let r := fire id x.1 x.2 0 false s
    endProof d id 0 r.2 r.1

/-- PWCHK (R264, R268). -/
def execPwchk (d a b : BitVec 5) (s : State) : Out :=
  onStrand s (issueVec (.pwchk d a b) [] anyType (reg s a) (reg s b) 0 (pwchkBody d) s)

/-- What a draft holds, for the result word. -/
def heldOf (x : List Nat × Option Nat) : Fired :=
  match x with
  | (_, some e) => ⟨5, e, 0, false, false⟩
  | (e :: _, none) => ⟨5, e, 0, false, false⟩
  | ([], none) => Fired.none

def pwdrftBody (d : BitVec 5) : Body := onSeq fun id b s =>
  let q := seqAt s (seqKey s id)
  if q.st ≠ 1 then endProof d id 0 Fired.none s
  else if q.drafts.length = 8 then .trap s 0 0x11 0
  else
    let h := joinTok q.entries (tokenOf b) (if q.drafts.isEmpty then q.h else q.shadow)
    let x := selectSet q.entries h
    let h := (x.1 ++ x.2.toList).foldl (fun h e => consume q.entries e h) h
    let ds := q.drafts ++ [⟨tokenOf b, x.1, x.2⟩]
    endProof d id ds.length (heldOf x) (putSeq s (seqKey s id) { q with drafts := ds, shadow := h })

/-- PWDRFT (R264, R269). -/
def execPwdrft (d a b : BitVec 5) (s : State) : Out :=
  onStrand s (issueVec (.pwdrft d a b) [] anyType (reg s a) (reg s b) 0 (pwdrftBody d) s)

/-- Drafts confirmed from position p on: the count accepted, and the last that fired anything. -/
def confirm (id : Nat) : Nat → List Draft → Fired → State → State × Nat × Fired
  | p, [], f, s => (s, p, f)
  | p, x :: t, f, s =>
    let r := fire id x.nset x.w (p + 1) true (joinSeq id x.tok s)
    let g := if r.2.act = 7 then f else r.2
    match x.w with
    | some _ => (r.1, p + 1, g)
    | none => confirm id (p + 1) t g r.1

def pwconfBody (d : BitVec 5) : Body := onSeq fun id b s =>
  let q := seqAt s (seqKey s id)
  let r := confirm id 0 (q.drafts.take b.toNat) Fired.none s
  endProof d id r.2.1 r.2.2 (discardDrafts id r.1)

/-- PWCONF (R264, R270). -/
def execPwconf (d a b : BitVec 5) (s : State) : Out :=
  onStrand s (issueVec (.pwconf d a b) [] anyType (reg s a) (reg s b) 0 (pwconfBody d) s)

def pwinjBody (d : BitVec 5) : Body := onSeq fun id _ s =>
  let q := seqAt s (seqKey s id)
  match q.fq with
  | [] => doneReg d (0 - 1) s
  | t :: ts => doneReg d (t.setWidth 64) (putSeq s (seqKey s id) { q with fq := ts })

/-- PWINJ (R264, R271). -/
def execPwinj (d a : BitVec 5) (s : State) : Out :=
  onStrand s (issueVec (.pwinj d a) [] anyType (reg s a) 0 0 (pwinjBody d) s)

end Sys2Proof.Machine
end

