-- ==== Sys2Proof/Machine/VConfig.lean ====
section
/-! DEFINITION. Vector configuration (R113 to R126): VSETL, VCFG, VREGS, MSTART and MSTOP. Their effects on the
configuration stand at issue, in program order. -/

namespace Sys2Proof.Machine

/-- The least of the four limits of R115. -/
def grantOf (req maxvl vlcap lc : Nat) (det : Bool) : Nat :=
  min (min req maxvl) (min vlcap (if det then maxvl else maxvl * lc / 8))

/-- VSETL's request: value(A), or sys12 when A = 0. -/
def vsetlReq (s : State) (a : BitVec 5) (i : BitVec 12) : Nat := if a = 0 then i.toNat else (reg s a).toNat

/-- g of R115 under the VSHAPE and N of program order. -/
def vsetlGrant (s : State) (a : BitVec 5) (i : BitVec 12) : Nat :=
  let c := s.me.vctx
  grantOf (vsetlReq s a i) (maxVl c.vshape c.cnt) s.me.vlcap s.me.lc s.me.det

/-- VL := g; later instructions belong to a new span of program order (R169). -/
def setVl (g : Nat) (s : State) : State := updCtx s fun c => { c with vl := g, vlGrant := g, vlSpan := c.vlSpan + 1 }

/-- VSETL (R115): VL and D are written when it enters the queue. -/
def execVsetl (d a : BitVec 5) (i : BitVec 12) (s : State) : Out :=
  let ins := Instr.vsetl d a i
  let g := vsetlGrant s a i
  onStrand s (issueWith ins [] anyType (fun _ => none) (fun s => setReg (setVl g s) d (word g)) 0 0 0 placeBody s)

/-- VCFG (R120, R121): a refused value is illegal at the instruction. -/
def execVcfg (d a : BitVec 5) (s : State) : Out :=
  let i := Instr.vcfg d a
  let v := reg s a
  onStrand s (issueWith i [] anyType (fun _ => needOk i (shapeOk v))
    (fun s => setReg (updCtx s fun c => { c with vshape := v }) d s.me.vctx.vshape) v 0 0 placeBody s)

/-- The code of a register count: 4, 8, 16, 32 (Table 6.3). -/
def countCode (n : BitVec 12) : BitVec 2 :=
  match n.toNat with
  | 4 => 0
  | 8 => 1
  | 16 => 2
  | _ => 3

/-- In the queue VREGS zeroes the physical file (R122). -/
def vregsBody : Body := fun _ _ s => .done (updCtx s fun c => { c with vf := [] })

/-- VREGS (R122, R123): later words are decoded against the new count. -/
def execVregs (n : BitVec 12) (s : State) : Out :=
  onStrand s (issueWith (.vregs n) [] anyType (fun _ => none) (fun s => updCtx s fun c => { c with cnt := countCode n })
    0 0 0 vregsBody s)

/-- The MVL register (Table 6.6). -/
def mvlWord (mvl : Nat) (mop : Bool) : Word := word (mvl + b2n mop * 2 ^ 13 + 2 ^ 14)

/-- The granted MVL: limit 4,096 for `.mxv`, 256 for `.mop` (R126). -/
def mvlGrant (v : Word) (mop : Bool) : Nat := min v.toNat (if mop then 256 else 4096)

/-- MSTART (R126). -/
def execMstart (d a : BitVec 5) (p : BitVec 1) (s : State) : Out :=
  let g := mvlGrant (reg s a) (p == 1)
  onStrand s (issueWith (.mstart d a p) [] anyType (fun _ => none)
    (fun s => setReg (updCtx s fun c => { c with mvl := mvlWord g (p == 1) }) d (word g)) 0 0 0 placeBody s)

/-- In the queue an MSTOP that left matrix mode releases the rows (R126); the entry keeps the MVL of before in a. -/
def mstopBody : Body := fun e _ s => .done (if matrixOn e.a then releaseRows s else s)

/-- MSTOP (R126): outside matrix mode it changes nothing. -/
def execMstop (s : State) : Out :=
  onStrand s (issueWith .mstop [] anyType (fun _ => none) (fun s => updCtx s fun c => { c with mvl := 0 })
    s.me.vctx.mvl 0 0 mstopBody s)

end Sys2Proof.Machine
end

