-- ==== Sys2Proof/Machine/Queue.lean ====
section
/-! DEFINITION. The vector instruction queue in motion (R24, R25, R30): how each vector-queue instruction executes, and one
move of the oldest entry of the issuing strand's queue. -/

namespace Sys2Proof.Machine

/-- How the arithmetic, mask and comparison instructions of majors 0x20 to 0x2D execute. -/
def arithQueue (i : Instr) : Option Body :=
  match i with
  | .vadd d a b q => some (arithBody .add (.vec a) d b q.z q.c q.m)
  | .vsub d a b q => some (arithBody .sub (.vec a) d b q.z q.c q.m)
  | .vrsub d a b q => some (arithBody .rsub (.vec a) d b q.z q.c q.m)
  | .vmin d a b q => some (arithBody .min (.vec a) d b q.z q.c q.m)
  | .vmax d a b q => some (arithBody .max (.vec a) d b q.z q.c q.m)
  | .vand d a b q => some (arithBody .and (.vec a) d b q.z q.c q.m)
  | .vor d a b q => some (arithBody .or (.vec a) d b q.z q.c q.m)
  | .vxor d a b q => some (arithBody .xor (.vec a) d b q.z q.c q.m)
  | .vmul d a b q => some (arithBody .mul (.vec a) d b q.z q.c q.m)
  | .vmulh d a b q => some (arithBody .mulh (.vec a) d b q.z q.c q.m)
  | .vmacc d a b q => some (arithBody .macc (.vec a) d b q.z q.c q.m)
  | .vnmacc d a b q => some (arithBody .nmacc (.vec a) d b q.z q.c q.m)
  | .vdiv d a b q => some (arithBody .div (.vec a) d b q.z q.c q.m)
  | .vrem d a b q => some (arithBody .rem (.vec a) d b q.z q.c q.m)
  | .vsll d a b q => some (arithBody .sll (.vec a) d b q.z q.c q.m)
  | .vsrl d a b q => some (arithBody .srl (.vec a) d b q.z q.c q.m)
  | .vsra d a b q => some (arithBody .sra (.vec a) d b q.z q.c q.m)
  | .vbfx d a b q => some (arithBody .bfx (.vec a) d b q.z q.c q.m)
  | .vfshr d a b q => some (arithBody .fshr (.vec a) d b q.z q.c q.m)
  | .vaddVs d _ b q => some (arithBody .add .scalar d b q.z q.c q.m)
  | .vsubVs d _ b q => some (arithBody .sub .scalar d b q.z q.c q.m)
  | .vrsubVs d _ b q => some (arithBody .rsub .scalar d b q.z q.c q.m)
  | .vminVs d _ b q => some (arithBody .min .scalar d b q.z q.c q.m)
  | .vmaxVs d _ b q => some (arithBody .max .scalar d b q.z q.c q.m)
  | .vandVs d _ b q => some (arithBody .and .scalar d b q.z q.c q.m)
  | .vorVs d _ b q => some (arithBody .or .scalar d b q.z q.c q.m)
  | .vxorVs d _ b q => some (arithBody .xor .scalar d b q.z q.c q.m)
  | .vmulVs d _ b q => some (arithBody .mul .scalar d b q.z q.c q.m)
  | .vmulhVs d _ b q => some (arithBody .mulh .scalar d b q.z q.c q.m)
  | .vmaccVs d _ b q => some (arithBody .macc .scalar d b q.z q.c q.m)
  | .vnmaccVs d _ b q => some (arithBody .nmacc .scalar d b q.z q.c q.m)
  | .vdivVs d _ b q => some (arithBody .div .scalar d b q.z q.c q.m)
  | .vremVs d _ b q => some (arithBody .rem .scalar d b q.z q.c q.m)
  | .vsllVs d _ b q => some (arithBody .sll .scalar d b q.z q.c q.m)
  | .vsrlVs d _ b q => some (arithBody .srl .scalar d b q.z q.c q.m)
  | .vsraVs d _ b q => some (arithBody .sra .scalar d b q.z q.c q.m)
  | .vbfxVs d _ b q => some (arithBody .bfx .scalar d b q.z q.c q.m)
  | .vfshrVs d _ b q => some (arithBody .fshr .scalar d b q.z q.c q.m)
  | .vaddVi d b i q => some (arithBody .add (.imm i) d b q.z q.c q.m)
  | .vsubVi d b i q => some (arithBody .sub (.imm i) d b q.z q.c q.m)
  | .vrsubVi d b i q => some (arithBody .rsub (.imm i) d b q.z q.c q.m)
  | .vminVi d b i q => some (arithBody .min (.imm i) d b q.z q.c q.m)
  | .vmaxVi d b i q => some (arithBody .max (.imm i) d b q.z q.c q.m)
  | .vandVi d b i q => some (arithBody .and (.imm i) d b q.z q.c q.m)
  | .vorVi d b i q => some (arithBody .or (.imm i) d b q.z q.c q.m)
  | .vxorVi d b i q => some (arithBody .xor (.imm i) d b q.z q.c q.m)
  | .vsllVi d b i q => some (arithBody .sll (.uimm i) d b q.z q.c q.m)
  | .vsrlVi d b i q => some (arithBody .srl (.uimm i) d b q.z q.c q.m)
  | .vsraVi d b i q => some (arithBody .sra (.uimm i) d b q.z q.c q.m)
  | .vclz d b q => some (arithBody .clz .none d b q.z q.c q.m)
  | .vpopc d b q => some (arithBody .popc .none d b q.z q.c q.m)
  | .vsqrt d b q => some (arithBody .sqrt .none d b q.z q.c q.m)
  | .vabs d b q => some (arithBody .abs .none d b q.z q.c q.m)
  | .vneg d b q => some (arithBody .neg .none d b q.z q.c q.m)
  | .vmv d b q => some (arithBody .mv .none d b q.z q.c q.m)
  | .vclass d b q => some (arithBody .cls .none d b q.z q.c q.m)
  | .vrecip d b q => some (arithBody .recip .none d b q.z q.c q.m)
  | .vidx d m => some (idxBody d m)
  | .vmvVs d _ m => some (mvsBody d m)
  | .vsel d a b q => some (selBody (.vec a) d b q.z q.c q.m)
  | .vselVs d _ b q => some (selBody .scalar d b q.z q.c q.m)
  | .vcmp d a b k q => some (cmpBody k.toNat (.vec a) d b q.z q.c q.m)
  | .vcmpVs d _ b k q => some (cmpBody k.toNat .scalar d b q.z q.c q.m)
  | .vcmpVi d b k i q => some (cmpBody k.toNat (.imm i) d b q.z q.c q.m)
  | .mand d a b => some (mandBody d a b)
  | .mor d a b => some (morBody d a b)
  | .mxor d a b => some (mxorBody d a b)
  | .mandn d a b => some (mandnBody d a b)
  | .mnot d a => some (mnotBody d a)
  | .mffs d a => some (mffsBody d a)
  | .mpopc d a => some (mpopcBody d a)
  | _ => none

/-- How a vector-queue instruction executes; none for any other. -/
def queueBody (i : Instr) : Option Body :=
  match i with
  | .vcvtw d b v q => some (convBody (fun vs => convW vs v.toNat) d b q)
  | .vcvtn d b v q => some (convBody (fun vs => convN vs v.toNat) d b q)
  | .vcvti d b v q => some (convBody (fun vs => convI vs v.toNat) d b q)
  | .vcvtf4 d b v q => some (blockBody convF4 2 d b v q)
  | .vcvtdy d b v q => some (blockBody convDy 0 d b v q)
  | .kset d b _ => some (ksetBody d b)
  | .kmv d a b m => some (kmvBody d a b m)
  | .kcalc d a b m _ => some (kcalcBody d a b m)
  | .vslup d _ b f m _ => some (slideBody true d b f m)
  | .vsldn d _ b f m _ => some (slideBody false d b f m)
  | .vperm d a b m _ _ => some (permBody d a b m)
  | .vcmpr d b m _ => some (cmprBody d b m)
  | .vexpd d b m _ => some (expdBody d b m)
  | .viota d b m => some (iotaBody d b m)
  | .vred d a b o m _ _ => some (redBody d a b o m)
  | .vscan d a b o m _ _ => some (scanBody d a b o m)
  | .vhist d b l w m _ => some (histBody d b l w m)
  | .vtopk d a b m _ => some (topkBody d a b m)
  | .vtkmrg d a b _ _ => some (tkmrgBody d a b)
  | .vld d _ m => some (loadBody .unit d m)
  | .vlds d _ _ m => some (loadBody .stride d m)
  | .vldx d _ b m _ => some (vldxBody d b m)
  | .vldxo d _ b m _ => some (loadBody (.index b) d m)
  | .vldff d _ m => some (vldffBody d m)
  | .vldseg d _ n m => some (ldsegBody d n m)
  | .vst d _ m => some (storeBody .unit false d m)
  | .vsts d _ _ m => some (storeBody .stride false d m)
  | .vstx d _ b m _ => some (vstxBody d b m)
  | .vstxo d _ b m _ => some (storeBody (.index b) true d m)
  | .vstseg d _ n m => some (stsegBody d n m)
  | .mfset _ => some placeBody
  | .vamo d _ b r o m _ => some (amoBody d b r o m)
  | .fence r sc => some (fenceBody r sc)
  | .vfence sc => some (vfenceBody sc)
  | .iterset _ l => some (itersetBody l)
  | .post _ l => some (postBody l)
  | .waiti _ l => some (waitiBody l)
  | .bar => some barBody
  | .bararr => some bararrBody
  | .barwt => some barwtBody
  | .ropen d _ => some (ropenBody d)
  | .rclose _ => some rcloseBody
  | .rstat d _ o => some (rstatBody d o)
  | .rdstr _ _ q => some (pushBody q rdstrCmd)
  | .wrstr _ q => some (pushBody q wrstrCmd)
  | .qpush d en k q => some (qpushBody d en k q)
  | .qpop d a k q => some (qpopBody d a k q)
  | .rsort _ _ y c q => some (pushBody q (rsortCmd y c))
  | .rmerge _ _ _ u l c q => some (pushBody q (rmergeCmd u l c))
  | .rjoin _ _ _ l j q => some (pushBody q (rjoinCmd l j))
  | .rpart _ _ q => some (pushBody q rpartCmd)
  | .rwait d q => some (rwaitBody d q)
  | .cspec _ => some cspecBody
  | .vsetl _ _ _ | .vcfg _ _ | .mstart _ _ _ => some placeBody
  | .vregs _ => some vregsBody
  | .mstop => some mstopBody
  | .mattach d _ w => some (mattachBody d w)
  | .mdetach => some releaseBody
  | .mwldCfg d _ r => some (cfgBody d r.toNat)
  | .mwldSp _ _ r => some (spBody r.toNat)
  | .mwldQ d a _ r => some (tqBody d a.toNat r.toNat)
  | .mwldSc _ _ r => some (scBody r.toNat)
  | .mxv d _ b z w r => some (mxvBody d b z w r)
  | .mop a b f r => some (mopBody a b f r)
  | .maccrd d _ r => some (maccrdBody d r)
  | .maccwr d _ r => some (maccwrBody d r)
  | .maccz _ r => some (macczBody r)
  | .msave _ => some msaveBody
  | .mrest _ => some mrestBody
  | .mcensRd d _ => some (mcensRdBody d)
  | .mcensRdclr d _ => some (mcensRdclrBody d)
  | .mcensClr => some mcensClrBody
  | .mcensIdx d _ => some (mcensIdxBody d)
  | .qrtld _ c f => some (qrtldBody c f)
  | .qrseed d _ m n => some (qrseedBody d m n)
  | .qrgen d a b q => some (qrgenBody d a b q)
  | .qrgens d _ b q => some (qrgensBody d b q)
  | .pwld d _ _ n q => some (pwldBody d n q)
  | .pwcntSt d _ => some (pwcntStBody d)
  | .pwcntHist d _ _ => some (pwcntHistBody d)
  | .pwcntCnt d _ _ => some (pwcntCntBody d)
  | .pwcntFree _ => some pwcntFreeBody
  | .pwchk d _ _ => some (pwchkBody d)
  | .pwdrft d _ _ => some (pwdrftBody d)
  | .pwconf d _ _ => some (pwconfBody d)
  | .pwinj d _ => some (pwinjBody d)
  | _ => arithQueue i

/-- The oldest entry of the strand's queue makes up to quota units of progress, or completes where all of its work has been made.
A stopped queue, and one of a strand that does not own the vector context, does not move. -/
def runHead (quota : Nat) (s : State) : State :=
  match s.me.vctx.queue with
  | [] => s
  | e :: rest =>
    match queueBody e.instr with
    | none => s
    | some b =>
      let s := updCtx s fun c => { c with queue := rest }
      settleEntry e (if e.done then .done s else b { e with split := true } quota s)

/-- Whether the strand's queue may move: it is neither stopped nor that of a strand that may not run it. -/
def queueLive (st : Strand) : Bool :=
  resident st && st.vown && !st.qstop && st.status != .halted && st.status != .suspended && !(st.status == .halting && st.susp.isSome) &&
    !st.vctx.queue.isEmpty

end Sys2Proof.Machine
end

