-- ==== Sys2Proof/Machine/Chain.lean ====
section
/-! DEFINITION. The access side run ahead of the execute side (R25, R81, R87), and the chaining of element groups between the
entries of a queue (R28, R143, R149, R257). -/

namespace Sys2Proof.Machine

/-- A field of an instruction's word. -/
def wordBits (i : Instr) (hi lo : Nat) : Nat := bits (encodeNat i) hi lo

def majorOf (i : Instr) : Nat := encodeNat i % 128

def subOf (i : Instr) : Nat := wordBits i 31 29
def regD (i : Instr) : Nat := wordBits i 11 7
def regA (i : Instr) : Nat := wordBits i 16 12
def regB (i : Instr) : Nat := wordBits i 21 17
def maskM (i : Instr) : Nat := wordBits i 25 24
def chainA (i : Instr) : Bool := wordBits i 22 22 == 1

/-- The VM format has CB at bit 22, every other at bit 23 (Table 3.1). -/
def inVm (i : Instr) : Bool := let m := majorOf i; (decide (0x40 ≤ m) && decide (m ≤ 0x48)) || m == 0x4C
def chainB (i : Instr) : Bool := if inVm i then wordBits i 22 22 == 1 else wordBits i 23 23 == 1

/-! ### What an entry reads and writes of the vector context -/

inductive Space where
  | file | mask | scale
  deriving DecidableEq, Repr

/-- Bytes of the physical file, bits of the mask registers or scales, from lo to hi − 1. -/
structure Touch where
  space : Space
  lo : Nat
  hi : Nat
  write : Bool
  deriving DecidableEq, Repr

def touch (p : Space) (lo hi : Nat) (w : Bool) : List Touch := if lo < hi then [⟨p, lo, hi, w⟩] else []

/-- Two touches that may not change places. -/
def clash (x y : Touch) : Bool := x.space == y.space && (x.write || y.write) && decide (x.lo < y.hi) && decide (y.lo < x.hi)

/-- Elements [lo, hi) of width w of the group at register r. -/
def inFile (e : QEntry) (r w lo hi : Nat) (wr : Bool) : List Touch :=
  if lo < hi then touch .file (r * rbOf e.cnt + lo * w / 8) (r * rbOf e.cnt + ceilDiv (hi * w) 8) wr else []

/-- n registers from r on. -/
def inRegs (e : QEntry) (r n : Nat) (wr : Bool) : List Touch := touch .file (r * rbOf e.cnt) ((r + n) * rbOf e.cnt) wr

/-- The elements of a vector source. An instruction whose chain bit is 0 waits for every element group of the source (R28). -/
def source (e : QEntry) (r w : Nat) (chained : Bool) (lo hi : Nat) : List Touch :=
  if chained || decide (hi ≤ lo) then inFile e r w lo hi false
  else inRegs e r (max 1 (lmulOf e.vshape * w / sewOf e.vshape)) false

/-- Operand B: where it is replicated, the elements that it repeats (R68, R149). -/
def sourceB (e : QEntry) (chained : Bool) (lo hi : Nat) : List Touch :=
  if wordBits e.instr 26 26 == 1 && decide (lo < hi) then
    if chained then inFile e (regB e.instr) (sewOf e.vshape) 0 (segOf (BitVec.ofNat 2 (wordBits e.instr 28 27))) false
    else inRegs e (regB e.instr) (lmulOf e.vshape) false
  else source e (regB e.instr) (sewOf e.vshape) chained lo hi

/-- The bits of a mask register, which always chain (R149); m0 is no state. -/
def maskBits (m lo hi : Nat) (wr : Bool) : List Touch := if m = 0 then [] else touch .mask (m * 65536 + lo) (m * 65536 + hi) wr

/-- The conversion that an instruction makes. -/
def convOf (i : Instr) (vs : Word) : Option Conv :=
  match i with
  | .vcvtw _ _ v _ => convW vs v.toNat
  | .vcvtn _ _ v _ => convN vs v.toNat
  | .vcvti _ _ v _ => convI vs v.toNat
  | .vcvtf4 .. => convF4 vs
  | .vcvtdy .. => convDy vs
  | _ => none

/-- The majors of arithmetic whose A is a vector, and their unary sub-codes. -/
def vectorA (i : Instr) : Bool :=
  let m := majorOf i
  let unary := (m == 0x26 && [1, 2, 5, 6, 7].contains (subOf i)) || (m == 0x2B && subOf i != 0)
  [0x20, 0x23, 0x26, 0x2B].contains m && !unary

/-- VIDX and VMV from a scalar have no B. -/
def noB (i : Instr) : Bool := (majorOf i == 0x2B && subOf i == 4) || (majorOf i == 0x2C && subOf i == 1)

/-- Arithmetic, compares and mask instructions (majors 0x20 to 0x2D). -/
def arithTouches (ca cb : Bool) (e : QEntry) (lo hi : Nat) : List Touch :=
  let i := e.instr
  let m := majorOf i
  let w := sewOf e.vshape
  let on := maskBits (maskM i) lo hi false
  if m = 0x2D then
    maskBits (regA i) lo hi false ++ (if subOf i < 4 then maskBits (regB i) lo hi false else []) ++
      if subOf i < 5 then maskBits (regD i) lo hi true else []
  else if m = 0x28 ∨ m = 0x29 ∨ m = 0x2A then
    (if m = 0x28 then source e (regA i) w ca lo hi else []) ++ sourceB e cb lo hi ++ on ++ maskBits (regD i) lo hi true
  else
    (if vectorA i then source e (regA i) w ca lo hi else []) ++ (if noB i then [] else sourceB e cb lo hi) ++ on ++
      inFile e (regD i) w lo hi true

/-- Conversions and scale instructions (majors 0x30 to 0x35); a scale register is read or written as a whole. -/
def convTouches (cb : Bool) (e : QEntry) (lo hi : Nat) : List Touch :=
  let i := e.instr
  let m := majorOf i
  let w := sewOf e.vshape
  let k := fun (r : Nat) wr => if lo < hi then touch .scale (r * 4096) ((r + 1) * 4096) wr else []
  let on := maskBits (maskM i) lo hi false
  if m = 0x35 then
    if subOf i = 1 then k (regB i) false ++ on ++ inFile e (regD i) 32 lo hi true
    else source e (regB i) w cb lo hi ++ on ++ k (regD i) true
  else
    sourceB e cb lo hi ++ on ++ inFile e (regD i) (match convOf i e.vshape with | some x => x.dst.width | none => w) lo hi true ++
      if m = 0x33 ∨ m = 0x34 then k (kselOf e.vshape) (subOf i == 0) else []

/-- The fields of a segment instruction or of a QPOP. -/
def fieldTouches (e : QEntry) (k lo hi : Nat) (wr : Bool) : List Touch :=
  (upTo k).flatMap fun f => inFile e (regD e.instr + f * lmulOf e.vshape) (sewOf e.vshape) lo hi wr

/-- Instructions whose faulting elements stand in m7 (R170, R195). -/
def marksM7 (i : Instr) : Bool := match i with | .vldx .. | .vstx .. | .vamo .. => true | _ => false

/-- Vector memory instructions (majors 0x40 to 0x48 and 0x4C). -/
def memTouches (cb : Bool) (e : QEntry) (lo hi : Nat) : List Touch :=
  let i := e.instr
  let m := majorOf i
  let w := sewOf e.vshape
  let load := m < 0x45 || m == 0x4C
  maskBits (maskM i) lo hi false ++ (if marksM7 i then maskBits 7 0 e.vl true else []) ++
    (if m = 0x42 ∨ m = 0x47 ∨ m = 0x4C then source e (regB i) 32 cb lo hi else []) ++
    if m = 0x44 ∨ m = 0x48 then fieldTouches e (wordBits i 28 26 + 1) lo hi load else inFile e (regD i) w lo hi load

/-- Permutes, reductions and the rest of majors 0x38 to 0x3F, which read and write whole groups and the registers after them. -/
def wholeTouches (e : QEntry) : List Touch :=
  let n := lmulOf e.vshape + indexRegs e.vshape + 1
  inRegs e (regD e.instr) n true ++ inRegs e (regA e.instr) n false ++ inRegs e (regB e.instr) n false ++
    touch .mask 65536 (8 * 65536) false

/-- What an entry touches of the vector context with the elements [lo, hi), its sources chained as ca and cb say; none for an
instruction that other entries do not pass. What stands in the access queue alone (`accessOnly`) touches none, but for the fields of a
QPUSH. -/
def touchesOf (ca cb : Bool) (e : QEntry) (lo hi : Nat) : Option (List Touch) :=
  let m := majorOf e.instr
  match e.instr with
  | .vsetl .. | .vcfg .. | .mstart .. | .mfset .. | .vfence .. => some []
  | .qpop _ _ k _ => some (fieldTouches e (k.toNat + 1) lo hi true)
  | .qpush _ _ k _ => some (fieldTouches e (k.toNat + 1) 0 e.vl false)
  | .rdstr .. | .wrstr .. | .rsort .. | .rmerge .. | .rjoin .. | .rpart .. | .rwait .. | .ropen .. | .rclose .. | .rstat .. | .cspec .. =>
    some []
  | .vldff .. => none
  | .qrgen .. | .qrgens .. =>
    some ((if subOf e.instr = 0 then source e (regA e.instr) (sewOf e.vshape) ca lo hi else []) ++ sourceB e cb lo hi ++
      maskBits (maskM e.instr) lo hi false ++ inFile e (regD e.instr) (sewOf e.vshape) lo hi true)
  | _ =>
    if 0x20 ≤ m ∧ m ≤ 0x2D then some (arithTouches ca cb e lo hi)
    else if 0x30 ≤ m ∧ m ≤ 0x35 then some (convTouches cb e lo hi)
    else if 0x38 ≤ m ∧ m ≤ 0x3F then some (wholeTouches e)
    else if (0x40 ≤ m ∧ m ≤ 0x48) ∨ m = 0x4C then some (memTouches cb e lo hi)
    else none

/-! ### Progress in elements -/

/-- The elements that an entry's execute part has passed: its progress in element groups, in elements for memory instructions and
QPOP, or that of a form with an m7 pass (log 16). -/
def elemsDone (e : QEntry) : Nat :=
  let m := majorOf e.instr
  if e.done then e.vl
  else if marksM7 e.instr then e.prog / 2
  else if (0x40 ≤ m && m ≤ 0x48) || e.instr matches .qpop .. then e.prog
  else e.prog * epg (sewOf e.vshape)

/-- The element groups that an entry works on at once: whole blocks where scales are made (R143). -/
def unitOf (e : QEntry) : Nat :=
  match e.instr with
  | .vcvtf4 _ _ v _ | .vcvtdy _ _ v _ => blockUnit v e.vshape
  | .kcalc .. => blockUnit 0 e.vshape
  | _ => 1

/-- The end of its next element group. -/
def nextEnd (e : QEntry) : Nat := min e.vl ((elemsDone e / epg (sewOf e.vshape) + unitOf e) * epg (sewOf e.vshape))

/-- Instructions that form their result from the whole of a mask at their end. -/
def countsMask (i : Instr) : Bool := match i with | .mffs .. | .mpopc .. => true | _ => false

/-- What an entry has still to touch. A form with an m7 pass may come back to any element, and a count of a mask needs all of it. -/
def remaining (e : QEntry) : Option (List Touch) :=
  if e.done then some []
  else touchesOf true true e (if marksM7 e.instr || countsMask e.instr then 0 else elemsDone e) e.vl

/-! ### Its accesses of memory -/

/-- VST, VSTS, VSTX, VSTXO, VSTSEG and VAMO: the instructions whose elements are stores. -/
def storesElems (i : Instr) : Bool := [0x45, 0x46, 0x47, 0x48, 0x4C].contains (majorOf i)

/-- The vector loads. -/
def loadsElems (i : Instr) : Bool := [0x40, 0x41, 0x42, 0x43, 0x44].contains (majorOf i)

/-- An access of an element or a field: its number in an element buffer, its address, the outcome of its check and its size. -/
structure Access where
  key : Nat
  addr : Nat
  res : MRes
  size : Nat
  deriving DecidableEq, Repr

def formAccesses (s : State) (e : QEntry) (f : AForm) (a : Acc) (lo hi : Nat) : List Access :=
  let on := if marksM7 e.instr then passOn e s.me.vctx (maskM e.instr) else maskBit s.me.vctx (maskM e.instr)
  (elemList s e f (sewOf e.vshape) on a (span lo hi)).map fun x => ⟨x.1, x.2.1, x.2.2, elemSize (sewOf e.vshape)⟩

def segAccesses (s : State) (e : QEntry) (k : Nat) (a : Acc) (lo hi : Nat) : List Access :=
  ((span lo hi).filter (maskBit s.me.vctx (maskM e.instr))).flatMap fun i => (upTo k).map fun f =>
    let w := mtWidth (sewOf e.vshape) (mtOf e.mfcr f)
    ⟨segKey i f, segAddr e k i f, resolve s (segAddr e k i f) w a, w⟩

/-- The accesses of a vector memory instruction for the elements [lo, hi). -/
def accesses (s : State) (e : QEntry) (lo hi : Nat) : List Access :=
  match e.instr with
  | .vld .. | .vldff .. => formAccesses s e .unit .load lo hi
  | .vst .. => formAccesses s e .unit .store lo hi
  | .vlds .. => formAccesses s e .stride .load lo hi
  | .vsts .. => formAccesses s e .stride .store lo hi
  | .vldx _ _ b _ _ | .vldxo _ _ b _ _ => formAccesses s e (.index b) .load lo hi
  | .vstx _ _ b _ _ | .vstxo _ _ b _ _ | .vamo _ _ b _ _ _ _ => formAccesses s e (.index b) .store lo hi
  | .vldseg _ _ n _ => segAccesses s e (n.toNat + 1) .load lo hi
  | .vstseg _ _ n _ => segAccesses s e (n.toNat + 1) .store lo hi
  | _ => []

/-- What the addresses and the enabled elements of a memory instruction depend on. -/
def addrTouches (e : QEntry) (lo hi : Nat) : List Touch :=
  let m := majorOf e.instr
  maskBits (maskM e.instr) lo hi false ++
    if m = 0x42 ∨ m = 0x47 ∨ m = 0x4C then source e (regB e.instr) 32 (chainB e.instr) lo hi else []

/-- No earlier entry of es has still to write what ts reads. -/
def writtenBy (es : List QEntry) (ts : List Touch) : Bool :=
  es.all fun x =>
    match remaining x with
    | none => false
    | some xs => xs.all fun a => ts.all fun b => !(a.write && clash a b)

/-- Whether two accesses touch a common byte; a fault may come to touch any. -/
def meets (x y : Access) : Bool :=
  match x.res, y.res with
  | .ok (.spad j), .ok (.spad k) => overlap j x.size k y.size
  | .ok (.host j), .ok (.host k) => overlap j x.size k y.size
  | .ok _, .ok _ => false
  | _, _ => true

/-! ### Element buffers (R25, R81, R87) -/

/-- The buffer of a group of an entry. -/
def bufOf (c : VCtx) (id g : Nat) : Option ElemBuf := c.bufs.find? fun b => b.entry == id && b.group == g

/-- Whether every access of a group has been sent. -/
def fetched (c : VCtx) (id g : Nat) : Bool := match bufOf c id g with | some b => b.sent == b.total | none => false

/-- The element group of an entry that its access part fetches next: the first whose accesses have not all been sent. -/
def nextGroup (c : VCtx) (e : QEntry) : Nat :=
  let g := elemsDone e / epg (sewOf e.vshape)
  g + ((upTo 17).find? fun j => !fetched c e.id (g + j)).getD 17

/-- The first element of an entry that has still to be fetched. -/
def fetchFrom (c : VCtx) (e : QEntry) : Nat := max (elemsDone e) (nextGroup c e * epg (sewOf e.vshape))

/-- Buffers whose group is still to be executed. -/
def liveBufs (c : VCtx) : List ElemBuf :=
  c.bufs.filter fun b => c.queue.any fun e => e.id == b.entry && decide (elemsDone e / epg (sewOf e.vshape) ≤ b.group)

/-- A buffer put in its place in program order, for one that it replaces. -/
def bufInsert (x : ElemBuf) : List ElemBuf → List ElemBuf
  | [] => [x]
  | y :: t =>
    if y.id = x.id then x :: t
    else if x.entry < y.entry ∨ (x.entry = y.entry ∧ x.group < y.group) then x :: y :: t
    else y :: bufInsert x t

/-! ### Running ahead: the access queue, in order (R25, R81, R86) -/

/-- Whether the access queue goes on past an entry before it executes: arithmetic has no access part, a store's addresses are formed
as it executes, and what a release or VFENCE orders is not a later load; in deterministic mode a drain point and a store hold later
loads (R100). -/
def passes (det : Bool) (x : QEntry) : Bool :=
  let m := majorOf x.instr
  match x.instr with
  | .vamo _ _ _ r _ _ _ => !acquires r && !det
  | .vfence .. | .iterset .. | .post .. | .bararr => !det
  | .vsetl .. | .vcfg .. | .mstart .. | .mfset .. | .mattach .. | .mdetach | .mwldCfg .. | .mxv .. | .mop .. | .maccrd .. | .maccwr ..
  | .maccz .. | .mcensRd .. | .mcensRdclr .. | .mcensClr | .mcensIdx .. | .qrseed .. | .qrgen .. | .qrgens .. => true
  | _ => (decide (0x20 ≤ m) && decide (m ≤ 0x3F)) || (storesElems x.instr && !det)

/-- Whether an entry's access part has gone: it is done, a load whose groups have all been fetched, or one that holds nothing back. -/
def accessGone (det : Bool) (c : VCtx) (x : QEntry) : Bool :=
  x.done || (if loadsElems x.instr then decide (x.vl ≤ fetchFrom c x) && !(marksM7 x.instr && inM7 x) else passes det x)

/-- A VLDFF among the earlier entries has still to fix the VL of this one (R169). -/
def vlToCome (es : List QEntry) (e : QEntry) : Bool := es.any fun x => x.instr matches .vldff .. && x.vlSpan == e.vlSpan

/-- Whether the next group of a load may be fetched: its mask and indices are known, and a buffer is free (R81). -/
def canFetch (c : VCtx) (es : List QEntry) (e : QEntry) : Bool :=
  e.split && !(marksM7 e.instr && inM7 e) && !vlToCome es e &&
    writtenBy es (addrTouches e (fetchFrom c e) (min e.vl ((nextGroup c e + 1) * epg (sewOf e.vshape)))) &&
    ((bufOf c e.id (nextGroup c e)).isSome || decide ((liveBufs c).length < 16))

/-- The entry whose access part is the oldest that has not gone, with those before it, where it may fetch. -/
def fetcher (det : Bool) (c : VCtx) : List QEntry → List QEntry → Option (List QEntry × QEntry)
  | _, [] => none
  | es, e :: t =>
    if accessGone det c e then fetcher det c (es ++ [e]) t
    else if loadsElems e.instr && canFetch c es e then some (es, e)
    else none

/-- An access in host space, or one that may come to be. -/
def maybeHost (x : Access) : Bool := match x.res with | .ok (.spad _) => false | _ => true

/-- Every earlier instruction with host-space store elements has entered them in the host path (R87). -/
def hostClear (s : State) (es : List QEntry) : Bool :=
  (upTo es.length).all fun n =>
    match es[n]? with
    | none => true
    | some x => x.done || !storesElems x.instr ||
      (!marksM7 x.instr && writtenBy (es.take n) (addrTouches x (elemsDone x) x.vl) &&
        (accesses s x (elemsDone x) x.vl).all fun y => !maybeHost y)

/-- The bits that an access's value is read as: a nibble of an element at SEW 4, else its bytes. -/
def valueWidth (e : QEntry) (x : Access) : Nat := if sewOf e.vshape = 4 then 4 else 8 * x.size

/-- Two accesses of one 8-byte word of a bank (R157). -/
def sameWord (x y : Access) : Bool :=
  match x.res, y.res with
  | .ok (.spad j), .ok (.spad k) => j / 8 == k / 8
  | _, _ => false

/-- An access put to those of its word. -/
def joinWord (x : Access) : List (List Access) → List (List Access)
  | [] => [[x]]
  | g :: t => if g.any (sameWord x) then (g ++ [x]) :: t else g :: joinWord x t

/-- The accesses of a group by words, each of which is one access of its bank; an access in host space stands alone (R157). -/
def byWord (xs : List Access) : List (List Access) := xs.foldl (fun gs x => joinWord x gs) []

/-- The accesses of one word on their way to its bank, with the bytes of the strand's own waiting stores, or one access to the host
path. -/
def sendWord (e : QEntry) (buf : Nat) (s : State) (xs : List Access) : State :=
  match xs with
  | [] => s
  | x :: _ =>
    match x.res with
    | .ok (.spad k) =>
      let base := k / 8 * 8
      let parts := xs.filterMap fun y =>
        match y.res with | .ok (.spad j) => some (y.key, j - base, valueWidth e y) | _ => none
      sendLate (lateOf s base 8 (fwdBits s (.spad base) 8) (.elem buf parts)) s
    | .ok (.host pa) =>
      pathLateAt (fencesBefore e s) (lateOf s pa x.size [] (.elem buf [(x.key, 0, valueWidth e x)])) (cacheWalk s s.me.fn x.addr)
    | _ => s

/-- The accesses of a group that are sent now, of those not sent: all, or in the ordered form the next ones of one word, once every
value sent for has come (R90). -/
def sendNow (ordered : Bool) (c : VCtx) (id : Nat) (xs : List Access) : List Access :=
  if !ordered then xs
  else if (c.bufs.any fun b => b.entry == id && b.vals.length != b.sent) then []
  else
    match xs with
    | [] => []
    | x :: t => x :: t.takeWhile (sameWord x)

/-- Of the accesses of an entry behind a VFENCE, one is of a byte of an access that the VFENCE keeps back (R88). -/
def keptAhead (s : State) (es : List QEntry) (ys : List Access) : Bool :=
  (es.any fun x => isVfence x.instr) && ys.any fun y =>
    match y.res with
    | .ok (.spad k) => meetsKept s.me k y.size
    | .ok (.host _) => false
    | _ => !s.me.kept.isEmpty

/-- One Fetch: accesses of the next group of a load go out, with the byte ranges read. A group with an element that faults is
left to its execution, and one with host-space elements waits for earlier host-space stores (R87). -/
def fetchGroup (es : List QEntry) (e : QEntry) (s : State) : State :=
  let g := nextGroup s.me.vctx e
  let xs := accesses s e (fetchFrom s.me.vctx e) (min e.vl ((g + 1) * epg (sewOf e.vshape)))
  if !(xs.all fun x => isOk x.res) || ((xs.any maybeHost) && !hostClear s es) || keptAhead s es xs then s
  else
    let new : ElemBuf :=
      { id := s.nextId, entry := e.id, group := g, total := xs.length, sent := 0, vals := []
        ranges := xs.filterMap fun x => (locOf x.res).map fun l => rangeOf l x.size }
    let b := (bufOf s.me.vctx e.id g).getD new
    let now := sendNow (e.instr matches .vldxo ..) s.me.vctx e.id (xs.drop b.sent)
    let s := updCtx { s with nextId := s.nextId + 1 } fun c =>
      { c with bufs := bufInsert { b with sent := b.sent + now.length } (liveBufs c) }
    (byWord now).foldl (sendWord e b.id) s

def fetchMove (s : State) : State :=
  match fetcher s.me.det s.me.vctx [] s.me.vctx.queue with
  | none => s
  | some (es, e) => fetchGroup es e s

/-! ### Chaining (R28) -/

/-- The instructions that may begin before the entries ahead of them are finished: those that go group by group. Majors 0x38 to 0x3F
deliver only at their completion, at progress 0 until then (R175). -/
def chains (e : QEntry) : Bool :=
  let m := majorOf e.instr
  match e.instr with
  | .vldff .. => false
  | .vldx .. | .vstx .. | .vamo .. => !inM7 e
  | .qpop .. | .qrgen .. | .qrgens .. => true
  | _ => (decide (0x20 ≤ m) && decide (m ≤ 0x2D)) || (decide (0x30 ≤ m) && decide (m ≤ 0x35)) ||
    (decide (0x40 ≤ m) && decide (m ≤ 0x48))

/-- The instructions whose work is of the access side alone, on streams, engines and run handles (R25). -/
def accessOnly (i : Instr) : Bool :=
  isCommand i || match i with | .qpush .. | .rwait .. | .ropen .. | .rclose .. | .rstat .. | .cspec .. => true | _ => false

/-- The execute queue has come to what follows an entry: it has begun, or has no part there. -/
def begun (x : QEntry) : Bool :=
  x.done || decide (0 < x.prog) || accessOnly x.instr ||
    (match x.instr with | .qpop .. | .vfence .. | .vsetl .. | .vcfg .. | .mstart .. | .mfset .. => true | _ => false)

/-- The accesses that an earlier entry has still to make; of a load, those not yet fetched. -/
def toMake (s : State) (x : QEntry) : List Access :=
  if x.done then []
  else
  let first := if marksM7 x.instr && storesElems x.instr then 0 else if loadsElems x.instr then fetchFrom s.me.vctx x else elemsDone x
  accesses s x first x.vl

/-- Whether the accesses of a load's next group have been sent. -/
def groupSent (s : State) (e : QEntry) : Bool := loadsElems e.instr && fetched s.me.vctx e.id (elemsDone e / epg (sewOf e.vshape))

/-- Accesses of common bytes keep program order (R88): no earlier entry has still to access a byte of the next group, but that
two loads keep their order as they are fetched. -/
def memoryReady (s : State) (es : List QEntry) (e : QEntry) : Bool :=
  let ys := accesses s e (elemsDone e) (nextEnd e)
  let ahead := groupSent s e
  !keptAhead s es ys && (upTo es.length).all fun n =>
    match es[n]? with
    | none => true
    | some x => !(loadsElems x.instr || storesElems x.instr) || (ahead && loadsElems x.instr) ||
      (writtenBy (es.take n) (addrTouches x 0 x.vl) && (toMake s x).all fun a => ys.all fun b => !meets a b)

/-- The access queue is in order (R81): a QPOP, and the next group of a load unless its accesses have been sent, follow every earlier
access part (R94, R96). A group that may lie in host space follows the earlier host-space stores (R87), and in the host path nothing
of it is behind an atomic that waits for a VFENCE (R91). -/
def accessReady (s : State) (es : List QEntry) (e : QEntry) : Bool :=
  let host := (accesses s e (elemsDone e) (nextEnd e)).any maybeHost
  if loadsElems e.instr then
    (groupSent s e || (es.all (accessGone s.me.det s.me.vctx) && (!host || hostClear s es))) &&
      !(host && s.me.hpath.any fun x => bars x && decide (x.held ≤ fencesBefore e s))
  else !(e.instr matches .qpop ..) || es.all (accessGone s.me.det s.me.vctx)

/-- A VAMO that acquires: no later access is performed before it (R94). -/
def isAcqVamo (i : Instr) : Bool := match i with | .vamo _ _ _ r _ _ _ => acquires r | _ => false

/-- An entry that later accesses follow, with work to make: a VAMO that acquires, or the pop of a result element (R94, R96). -/
def acquires' (x : QEntry) : Bool := !x.done && (isAcqVamo x.instr || (x.instr matches .qpop .. | .rwait ..))

/-- Whether a VAMO releases: every earlier access is performed before it (R94). -/
def isRelVamo (i : Instr) : Bool := match i with | .vamo _ _ _ r _ _ _ => releases r | _ => false

/-- The lines that wait for a VFENCE leave room in the WCB for every line that a group behind one opens (R81, R93). -/
def roomReady (s : State) (es : List QEntry) (e : QEntry) : Bool :=
  !(es.any fun x => isVfence x.instr) ||
    (let held := fencesBefore e s
     let opens := ((accesses s e (elemsDone e) (nextEnd e)).filterMap fun y =>
       match y.res with
       | .ok (.spad k) => if (wcbFind s.me.wcb (k / 256) held).isSome then none else some (k / 256)
       | _ => none).eraseDups
     decide (opens.length + (s.me.wcb.filter fun x => x.held != 0).length ≤ 64))

/-- What a store that chains follows. An atomic and an ordered form do not pass a VFENCE, the stores of deterministic mode keep program
order, and so do an access that acquires and the store behind it, and every access and an atomic that releases (R93, R94, R96,
R100). -/
def storeReady (s : State) (es : List QEntry) (e : QEntry) : Bool :=
  !storesElems e.instr ||
    (!((e.instr matches .vamo ..) && s.me.det) && !(s.me.det && es.any fun x => storesElems x.instr && !x.done) &&
      !((e.instr matches .vamo .. | .vstxo ..) && es.any fun x => isVfence x.instr) && !(es.any acquires') && roomReady s es e &&
      (!isRelVamo e.instr || es.all fun x => x.done || (accessGone s.me.det s.me.vctx x && !storesElems x.instr)))

/-- Whether the execute queue, in order, has come to an entry: those before it have begun. The access queue does not ask it. -/
def executeReady (es : List QEntry) (e : QEntry) : Bool := (e.instr matches .qpop ..) || es.all begun

/-- Whether an entry may make its next element group while the earlier entries es are unfinished: they have begun, and none of
them has still to touch what the group touches, one of the two writing it. A source that chains asks only for the elements of
the group, one that does not for every group of its register (R28, R149). -/
def chainReady (s : State) (es : List QEntry) (e : QEntry) : Bool :=
  e.split && !e.done && chains e && !vlToCome es e && executeReady es e && es.all (fun x => x.split && !(s.me.det && isVfence x.instr)) &&
    (match touchesOf (chainA e.instr) (chainB e.instr) e (elemsDone e) (nextEnd e) with
      | none => false
      | some ys => es.all fun x =>
        match remaining x with
        | none => false
        | some xs => xs.all fun a => ys.all fun b => !clash a b) &&
    memoryReady s es e && accessReady s es e && storeReady s es e

/-- Instructions of the access side that touch no memory. -/
def noMemory (i : Instr) : Bool := match i with | .rwait .. | .rclose .. | .rstat .. => true | _ => false

/-- Whether an entry of the access queue alone may go ahead of the earlier entries es: their access parts have gone, and what it reads
of the vector context has been written. What reads memory, and a push, which releases the earlier accesses (R96), follow earlier
stores and VFENCEs too. In deterministic mode pushes are drain points, and none goes ahead. -/
def aheadReady (s : State) (es : List QEntry) (e : QEntry) : Bool :=
  e.split && !e.done && accessOnly e.instr && !s.me.det &&
    es.all (fun x => x.split && accessGone s.me.det s.me.vctx x &&
      (x.done || noMemory e.instr || !(storesElems x.instr || isVfence x.instr))) &&
    (match remaining e with | some ts => ts.isEmpty || writtenBy es ts | none => false)

/-- The progress of an entry whose groups are all made. -/
def endProg (e : QEntry) : Nat :=
  if marksM7 e.instr then 2 * e.vl
  else if accessOnly e.instr || (e.instr matches .qpop ..) then e.prog
  else if loadsElems e.instr || storesElems e.instr then e.vl
  else groupsOf (sewOf e.vshape) e.vl

/-- One group of the entry at place n of the queue, or its whole work of the access queue, where it may go ahead and does not stop with
it. Once all is made it waits, done, for the entries before it to complete. -/
def chainMove (n : Nat) (s : State) : State :=
  let q := s.me.vctx.queue
  match q[n]? with
  | none => s
  | some e =>
    if s.me.stand.isNone && (chainReady s (q.take n) e || aheadReady s (q.take n) e) then
      match queueBody e.instr with
      | none => s
      | some b =>
        let put := fun (t : State) (x : QEntry) =>
          if t.me.stand.isNone then updCtx t fun c => { c with queue := q.take n ++ x :: q.drop (n + 1) } else s
        match b e 1 s with
        | .more t p => put t { e with prog := p }
        | .done t => put t { e with prog := endProg e, done := true }
        | _ => s
    else s

/-- Groups of the entry at place n as far as an element count allows whole ones. -/
def chainTo (n bound : Nat) : Nat → State → State
  | 0, s => s
  | k + 1, s =>
    match s.me.vctx.queue[n]? with
    | some e => if !e.done && decide (nextEnd e ≤ bound) then chainTo n bound k (chainMove n s) else s
    | none => s

/-- The common boundary at which a pre-emption or VSAVE stops chained instructions: those that have begun make the groups that the
entries before them have made (R23, R284). -/
def evenOut (s : State) : State :=
  (upTo s.me.vctx.queue.length).foldl (fun s n =>
    match s.me.vctx.queue, s.me.vctx.queue[n]? with
    | h :: _, some e =>
      if e.prog = 0 then s else chainTo n (elemsDone h) (ceilDiv (elemsDone h - elemsDone e) (epg (sewOf e.vshape))) s
    | _, _ => s) s

/-- Which entry of the queue makes its next group: the device's choice (log 60). -/
def chosenEntry (s : State) : Nat := Config.chainPick s.tick % s.me.vctx.queue.length

end Sys2Proof.Machine
end

