-- ==== Sys2Proof/Machine/Slots.lean ====
section
/-! DEFINITION. Strand slots and the active slot of a core (R22), and large transfers between a context area and memory. -/

namespace Sys2Proof.Machine

/-! ### The active slot (R22) -/

/-- Neither suspended nor waiting at WFE. -/
def ready (st : Strand) : Bool := resident st && st.status == .run

def activeSlot (s : State) (core : Nat) : Nat := tget 0 s.active core

/-- Whether a ready strand stands in a slot. -/
def readyAt (s : State) (core slot : Nat) : Bool :=
  match strandAt s core slot with
  | some st => ready st
  | none => false

/-- The slots of a core in ascending order after slot a, a itself last. -/
def slotsAfter (a : Nat) : List Nat := [(a + 1) % 4, (a + 2) % 4, (a + 3) % 4, a % 4]

/-- The next ready slot of a core. -/
def nextReady (s : State) (core : Nat) : Option Nat := (slotsAfter (activeSlot s core)).find? (readyAt s core)

/-- A slot made the active one of its core; it issues next where the core has the focus, or no strand has. -/
def setActive (core slot : Nat) (s : State) : State :=
  let mine := !resident s.me || s.me.core == core
  let s := { s with active := tset s.active core slot }
  if mine then swapBy (isAt core slot) s else s

/-- The front end of a core changes its active slot. -/
def changeSlot (core : Nat) (s : State) : State :=
  match nextReady s core with
  | none => s
  | some j => setActive core j s

/-- The strand that a core issues from made the one that issues next. -/
def focus (core : Nat) (s : State) : State :=
  let a := activeSlot s core
  if readyAt s core a then swapBy (isAt core a) s
  else
    match nextReady s core with
    | none => s
    | some j => swapBy (isAt core j) { s with active := tset s.active core j }

/-- After a move: an active strand that is suspended, waits at WFE or has ended gives up its turn. -/
def settleTurn (core : Nat) (s : State) : State :=
  if ready s.me && s.me.core == core then s else changeSlot core s

/-! ### Context areas (R287, R289) -/

/-- The memory that a location lies in, and its index there. -/
def memOf (s : State) : Loc → List Host.Cell × Nat
  | .spad k => (s.spad, k)
  | .host pa => (s.host, pa)

/-- n bytes from location l replaced by those of a sparse image from offset off on. -/
def spliceLoc (l : Loc) (n : Nat) (img : Cells 8) (off : Nat) (s : State) : State :=
  match l with
  | .spad k => { s with spad := csplice zeros s.spad k n img off }
  | .host pa => { s with host := csplice zeros s.host pa n img off }

/-- The bytes [off, off + n) of an area of 4 KiB pages, moved to begin at base. -/
def areaSlice (s : State) (ls : List Loc) (off n base : Nat) : Cells 8 :=
  (upTo ls.length).flatMap fun p =>
    let lo := max off (4096 * p)
    let hi := min (off + n) (4096 * p + 4096)
    match ls[p]? with
    | none => []
    | some l => if hi ≤ lo then [] else cslice ((memOf s l).2 + (lo - 4096 * p)) (hi - lo) (lo - off + base) (memOf s l).1

/-- An image written to an area page by page. -/
def areaWrite (ls : List Loc) (img : Cells 8) (s : State) : State :=
  ((upTo ls.length).zip ls).foldl (fun s x => spliceLoc x.2 4096 img (4096 * x.1) s) s

/-- n values from index k on of a sparse list that begins at k or later. -/
def denseFrom {w : Nat} (dflt : Nat → BitVec w) : Nat → Nat → Cells w → List (BitVec w)
  | 0, _, _ => []
  | n + 1, k, [] => dflt k :: denseFrom dflt n (k + 1) []
  | n + 1, k, (j, v) :: t =>
    if j = k then v :: denseFrom dflt n (k + 1) t else dflt k :: denseFrom dflt n (k + 1) ((j, v) :: t)

/-- Bytes as a sparse image from an offset on. -/
def imageOf : Nat → List Byte → Cells 8
  | _, [] => []
  | o, b :: t => if b = 0 then imageOf (o + 1) t else (o, b) :: imageOf (o + 1) t

/-- The strand's waiting stores without n bytes at a location, which the device itself writes. -/
def dropBytes (l : Loc) (n : Nat) (s : State) : State :=
  updMe s fun st =>
    match l with
    | .spad k => { st with wcb := (st.wcb.map fun x =>
        { x with bytes := x.bytes.filter fun b => !decide (k ≤ b.1 ∧ b.1 < k + n) }).filter fun x => !x.bytes.isEmpty }
    | .host k => { st with hpath := st.hpath.map fun x =>
        { x with bytes := x.bytes.filter fun b => !decide (k ≤ b.1 ∧ b.1 < k + n) } }

/-- The same for an area of 4 KiB pages. -/
def dropArea (ls : List Loc) (s : State) : State := ls.foldl (fun s l => dropBytes l 4096 s) s

/-- The same for n bytes of a function's host space. -/
def dropHost (fn va n : Nat) (s : State) : State :=
  dropArea ((upTo (n / 4096)).filterMap fun p =>
    match translate s fn (va + 4096 * p) .store with | .ok pa _ _ _ _ => some (.host pa) | _ => none) s

/-- Bytes of the device itself written to a function's host space, pages of 4 KiB at a time; a page that cannot be written
drops its bytes (log 13). -/
def hostImage (fn va n : Nat) (img : Cells 8) (s : State) : State :=
  (upTo (n / 4096)).foldl (fun s p =>
    match translate s fn (va + 4096 * p) .store with
    | .ok pa _ _ _ _ => { s with host := csplice zeros s.host pa 4096 img (4096 * p) }
    | _ => s) s

end Sys2Proof.Machine
end

