-- ==== Sys2Proof/Machine/Launch.lean ====
section
/-! DEFINITION. Gangs and launches: the end of a strand (R282), failures and completion (R303, R307), quiescing (R312),
pre-emption (R288, R289), erased keys and the security alarm (R340, R341). -/

namespace Sys2Proof.Machine

/-! ### Launches -/

/-- A launch whose completion is not yet counted. -/
def inProgress (l : Launch) : Bool := !l.written

def hasLaunch (s : State) (fn : Nat) : Bool := s.launches.any fun l => l.fn == fn && inProgress l

/-- A bit field of word k of a launch record (Table 17.3). -/
def recField (l : Launch) (k hi lo : Nat) : Nat := field (l.record.getD k 0) hi lo

def recG (l : Launch) : Nat := recField l 1 23 0
def recS (l : Launch) : Nat := recField l 1 30 24
def recDet (l : Launch) : Bool := recField l 1 31 31 == 1
def recVlcap (l : Launch) : Nat := recField l 1 48 32
def recNreg (l : Launch) : BitVec 2 := BitVec.ofNat 2 (recField l 1 50 49)
def recSpad (l : Launch) : Nat := recField l 1 63 56 * 4096
def recPrio (l : Launch) : Nat := recField l 7 2 0
def cwAddr (l : Launch) : Nat := (l.record.getD 4 0).toNat

/-- An interrupt vector of the physical function raised. -/
def raisePf (v : Nat) (s : State) : State := { s with dev := { s.dev with msix := s.dev.msix ++ [v] } }

/-- Whether a status gives way to RESET: a reset completes with it every launch whose completion word is not written, but one
whose last strand has passed END (R312, R314). -/
def yields (old new : Nat) : Bool := new == 4 && old != 0

/-- A launch completes with a status: its unplaced gangs are dropped. The first status stands, but before a reset. -/
def completeLaunch (fn seq status cause : Nat) (s : State) : State :=
  updLaunch s fn seq fun l =>
    match l.status with
    | some old => if yields old status then { l with status := some status, cause := cause } else l
    | none => { l with status := some status, cause := cause, next := recG l }

/-! ### Quiescing (R227, R307, R312) -/

/-- A command abandoned: its destinations and work area are then unspecified. -/
def abandonCmd (s : State) (c : Cmd) : State :=
  let d := ((upTo (outputs c).length).zip (outputs c)).foldl (fun s x =>
    scramble s s.me.fn x.2.h.host x.2.h.addr (extentOf x.2.h.fmt x.2.h.cap + (if x.1 = 0 then workSize c else 0))) s
  d

/-- The trace session on the strand ends with a reason (R326). -/
def endSession (reason : Nat) (s : State) : State :=
  if traced s then
    let s := traceClock s.me.fn s.me.pc (vcpOf s.me) s
    if (myDebug s).sessionOpen then traceEnd s.me.fn s.me.pc (vcpOf s.me) reason s else s
  else s

/-- The activity of a strand added to its function's counters (R308). -/
def bankWork (s : State) : State :=
  updMe (addActivity (addActivity s s.me.fn 0 s.me.laneCycles) s.me.fn 2 s.me.bitCycles) fun st =>
    { st with laneCycles := 0, bitCycles := 0 }

/-- Every store of a strand performed, but in deterministic mode, where stores reach others at gang drains alone (R99). -/
def flushNormal (s : State) : State := if s.me.det then s else flushAll s

/-- A strand stopped with no handler: its stores are performed before the completion word, in deterministic mode those since its last
drain too (R303), its commands abandoned, and its slot, handles and rows freed. DEDUCED (log 75). -/
def quiesceMe (s : State) : State :=
  let s := bankWork (endSession 2 (flushAll (completeAll s)))
  let s := (s.me.fifos.flatMap fun f => f.2.cmds).foldl abandonCmd s
  { s with me := Strand.reset }

/-- HALTED says that a gang of the function is halted (Table 18.4). -/
def settleHalted (fn : Nat) (s : State) : State :=
  updDebug s fn fun d => { d with halted := d.halted && s.gangs.any fun g => g.fn == fn && g.halted }

def quiesceGang (x : Gang) (s : State) : State :=
  let s := forGang x.fn x.seq x.gang quiesceMe s
  settleHalted x.fn { s with gangs := s.gangs.filter fun y => !isGang x.fn x.seq x.gang y }

/-- Every placed gang of a launch quiesced, and its warm slots dropped. -/
def quiesceLaunch (fn seq : Nat) (s : State) : State :=
  let s := (s.gangs.filter fun x => x.fn == fn && x.seq == seq).foldl (fun s x => quiesceGang x s) s
  { s with dev := { s.dev with warm := s.dev.warm.filter fun w => !(w.fn == fn && w.seq == seq) } }

/-- A launch fails (R307), or is ended by a reset or an alarm. -/
def failLaunch (fn seq status cause : Nat) (s : State) : State :=
  completeLaunch fn seq status cause (quiesceLaunch fn seq s)

/-! ### END (R282) -/

/-- Every read stream of a FIFO ends with ABORT: a running one completes at once, one that waits when it is reached. -/
def drainReads (q : Nat) (s : State) : State :=
  match (fifoOf s.me q).cmds with
  | [] => s
  | c :: t =>
    let rest := t.map fun c => if isReader c then { c with fixed := 10 } else c
    let s := updFifo q (fun f => { f with cmds := c :: rest }) s
    if isReader c then complete q c 10 0 [] s else s

/-- Results discarded, unpopped and later ones alike. -/
def dropResults (s : State) : State :=
  updMe s fun st => { st with fifos := st.fifos.map fun f => (f.1, { f.2 with res := [] }) }

/-- Every pushed command driven on as far as it goes. -/
def driveAll (s : State) : State :=
  (upTo 16).foldl (fun s q =>
    if thas s.me.fifos q then dropResults (kneadTill q (fun f => f.cmds.isEmpty) whole (drainReads q s)) else s) s

def allDone (st : Strand) : Bool := st.fifos.all fun f => f.2.cmds.isEmpty

/-- The gang of a strand that has ended: a phase may complete, and the last strand ends the gang. -/
def leaveGang (s : State) : State :=
  let fn := s.me.fn
  let seq := s.me.lseq
  let g := s.me.gang
  let s := tryPhase (applyRing (fun x =>
    match x.members[s.me.lsn]? with
    | some m => { x with members := x.members.set s.me.lsn { m with ended := true, arr := false } }
    | none => x) s)
  match gangFind s fn seq g with
  | none => s
  | some x =>
    if liveCount x = 0 then
      let s := { s with gangs := s.gangs.filter fun y => !isGang fn seq g y }
      let s := updLaunch s fn seq fun l => { l with ended := l.ended + 1 }
      match launchFind s fn seq with
      | none => s
      | some l => if l.ended = recG l then completeLaunch fn seq 0 0 s else s
    else s

/-- The end of END: XFLAGS go to the completion word and the slot is freed; in handler mode the launch fails. -/
def finishEnd (s : State) : State :=
  let fn := s.me.fn
  let seq := s.me.lseq
  let s := bankWork (endSession 1 s)
  let s := updLaunch s fn seq fun l => { l with xflags := l.xflags ||| s.me.xflags }
  if s.me.endOff then failLaunch fn seq 3 (field s.me.tcause 7 0) s
  else { leaveGang s with me := Strand.reset }

/-- In deterministic mode END is a drain point, which it reaches with its queue empty and its commands completed (R99, R282). -/
def endDrains (s : State) : Bool := s.me.det && !s.me.permit && !alone s

/-- One move of an END that has begun: its waits, its drain, then its end. Where another strand's VSAVE has dumped the queue that it
waits for, it raises cause 0x09 (R286). -/
def endMove (s : State) : State :=
  let s := if s.me.vctx.queue.isEmpty then completeAll s else completeOut s
  let s := driveAll (if s.me.endOff then drainStreams none s else s)
  if !s.me.endOff && !s.me.dumped.isEmpty then trapFront 9 0 s
  else if !s.me.vctx.queue.isEmpty then runHead whole s
  else if !allDone s.me then s
  else if endDrains s then { s with me := { s.me with stand := some .endStrand } }
  else finishEnd (flushAll s)

/-- Moves of an END until it has ended, stands or waits. -/
def endLoop : Nat → State → State
  | 0, s => s
  | n + 1, s => if s.me.ending && s.me.status == .run && s.me.stand.isNone then endLoop n (endMove s) else s

/-- END begins. In handler mode the stopped or dumped queue is discarded and every open write stream ends. -/
def beginEnd (s : State) : State :=
  let off := s.me.hm
  endLoop 40 (updMe s fun st => { (if off then discardQueue st else st) with ending := true, endOff := off })

/-! ### Pre-emption (R288, R289) -/

/-- The oldest instruction of a queue has begun and its unit is the whole: a MATTACH `.wait` that waits for rows, or an MSAVE
whose stores wait for a drain. A stop waits for it to complete (Table 13.4). -/
def holdsStop (s : State) (st : Strand) : Bool :=
  queueLive st && match st.vctx.queue with
    | e :: _ => (match e.instr with
      | .mattach _ _ w => w == 1 && e.split && decide (freeRows s st.core < e.a.toNat - st.vctx.mgrant)
      | .msave _ => e.prog != 0
      | _ => false)
    | [] => false

/-- The strand's queue stops for a pre-emption (R284, R288). -/
def stopQueue (s : State) : State :=
  updMe (evenOut (servePort s.me.core (completeAll s))) fun st => { st with
    stand := none, permit := false, pre := true, qstop := !st.vctx.queue.isEmpty, vctx := { st.vctx with bufs := [] } }

/-- A strand of a pre-empted gang stops, its queue with it, and enters the handler with cause 0x0E, or takes it at its ERET
(R288). -/
def preemptMe (s : State) : State :=
  if !resident s.me || s.me.ending && s.me.endOff then s
  else if s.me.hm then stopQueue s
  else takeTrap 0x0E 0 false false s.me.pc 0 (stopQueue s)

/-- A gang that may be pre-empted. -/
def preemptable (x : Gang) : Bool := x.placed && !x.preempting

/-- A strand of a gang. -/
def inGang (x : Gang) (st : Strand) : Bool := resident st && st.fn == x.fn && st.lseq == x.seq && st.gang == x.gang

/-- The stop of a gang: at once, or once the instructions that hold it back have completed. A halted gang has stopped already, and enters
the handler when its halt ends. DEDUCED (log 44, log 68). -/
def preemptGang (x : Gang) (s : State) : State :=
  if !preemptable x then s
  else if x.halted || (s.me :: s.others).any fun st => inGang x st && holdsStop s st then
    updGang s x.fn x.seq x.gang fun g => { g with stopping := true }
  else
    updGang (forGang x.fn x.seq x.gang preemptMe s) x.fn x.seq x.gang fun g =>
      { g with preempting := true, stopping := false, slices := 0 }

/-- The queue of a strand of a halted gang stops as at pre-emption, unless an instruction whose unit is the whole holds it back (R234,
R288, R323). -/
def haltMe (s : State) : State :=
  if s.me.status == .halting && !holdsStop s s.me then
    updMe (evenOut (servePort s.me.core (completeAll s))) fun st =>
      { st with status := .halted, stand := none, permit := false, vctx := { st.vctx with bufs := [] } }
  else s

/-- Whether a strand of a halted gang has still to stop. -/
def haltsLate (s : State) (x : Gang) : Bool := x.halted && (s.me :: s.others).any fun st => inGang x st && st.status == .halting

/-- The stops that have waited take place as soon as nothing holds them back. -/
def lateStops (s : State) : State :=
  let s := (s.gangs.filter (haltsLate s)).foldl (fun s x => forGang x.fn x.seq x.gang haltMe s) s
  (s.gangs.filter Gang.stopping).foldl (fun s x => preemptGang x s) s

/-- The slot's remaining state (R289): PC, TEPC and VCP, the scalar registers and TSCR, the trap registers, the handle table,
and OUT and WS of each FIFO, with the strand's identity. -/
def slotWords (st : Strand) : List Nat :=
  [st.fn, st.lseq, st.gang, st.lsn, st.pc.toNat, st.tepc.toNat, (vcpOf st).toNat] ++ st.regs.toList.map BitVec.toNat ++
    st.tscr.toList.map BitVec.toNat ++
    [st.tcause.toNat, st.tval.toNat] ++
    st.handles.flatMap (fun h => [h.1, (tget 0 st.gens h.1 : BitVec 8).toNat, h.2.base.toNat, h.2.len, h.2.cap, h.2.fmt.toNat]) ++
    st.fifos.flatMap fun f => [f.1, f.2.out, b2n f.2.ws]

/-- The bytes of a strand's slot state, in a layout of the device's own (log 5). -/
def slotBytes (st : Strand) : List Byte := (upTo 0x20000).map (Config.slotByte (slotWords st))

def slotArea (st : Strand) : Nat := st.ctxarea.toNat + 0xE0000

/-- The strand is taken off: its slot state is written to its context area, and its slot freed. In deterministic mode its
stores go on waiting for a drain (R99). -/
def takeOff (s : State) : State :=
  let s := updMe (flushNormal (completeAll s)) fun st => { st with status := .off, pre := false, hm := false }
  let s := hostImage s.me.fn (slotArea s.me) 0x20000 (imageOf 0 (slotBytes s.me)) (dropHost s.me.fn (slotArea s.me) 0x20000 s)
  let fn := s.me.fn
  let seq := s.me.lseq
  let g := s.me.gang
  let here := (s.me :: s.others).any fun st => isStrand fn seq g st.lsn st && resident st
  if here then s else updGang s fn seq g fun x => { x with placed := false, preempting := false }

/-! ### Keys and alarms (R310, R336, R340, R341) -/

/-- The first byte of a vault, and its size. -/
def vaultBase (v : Nat) : Nat := v * 384 * 2 ^ 21
def vaultSize : Nat := 384 * 2 ^ 21

/-- The contents of vaults become unspecified. DESIGN CHOICE (log 25). -/
def eraseVaults (vs : List Nat) (s : State) : State :=
  let n := s.tick + 1
  bump { s with
    vault := vs.foldl (fun m v => cclear (vaultBase v) vaultSize m) s.vault
    dev := { s.dev with erased := vs.foldl (fun t v => tset t v n) s.dev.erased } }

/-- The functions of a tenant. -/
def functionsOf (s : State) (tenant : Nat) : List Nat := (upTo 64).filter fun f => (fnOf s f).tenant == tenant

/-- Tenants with a launch in progress. -/
def busyTenants (s : State) : List Nat := (((upTo 64).filter (hasLaunch s)).map fun f => (fnOf s f).tenant).eraseDups

/-- Every launch of a function that has not completed completes with SECURITY. -/
def secureFn (fn : Nat) (s : State) : State :=
  (s.launches.filter fun l => l.fn == fn && l.status == none).foldl (fun s l => failLaunch fn l.seq 6 0 s) s

/-- The memory keys of tenants erased: what they left elsewhere is lost too, and their runs are unspecified until a next
launch brings a new key. -/
def dropKeys (ts : List Nat) (s : State) : State :=
  { s with dev := { s.dev with
      noKey := (s.dev.noKey ++ ts).eraseDups, stash := s.dev.stash.filter fun x => !ts.contains x.tenant } }

/-- The vaults of a group. -/
def groupVaults (g : Nat) : List Nat := [4 * g, 4 * g + 1, 4 * g + 2, 4 * g + 3]

/-- The vaults that tenants' keys have written: those of their maps, and of the groups that still hold what they left. -/
def keyVaults (s : State) (ts : List Nat) : List Nat :=
  (((ts.flatMap (functionsOf s)).flatMap fun f => partVaults (fnOf s f)) ++
    (s.dev.scrubbed.filter fun x => ts.contains x.2).flatMap fun x => groupVaults x.1).eraseDups

/-- Level 2: the keys of tenants erased. -/
def eraseTenants (ts : List Nat) (s : State) : State :=
  eraseVaults (keyVaults s ts) ((ts.flatMap (functionsOf s)).foldl (fun s f => secureFn f s) (dropKeys ts s))

/-- The alarm of a level, naming tenants or none. -/
def alarmAt (level : Nat) (tenants : List Nat) (s : State) : State :=
  let s := raisePf 0 { s with dev := { s.dev with alarm := max s.dev.alarm level } }
  if level < 2 then s
  else
    let s := eraseTenants (if tenants.isEmpty then busyTenants s else tenants) s
    if level < 3 then s
    else
      let s := (upTo 64).foldl (fun s f => secureFn f s) s
      let s := eraseVaults (upTo 512) (dropKeys ((upTo 64).map fun f => (fnOf s f).tenant) s)
      { s with dev := { s.dev with lock := true, attKey := false, checkKey := false, stash := [] } }

/-- Sensors of Table 19.7 that strike at once are logged, and the alarm is raised at the highest of their levels (R340). -/
def strike (sensors : List Nat) (tenants : List Nat) (s : State) : State :=
  alarmAt ((sensors.map fun k => s.dev.levels.getD k 1).foldl max 1) tenants
    { s with dev := { s.dev with sensorLog := s.dev.sensorLog ++ sensors } }

/-- A sensor that strikes alone. -/
def sensorAlarm (sensor : Nat) (tenants : List Nat) (s : State) : State := strike [sensor] tenants s

/-- The alarm on the issuing strand's own tenant. -/
def myAlarm (sensor : Nat) (s : State) : State := sensorAlarm sensor [(fnOf s s.me.fn).tenant] s

end Sys2Proof.Machine
end

