-- ==== Sys2Proof/Machine/Context.lean ====
section
/-! DEFINITION. The save area of the vector context (Table 16.7), VSAVE and VREST (R287), and the manifest (R318, R319). -/

namespace Sys2Proof.Machine

/-! ### Dredger tables (Table 14.1) -/

/-- Groups of four bytes as words. -/
def chunk4 : List Byte → List (BitVec 32)
  | a :: b :: c :: d :: t => BitVec.ofNat 32 (ofBytes [a, b, c, d]) :: chunk4 t
  | _ => []

/-- Values from index k on, those that differ from what an unlisted index reads as. -/
def sparseFrom {w : Nat} (dflt : Nat → BitVec w) : Nat → List (BitVec w) → Cells w
  | _, [] => []
  | k, x :: t => if x = dflt k then sparseFrom dflt (k + 1) t else (k, x) :: sparseFrom dflt (k + 1) t

/-- Directions, seeds and modes of a table image (Table 14.1). A MODE byte is taken modulo 4, and code 3 acts as NEST. DESIGN CHOICE
(log 84). -/
def dredOf (bs : List Byte) : Cells 32 × Cells 32 × Cells 2 :=
  (sparseFrom dirDefault 0 (chunk4 (bs.take 8192)), sparseFrom zeros 0 (chunk4 ((bs.drop 8192).take 256)),
    sparseFrom modeDefault 0 ((bs.drop 8448).map fun b => b.setWidth 2))

/-- The 8,512-byte image of a Dredger state. -/
def dredBytes (dirs seeds : Cells 32) (modes : Cells 2) : List Byte :=
  (denseFrom dirDefault 2048 0 dirs).flatMap (fun v => toBytes 4 v.toNat) ++
    (denseFrom zeros 64 0 seeds).flatMap (fun v => toBytes 4 v.toNat) ++
    (denseFrom modeDefault 64 0 modes).map fun v => v.setWidth 8

/-! ### The save area (Table 16.7) -/

/-- The placement context of a strand of launch l (R287). -/
def placementCtx (l : Launch) : VCtx :=
  { VCtx.reset with cnt := recNreg l, dirs := l.dirs, seeds := l.seeds, modes := l.modes }

def areaSize : Nat := 0x80000

/-- IDENT. -/
def identOf (st : Strand) : Nat := st.lseq * 2 ^ 32 + st.gang * 2 ^ 8 + st.lsn

/-- A dump entry. -/
def dumpEntry (e : QEntry) : List Byte :=
  toBytes 4 (encodeNat e.instr) ++ toBytes 4 0 ++ toBytes 8 e.addr.toNat ++ toBytes 8 e.prog ++
    toBytes 8 e.a.toNat ++ toBytes 8 e.b.toNat ++ toBytes 8 e.d.toNat ++
    toBytes 8 e.vshape.toNat ++ toBytes 8 e.vl ++ toBytes 8 e.mvl.toNat ++ toBytes 8 e.mfcr.toNat ++
    (upTo 176).map (Config.dumpByte e.id)

/-- Bytes 0x0_0000 to 0x0_20FF with a FORMAT and a CHECK. -/
def areaHead (st : Strand) (format check : Nat) : List Byte :=
  let c := st.vctx
  toBytes 8 format ++ toBytes 8 (identOf st) ++ toBytes 8 c.vshape.toNat ++ toBytes 8 c.vl ++ toBytes 8 c.mvl.toNat ++
    toBytes 8 c.mfcr.toNat ++ toBytes 8 c.cnt.toNat ++ toBytes 8 c.mgrant ++ toBytes 8 c.didx.toNat ++
    toBytes 8 c.queue.length ++ toBytes 0xA8 0 ++ toBytes 8 check ++
    (c.queue.take 32).flatMap dumpEntry ++ toBytes ((32 - c.queue.length) * 256) 0

/-- CHECK over the bytes of the head, CHECK itself taken as zero. DEDUCED (log 38). -/
def headCheck (fn : Nat) (hd : List Byte) : Nat := (Config.ctxCheck fn (hd.take 0xF8 ++ toBytes 8 0 ++ hd.drop 0x100)).toNat

/-- Groups of eight bits as bytes, bit 0 first. -/
def packBits : List (BitVec 1) → List Byte
  | a :: b :: c :: d :: e :: f :: g :: h :: t =>
    BitVec.ofNat 8 ([h, g, f, e, d, c, b, a].foldl (fun n x => 2 * n + x.toNat) 0) :: packBits t
  | _ => []

/-- m0, all ones, then m1 to m7. -/
def maskBytes (ms : Cells 1) : List Byte :=
  List.replicate 8192 0xFF ++ packBits (denseFrom zeros (7 * 65536) 65536 ms)

/-- The image of the area that VSAVE writes. -/
def areaImage (st : Strand) : Cells 8 :=
  let c := st.vctx
  let check := headCheck st.fn (areaHead st 1 0)
  imageOf 0 (areaHead st 1 check) ++ imageOf 0x2100 (dredBytes c.dirs c.seeds c.modes) ++
    imageOf 0x10000 (maskBytes c.masks) ++
    imageOf 0x20000 ((denseFrom one32 32768 0 c.scales).flatMap fun v => toBytes 4 v.toNat) ++
    c.vf.map fun x => (x.1 + 0x40000, x.2)

/-- n bytes of an area from offset off. -/
def areaBytes (s : State) (ls : List Loc) (off n : Nat) : List Byte := denseFrom zeros n 0 (areaSlice s ls off n 0)

/-- Mask bits from the bytes of m0 to m7; m0 is not held. -/
def masksOf (img : Cells 8) : Cells 1 :=
  (img.filter fun x => decide (8192 ≤ x.1)).flatMap fun x =>
    ((upTo 8).filter fun j => x.2.getLsbD j).map fun j => (8 * x.1 + j, 1)

/-- The queue entry that the 256 bytes of a dump entry hold (Table 16.7); what its device-state bytes stand for is the device's own
record of the entry, or is made anew (log 39). -/
def entryOf (cnt : BitVec 2) (span id : Nat) (own : Option QEntry) (bs : List Byte) : Option QEntry :=
  match decodeNat (ofBytes (bs.take 4)) with
  | .error _ => none
  | .ok i =>
    let w := wordAt bs
    let own := (own.filter fun e => e.instr == i && e.addr == w 1).getD
      { id := id, instr := i, addr := w 1, prog := 0, a := 0, b := 0, d := 0, vshape := 0, vl := 0, mvl := 0, mfcr := 0, cnt := cnt,
        split := true, vlSpan := span, spec := none, done := false }
    some { own with
      done := own.done && own.prog == (w 2).toNat, prog := (w 2).toNat, a := w 3, b := w 4, d := w 5
      vshape := w 6, vl := (w 7).toNat, mvl := w 8, mfcr := w 9 }

/-- The queue that the dump of an area's head holds, in order. -/
def dumpOf (st : Strand) (id : Nat) (hd : List Byte) : List QEntry :=
  (upTo (min 32 (wordAt hd 9).toNat)).filterMap fun k =>
    entryOf ((wordAt hd 6).setWidth 2) st.vctx.vlSpan (id + k) st.dumped[k]? ((hd.drop (0x100 + 256 * k)).take 256)

/-- The vector context that an area holds, its dump as its queue. -/
def ctxOf (s : State) (ls : List Loc) (queue : List QEntry) (span : Nat) : VCtx :=
  let hd := areaBytes s ls 0 0x50
  let d := dredOf (areaBytes s ls 0x2100 8512)
  { vf := areaSlice s ls 0x40000 0x40000 0, masks := masksOf (areaSlice s ls 0x10000 0x10000 0)
    scales := sparseFrom one32 0 (chunk4 (areaBytes s ls 0x20000 0x20000))
    vshape := wordAt hd 2, vl := (wordAt hd 3).toNat, mvl := wordAt hd 4, mfcr := wordAt hd 5
    cnt := (wordAt hd 6).setWidth 2, mgrant := (wordAt hd 7).toNat, didx := (wordAt hd 8).setWidth 32
    dirs := d.1, seeds := d.2.1, modes := d.2.2, queue := queue, bufs := [], vlSpan := span,
    vlGrant := (wordAt hd 3).toNat }

/-! ### Ownership (R23) -/

/-- Whether a strand owns the vector context of a core. -/
def owns (core : Nat) (st : Strand) : Bool := st.status != .free && st.core == core && st.vown

def ownerOf (s : State) (core : Nat) : Option Strand := (s.me :: s.others).find? (owns core)

/-- Whether e .. e + 0x7_FFFF lies in one region. -/
def areaFits (s : State) (e : Nat) : Bool :=
  match regionOf e with
  | .host => decide (e + areaSize ≤ hostSize)
  | .local off => decide (off + areaSize ≤ s.me.spSize)
  | .window j off => decide (j < s.me.gsize ∧ off + areaSize ≤ s.me.spSize)
  | .nowhere => false

/-- The pages of the area at e, or the address and outcome of the first check that fails (R287). -/
def areaPages (s : State) (e : Nat) (a : Acc) : Except (Nat × MRes) (List Loc) :=
  if e % 4096 ≠ 0 then .error (e, .misaligned)
  else if !areaFits s e then .error (e, .access)
  else
    let us := (upTo 128).map fun j => (e + 4096 * j, reach s (e + 4096 * j) a)
    match us.find? (fun x => !isOk x.2) with
    | some x => .error x
    | none => .ok (us.filterMap fun x => locOf x.2)

/-- The owner's context leaves the core: its queue is dumped and its element buffers discarded (R286, R287). -/
def releaseCtx (st : Strand) : Strand :=
  { st with
    vown := false, qstop := false, stand := none, permit := false, dumped := st.vctx.queue,
    vctx := { st.vctx with queue := [], bufs := [] } }

/-- VSAVE waits while the owner's queue runs a VLDFF that has still to fix VL (R169), or an instruction that a stop waits for
(Table 13.4). DEDUCED (log 43). -/
def ownerRuns (s : State) : Bool :=
  match ownerOf s s.me.core with
  | some st => (queueLive st && st.vctx.queue.any fun e => e.instr matches .vldff ..) || holdsStop s st
  | none => false

/-- What the owner has outstanding is performed; in a handler, what waits behind a VFENCE of its stopped queue too, since nothing
would release it there once the queue is saved. DEDUCED (log 7). -/
def saveOut (s : State) : State := if s.me.hm then completeAll s else completeOut s

/-- VSAVE (R287), in handler mode: k follows its completion. The area is written past the strand's own waiting stores, of
which those to the area are earlier (R99). -/
def vsaveAt (v : Word) (k : State → State) (s : State) : State :=
  match ownerOf s s.me.core with
  | none => k s
  | some _ =>
    match areaPages s v.toNat .store with
    | .error (ad, r) => memFault r ad true false s
    | .ok ls =>
      let s := settle (onBy (owns s.me.core) (fun s => evenOut (servePort s.me.core (saveOut s))) s)
      match ownerOf s s.me.core with
      | none => k s
      | some st => k (onBy (owns s.me.core) (fun s => updMe s releaseCtx) (areaWrite ls (areaImage st) (dropArea ls s)))

/-- The strand owns the context c, and the area is consumed. -/
def takeCtx (ls : List Loc) (c : VCtx) (stopped : Bool) (s : State) : State :=
  let s := updMe s fun st => { st with vown := true, vctx := c, dumped := [], qstop := st.qstop || stopped }
  match ls with
  | l :: _ => dropBytes l 8 (spliceLoc l 8 (imageOf 0 (toBytes 8 2)) 0 s)
  | [] => s

/-- VREST (R287), in handler mode: k follows its completion. Its dump becomes the stopped queue. DEDUCED (log 38), DESIGN
CHOICE (log 39). -/
def vrestAt (v : Word) (k : State → State) (s : State) : State :=
  match ownerOf s s.me.core with
  | some _ => trapFront 0x11 0 s
  | none =>
    match areaPages s v.toNat .store with
    | .error (ad, r) => memFault r ad true false s
    | .ok ls =>
      let s := settle s
      let v := flushAll s
      let hd := areaBytes v ls 0 0x2100
      if wordAt hd 0 = 0 then
        match launchFind s s.me.fn s.me.lseq with
        | none => trapFront 0x12 0 s
        | some l => k (takeCtx ls { placementCtx l with vlSpan := s.me.vctx.vlSpan + 1 } false s)
      else if wordAt hd 0 = 1 ∧ (wordAt hd 1).toNat = identOf s.me ∧ s.dev.checkKey = true ∧
          (wordAt hd 31).toNat = headCheck s.me.fn hd then
        k (takeCtx ls (ctxOf v ls (dumpOf s.me s.nextId hd) s.me.vctx.vlSpan) true { s with nextId := s.nextId + 32 })
      else trapFront 0x12 0 s

/-! ### The manifest (R318, R319, Table 18.3) -/

/-- The records of a set, one after another. -/
def recConcat (l : List (List Byte)) : List Byte := l.flatten

/-- The records of fetched pages: 8 bytes of address, then the page. -/
def pageRecs (m : Manifest) : List (List Byte) :=
  m.pages.foldl (fun l p => recInsert l (toBytes 8 p.1 ++ denseFrom zeros 4096 0 p.2)) []

/-- What each hash is taken over. The table at PREF is read when the hash is fixed. DEDUCED (log 40). -/
def hashInput (s : State) (l : Launch) (h : Nat) : List Byte :=
  let pref := (l.record.getD 3 0).toNat
  match h with
  | 0 => recConcat (pageRecs l.man)
  | 1 => toBytes 8 (l.record.getD 1 0).toNat
  | 2 => dredBytes l.dirs l.seeds l.modes ++ recConcat l.man.dred
  | 3 => (if pref = 0 then [] else (hostReadFn s l.fn pref 512).getD []) ++ recConcat l.man.proof
  | 4 => recConcat l.man.cspec
  | 5 => toBytes 4 (recField l 6 63 32) ++ recConcat l.man.seed
  | _ => recConcat l.man.tree

/-- The hashes fixed at completion. -/
def fixHashes (s : State) (l : Launch) : List Word := (upTo 7).flatMap fun h => sha384 (hashInput s l h)

/-- Manifest register 0x300 + n of a launch. -/
def manifestReg (s : State) (l : Launch) (n : Nat) : Word :=
  if n < 42 then
    match l.hashes with
    | [] => if n / 6 = 1 then (sha384 (hashInput s l 1)).getD (n % 6) 0 else 0
    | hs => hs.getD n 0
  else if n = 0x2A then word (recField l 1 30 0)
  else if n = 0x2B then word (b2n !l.hashes.isEmpty)
  else 0

end Sys2Proof.Machine
end

