-- ==== Sys2Proof/Machine/System.lean ====
section
/-! DEFINITION. System registers (R275 to R277) and the trap, return and control instructions (R281 to R283, R287). -/

namespace Sys2Proof.Machine

/-! ### Reading (R275) -/

/-- GINFO (Table 1.3). -/
def ginfoWord (st : Strand) : Word :=
  word (st.gang * 2 ^ 32 + st.gsize * 2 ^ 24 + st.lsn * 2 ^ 16 + stackOf st.core * 2 ^ 6 + st.core % 64)

/-- VGRANT (Table 6.5). -/
def vgrantWord (st : Strand) : Word := word (st.issue * 2 ^ 16 + st.epoch * 2 ^ 8 + st.lc)

/-- TSTAT (Table 16.4). -/
def tstatWord (st : Strand) : Word :=
  word (b2n st.ev * 16 + b2n st.pre * 8 + b2n st.qstop * 4 + b2n st.vown * 2 + b2n st.hm)

/-- HSTAT (Table 13.2). -/
def hstatWord (s : State) : Word :=
  let h := hearthOf s s.me.core
  word (h.duty * 2 ^ 24 + freeMacros h * 2 ^ 16 + freeRows s s.me.core)

/-- The code of a tile height. -/
def heightCode (n : Nat) : Nat :=
  match n with
  | 0 => 0
  | 1024 => 1
  | 2048 => 2
  | _ => 3

/-- HTILE (Table 13.3). -/
def htileWord (s : State) : Word :=
  let h := hearthOf s s.me.core
  word ((upTo 16).foldl (fun a j => a + heightCode (tileHeight h j) * 4 ^ j) 0)

/-- BARSTAT (Table 11.1), as the strand's node has observed it (R204). -/
def barstatWord (s : State) : Word :=
  let v := nodeView s
  word (v.phase % 2 ^ 32 * 2 ^ 32 + b2n v.arr * 2 ^ 7 + v.count)

/-- ITERSTAT (Table 11.2). -/
def iterstatWord (s : State) : Word :=
  word ((upTo 4).foldl (fun a k => a + b2n ((nodeView s).loops.get (Fin.ofNat 4 k)).set * 2 ^ k) 0)

/-- ITERF (Table 11.3). -/
def iterfWord (s : State) (k : Nat) : Word := let l := (nodeView s).loops.get (Fin.ofNat 4 k); if l.set then l.f else 0

/-- The stopped queue while it is resident (R285). -/
def stoppedQueue (st : Strand) : List QEntry := if st.qstop then st.vctx.queue else []

/-- The entry that VPSEL selects. -/
def selected (st : Strand) : Option QEntry := (stoppedQueue st)[st.vpsel.toNat]?

def vpentWord (st : Strand) : Word :=
  word ((stoppedQueue st).length * 2 ^ 32 + match selected st with | some e => encodeNat e.instr | none => 0)

/-- PWPOOL (Table 15.1). -/
def pwpoolWord (s : State) : Word :=
  let p := poolOf (fnOf s s.me.fn) (stackOf s.me.core)
  word (p.2 * 2 ^ 16 + p.1)

/-- CENSIG (Table 13.7). -/
def censigWord (s : State) : Word :=
  (upTo 256).foldl (fun a e => a ^^^ (cget zeros s.census (s.me.core * 256 + e)).rotateLeft (e % 64)) 0

/-- VOWNER (Table 16.5). -/
def vownerWord (s : State) : Word := match ownerOf s s.me.core with | some st => st.ctxarea + 1 | none => 0

/-- The manifest of the strand's launch. -/
def myManifest (s : State) (n : Nat) : Word :=
  match launchFind s s.me.fn s.me.lseq with
  | some l => manifestReg s l n
  | none => 0

/-- The value of a system register; none for a number that no chapter assigns. -/
def sysRead (s : State) (n : Nat) : Option Word :=
  let st := s.me
  let c := st.vctx
  match n with
  | 0x001 => some (word c.vl)
  | 0x002 => some c.vshape
  | 0x003 => some (vgrantWord st)
  | 0x004 => some (c.cnt.setWidth 64)
  | 0x005 => some c.mfcr
  | 0x006 => some (st.xflags.setWidth 64)
  | 0x007 => some (vcpOf st)
  | 0x008 => some (match stoppedQueue st with | e :: _ => word e.prog | [] => 0)
  | 0x009 => some c.mvl
  | 0x00A => some (word c.mgrant)
  | 0x00B => some (if (stoppedQueue st).isEmpty then 0 else st.vpsel.setWidth 64)
  | 0x00C => some (vpentWord st)
  | 0x00D => some (match selected st with | some e => e.addr | none => 0)
  | 0x00E => some (match selected st with | some e => word e.prog | none => 0)
  | 0x010 => some (st.cspec.get 0)
  | 0x011 => some (st.cspec.get 1)
  | 0x012 => some (st.cspec.get 2)
  | 0x013 => some (st.cspec.get 3)
  | 0x020 => some (st.notify.setWidth 64)
  | 0x021 => some st.pwstat
  | 0x022 => some (st.pwctl.setWidth 64)
  | 0x023 => some (pwpoolWord s)
  | 0x024 => some st.pref
  | 0x030 => some (word (b2n st.det))
  | 0x040 => some (st.dseed.setWidth 64)
  | 0x041 => some (c.didx.setWidth 64)
  | 0x110 => some (hstatWord s)
  | 0x111 => some (htileWord s)
  | 0x200 => some (ginfoWord st)
  | 0x201 => some (word st.gcount)
  | 0x202 => some (barstatWord s)
  | 0x203 => some (iterstatWord s)
  | 0x204 => some (iterfWord s 0)
  | 0x205 => some (iterfWord s 1)
  | 0x206 => some (iterfWord s 2)
  | 0x207 => some (iterfWord s 3)
  | 0x400 => some st.tcause
  | 0x401 => some st.tepc
  | 0x402 => some st.tval
  | 0x403 => some (tstatWord st)
  | 0x404 => some st.thandler
  | 0x405 => some st.ctxarea
  | 0x406 => some (vownerWord s)
  | 0x407 => some (st.tscr.get 0)
  | 0x408 => some (st.tscr.get 1)
  | 0x409 => some (st.tscr.get 2)
  | 0x40A => some (st.tscr.get 3)
  | 0x510 => some 0
  | 0x700 => some (censigWord s)
  | _ => if 0x300 ≤ n ∧ n < 0x380 then some (myManifest s (n - 0x300)) else none

/-! ### Checks (R275, R277) -/

/-- The registers of the vector context. -/
def ctxReg (n : Nat) : Bool := [0x001, 0x002, 0x004, 0x005, 0x009, 0x00A, 0x041].contains n

/-- TSCR0 to TSCR3. -/
def scratchReg (n : Nat) : Bool := 0x407 ≤ n && n ≤ 0x40A

/-- TEPC and TSCR0 to TSCR3, which need handler mode. -/
def handlerReg (n : Nat) : Bool := n == 0x401 || scratchReg n

/-- A system register instruction that stops at issue: an unassigned number, a register of a vector context that another
strand or none owns, or a handler register outside handler mode, which for a TSCR register is debug misuse too (R340). -/
def sysStop (i : Instr) (n : BitVec 12) (s : State) : Option State :=
  if (sysRead s n.toNat).isNone then some (trapFront 1 (word (encodeNat i)) s)
  else if ctxReg n.toNat && !s.me.vown then some (trapFront 9 0 s)
  else if handlerReg n.toNat && !s.me.hm then
    let t := trapFront 0x12 0 s
    some (if scratchReg n.toNat then myAlarm 3 t else t)
  else none

/-! ### Writing (R275, R7) -/

/-- SYSWR, SYSSET and SYSCLR. -/
inductive SysOp where
  | wr | set | clr
  deriving DecidableEq, Repr

/-- What a RW field receives. -/
def SysOp.apply (o : SysOp) (old v : Word) : Word :=
  match o with
  | .wr => v
  | .set => old ||| v
  | .clr => old &&& ~~~v

/-- The bits that a W1C field receives. -/
def SysOp.clears (o : SysOp) (v : Word) : Word :=
  match o with
  | .set => 0
  | _ => v

/-- The bits that a WO field receives. -/
def SysOp.gives (o : SysOp) (v : Word) : Word :=
  match o with
  | .clr => 0
  | _ => v

/-- The effect of a write on TRSIG (R327). -/
def signal (v : Word) (s : State) : State :=
  if traced s then
    let s := if bit v.toNat 0 then traceEvent s 7 s.me.pc (vcpOf s.me) 0 else s
    if bit v.toNat 1 then traceEvent s 8 s.me.pc (vcpOf s.me) 0 else s
  else s

/-- Queued commands keep CSPEC as it stands before a later instruction changes it (R214). -/
def keepSpec (st : Strand) : Strand :=
  let keep := fun (e : QEntry) => if isCommand e.instr && e.spec.isNone then { e with spec := some st.cspec } else e
  { st with dumped := st.dumped.map keep, vctx := { st.vctx with queue := st.vctx.queue.map keep } }

def setCspec (k : Fin 4) (v : Word) (s : State) : State := updMe s fun st => { keepSpec st with cspec := st.cspec.set k v }

/-- A write of a register: none where the value is refused. Registers that are not listed are RO. -/
def sysWrite (o : SysOp) (n : Nat) (v : Word) (s : State) : Option State :=
  let st := s.me
  let c := st.vctx
  match n with
  | 0x002 => let x := o.apply c.vshape v; if shapeOk x then some (updCtx s fun c => { c with vshape := x }) else none
  | 0x005 => let x := o.apply c.mfcr v; if mfcrOk x then some (updCtx s fun c => { c with mfcr := x }) else none
  | 0x006 => some (updMe s fun st => { st with xflags := (o.apply (st.xflags.setWidth 64) v).setWidth 6 })
  | 0x00B => some (updMe s fun st => { st with vpsel := (o.apply (st.vpsel.setWidth 64) v).setWidth 5 })
  | 0x010 =>
    let x := o.apply (st.cspec.get 0) v
    if cspecOk x then some (setCspec 0 x s) else none
  | 0x011 => some (setCspec 1 (o.apply (st.cspec.get 1) v) s)
  | 0x012 => some (setCspec 2 (o.apply (st.cspec.get 2) v) s)
  | 0x013 => some (setCspec 3 (o.apply (st.cspec.get 3) v) s)
  | 0x020 => some (updMe s fun st => { st with notify := st.notify &&& ~~~(o.clears v).setWidth 34 })
  | 0x022 => some (updMe s fun st => { st with pwctl := (o.apply (st.pwctl.setWidth 64) v).setWidth 32 })
  | 0x041 => some (updCtx s fun c => { c with didx := (o.apply (c.didx.setWidth 64) v).setWidth 32 })
  | 0x401 => some (updMe s fun st => { st with tepc := o.apply st.tepc v })
  | 0x403 => some (updMe s fun st => { st with ev := st.ev && !bit (o.clears v).toNat 4 })
  | 0x407 => some (updMe s fun st => { st with tscr := st.tscr.set 0 (o.apply (st.tscr.get 0) v) })
  | 0x408 => some (updMe s fun st => { st with tscr := st.tscr.set 1 (o.apply (st.tscr.get 1) v) })
  | 0x409 => some (updMe s fun st => { st with tscr := st.tscr.set 2 (o.apply (st.tscr.get 2) v) })
  | 0x40A => some (updMe s fun st => { st with tscr := st.tscr.set 3 (o.apply (st.tscr.get 3) v) })
  | 0x510 => some (signal (o.gives v) s)
  | _ => some s

/-- The shared effect of SYSWR, SYSSET and SYSCLR. -/
def sysStore (o : SysOp) (i : Instr) (a : BitVec 5) (n : BitVec 12) (s : State) : State :=
  match sysStop i n s with
  | some t => t
  | none =>
    match sysWrite o n.toNat (reg s a) s with
    | none => trapFront 1 (word (encodeNat i)) s
    | some t => advance t

/-- BARSTAT, ITERSTAT and ITERF0 to ITERF3 show what the strand's node has observed by then (R197, R204). -/
def sysLook (n : Nat) (s : State) : State := if 0x202 ≤ n ∧ n ≤ 0x207 then lookAt s else s

/-- SYSRD (R275 to R277). With no vector-queue instruction outstanding, VCP is read as the SYSRD's own address, "the next
instruction the front end will issue" taken before the SYSRD issues (R29). DESIGN CHOICE (log 62). -/
def execSysrd (d : BitVec 5) (n : BitVec 12) (s : State) : Out :=
  onStrand s (match sysStop (.sysrd d n) n s with
    | some t => t
    | none => let s := sysLook n.toNat s; advance (setReg s d ((sysRead s n.toNat).getD 0)))

/-- SYSWR (R275 to R277). -/
def execSyswr (a : BitVec 5) (n : BitVec 12) (s : State) : Out := onStrand s (sysStore .wr (.syswr a n) a n s)

/-- SYSSET (R275 to R277). -/
def execSysset (a : BitVec 5) (n : BitVec 12) (s : State) : Out := onStrand s (sysStore .set (.sysset a n) a n s)

/-- SYSCLR (R275 to R277). -/
def execSysclr (a : BitVec 5) (n : BitVec 12) (s : State) : Out := onStrand s (sysStore .clr (.sysclr a n) a n s)

/-! ### Trap, return and control (R281 to R283) -/

/-- TRAP (R281): precise at itself, TEPC P + 4. -/
def execTrap (t : BitVec 12) (s : State) : Out := onStrand s (takeTrap 0x0D t.toNat false false (s.me.pc + 4) 0 s)

/-- BKPT (R281): it always enters the handler (R322). -/
def execBkpt (t : BitVec 12) (s : State) : Out := onStrand s (takeTrap 0x0C t.toNat false false (s.me.pc + 4) 0 s)

/-- ERET's effect (R281, R288): a strand that was suspended when its gang was pre-empted stays suspended, or takes the answer
TERMINAL that came meanwhile. DEDUCED (log 48). -/
def eretEffect (s : State) : State :=
  if !s.me.hm then trapFront 0x12 0 s
  else if s.me.pre then takeOff s
  else
    let s := returnTrap s
    match s.me.susp with
    | some x => if x.answered then terminate x s else updMe s fun st => { st with status := .suspended }
    | none => s

/-- ERET (R281). -/
def execEret (s : State) : Out := onStrand s (eretEffect s)

/-- The checks of END outside handler mode (R282). -/
def endStop (s : State) : Option Nat :=
  if s.me.hm then none
  else if !s.me.dumped.isEmpty then some 9
  else if s.me.fifos.any (fun f => f.2.ws) then some 0x11
  else none

/-- END (R282). -/
def execEndStrand (s : State) : Out :=
  onStrand s (match endStop s with
    | some c => trapFront c 0 s
    | none => beginEnd s)

/-- YIELD (R22, R283). -/
def execYield (s : State) : Out := onStrand s (changeSlot s.me.core (advance s))

/-- WFE (R283): without an event the strand waits, its next instruction after it. -/
def execWfe (s : State) : Out :=
  onStrand s (advance (updMe s fun st => if st.ev then { st with ev := false } else { st with status := .wfe }))

/-- VSAVE (R287). -/
def execVsave (a : BitVec 5) (s : State) : Out :=
  onStrand s (if s.me.hm then vsaveAt (reg s a) advance s else trapFront 0x12 0 s)

/-- VREST (R287). -/
def execVrest (a : BitVec 5) (s : State) : Out :=
  onStrand s (if s.me.hm then vrestAt (reg s a) advance s else trapFront 0x12 0 s)

end Sys2Proof.Machine
end

