-- ==== Sys2Proof/Machine/Handler.lean ====
section
/-! DEFINITION. The built-in handler (R280, the listing of the system chapter), one move of a strand in handler mode whose
THANDLER is 0. -/

namespace Sys2Proof.Machine

/-- Lines 1 to 3: s4 to s6 kept in TSCR0 to TSCR2, the old value of a register that the stopped queue has still to write.
DESIGN CHOICE (log 85). -/
def saveScratch (s : State) : State :=
  updMe s fun st => { st with tscr := ((st.tscr.set 0 (st.regs.get 4)).set 1 (st.regs.get 5)).set 2 (st.regs.get 6) }

/-- The matrix save area: CTXAREA + 0x8_0000. -/
def matrixArea (st : Strand) : Nat := st.ctxarea.toNat + 0x80000

/-- Lines 17 to 19, then ERET. -/
def handlerMsave (s : State) : State :=
  match handlerMsaveAt (.msave 4) (matrixArea s.me) s with
  | .ok (s, _) => eretEffect (countIssued (.msave 4) s)
  | .error (ad, r) => memFault r ad true false s

/-- Lines 29 to 31, then ERET. -/
def handlerMrest (s : State) : State :=
  match mrestAt true (matrixArea s.me) (word (encodeNat (.mrest 4))) s with
  | .ok s => eretEffect (countIssued (.mrest 4) s)
  | .mem ad r => memFault r ad false false s
  | .bad cause tval => trapFront cause tval s

/-- Lines 21 to 31: the owner's context saved, the strand's own restored, and at a resumption its rows. -/
def handlerSwitch (rows : Bool) (s : State) : State :=
  vsaveAt (vownerWord s &&& ~~~1) (fun s => vrestAt s.me.ctxarea (if rows then handlerMrest else eretEffect) s) s

/-- Lines 4 to 10 for a cause that ends the strand. -/
def endScratch (s : State) : State :=
  let r := b2n (bit s.me.tcause.toNat 9) * 2 ^ 9
  updMe s fun st => { st with regs := ((st.regs.set 4 (word r)).set 5 (word (field st.tcause 7 0))).set 6 14 }

/-- A VSAVE of the handler that waits: the owner's queue goes on. -/
def ownerMove (s : State) : State := onBy (owns s.me.core) (runHead whole) s

/-- The built-in handler. Causes other than 0x09 and 0x0E end the strand. -/
def builtinRun (s : State) : State :=
  let s := saveScratch s
  let cause := field s.me.tcause 7 0
  let resume := bit s.me.tcause.toNat 9
  if cause = 9 then handlerSwitch false s
  else if cause = 0x0E then
    if resume then handlerSwitch true s
    else if s.me.vown then vsaveAt s.me.ctxarea handlerMsave s
    else handlerMsave s
  else beginEnd (endScratch s)

/-- One move of it: its VSAVE may have to wait first. -/
def builtin (s : State) : State :=
  let cause := field s.me.tcause 7 0
  if (cause = 9 ∨ cause = 0x0E) ∧ ownerRuns s = true then ownerMove s else builtinRun s

end Sys2Proof.Machine
end

