-- ==== Sys2Proof/Machine/Front.lean ====
section
/-! DEFINITION. The scalar front end: the fetch of a word (R63, R78), the waits at issue (R24, R26, R92, R93, R102, R276) and
the effects of a queue that has been saved to memory (R286). -/

namespace Sys2Proof.Machine

/-! ### Fetch -/

/-- What the fetch at PC comes to. -/
inductive Fetched where
  | word (w : Nat) (pa : Nat)
  | misaligned
  | access
  | retry (p : PFault)
  | term (p : PFault)
  deriving DecidableEq, Repr

/-- The fetch of the word at PC (R63, R78 check 1). Where software has changed the code during the launch, every fetch returns
the word as it now stands at the host's coherence point, the newest of the values that R103 allows. DESIGN CHOICE (log 63). -/
def fetchAt (s : State) : Fetched :=
  let pc := s.me.pc.toNat
  if pc % 4 ≠ 0 then .misaligned
  else if hostSize ≤ pc then .access
  else
    match translate s s.me.fn pc .fetch with
    | .ok pa _ _ _ _ => .word (readPhys s pa 4) pa
    | .retry s2 w a => .retry ⟨s2, w, a⟩
    | .term p => .term p

/-- A page from which a strand of the launch first fetches is kept for the manifest (MHBIN, Table 18.3). -/
def noteFetch (pa : Nat) (s : State) : State :=
  let page := s.me.pc.toNat / 4096 * 4096
  noteManifest s fun m =>
    if m.pages.any fun p => p.1 == page then m
    else { m with pages := m.pages ++ [(page, cslice (pa / 4096 * 4096) 4096 0 s.host)] }

/-- ILLEGAL_INSTRUCTION: a word that is not an instruction (R77). -/
def execIllegalInstruction (w : BitVec 32) (s : State) : Out := onStrand s (trapFront 1 (w.setWidth 64) s)

/-- INSTRUCTION_FETCH_FAULT (R63): the fetch at PC raises its trap or suspends the strand. Where the fetch would succeed, no
such event takes place. -/
def execInstructionFetchFault (s : State) : Out :=
  onStrand s (match fetchAt s with
    | .word _ _ => s
    | .misaligned => memFault .misaligned s.me.pc.toNat false true s
    | .access => memFault .access s.me.pc.toNat false true s
    | .retry p => memFault (.retry p) s.me.pc.toNat false true s
    | .term p => memFault (.term p) s.me.pc.toNat false true s)

/-! ### Registers -/

/-- The scalar registers that an instruction reads or writes. -/
def scalarRegs (i : Instr) : List (BitVec 5) :=
  match i with
  | .add d a b | .sub d a b | .and d a b | .or d a b | .xor d a b | .sll d a b | .srl d a b | .sra d a b | .slt d a b
  | .sltu d a b | .min d a b | .max d a b | .minu d a b | .maxu d a b | .mul d a b | .mulh d a b | .mulhu d a b
  | .div d a b | .divu d a b | .rem d a b | .remu d a b | .bfx d a b | .bfi d a b | .fshr d a b _
  | .amo d a b _ _ _ _ | .cas d a b _ _ _ | .rmerge d a b _ _ _ _ | .rjoin d a b _ _ _ | .pwld d a b _ _
  | .pwcntHist d a b | .pwcntCnt d a b | .pwchk d a b | .pwdrft d a b | .pwconf d a b => [d, a, b]
  | .clz d a | .ctz d a | .popc d a | .addi d a _ | .andi d a _ | .ori d a _ | .xori d a _ | .slli d a _
  | .srli d a _ | .srai d a _ | .slti d a _ | .ld d a _ _ | .jalr d a _ | .vsetl d a _ | .vcfg d a | .mstart d a _
  | .ropen d a | .rstat d a _ | .rsort d a _ _ _ | .rpart d a _ | .mattach d a _ | .mwldCfg d a _ | .mcensRd d a
  | .mcensRdclr d a | .mcensIdx d a | .qrseed d a _ _ | .pwcntSt d a | .pwinj d a => [d, a]
  | .lui d _ | .auipc d _ | .jal d _ | .sysrd d _ | .mffs d _ | .mpopc d _ | .rwait d _ => [d]
  | .st a b _ _ _ | .beq a b _ | .bne a b _ | .blt a b _ | .bge a b _ | .bltu a b _ | .bgeu a b _ | .vlds _ a b _
  | .vsts _ a b _ | .rdstr a b _ | .mwldSp a b _ | .mwldSc a b _ => [a, b]
  | .syswr a _ | .sysset a _ | .sysclr a _ | .vsave a | .vrest a | .vaddVs _ a _ _ | .vsubVs _ a _ _
  | .vrsubVs _ a _ _ | .vminVs _ a _ _ | .vmaxVs _ a _ _ | .vandVs _ a _ _ | .vorVs _ a _ _ | .vxorVs _ a _ _
  | .vmulVs _ a _ _ | .vmulhVs _ a _ _ | .vmaccVs _ a _ _ | .vnmaccVs _ a _ _ | .vdivVs _ a _ _ | .vremVs _ a _ _
  | .vsllVs _ a _ _ | .vsrlVs _ a _ _ | .vsraVs _ a _ _ | .vbfxVs _ a _ _ | .vfshrVs _ a _ _ | .vcmpVs _ a _ _ _
  | .vselVs _ a _ _ | .vmvVs _ a _ | .vslup _ a _ _ _ _ | .vsldn _ a _ _ _ _ | .vtopk _ a _ _ _ | .vld _ a _
  | .vldx _ a _ _ _ | .vldxo _ a _ _ _ | .vldff _ a _ | .vldseg _ a _ _ | .vst _ a _ | .vstx _ a _ _ _
  | .vstxo _ a _ _ _ | .vstseg _ a _ _ | .mfset a | .vamo _ a _ _ _ _ _ | .iterset a _ | .post a _ | .waiti a _
  | .rclose a | .wrstr a _ | .qpop _ a _ _ | .cspec a | .mxv _ a _ _ _ _ | .maccrd _ a _ | .maccwr _ a _ | .maccz a _
  | .msave a | .mrest a | .qrtld a _ _ | .qrgens _ a _ _ | .pwcntFree a => [a]
  | .mwldQ d _ b _ => [d, b]
  | _ => []

/-- The scalar register that a queued instruction writes (R26); none for one that writes it at issue or writes none. -/
def queueDst (i : Instr) : Option (BitVec 5) :=
  match i with
  | .mffs d _ | .mpopc d _ | .ropen d _ | .rstat d _ _ | .rwait d _ | .mattach d _ _ | .mwldCfg d _ _ | .mwldQ d _ _ _
  | .mcensRd d _ | .mcensRdclr d _ | .mcensIdx d _ | .qrseed d _ _ _ | .pwld d _ _ _ _ | .pwcntSt d _ | .pwcntHist d _ _
  | .pwcntCnt d _ _ | .pwchk d _ _ | .pwdrft d _ _ | .pwconf d _ _ | .pwinj d _ => some d
  | .vtopk _ a _ _ _ | .qpop _ a _ _ => some a
  | _ => none

/-- Registers pending a write of a list of queued instructions. -/
def pendingOf (q : List QEntry) : List (BitVec 5) := (q.filterMap fun e => if e.done then none else queueDst e.instr).filter fun r => r != 0

def touches (i : Instr) (q : List QEntry) : Bool := (scalarRegs i).any fun r => (pendingOf q).contains r

/-- An instruction that names the destination of an outstanding scalar load or atomic (R102). -/
def touchesOut (i : Instr) (st : Strand) : Bool := (scalarRegs i).any fun r => r != 0 && st.out.any fun o => !o.vec && o.dst == r

/-! ### Waits -/

/-- An entry of the queue that matches and has still work to make. -/
def queued (s : State) (p : Instr → Bool) : Bool := s.me.vctx.queue.any fun e => !e.done && p e.instr

/-- A vector-queue instruction (R23). -/
def isVector (i : Instr) : Bool := (queueBody i).isSome

/-- Instructions that hold the front end while they stand in the queue. -/
def holdsFront (i : Instr) : Bool :=
  match i with
  | .fence _ _ | .waiti _ _ | .bar | .barwt => true
  | .mattach _ _ w => w == 1
  | _ => false

def isVldff (i : Instr) : Bool := match i with | .vldff _ _ _ => true | _ => false

def isCspec (i : Instr) : Bool := match i with | .cspec _ => true | _ => false

def isRopen (i : Instr) : Bool := match i with | .ropen _ _ => true | _ => false

/-- The registers whose values are judged as handles at issue (R211, R224). -/
def handleRegs (i : Instr) : List (BitVec 5) :=
  match i with
  | .rclose a | .rstat _ a _ | .rdstr a _ _ | .wrstr a _ | .rpart _ a _ => [a]
  | .rsort d a _ _ _ => [a, d]
  | .rmerge d a b _ l _ _ => if l = 0 then [a, b, d] else [d]
  | .rjoin d a b _ _ _ => [a, b, d]
  | _ => []

/-- A value that names no handle while an ROPEN that may open it is still in the queue: program order decides (R211). -/
def handleToCome (i : Instr) (s : State) : Bool :=
  queued s isRopen && (handleRegs i).any fun r => (handleOf s.me (reg s r)).isNone

/-- The FIFO whose commands judge an instruction at issue (R219, R238). -/
def fifoJudge (i : Instr) : Option (BitVec 4) :=
  match i with
  | .qpop _ _ _ q | .qpush _ _ _ q => some q
  | .mwldQ _ q _ _ => some q
  | _ => none

/-- An RMERGE whose sources stand in memory is still in the queue: which run its FIFO streams is not known yet (R219, R224). -/
def layoutToCome (i : Instr) (s : State) : Bool :=
  match fifoJudge i with
  | none => false
  | some q => queued s fun j => match j with | .rmerge _ _ _ _ l _ k => l == 1 && k == q | _ => false

/-- Instructions that change the rows a strand holds (Table 13.1). -/
def movesRows (i : Instr) : Bool :=
  match i with
  | .mattach _ _ _ | .mdetach | .msave _ | .mrest _ | .mstop => true
  | _ => false

/-- Majors 0x60 to 0x66. -/
def isMatrix (i : Instr) : Bool := let m := encodeNat i % 128; 0x60 ≤ m && m ≤ 0x66

/-- The system register that an instruction names, and whether the instruction writes it. -/
def sysOf (i : Instr) : Option (Nat × Bool) :=
  match i with
  | .sysrd _ n => some (n.toNat, false)
  | .syswr _ n | .sysset _ n | .sysclr _ n => some (n.toNat, true)
  | _ => none

/-- System registers that R276 ties to program order of the vector queue. -/
def tied (n : Nat) : Bool := [1, 2, 5, 6, 0x40, 0x41, 0x10, 0x11, 0x12, 0x13, 0x0A, 0x700].contains n

/-- The wait of a system register instruction. -/
def sysWaits (s : State) (n : Nat) : Bool :=
  match n with
  | 0x001 => queued s isVldff
  | 0x006 => !s.me.vctx.queue.isEmpty
  | 0x040 => !s.me.vctx.queue.isEmpty
  | 0x041 => !s.me.vctx.queue.isEmpty
  | 0x00A => queued s movesRows
  | 0x700 => queued s isMatrix
  | n => if 0x10 ≤ n ∧ n ≤ 0x13 then queued s isCspec else false

/-- An atomic that releases. -/
def relAtomic (i : Instr) : Bool :=
  match i with
  | .amo _ _ _ _ _ r _ | .cas _ _ _ _ r _ => releases r
  | _ => false

/-- A scalar access of memory. -/
def isScalarAccess (i : Instr) : Bool := match i with | .ld .. | .st .. | .amo .. | .cas .. => true | _ => false

/-- Vector-queue instructions that make no access. -/
def noAccess (i : Instr) : Bool :=
  let m := majorOf i
  (decide (0x20 ≤ m) && decide (m ≤ 0x3F)) ||
    match i with
    | .vsetl .. | .vcfg .. | .vregs .. | .mstart .. | .mstop | .mfset .. | .mattach .. | .mdetach | .mop .. | .maccrd .. | .maccwr ..
    | .maccz .. | .qrseed .. | .qrgen .. | .qrgens .. => true
    | _ => false

/-- An AMO or CAS that acquires is outstanding: it is performed before any later access (R94, R191). -/
def acquireWaits (i : Instr) (s : State) : Bool :=
  (s.me.out.any Pend.acq) && (isScalarAccess i || (isVector i && !noAccess i))

/-- A scalar access that the queue keeps back: behind a VAMO that acquires (R94); and in deterministic mode behind every
instruction, since what it reads and writes must not depend on timing (R100). -/
def accessWaits (i : Instr) (s : State) : Bool :=
  !s.me.qstop && isScalarAccess i && (queued s isAcqVamo || (s.me.det && !s.me.vctx.queue.isEmpty))

/-- A ninth scalar load (R102). -/
def ninthLoad (i : Instr) (s : State) : Bool :=
  match i with
  | .ld .. => decide (8 ≤ (s.me.out.filter Pend.load).length)
  | _ => false

/-- A scalar store of normal mode for which the WCB has no line (R102). -/
def storeWaits (i : Instr) (s : State) : Bool :=
  match i with
  | .st a _ h w l =>
    !s.me.det && (match resolve s (effAddr s a (storeDisp h l)).toNat (2 ^ w.toNat) .store with
      | .ok (.spad k) => !meetsKept s.me k (2 ^ w.toNat) && noLine s (fencesAhead s.me) k
      | _ => false)
  | _ => false

/-- MSAVE and MREST in the handler of a pre-emption, which execute at issue (R289). -/
def atIssue (i : Instr) (s : State) : Bool := (match i with | .msave _ | .mrest _ => true | _ => false) && inPreemption s

def isVsave (i : Instr) : Bool := match i with | .vsave _ => true | _ => false

/-- Waits for an access of the strand that is outstanding or has no room (R94, R102). -/
def accessFull (i : Instr) (s : State) : Bool := touchesOut i s.me || ninthLoad i s || acquireWaits i s || storeWaits i s

/-- Whether the front end holds an instruction at issue (R24, R26, R89, R93, R94, R100, R102, R169, R276). DEDUCED (log 7). -/
def waits (i : Instr) (s : State) : Bool :=
  touches i s.me.vctx.queue || accessFull i s || (!s.me.qstop && queued s holdsFront) ||
    (isVector i && s.me.vown && !atIssue i s && decide (32 ≤ s.me.vctx.queue.length)) ||
    (match sysOf i with | some (n, _) => sysWaits s n | none => false) ||
    (relAtomic i && !s.me.vctx.queue.isEmpty) || accessWaits i s || handleToCome i s || layoutToCome i s ||
    (isVsave i && ownerRuns s)

/-- Whether an instruction names a system register that no chapter assigns (R275, check 2 of R78). -/
def unassigned (i : Instr) (s : State) : Bool := match sysOf i with | some (n, _) => (sysRead s n).isNone | none => false

/-- A word whose fields decode and that is no instruction all the same: it names a vector register at or above the declared count,
or a system register that no chapter assigns (R66, R77, R275). Every other word counts as issued (R326). DESIGN CHOICE (log 87). -/
def noInstr (i : Instr) (s : State) : Bool := (vecRegs i).any (aboveCount s.me.vctx.cnt) || unassigned i s

/-- R286: an instruction that would wait for a queue that is not resident, or for an access behind a VFENCE of it. A vector-queue
instruction of such a strand has its own checks in their order (R78). -/
def lacksQueue (i : Instr) (s : State) : Bool :=
  let h := updMe s fun st => { st with out := st.out.filter (outHeld st) }
  !s.me.dumped.isEmpty && !isVector i && !unassigned i s &&
    (touches i s.me.dumped || touchesOut i h.me || acquireWaits i h || ninthLoad i h || relAtomic i ||
      (match sysOf i with | some (n, _) => tied n | none => false))

/-- What a move does while the front end waits: the access or the queue in its way moves. -/
def waitMove (i : Instr) (s : State) : State :=
  if isVsave i && ownerRuns s then ownerMove s
  else if (touchesOut i s.me || ninthLoad i s || acquireWaits i s) && (s.me.out.any fun o => !outHeld s.me o) then completeOut s
  else if storeWaits i s && (s.me.wcb.any fun x => x.held == 0) then drainOldest s
  else if queueLive s.me then runHead whole s
  else s

end Sys2Proof.Machine
end

