-- ==== Sys2Proof/Machine/Moves.lean ====
section
/-! DEFINITION. The moves of the ordering machine (Table 4.3), of the Kneaders (R225, R228), of the gang drain (R99) and of
the active slot (R22). A move that is not enabled changes nothing. -/

namespace Sys2Proof.Machine

/-! ### The vector instruction queue -/

/-- The strand stands at a drain point or at a wait. -/
def stands (st : Strand) : Bool := st.stand.isSome

/-- The list without its first member that p names. -/
def dropFirst {α : Type} (p : α → Bool) : List α → List α
  | [] => []
  | r :: t => if p r then t else r :: dropFirst p t

/-- The first entry not split becomes split. -/
def splitFirst : List QEntry → List QEntry
  | [] => []
  | e :: t => if e.split then e :: splitFirst t else { e with split := true } :: t

/-- SPLIT (R25, R86). -/
def execSplit (core slot : Nat) (s : State) : Out :=
  .next (onSlot core slot (fun s => updCtx s fun c => { c with queue := splitFirst c.queue }) s)

/-- FETCH (R25, R87). -/
def execFetch (core slot : Nat) (s : State) : Out :=
  .next (onSlot core slot (fun s => if queueLive s.me then fetchMove s else s) s)

/-- Which move of Table 4.3 an entry makes: 0 Execute, 1 Push, 2 Pop, 3 Post and observe, 4 Proof, 5 a Hearth port. -/
def moveKind (i : Instr) : Nat :=
  match i with
  | .qpush _ _ _ _ => 1
  | .qpop _ _ _ _ | .rwait _ _ => 2
  | .iterset _ _ | .post _ _ | .waiti _ _ | .bar | .bararr | .barwt => 3
  | .pwld .. | .pwcntSt .. | .pwcntHist .. | .pwcntCnt .. | .pwcntFree .. | .pwchk .. | .pwdrft .. | .pwconf .. | .pwinj .. => 4
  | .mwldCfg .. | .mxv .. => 5
  | i => if isCommand i then 1 else 0

/-- One unit of the oldest entry of the issuing strand's queue, where it is split and makes moves of a kind. What it sends on, or
observes, is left to later moves. -/
def headMove (kind : Nat) (s : State) : State :=
  match s.me.vctx.queue with
  | [] => s
  | e :: _ =>
    if queueLive s.me && !stands s.me && e.split && moveKind e.instr == kind then
      { runHead 1 { s with defer := true } with defer := s.defer }
    else s

def entryMove (kind core slot : Nat) (s : State) : State := onSlot core slot (headMove kind) s

/-- One group of a later entry of the queue, where it chains and makes moves of a kind. -/
def laterMove (kind n : Nat) (s : State) : State :=
  match s.me.vctx.queue[n]? with
  | some e => if moveKind e.instr == kind then { chainMove n { s with defer := true } with defer := s.defer } else s
  | none => s

/-- One group of the oldest entry, or of a later one that chains, as the device picks (R25, R28). -/
def queueMove (kind : Nat) (s : State) : State :=
  if queueLive s.me then bump (if chosenEntry s = 0 then headMove kind s else laterMove kind (chosenEntry s) s) else s

/-- EXECUTE (R25, R28, R86, R87). -/
def execExecute (core slot : Nat) (s : State) : Out := .next (onSlot core slot (queueMove 0) s)

/-- PUSH (R25, R96). -/
def execPush (core slot : Nat) (s : State) : Out := .next (onSlot core slot (queueMove 1) s)

/-- POP (R25, R96). -/
def execPop (core slot : Nat) (s : State) : Out := .next (onSlot core slot (queueMove 2) s)

/-- POST_AND_OBSERVE (R197 to R203): the strand's node observes the next change on its way, and the strand's own post, arrival
or wait goes on. -/
def execPostAndObserve (core slot : Nat) (s : State) : Out := .next (onSlot core slot (fun s => headMove 3 (observeOne s)) s)

/-- PROOF (R98, R264). -/
def execProof (core slot : Nat) (s : State) : Out := .next (entryMove 4 core slot s)

/-- The port of a Hearth that is served next: the next core in ascending order that has a request there, after the one served
last (R245). -/
def nextPort (h : Hearth) (group : Nat) : Option Nat :=
  ((upTo 4).map fun j => 4 * group + (h.last + 1 + j) % 4).find? fun c => h.ports.any fun r => r.core == c

/-- The head request at the port of a core served. -/
def serveHead (core : Nat) (s : State) : State :=
  match portReqs s core with
  | [] => s
  | r :: _ => serveUnit r (updHearth core (fun h => { h with ports := dropFirst (fun x => x.core == core) h.ports, last := core % 4 }) s)

/-- HEARTH_SERVE (R245): the port of the core in its turn; with none waiting there, an instruction that reads or writes the
Hearth as one move. -/
def execHearthServe (core slot : Nat) (s : State) : Out :=
  .next (if (portReqs s core).isEmpty then entryMove 5 core slot s
    else if nextPort (hearthOf s core) (core / 4) = some core then serveHead core s else s)

/-! ### Stores on their way (R81, R85, R86, R91) -/

/-- DRAIN (R86, R99): in deterministic mode stores leave the WCB at gang drains alone. -/
def execDrain (core slot line : Nat) (s : State) : Out :=
  .next (onSlot core slot (fun s => if s.me.det then s else drainLine s line) s)

/-- The head of the channel from one core to another reaches its end: a request joins its port queue, a reply its strand. -/
def deliver (src dst : Nat) (s : State) : State :=
  let p := fun (r : NetReq) => r.inChannel && r.src == src && r.dst == dst
  match s.net.find? p with
  | none => s
  | some r =>
    let rest := dropFirst p s.net
    if r.reply.isSome then serveReq { s with net := rest } r else { s with net := rest ++ [{ r with inChannel := false }] }

/-- DELIVER (R86). -/
def execDeliver (src dst : Nat) (s : State) : Out := .next (deliver src dst s)

/-- The requests in a port queue of a bank unit. -/
def atPort (core bank port : Nat) (r : NetReq) : Bool := !r.inChannel && r.dst == core && r.bank == bank && r.port == port

/-- The port of a bank unit that is served next: in turn among those with a request (R36). -/
def portTurn (s : State) (core bank : Nat) : Option Nat :=
  let last := tget 0 s.turns (core * 64 + bank)
  [(last + 1) % 3, (last + 2) % 3, last % 3].find? fun p => s.net.any (atPort core bank p)

/-- The reply of a request that came over the die fabric goes back over its channel. -/
def replyOf (s : State) (r : NetReq) (x : Late) : NetReq :=
  { r with src := r.dst, dst := r.src, inChannel := true, reply := some (lateBytes s.spad x) }

/-- A request served: a write or an atomic is made, and a value read is fixed (R85). -/
def serve (r : NetReq) (s : State) : State :=
  match r.late, r.port with
  | some x, 1 => { s with spad := reqMem s.spad r, net := s.net ++ [replyOf s r x] }
  | _, _ => serveReq s r

/-- SERVE (R36, R85): the head of a port queue, in the port's turn. -/
def execServe (core bank port : Nat) (s : State) : Out :=
  .next (match portTurn s core bank, s.net.find? (atPort core bank port) with
    | some p, some r =>
      if p = port then
        serve r { s with net := dropFirst (atPort core bank port) s.net, turns := tset s.turns (core * 64 + bank) port }
      else s
    | _, _ => s)

/-- The first load of a host path that no atomic precedes, with the entries before and behind it. -/
def firstLoad : List HStore → List HStore → Option (List HStore × Late × List HStore)
  | _, [] => none
  | ahead, x :: t =>
    match x.late with
    | none => firstLoad (ahead ++ [x]) t
    | some l => if isLoad l then some (ahead, l, t) else none

/-- Whether the head of the path may be performed: it waits for no VFENCE, and a store of deterministic mode waits for its drain. -/
def headPerforms (st : Strand) : Bool :=
  match st.hpath with
  | x :: _ => x.held == 0 && !(st.det && x.late.isNone)
  | [] => false

def performHead (s : State) : State :=
  match s.me.hpath with
  | [] => s
  | x :: t => performHost { s with me := { s.me with hpath := t } } x

/-- The next entry of the path, or a load that passes the stores before it, as the device picks (R91). DESIGN CHOICE (log 60). -/
def hostMove (s : State) : State :=
  match firstLoad [] s.me.hpath with
  | some (ahead, l, t) =>
    bump (if headPerforms s.me && !ahead.isEmpty && Config.chainPick s.tick % 2 == 0 then performHead s
      else performLoad ahead l { s with me := { s.me with hpath := ahead ++ t } })
  | none => if headPerforms s.me then performHead s else s

/-- HOST_PERFORM (R91, R93, R99). -/
def execHostPerform (core slot : Nat) (s : State) : Out := .next (onSlot core slot hostMove s)

/-! ### Kneaders (R218, R225, R228) -/

/-- The state of the head command of a FIFO. -/
def headPhase (s : State) (q : Nat) : Option Phase := (fifoOf s.me q).cmds.head?.map Cmd.phase

/-- What one move of a command came to. -/
inductive KEnd where
  | stalled | completed | moved
  deriving DecidableEq, Repr

def kneadEnd (q : Nat) (s t : State) : KEnd :=
  if (fifoOf t.me q).cmds.length < (fifoOf s.me q).cmds.length then .completed
  else if headPhase t q = some .stall then .stalled
  else .moved

/-- One move of the head command of the issuing strand, where its state and its outcome are those of the event. -/
def tryKnead (q : Nat) (when' : Phase → Bool) (into : KEnd → Bool) (s : State) : Option State :=
  match headPhase s q, knead q s with
  | some p, some t => if when' p && into (kneadEnd q s t) then some t else none
  | _, _ => none

/-- A strand that is placed in a slot, or that was taken off from it: its commands go on (R214). -/
def atPlace (core slot : Nat) (st : Strand) : Bool := st.status != .free && st.core == core && st.slot == slot

/-- The event's move on a FIFO of a strand of a slot. Of two strands of the slot, one of them taken off, the one that issues
and then the first of the others that can make the move makes it. DESIGN CHOICE (log 70). -/
def kneadMove (core slot q : Nat) (when' : Phase → Bool) (into : KEnd → Bool) (s : State) : State :=
  let mine := fun (st : Strand) => isStrand st.fn st.lseq st.gang st.lsn
  match (s.me :: s.others).find? fun st => atPlace core slot st && (tryKnead q when' into (swapBy (mine st) s)).isSome with
  | none => s
  | some st => onBy (mine st) (fun s => (tryKnead q when' into s).getD s) s

/-- ACCEPT_AND_PRODUCE (R216, R221, R225): a command is accepted, and its splitters sampled. -/
def execAcceptAndProduce (core slot q : Nat) (s : State) : Out :=
  .next (kneadMove core slot q (fun p => p == .queued || p == .sample) (fun _ => true) s)

/-- STREAM_RECORD (R218). -/
def execStreamRecord (core slot q : Nat) (s : State) : Out :=
  .next (kneadMove core slot q (· == .stream) (· == .moved) s)

/-- COMMAND_COMPLETE (R215, R225). -/
def execCommandComplete (core slot q : Nat) (s : State) : Out :=
  .next (kneadMove core slot q (fun p => p == .pass || p == .stream) (· == .completed) s)

/-- STALL (R225, R229). -/
def execStall (core slot q : Nat) (s : State) : Out := .next (kneadMove core slot q (· == .pass) (· == .stalled) s)

/-- STREAM_PAGE_FAULT (R228). -/
def execStreamPageFault (core slot q : Nat) (s : State) : Out :=
  .next (kneadMove core slot q (· == .stream) (· == .stalled) s)

/-! ### The gang drain (R99) -/

/-- A wait that is judged after the drain. -/
def judgedLater (st : Strand) : Bool :=
  match st.stand with
  | some (.waiti _ _) => true
  | some .barwt => true
  | some .bar => match st.vctx.queue with | e :: _ => e.prog != 0 | [] => false
  | _ => false

/-- The strand stands completed after a scalar instruction: it took no trap and does not wait. -/
def completedScalar (t : State) : Bool := !t.me.hm && t.me.status == .run && !stands t.me && !t.me.ending

/-- A commit breakpoint on a scalar instruction stops the strand after it (R322). -/
def commitScalar (s : State) (i : Instr) (t : State) : State :=
  if !isVector i && brkHit s 2 s.me.pc then
    onBy (isStrand s.me.fn s.me.lseq s.me.gang s.me.lsn)
      (fun t => if completedScalar t && !(isScalarAccess i && t.me.pc == s.me.pc) then frontBreak false t else t) t
  else t

/-- The instruction at which the strand stands, performed with its turn of the drain. The turn serves that instruction
alone; the strand may come to stand again within it. -/
def performStanding (s : State) : State :=
  let u := updMe s fun st => { st with permit := true, stand := none }
  let run := fun (o : Out) => match o with | .next t => t | _ => u
  let scalar := fun (i : Instr) (o : Out) => commitScalar s i (run o)
  let t :=
    match s.me.stand with
    | some (.st a b h w l) => scalar (.st a b h w l) (execSt a b h w l u)
    | some (.amo d a b sc o r z) => scalar (.amo d a b sc o r z) (execAmo d a b sc o r z u)
    | some (.cas d a b sc r z) => scalar (.cas d a b sc r z) (execCas d a b sc r z u)
    | some .endStrand => endLoop 40 u
    | some (.msave a) => if inPreemption u then run (execMsave a u) else runHead whole u
    | some _ => runHead whole u
    | none => u
  updMe t fun st => { st with permit := false }

/-- A strand's turn: its stores become visible, and its own instruction is performed unless it is a wait. -/
def drainTurn (s : State) : State :=
  let s := flushAll s
  if judgedLater s.me then s else performStanding s

/-- The judgement of a wait after the drain. -/
def judgeTurn (s : State) : State := if judgedLater s.me then performStanding s else s

/-- Whether every strand of a gang that has not ended stands. -/
def gangStands (x : Gang) (s : State) : Bool :=
  decide (0 < liveCount x) &&
    (upTo x.members.length).all fun lsn =>
      match x.members[lsn]? with
      | none => true
      | some m => m.ended ||
        match (s.me :: s.others).find? (isStrand x.fn x.seq x.gang lsn) with
        | some st => st.det && stands st && st.status == .run
        | none => false

def gangDrain (fn seq g : Nat) (s : State) : State :=
  match gangFind s fn seq g with
  | none => s
  | some x => if gangStands x s then forGang fn seq g judgeTurn (forGang fn seq g drainTurn (forGang fn seq g completeOut s)) else s

/-- GANG_DRAIN (R99): in ascending logical strand number. -/
def execGangDrain (fn seq gang : Nat) (s : State) : Out := .next (gangDrain fn seq gang s)

/-! ### Waits and turns (R22, R283) -/

/-- WFE_WAKE (R283): the device may end a WFE with no event. -/
def execWfeWake (core slot : Nat) (s : State) : Out :=
  .next (onSlot core slot (fun s =>
    updMe s fun st => if st.status = .wfe then endWfe st else st) s)

/-- SLICE_END (R22). -/
def execSliceEnd (core : Nat) (s : State) : Out := .next (changeSlot core s)

/-- Whether the strand waits without issuing: held at its next instruction, at END, or at a drain point. -/
def waiting' (s : State) : Bool :=
  s.me.ending || stands s.me ||
    match fetchAt s with
    | .word w _ => match decodeNat w with | .ok i => waits i s | .error _ => false
    | _ => false

/-- WAIT_QUANTUM_EXPIRY (R22): the active strand of a core has waited. -/
def execWaitQuantumExpiry (core : Nat) (s : State) : Out :=
  let f := focus core s
  .next (if f.me.core = core ∧ ready f.me = true ∧ waiting' f = true then changeSlot core s else s)

end Sys2Proof.Machine
end

