-- ==== Sys2Proof/Machine/Dispatcher.lean ====
section
/-! DEFINITION. Launch queues (R301, R302), placement (R305, R306), the warm slot (R309), pre-emption and resumption (R288 to
R290), budgets (R308) and the power grant (R117, R343). An event that is not enabled changes nothing. -/

namespace Sys2Proof.Machine

/-! ### Launch queues (R301, R302) -/

def queueOf (s : State) (fn q : Nat) : LQueue := tget LQueue.reset (fnOf s fn).queues q

def updQueue (fn q : Nat) (f : LQueue → LQueue) (s : State) : State :=
  updFn s fn fun x => { x with queues := tset x.queues q (f (tget LQueue.reset x.queues q)) }

/-- A function and one of its queues. -/
def isQueue (fn q : Nat) : Bool := decide (fn < 64) && decide (q < 8)

/-- Entries of a ring from HEAD to TAIL, modulo 2^32. -/
def ahead (tail head : BitVec 32) : Nat := (tail - head).toNat

/-- The effect of a doorbell (R301, R312, R314): a queue with ERR accepts none until it is reset. -/
def ringBell (tail : BitVec 32) (x : LQueue) : LQueue :=
  if x.busy || x.err then x else { x with tail := tail, err := decide (2 ^ x.log2n < ahead tail x.head) }

/-- DOORBELL (R301, R314). -/
def execDoorbell (fn q : Nat) (tail : BitVec 32) (s : State) : Out :=
  onBar s (if isQueue fn q then updQueue fn q (ringBell tail) s else s)

/-- Launches of a queue that are not finished. -/
def unfinished (s : State) (fn q : Nat) : List Launch := s.launches.filter fun l => l.fn == fn && l.queue == q && inProgress l

/-- The sequence number after n: modulo 2^32, without 0 (R302). -/
def seqAfter (n : Nat) : Nat := if (n + 1) % 2 ^ 32 = 0 then 1 else (n + 1) % 2 ^ 32

/-- Whether an address is a multiple of n and lies in host space. -/
def hostAddr (n : Nat) (w : Word) : Bool := w.toNat % n == 0 && decide (w.toNat < hostSize)

/-- The limits of R18 and Table 17.3 on a record of eight words. -/
def recordOk (r : List Word) : Bool :=
  let w := fun k => r.getD k 0
  hostAddr 4 (w 0) && decide (field (w 1) 63 56 ≤ 128) && field (w 1) 55 51 == 0 &&
    decide (1 ≤ field (w 1) 48 32 ∧ field (w 1) 48 32 ≤ 65536) && decide (1 ≤ field (w 1) 30 24 ∧ field (w 1) 30 24 ≤ 64) &&
    decide (1 ≤ field (w 1) 23 0) && hostAddr 8 (w 2) && hostAddr 64 (w 3) && hostAddr 8 (w 4) && hostAddr (2 ^ 20) (w 5) &&
    field (w 6) 31 16 == 0 && decide (field (w 1) 30 24 ≤ field (w 6) 15 0) && field (w 7) 63 3 == 0

/-- A Dredger table image: none where it is refused, because it lies partly outside host space among others (R250). -/
def dredImage (s : State) (fn : Nat) (dref : Nat) : Option (List Byte) :=
  if dref = 0 then some []
  else if hostSize < dref + 8512 then none
  else
    match hostReadFn s fn dref 8512 with
    | none => none
    | some bs => if (bs.drop 8448).all fun b => decide (b.toNat ≤ 2) then some bs else none

/-- Cores of a function's partition on a stack. -/
def coresOn (f : Func) (stack : Nat) : List Nat :=
  ((partGroups f).filter fun g => g / 16 == stack).flatMap fun g => [4 * g, 4 * g + 1, 4 * g + 2, 4 * g + 3]

/-- R19: S exceeds the core count of every stack of the partition. -/
def unplaceable (f : Func) (size : Nat) : Bool := (upTo 8).all fun k => decide ((coresOn f k).length < size)

/-- The launch that a record makes, with the status it has at once. -/
def launchOf (s : State) (fn q : Nat) (r : List Word) : Launch :=
  let img := dredImage s fn (r.getD 2 0).toNat
  let status : Option Nat :=
    if s.dev.lock then some 6
    else if !recordOk r || img.isNone then some 1
    else if unplaceable (fnOf s fn) (field (r.getD 1 0) 30 24) then some 2
    else none
  let d : Cells 32 × Cells 32 × Cells 2 := match img with
    | some (b :: t) => dredOf (b :: t)
    | _ => ([], [], [])
  { fn := fn, queue := q, seq := (fnOf s fn).nextSeq, record := r, next := 0, ended := 0, xflags := 0, status := status,
    cause := 0, written := false, cwBatch := 0, waited := 0, passed := 0, recHeld := false, dirs := d.1, seeds := d.2.1, modes := d.2.2,
    man := Manifest.reset, hashes := [] }

/-- Whether the device reads the next record of a queue. -/
def mayFetch (s : State) (fn q : Nat) : Bool :=
  let x := queueOf s fn q
  isQueue fn q && s.dev.fw && x.en && !x.err && !x.busy && x.head != x.tail && decide ((unfinished s fn q).length < 16)

/-- The address of the entry at HEAD. -/
def headEntry (x : LQueue) : Nat := x.base.toNat + x.head.toNat % 2 ^ x.log2n * 64

/-- The read of one launch record, which gives its tenant a new memory key where it had none (R341); a record on a page that
cannot be read is not read (log 20). -/
def launchFetch (fn q : Nat) (s : State) : State :=
  if mayFetch s fn q then
    match hostReadFn s fn (headEntry (queueOf s fn q)) 64 with
    | none => s
    | some bs =>
      let l := launchOf s fn q ((upTo 8).map (wordAt bs))
      let s := updQueue fn q (fun x => { x with head := x.head + 1 }) s
      let s := updFn s fn fun f => { f with nextSeq := seqAfter f.nextSeq }
      { s with
        launches := s.launches ++ [l]
        dev := { s.dev with noKey := s.dev.noKey.filter fun t => t != (fnOf s fn).tenant } }
  else s

/-- LAUNCH_FETCH (R301, R302, R18, R19, R250, R335, R341). -/
def execLaunchFetch (fn q : Nat) (s : State) : Out := .next (launchFetch fn q s)

/-! ### Budgets (R308) -/

def unlimited : Nat := 0xFFFFFFFF

/-- A sum that has not reached its allotment. -/
def within (spent allot : Nat) : Bool := allot == unlimited || decide (spent < allot)

/-- The activity counters of a function in the current window, those of its strands included (R308). -/
def activityOf (s : State) (fn : Nat) : List Nat :=
  let sts := (s.me :: s.others).filter fun st => st.status != .free && st.fn == fn
  let sum := fun (f : Strand → Nat) => sts.foldl (fun a st => a + f st) 0
  let a := fun k => (fnOf s fn).activity.getD k 0
  [a 0 + sum Strand.laneCycles, a 1, a 2 + sum Strand.bitCycles, a 3, a 4]

/-- The energy that a function has spent in the window, exactly in picojoules (R308). -/
def energyOf (s : State) (fn : Nat) : Nat :=
  ((activityOf s fn).zip s.dev.coefs).foldl (fun a x => a + x.1 * x.2) 0

/-- 1 EBU is 10^9 pJ (R308). -/
def ebuSpent (s : State) (fn : Nat) : Nat := energyOf s fn / 10 ^ 9

def budgetLeft (s : State) (fn : Nat) : Bool :=
  let f := fnOf s fn
  within f.spentT f.tbu && within (ebuSpent s fn) f.ebu

/-! ### Places (R32, R305, R309) -/

/-- Two regions of a scratchpad share a byte. -/
def regionsMeet (a n b m : Nat) : Bool := decide (0 < n) && decide (0 < m) && decide (a < b + m) && decide (b < a + n)

/-- The region of a strand that holds one on a core: placed, or of a pre-empted gang (R20). -/
def holdsRegion (core : Nat) (st : Strand) : Bool := st.status != .free && st.core == core

/-- A warm slot of another gang. -/
def otherWarm (fn seq g : Nat) (w : Warm) : Bool := !(w.fn == fn && w.seq == seq && w.gang == g)

/-- The declared scratchpad use of a warm slot's launch. -/
def warmSize (s : State) (w : Warm) : Nat := match launchFind s w.fn w.seq with | some l => recSpad l | none => 0

/-- The declared scratchpad use of a gang's strands. -/
def gangSize (s : State) (x : Gang) : Nat := match launchFind s x.fn x.seq with | some l => recSpad l | none => 0

/-- Whether a gang's region at base fits on a core beside all others, those of ended strands of living gangs too, which the window
still reaches (R33). -/
def regionFits (s : State) (fn seq g core base size : Nat) : Bool :=
  base % 4096 == 0 && decide (base + size ≤ spadSize) &&
    ((s.me :: s.others).all fun st => !(holdsRegion core st && regionsMeet base size st.spBase st.spSize)) &&
    (s.gangs.all fun x => x.members.all fun m => !(m.core == core && regionsMeet base size m.base (gangSize s x))) &&
    s.dev.warm.all fun w =>
      !otherWarm fn seq g w || w.places.all fun p => !(p.1 == core && regionsMeet base size p.2.2 (warmSize s w))

/-- Whether a slot is free for a gang. -/
def slotFree (s : State) (fn seq g core slot : Nat) : Bool :=
  decide (slot < 4) && (strandAt s core slot).isNone &&
    s.dev.warm.all fun w => !otherWarm fn seq g w || w.places.all fun p => !(p.1 == core && p.2.1 == slot)

/-- No other gang holds a warm slot on a core: the reserved gang is the next one placed there (R309). -/
def warmClear (s : State) (fn seq g core : Nat) : Bool :=
  s.dev.warm.all fun w => !otherWarm fn seq g w || w.places.all fun p => p.1 != core

/-- Whether a core has a slot and room for a gang. -/
def coreFits (s : State) (fn seq g size core : Nat) : Bool :=
  warmClear s fn seq g core && ((upTo 4).any fun k => slotFree s fn seq g core k) &&
    (upTo 128).any fun j => regionFits s fn seq g core (4096 * j) size

/-- A hearth group that is free of another tenant's contents (R300, R310). -/
def groupClean (s : State) (tenant g : Nat) : Bool := !thas s.dev.scrubbing g && tget tenant s.dev.scrubbed g == tenant

/-- The free context areas that a gang of a launch takes, lowest first. -/
def freeAreas (s : State) (l : Launch) : List Nat :=
  let used := (s.gangs.filter fun x => x.fn == l.fn && x.seq == l.seq).flatMap Gang.areas
  ((upTo (recS l + used.length)).filter fun a => decide (a < recField l 6 15 0) && !used.contains a).take (recS l)

/-- Whether the next gang of a launch fits on a stack. -/
def fits (s : State) (l : Launch) (stack : Nat) : Bool :=
  let f := fnOf s l.fn
  (freeAreas s l).length == recS l &&
    decide (recS l ≤ ((coresOn f stack).filter fun c =>
      groupClean s f.tenant (c / 4) && coreFits s l.fn l.seq l.next (recSpad l) c).length)

/-- A launch with a gang to place. -/
def pending' (l : Launch) : Bool := l.status.isNone && decide (l.next < recG l)

/-- Whether two functions have the same partition. -/
def samePart (s : State) (f g : Nat) : Bool := (fnOf s f).map0 == (fnOf s g).map0 && (fnOf s f).map1 == (fnOf s g).map1

/-- The order of R306 between functions: TBU spent to TBUALLOT, then the function number. -/
def ahead' (s : State) (f g : Nat) : Bool :=
  let a := (fnOf s f).spentT * (fnOf s g).tbu
  let b := (fnOf s g).spentT * (fnOf s f).tbu
  decide (a < b ∨ (a = b ∧ f < g))

/-- The order of R306: whether launch k goes before launch l. -/
def before (s : State) (k l : Launch) : Bool :=
  if k.fn = l.fn then decide (recPrio l < recPrio k ∨ (recPrio k = recPrio l ∧ k.seq < l.seq)) else ahead' s k.fn l.fn

/-- The next gang of a launch has waited more than one whole slice (R306). The device counts slices in moves. DESIGN CHOICE
(log 61). -/
def late (l : Launch) : Bool := decide (2 ≤ l.waited)

/-- A gang that could fit on a stack were it free. -/
def couldFit (s : State) (k : Launch) (stack : Nat) : Bool := decide (recS k ≤ (coresOn (fnOf s k.fn) stack).length)

/-- The next gang of a launch has been passed for a slice (R306). -/
def passedOver (l : Launch) : Bool := decide (2 ≤ l.passed)

/-- A gang of the function that has been passed for a slice keeps the stack for itself: no further gang of its function is
placed where it could fit, but one that has been passed too and goes before it (R306). -/
def barred (s : State) (l : Launch) (stack : Nat) : Bool :=
  s.launches.any fun k =>
    k.fn == l.fn && k.seq != l.seq && pending' k && passedOver k && couldFit s k stack && !(passedOver l && before s l k)

/-- No launch whose next gang may be placed on the stack goes before l, and none bars it (R306); a gang that does not fit is
passed. -/
def chosen (s : State) (l : Launch) (stack : Nat) : Bool :=
  !barred s l stack && s.launches.all fun k =>
    !(pending' k && samePart s k.fn l.fn && budgetLeft s k.fn && before s k l && fits s k stack && !barred s k stack)

/-- The gangs of the function that go before l and are passed as it is placed. -/
def passOver (l : Launch) (s : State) : State :=
  { s with launches := s.launches.map fun k =>
      if k.fn == l.fn && k.seq != l.seq && pending' k && before s k l && k.passed == 0 then { k with passed := 1 } else k }

/-- S distinct cores in ascending order (R20). -/
def ascending : List Nat → Bool
  | a :: b :: t => decide (a < b) && ascending (b :: t)
  | _ => true

/-- The places of a gang: S distinct cores of the partition on the stack, in ascending order, each with a free slot and a
region (R20, R305). -/
def placesFree (s : State) (l : Launch) (stack : Nat) (places : List (Nat × Nat × Nat)) : Bool :=
  decide (places.length = recS l) && ascending (places.map fun p => p.1) &&
    places.all fun p =>
      (coresOn (fnOf s l.fn) stack).contains p.1 && warmClear s l.fn l.seq l.next p.1 && slotFree s l.fn l.seq l.next p.1 p.2.1 &&
        regionFits s l.fn l.seq l.next p.1 p.2.2 (recSpad l)

/-! ### Resumption (R244, R290) -/

/-- The strands of a gang. -/
def strandsOf (s : State) (x : Gang) : List Strand :=
  (upTo x.members.length).filterMap fun j => (s.me :: s.others).find? (isStrand x.fn x.seq x.gang j)

/-- The slot in which a strand resumes: its own, or the least free one. DEDUCED (log 44). -/
def resumeSlot (s : State) (st : Strand) : Option Nat :=
  (st.slot :: upTo 4).find? fun k => slotFree s st.fn st.lseq st.gang st.core k

/-- Whether the rows that a gang saved can be granted on each of its Hearths. -/
def rowsFit (s : State) (x : Gang) : Bool :=
  let sts := strandsOf s x
  sts.all fun st =>
    let need := (sts.filter fun y => y.core / 4 == st.core / 4).foldl (fun a y => a + y.savedRows) 0
    st.savedRows == 0 || decide (need ≤ freeRows s st.core)

/-- A gang that has been taken off and may resume. -/
def mayResume (s : State) (x : Gang) : Bool :=
  !x.placed && budgetLeft s x.fn && rowsFit s x && (strandsOf s x).all fun st => (resumeSlot s st).isSome

def gangPrio (s : State) (x : Gang) : Nat := match launchFind s x.fn x.seq with | some l => recPrio l | none => 0

/-- Whether the next gang of a launch would fit on a stack beside the regions of the gangs taken off and the warm slots of others, were
every placed gang gone. -/
def wouldFit (s : State) (l : Launch) (stack : Nat) : Bool :=
  let free := fun (core base : Nat) => decide (base + recSpad l ≤ spadSize) && (s.me :: s.others).all fun st =>
    !(st.status == .off && st.core == core && regionsMeet base (recSpad l) st.spBase st.spSize)
  decide (recS l ≤ ((coresOn (fnOf s l.fn) stack).filter fun c =>
    warmClear s l.fn l.seq l.next c && (upTo 128).any fun j => free c (4096 * j)).length)

/-- A taken-off gang resumes ahead of unplaced gangs of equal or lower priority. One of higher priority in its partition goes before it
where it comes next on its stack, and fits there or has been passed for a slice and would fit (R306). DEDUCED (log 44). -/
def yieldsTo (s : State) (x : Gang) (l : Launch) : Bool :=
  pending' l && samePart s l.fn x.fn && budgetLeft s l.fn && decide (gangPrio s x < recPrio l) && chosen s l x.stack &&
    (fits s l x.stack || (passedOver l && wouldFit s l x.stack))

/-- A gang that resumes when its turn comes. -/
def resumes (s : State) (x : Gang) : Bool := mayResume s x && !s.launches.any (yieldsTo s x)

/-- A pre-empted gang that goes before an unplaced gang of launch l, though it should wait for a third (R20, R306). -/
def resumesFirst (s : State) (l : Launch) (stack : Nat) : Bool :=
  s.gangs.any fun x => x.stack == stack && samePart s x.fn l.fn && decide (recPrio l ≤ gangPrio s x) && mayResume s x

/-- The warm slot of a launch's next gang. -/
def ownWarm (s : State) (l : Launch) : Option Warm := s.dev.warm.find? fun w => !otherWarm l.fn l.seq l.next w

/-- A warm gang is placed where its slot is kept, and after any gang that was pre-empted from those cores and is due to resume, as it is
unless it waits for the warm gang itself (R309). -/
def warmAllows (s : State) (l : Launch) (places : List (Nat × Nat × Nat)) : Bool :=
  match ownWarm s l with
  | none => true
  | some w => w.places == places && s.gangs.all fun x =>
      !(x.members.any (fun m => places.any fun p => p.1 == m.core) && mayResume s x && !yieldsTo s x l)

/-- The lane clusters that a gang may be granted: at most the grant of the power interval in normal mode (R117). -/
def grantOk (s : State) (det : Bool) (lc : Nat) : Bool := decide (1 ≤ lc ∧ lc ≤ 8) && (det || decide (lc ≤ s.dev.dispLc))

/-! ### Placement (R305) -/

/-- Strand j of a gang at placement (R21, R23, R101, R123, R124, R287). -/
def placedStrand (s : State) (l : Launch) (lc : Nat) (areas : List Nat) (j : Nat) (p : Nat × Nat × Nat) : Strand :=
  let det := recDet l
  let own := (ownerOf s p.1).isNone
  { Strand.reset with
    status := .run, fn := l.fn, lseq := l.seq, gang := l.next, lsn := j, core := p.1, slot := p.2.1
    gcount := recG l, gsize := recS l, pc := l.record.getD 0 0, spBase := p.2.2, spSize := recSpad l
    vlcap := recVlcap l, det := det, dseed := BitVec.ofNat 32 (recField l 6 63 32), pref := l.record.getD 3 0
    lc := if det then 8 else lc, issue := 8, thandler := (fnOf s l.fn).thandler
    ctxarea := l.record.getD 5 0 + word (areas.getD j 0 * 2 ^ 20), vown := own
    vctx := if own then placementCtx l else { VCtx.reset with cnt := recNreg l } }

def placedGang (l : Launch) (stack lc : Nat) (areas : List Nat) (places : List (Nat × Nat × Nat)) : Gang :=
  { fn := l.fn, seq := l.seq, gang := l.next, stack := stack,
    members := places.map fun p =>
      { core := p.1, slot := p.2.1, base := p.2.2, ended := false, arr := false, target := 0, seen := NodeView.reset
        coming := [] },
    areas := areas, phase := 0, loops := Vector.replicate 4 Loop.reset, lc := if recDet l then 8 else lc, lcCap := 8, epoch := 0,
    placed := true, preempting := false, stopping := false, halted := false, slices := 0 }

/-- A strand added to those placed; its core's front end comes to it by R22. -/
def addStrand (st : Strand) (s : State) : State := { s with others := s.others ++ [st] }

/-- Whether the dispatcher may place the next gang of a launch at places. -/
def mayPlace (s : State) (l : Launch) (stack : Nat) (places : List (Nat × Nat × Nat)) (lc : Nat) : Bool :=
  pending' l && budgetLeft s l.fn && grantOk s (recDet l) lc && (freeAreas s l).length == recS l &&
    warmAllows s l places && placesFree s l stack places && (places.all fun p => groupClean s (fnOf s l.fn).tenant (p.1 / 4)) &&
    chosen s l stack && !resumesFirst s l stack

/-- A whole gang placed. -/
def placeGang (l : Launch) (stack : Nat) (places : List (Nat × Nat × Nat)) (lc : Nat) (s : State) : State :=
  let areas := freeAreas s l
  let sts := ((upTo places.length).zip places).map fun x => placedStrand s l lc areas x.1 x.2
  let s := areas.foldl (fun s a => hostWriteFn s l.fn ((l.record.getD 5 0).toNat + a * 2 ^ 20) (toBytes 8 0)) s
  let s := { s with
    gangs := s.gangs ++ [placedGang l stack lc areas places]
    dev := { s.dev with warm := s.dev.warm.filter (otherWarm l.fn l.seq l.next) } }
  let s := updLaunch (passOver l s) l.fn l.seq fun k => { k with next := k.next + 1, waited := 0, passed := 0 }
  sts.foldl (fun s st => addStrand st s) s

/-- GANG_PLACEMENT (R20, R305, R306): the dispatcher's choice of places and grant. -/
def execGangPlacement (fn seq gang stack : Nat) (places : List (Nat × Nat × Nat)) (lc : Nat) (s : State) : Out :=
  .next (match launchFind s fn seq with
    | none => s
    | some l => if l.next = gang ∧ mayPlace s l stack places lc = true then placeGang l stack places lc s else s)

/-- WARM_SLOT (R309): the slot of a pre-empted strand is left to it. -/
def execWarmSlot (fn seq gang stack : Nat) (places : List (Nat × Nat × Nat)) (s : State) : Out :=
  .next (match launchFind s fn seq with
    | none => s
    | some l =>
      let kept := places.any fun p => (s.me :: s.others).any fun st =>
        st.status == .off && st.core == p.1 && st.slot == p.2.1
      let has := s.dev.warm.any fun w => !otherWarm fn seq gang w
      if l.next = gang ∧ pending' l = true ∧ placesFree s l stack places = true ∧ kept = false ∧ has = false then
        let w : Warm := ⟨fn, seq, gang, places⟩
        { s with dev := { s.dev with warm := s.dev.warm ++ [w] } }
      else s)

/-! ### Pre-emption and resumption -/

/-- Whether a gang runs in the partition of a function; a halted one does not. -/
def runsIn (s : State) (fn : Nat) (x : Gang) : Bool := preemptable x && !x.halted && samePart s x.fn fn

/-- A running gang of the lowest priority in the partition of a launch, where that is lower than the launch's. -/
def victim (s : State) (l : Launch) (x : Gang) : Bool :=
  runsIn s l.fn x && decide (gangPrio s x < recPrio l) && s.gangs.all fun y => !runsIn s l.fn y || decide (gangPrio s x ≤ gangPrio s y)

/-- The next gang of a launch has waited a slice. -/
def waitedSlice (l : Launch) (s : State) : State := updLaunch s l.fn l.seq fun k => { k with waited := max k.waited 2 }

/-- PRIORITY_PREEMPTION (R306): the gang that has waited a slice pre-empts a running gang of the lowest priority in its
partition, where that is lower than its own. -/
def execPriorityPreemption (fn seq gang vfn vseq vgang : Nat) (s : State) : Out :=
  .next (match launchFind s fn seq, gangFind s vfn vseq vgang with
    | some l, some x =>
      if l.next = gang ∧ pending' l = true ∧ victim s l x = true then preemptGang x (waitedSlice l s) else s
    | _, _ => s)

/-- The pages of a strand's slot state, where all can be read. -/
def slotPages (s : State) (st : Strand) : Option (List Loc) :=
  (upTo 32).mapM fun p =>
    match translate s st.fn (slotArea st + 4096 * p) .load with
    | .ok pa _ _ _ _ => some (.host pa)
    | _ => none

/-- The device's own check of a reloaded area. -/
def slotHolds (s : State) (ls : List Loc) (st : Strand) : Bool := areaSlice s ls 0 0x20000 0 == imageOf 0 (slotBytes st)

/-- A strand resumes: its rows are reserved, and it enters the handler with cause 0x0E and RESUME (R290). -/
def resumeMe (lc epoch slot : Nat) (s : State) : State :=
  let s := updMe s fun st => { st with
    status := .run, slot := slot, tcause := causeWord 0x0E 0 false true, tval := 0, hm := true, pc := st.thandler, pre := false,
    reserved := st.savedRows, savedRows := 0, lc := lc, epoch := epoch }
  traceEvent s 3 s.me.pc (vcpOf s.me) 0x0E

/-- The gang resumes with a grant of lc lane clusters. -/
def resumeGang (x : Gang) (lc : Nat) (s : State) : State :=
  let det := (strandsOf s x).any fun st => st.det
  let x' := { regrant det lc x with placed := true, lcCap := 8 }
  let s := updGang s x.fn x.seq x.gang fun _ => x'
  (strandsOf s x).foldl (fun s st =>
    match resumeSlot s st with
    | none => s
    | some k =>
      let s := onBy (isStrand x.fn x.seq x.gang st.lsn) (resumeMe (if det then 8 else x'.lc) x'.epoch k) s
      updGang s x.fn x.seq x.gang fun g => match g.members[st.lsn]? with
        | some m => { g with members := g.members.set st.lsn { m with slot := k } }
        | none => g) s

/-- RESUMPTION (R117, R244, R290): where an area fails the device's check the launch fails, an attestation mismatch. -/
def execResumption (fn seq gang lc : Nat) (s : State) : Out :=
  .next (match gangFind s fn seq gang with
    | none => s
    | some x =>
      let sts := strandsOf s x
      let pages := sts.map fun st => (st, slotPages s st)
      let det := sts.any fun st => st.det
      if resumes s x && grantOk s det lc && (det || decide (lc ≤ x.lcCap)) && pages.all fun p => p.2.isSome then
        if pages.all fun p => slotHolds s (p.2.getD []) p.1 then resumeGang x lc s
        else sensorAlarm 4 [(fnOf s fn).tenant] (failLaunch fn seq 6 0 s)
      else s)

/-- GRACE_EXPIRY (R289, R307). -/
def execGraceExpiry (fn seq gang : Nat) (s : State) : Out :=
  .next (match gangFind s fn seq gang with
    | none => s
    | some x =>
      match (strandsOf s x).find? fun st => st.hm && resident st with
      | some st => if x.preempting then failLaunch fn seq 5 (field st.tcause 7 0) s else s
      | none => s)

/-! ### Windows, budgets and power -/

/-- A window opens: nothing is spent in it yet. -/
def openWindow (s : State) : State :=
  { s with
    funcs := s.funcs.map fun x => (x.1, { x.2 with spentT := 0, spentE := 0, activity := Func.reset.activity })
    me := { s.me with laneCycles := 0, bitCycles := 0 }
    others := s.others.map fun st => { st with laneCycles := 0, bitCycles := 0 }
    dev := { s.dev with coefs := s.dev.nextCoefs } }

/-- BUDGET_WINDOW (R308, R339). -/
def execBudgetWindow (s : State) : Out := .next (openWindow s)

/-- Every placed gang that p names pre-empted. -/
def preemptAll (p : Gang → Bool) (s : State) : State := (s.gangs.filter p).foldl (fun s x => preemptGang x s) s

/-- The gangs of a function whose allotment is spent pre-empted. -/
def enforceBudget (fn : Nat) (s : State) : State := if budgetLeft s fn then s else preemptAll (fun x => x.fn == fn) s

/-- BUDGET_EXHAUSTED (R308): the sums that the function has spent in the window, which only grow: its TBU, counted by the device
(log 18), and its EBU, which its activity counters give. -/
def execBudgetExhausted (fn tbu ebu : Nat) (s : State) : Out :=
  .next (
    if (fnOf s fn).spentT ≤ tbu ∧ ebu = ebuSpent s fn then
      enforceBudget fn (updFn s fn fun f => { f with spentT := tbu, spentE := ebu })
    else s)

/-- Whether a gang runs in normal mode with more lane clusters than n. -/
def overGrant (s : State) (n : Nat) (x : Gang) : Bool := !((strandsOf s x).any fun st => st.det) && decide (n < x.lc)

/-- Gangs that have held more lane clusters than n through an interval are pre-empted, and resume with n at most (R117). -/
def capGangs (n : Nat) (s : State) : State :=
  (s.gangs.filter fun x => preemptable x && overGrant s n x).foldl (fun s x =>
    updGang (preemptGang x s) x.fn x.seq x.gang fun g => { g with lcCap := n }) s

/-- Whether settings follow what the interval showed: over LIMIT, or at 100 °C, they are not raised, and else they are not lowered
(R343). -/
def follows (hot : Bool) (old new : Nat) : Bool :=
  decide (1 ≤ new ∧ new ≤ 8) && (if hot then decide (new ≤ old) else decide (old ≤ new))

/-- DUTY of the Hearths. -/
def dutyNow (s : State) : Nat := (tget Hearth.reset s.hearths 0).duty

/-- POWER_INTERVAL (R117 to R119, R248, R343): a gang that has held more than the grant of the interval that ends, and holds
more than that of the next, is pre-empted, and the settings of the next interval take effect. avg is the average power of the
interval, and temp says that the junction is at 100 °C; how far the settings change is the dispatchers' choice (log 18). -/
def execPowerInterval (avg temp lc issue duty : Nat) (s : State) : Out :=
  .next (
    let above := decide (s.dev.pwrInForce < avg)
    let hot := above || temp != 0
    if follows hot s.dev.dispLc lc && follows hot s.dev.dispIssue issue && follows hot (dutyNow s) duty then
      let s := capGangs (max s.dev.dispLc lc) s
      let set := fun (st : Strand) => if st.det && st.status != .free then { st with issue := issue } else st
      { s with
        me := set s.me
        others := s.others.map set
        hearths := (upTo 128).map fun g => (g, { tget Hearth.reset s.hearths g with duty := duty })
        dev := { s.dev with
          pwrReason := BitVec.ofNat 2 (b2n above + 2 * b2n (temp != 0)), pwrInForce := s.dev.pwrLimit
          dispLc := lc, dispIssue := issue } }
    else s)

end Sys2Proof.Machine
end

