-- ==== Sys2Proof/Machine/Tenancy.lean ====
section
/-! DEFINITION. The completion word (R303, R304), resets (R312 to R314), partitions and tenants (R300) and the scrub (R310). -/

namespace Sys2Proof.Machine

/-! ### The completion word -/

/-- The word of R303. -/
def completionWord (l : Launch) (status : Nat) : Nat :=
  status * 2 ^ 56 + l.cause % 256 * 2 ^ 40 + l.xflags.toNat * 2 ^ 32 + l.seq

/-- The newest n of the launches that p names, and all others; oldest first. -/
def keepNewest (p : Launch → Bool) (ls : List Launch) (n : Nat) : List Launch :=
  let drop := (ls.filter p).length - n
  (ls.foldl (fun (a : List Launch × Nat) l =>
    if p l then (if a.2 < drop then (a.1, a.2 + 1) else (a.1 ++ [l], a.2)) else (a.1 ++ [l], a.2)) ([], 0)).1

/-- The launch counts as completed: its manifest is fixed, and those of the last 16 are kept (R319, R337). -/
def finishLaunch (l : Launch) (s : State) : State :=
  let done := { l with written := true, cwBatch := 0, recHeld := false, hashes := fixHashes s l }
  let ls := (s.launches.filter fun k => !(isLaunch l.fn l.seq k && inProgress k)) ++ [done]
  { s with launches := keepNewest (fun k => k.fn == l.fn && k.written) ls 16 }

/-- The completion vector of the launch's queue, under LQCTL.IE (R311). -/
def announce (l : Launch) (s : State) : State :=
  if (queueOf s l.fn l.queue).ie then raiseVector l.fn l.queue s else s

/-- The one record of an unwritten word goes to the function's ring; the launch counts as completed once it is written (R302,
R304). -/
def unwritten (l : Launch) (s : State) : State :=
  updLaunch (holdRec s l.fn { plainRec s l.fn nobody 7 (cwAddr l) true false with launch := l.seq }) l.fn l.seq fun k =>
    { k with cwBatch := 0, recHeld := true }

/-- The record of an unwritten word has been written: the launch counts as completed, and its vector is raised. -/
def recordWritten (r : FRec) (s : State) : State :=
  match launchFind s r.vf r.launch with
  | some l => if r.launch != 0 && l.recHeld && inProgress l then announce l (finishLaunch l s) else s
  | none => s

/-- The translation of the word's address: terminal where it is misaligned or outside host space. -/
def cwTranslate (s : State) (l : Launch) : XRes :=
  if hostAddr 8 (l.record.getD 4 0) then translate s l.fn (cwAddr l) .store else .term ⟨false, false, cwAddr l⟩

/-- The write of the word. -/
def writeCompletion (l : Launch) (status : Nat) (s : State) : State :=
  match cwTranslate s l with
  | .ok pa _ _ _ _ =>
    announce l (finishLaunch l { s with host := csets zeros s.host pa (toBytes 8 (completionWord l status)) })
  | .retry s2 w a =>
    let r := reportBatch s l.fn nobody 5 [⟨s2, w, a⟩] true false (.completion l.fn l.seq)
    updLaunch r.1 l.fn l.seq fun k => { k with cwBatch := r.2.2 }
  | .term _ => unwritten l s

/-- COMPLETION_WORD_WRITE (R302 to R304, R311, R319). -/
def execCompletionWordWrite (fn seq : Nat) (s : State) : Out :=
  .next (match launchFind s fn seq with
    | none => s
    | some l =>
      match l.status with
      | none => s
      | some status => if l.written || l.cwBatch != 0 || l.recHeld then s else writeCompletion l status s)

/-! ### Resets (R312 to R314) -/

/-- A write that waits for an answer, or for its record to be written, is given up: the launch counts as completed (R304). -/
def dropWaiting (l : Launch) (s : State) : State :=
  let mine := fun (b : Nat × Nat × Batch) => match b.2.2 with
    | .completion f n => f == l.fn && n == l.seq
    | _ => false
  finishLaunch l { s with dev := { s.dev with batches := s.dev.batches.filter fun b => !mine b } }

/-- Every unfinished launch of a queue meets the reset (R312, R314). -/
def resetLaunches (fn q : Nat) (s : State) : State :=
  (unfinished s fn q).foldl (fun s l =>
    let s := failLaunch fn l.seq 4 0 s
    match launchFind s fn l.seq with
    | some k => if k.cwBatch == 0 && !k.recHeld then s else dropWaiting k s
    | none => s) s

/-- QUEUE_LEVEL_RESET (R312, R314): a write of 1 to RESET, ignored while one is in progress. -/
def execQueueLevelReset (fn q : Nat) (s : State) : Out :=
  onBar s (
    if isQueue fn q && !(queueOf s fn q).busy then resetLaunches fn q (updQueue fn q (fun x => { x with busy := true }) s)
    else s)

/-- The functions with a launch in progress whose map holds a group. DEDUCED (log 47). -/
def usersOf (s : State) (g : Nat) : List Nat := (upTo 64).filter fun f => mapBit (fnOf s f) g && hasLaunch s f

/-- Groups set to be scrubbed, with the tenants whose sequences and translations the scrub frees, beside those of a scrub that is
already to come. -/
def startScrub (gs : List Nat) (ts : List Nat) (s : State) : State :=
  { s with dev := { s.dev with scrubbing := gs.foldl (fun t g => tset t g (tget [] t g ++ ts).eraseDups) s.dev.scrubbing } }

/-- A function-level reset begins as a reset of all eight queues (R313). -/
def resetFunction (fn : Nat) (s : State) : State :=
  let s := (upTo 8).foldl (fun s q => resetLaunches fn q (updQueue fn q (fun x => { x with busy := true }) s)) s
  updFn s fn fun f => { f with flr := true }

/-- FUNCTION_LEVEL_RESET (R313). -/
def execFunctionLevelReset (fn : Nat) (s : State) : Out := .next (if fn < 64 then resetFunction fn s else s)

/-- The end of a reset on a queue: HEAD := TAIL, ERR and BUSY cleared. -/
def endReset (x : LQueue) : LQueue := { x with head := x.tail, err := false, busy := false }

/-- The end of a function-level reset (R313): its sequences, fault ring and cached translations are gone, the registers of
Table 17.2 return to their Reset values, and the groups that only it was using are scrubbed. -/
def endFunctionReset (fn : Nat) (s : State) : State :=
  let s := updFn s fn fun f => { f with
    queues := [], nextSeq := 1, frtail := 0, frhead := 0, held := [], debug := Debug.reset, flr := false }
  let s := { s with
    seqs := s.seqs.filter fun x => x.2.owner != fn
    trev := s.trev.filter fun e => e.fn != fn
    dev := { s.dev with
      tlb := s.dev.tlb.filter fun e => e.fn != fn
      batches := s.dev.batches.filter fun b => b.1 != fn } }
  startScrub ((partGroups (fnOf s fn)).filter fun g => ((usersOf s g).filter fun f => f != fn).isEmpty) [] s

/-- RESET_COMPLETION (R312, R313): once every launch that the reset met has completed, its queue is free again and vector 10
is raised; that of a function-level reset ends it on all eight queues. -/
def execResetCompletion (fn q : Nat) (s : State) : Out :=
  .next (
    if isQueue fn q && (queueOf s fn q).busy then
      if (fnOf s fn).flr then
        if ((upTo 8).all fun q => (unfinished s fn q).isEmpty) then raiseVector fn 10 (endFunctionReset fn s) else s
      else if (unfinished s fn q).isEmpty then raiseVector fn 10 (updQueue fn q endReset s)
      else s
    else s)

/-! ### Partitions and tenants (R300) -/

/-- Two functions whose maps meet must have one tenant and one map. -/
def sharingOk (s : State) : Bool :=
  (upTo 64).all fun a => (upTo 64).all fun b =>
    !((partGroups (fnOf s a)).any fun g => mapBit (fnOf s b) g) ||
      ((fnOf s a).tenant == (fnOf s b).tenant && samePart s a b)

/-- Every sequence of a function counted with its tenant too. -/
def tagSeqs (fn : Nat) (s : State) : State :=
  { s with seqs := s.seqs.map fun x =>
      if x.2.owner = fn then (x.1, { x.2 with tenants := ((fnOf s fn).tenant :: x.2.tenants).eraseDups }) else x }

/-- A group passes to tenant t: it is scrubbed, where it holds what another tenant left or another tenant's function had it
last. A group that none has held needs no scrub. -/
def passTo (t g : Nat) (s : State) : State :=
  let others := [tget t s.dev.scrubbed g, tget t s.dev.holders g].filter fun n => n != t
  let s := { s with dev := { s.dev with holders := tset s.dev.holders g t } }
  if others.isEmpty then { s with dev := { s.dev with scrubbed := tset s.dev.scrubbed g t } } else startScrub [g] others s

/-- The groups of a function passed to its tenant. -/
def passGroups (fn : Nat) (s : State) : State := (partGroups (fnOf s fn)).foldl (fun s g => passTo (fnOf s fn).tenant g s) s

/-- The hub keeps no translation of a function whose tenant changes. -/
def leaveTenant (fn : Nat) (old s : State) : State :=
  if (fnOf old fn).tenant = (fnOf s fn).tenant then s
  else { s with dev := { s.dev with tlb := s.dev.tlb.filter fun e => e.fn != fn } }

/-- A write of PARTMAP or TENANT that gives the function the configuration f. -/
def remap (fn : Nat) (f : Func) (s : State) : State :=
  let t := tagSeqs fn (setFn s fn f)
  let map := !sharingOk t
  let busy := (partGroups (fnOf s fn) ++ partGroups f).any fun g => !(usersOf s g).isEmpty || !(usersOf t g).isEmpty
  if map || busy then
    { s with dev := { s.dev with pferr := s.dev.pferr ||| BitVec.ofNat 4 (b2n map + 2 * b2n busy) } }
  else passGroups fn (leaveTenant fn s t)

/-- PARTMAP_WRITE (R300): PARTMAP0 or PARTMAP1. -/
def execPartmapWrite (fn half : Nat) (v : Word) (s : State) : Out :=
  onBar s (
    if fn < 64 then remap fn (if half = 0 then { fnOf s fn with map0 := v } else { fnOf s fn with map1 := v }) s else s)

/-- TENANT_WRITE (R300). -/
def execTenantWrite (fn : Nat) (v : Word) (s : State) : Out :=
  onBar s (if fn < 64 then remap fn { fnOf s fn with tenant := field v 15 0 } s else s)

/-! ### The scrub (R310) -/

/-- The tenant whose map holds a group. -/
def groupTenant (s : State) (g : Nat) : Option Nat :=
  ((upTo 64).find? fun f => mapBit (fnOf s f) g).map fun f => (fnOf s f).tenant

/-- What the scrub of a group leaves: its four cores' scratchpads, its Hearth and the census zero, and the sequences on the
stack and the cached translations of the tenants ts freed. -/
def scrubGroup (g : Nat) (ts : List Nat) (s : State) : State :=
  let s := settle s
  let h := tget Hearth.reset s.hearths g
  let here := fun (st : Strand) => resident st && st.core / 4 == g
  { s with
    spad := cclear (4 * g * spadSize) (4 * spadSize) s.spad
    hearths := tset s.hearths g { Hearth.reset with duty := h.duty }
    census := cclear (4 * g * 256) (4 * 256) s.census
    seqs := s.seqs.filter fun x => !(x.1 / 4096 == g / 16 && x.2.tenants.any ts.contains)
    me := if here s.me then Strand.reset else s.me
    others := s.others.filter fun st => !here st
    dev := { s.dev with
      tlb := s.dev.tlb.filter fun e => !ts.contains (fnOf s e.fn).tenant
      scrubbing := tdel s.dev.scrubbing g } }

/-- The bytes of a group's vaults. -/
def vaultCells (g : Nat) (s : State) : Cells 8 := cslice (vaultBase (4 * g)) (4 * vaultSize) (vaultBase (4 * g)) s.vault

/-- A tenant finds again what it left in a group's vaults, but for the bytes that others' keys have written since, which are
unspecified to it (R310, log 25). -/
def findAgain (g : Nat) (x : Stash) (s : State) : State :=
  let s := bump s
  let erased := x.erased.foldl (fun t e => tset t e.1 e.2) s.dev.erased
  let d := vaultDflt erased
  let strange := ((vaultCells g s).map Prod.fst ++ x.spoiled).map fun k => (k, Config.freeByte (s.tick * 2 ^ 60 + k))
  let rest := cclear (vaultBase (4 * g)) (4 * vaultSize) s.vault
  let vault := strange.foldl (fun m c => cset d m c.1 c.2) (x.cells.foldl (fun m c => cset d m c.1 c.2) rest)
  { s with
    vault := vault
    dev := { s.dev with erased := erased, stash := s.dev.stash.filter fun y => !(y.group == g && y.tenant == x.tenant) } }

/-- What stands in a group's vaults has overwritten what earlier tenants left there. -/
def spoilStash (g : Nat) (s : State) : State :=
  { s with dev := { s.dev with stash := s.dev.stash.map fun x =>
      if x.group = g then { x with spoiled := (x.spoiled ++ (vaultCells g s).map Prod.fst).eraseDups } else x } }

/-- The group passes to a tenant: its vaults are not written, and read as unspecified to a tenant whose key did not write them. -/
def passGroup (g n : Nat) (s : State) : State :=
  let was := tget n s.dev.scrubbed g
  let s := { s with dev := { s.dev with scrubbed := tset s.dev.scrubbed g n } }
  if was = n then s
  else
    let s := spoilStash g s
    let left : Stash := ⟨g, was, (groupVaults g).map fun v => (v, tget 0 s.dev.erased v), vaultCells g s, []⟩
    let s := if s.dev.noKey.contains was then s else { s with dev := { s.dev with stash := s.dev.stash ++ [left] } }
    match s.dev.stash.find? fun x => x.group == g && x.tenant == n with
    | some x => findAgain g x s
    | none => eraseVaults (groupVaults g) s

/-- SCRUB (R310): the group becomes placeable for the tenant whose map holds it. DEDUCED (log 47). -/
def execScrub (hg : Nat) (s : State) : Out :=
  .next (
    if thas s.dev.scrubbing hg then
      let t := scrubGroup hg (tget [] s.dev.scrubbing hg) s
      match groupTenant s hg with
      | some n => passGroup hg n t
      | none => t
    else s)

end Sys2Proof.Machine
end

