-- ==== Sys2Proof/Machine/Reports.lean ====
section
/-! DEFINITION. Fault rings and answers (R294 to R296, R331), invalidation (R297), page retirement (R298) and snoops (R329). -/

namespace Sys2Proof.Machine

/-! ### Records (R296, R331) -/

/-- The 32 bytes of a record. -/
def recordBytes (r : FRec) : List Byte :=
  toBytes 8 r.addr.toNat ++
    toBytes 8 (r.pasid % 2 ^ 20 * 2 ^ 32 + r.vf % 2 ^ 16 * 2 ^ 16 + b2n r.last * 2 ^ 12 + b2n r.fetch * 2 ^ 11 +
      b2n r.write * 2 ^ 10 + b2n r.walk * 2 ^ 9 + b2n r.stage2 * 2 ^ 8 + r.cause % 256) ++
    toBytes 8 (r.who % 2 ^ 32 * 2 ^ 32 + r.batch % 2 ^ 32) ++ toBytes 8 (r.count % 2 ^ 16 * 2 ^ 16 + r.index % 2 ^ 16)

/-- The 32 bytes of a ring at an address, which lie on the pages of the first and the last, can be written. -/
def ringOpen (s : State) (fn a : Nat) : Bool :=
  [a, a + 31].all fun j => match translate s fn j .store with | .ok .. => true | _ => false

/-- Where a function's ring takes its next record; none where it has no ring, is full, or its page cannot be written, and the record
is held back (R331, log 13). -/
def fnSlot (s : State) (fn : Nat) : Option Nat :=
  let f := fnOf s fn
  let a := f.frbase.toNat + f.frtail.toNat % 2 ^ f.frsize * 32
  if f.frsize = 0 ∨ f.frbase = 0 ∨ 2 ^ f.frsize ≤ ahead f.frtail f.frhead ∨ ringOpen s fn a = false then none else some a

/-- A function's ring takes the oldest record that it holds back; one that announces a launch's end ends it. -/
def fnRecord (fn : Nat) (s : State) : State :=
  match (fnOf s fn).held, fnSlot s fn with
  | r :: t, some a =>
    let s := hostWriteFn s fn a (recordBytes r)
    recordWritten r (raiseVector fn 9 (updFn s fn fun f => { f with held := t, frtail := f.frtail + 1 }))
  | _, _ => s

/-- A ring of the physical function takes the oldest record that it holds back: the state and the ring after it.
DEDUCED (log 42). -/
def pfRecord (p : PRing) (s : State) : Option (List Host.Cell × PRing) :=
  match p.held with
  | [] => none
  | r :: t =>
    if !p.en || decide (2 ^ p.log2n ≤ ahead p.tail p.head) then none
    else
      let a := p.base.toNat + p.tail.toNat % 2 ^ p.log2n * 32
      some (csets zeros s.host a (recordBytes r), { p with held := t, tail := p.tail + 1 })

/-- The kinds of rings: 0 the functions', 1 the retryable ring, 2 the terminal ring. -/
def ringKind (ring : Nat) : Nat := if ring = retryRing then 1 else if ring = termRing then 2 else 0

/-- A ring has a record that it can take. -/
def ringReady (s : State) (ring : Nat) : Bool :=
  if ring = retryRing then (pfRecord s.dev.retry s).isSome
  else if ring = termRing then (pfRecord s.dev.term s).isSome
  else !(fnOf s ring).held.isEmpty && (fnSlot s ring).isSome

def kindReady (s : State) (k : Nat) : Bool := (upTo 66).any fun r => ringKind r == k && ringReady s r

/-- The weight of a kind, of which each turn writes that many records (R294, R339). -/
def ringWeight (s : State) (k : Nat) : Nat := max 1 (s.dev.weights.getD k 1)

/-- The kind whose turn it is at the reporting port, with the records left in it. -/
def portTurnOf (s : State) : Nat × Nat :=
  let p := s.dev.port
  if p.2 ≠ 0 ∧ kindReady s p.1 = true then p
  else
    match [(p.1 + 1) % 3, (p.1 + 2) % 3, p.1].find? (kindReady s) with
    | some k => (k, ringWeight s k)
    | none => p

/-- One record written to a ring, before its vector is raised. -/
def writeRecord (ring : Nat) (s : State) : State :=
  if ring = retryRing then
    match pfRecord s.dev.retry s with
    | some (m, p) => raisePf 2 { s with host := m, dev := { s.dev with retry := p } }
    | none => s
  else if ring = termRing then
    match pfRecord s.dev.term s with
    | some (m, p) => raisePf 3 { s with host := m, dev := { s.dev with term := p } }
    | none => s
  else fnRecord ring s

/-- A record written to a ring whose kind has the turn. -/
def reportTurn (ring : Nat) (s : State) : State :=
  let p := portTurnOf s
  if ringReady s ring && ringKind ring == p.1 then writeRecord ring { s with dev := { s.dev with port := (p.1, p.2 - 1) } } else s

/-- FAULT_RECORD_WRITE (R294, R331). -/
def execFaultRecordWrite (ring : Nat) (s : State) : Out := .next (reportTurn ring s)

/-! ### Answers (R279, R295, R296, R330) -/

/-- The terminal records of a batch that the host answers TERMINAL: one a page (R294). -/
def termRecords (fn who : Nat) (ps : List PFault) (write fetch : Bool) (s : State) : State :=
  ps.foldl (fun s p => reportTerm s fn who p write fetch) s

/-- The answer to the batch of value n of the issuing strand's suspension. A strand that is halted or taken off takes TERMINAL
later. -/
def answerStrand (n : Nat) (term : Bool) (s : State) : State :=
  match s.me.susp with
  | none => s
  | some x =>
    if x.batch.2 ≠ n then s
    else if term then
      let s := termRecords s.me.fn (myPlace s) x.faults x.write x.fetch s
      if s.me.status = .suspended then terminate x s else updMe s fun st => { st with susp := some { x with answered := true } }
    else endSuspension s

/-- The consumer that is suspended on a stream's batch goes on. -/
def wakeConsumer (batch : Nat × Nat) (s : State) : State :=
  match s.me.susp with
  | some x => if x.batch = batch then endSuspension s else s
  | none => s

/-- A stalled command answered: it resumes, or ends with status TRANSLATION, which a stream gives at its consumer; a write
stream writes nothing more, and one that was drained meanwhile ends with ABORT (R230). -/
def answerCommand (q n : Nat) (term : Bool) (s : State) : State :=
  match (fifoOf s.me q).cmds with
  | [] => s
  | c :: _ =>
    if c.phase ≠ .stall ∨ c.batch.2 ≠ n then s
    else if term then
      let s := termRecords s.me.fn nobody c.faults (isWriter c) false s
      if isReader c || isWriter c then
        wakeConsumer c.batch (putCmd q { c with
          phase := .stream, fixed := if isWriter c then writerStatus c 8 else 8, pushed := if isWriter c then [] else c.pushed } s)
      else endUnwritten q c 8 s
    else wakeConsumer c.batch (putCmd q { c with phase := c.resume } s)

/-- The answer to the batch b of value n. A peer's flit that TERMINAL refuses is answered with status TRANSLATION. -/
def answerBatch (b : Batch) (n : Nat) (term : Bool) (s : State) : State :=
  match b with
  | .strand fn seq g lsn => onBy (isStrand fn seq g lsn) (answerStrand n term) s
  | .command fn seq g lsn q => onBy (isStrand fn seq g lsn) (answerCommand q n term) s
  | .completion fn seq =>
    match launchFind s fn seq with
    | none => s
    | some l =>
      if l.written then s
      else if term then unwritten l s
      else updLaunch s fn seq fun k => { k with cwBatch := 0 }
  | .peer link tag fn p write =>
    if term then
      let s := linkFlit fn link 4 0 tag (Config.completionPayload 8) (reportTerm s fn nobody p write false)
      { s with dev := { s.dev with tagSeq := tset s.dev.tagSeq (rxKey tag) ((nextSeqOf s (rxKey tag) + 1) % 2 ^ 32) } }
    else s

/-- An answer (BATCH × 2 + ANS) on a ring; one that names no outstanding batch is ignored. A batch whose records stand in several
rings is answered once. -/
def answer (ring : Nat) (v : Word) (s : State) : State :=
  let n := v.toNat / 2
  match s.dev.batches.find? fun b => b.1 == ring && b.2.1 == n with
  | none => s
  | some b =>
    answerBatch b.2.2 n (bit v.toNat 0)
      { s with dev := { s.dev with batches := s.dev.batches.filter fun x => !(x.2.1 == n && x.2.2 == b.2.2) } }

/-- FAULT_ANSWER (R296, R330). -/
def execFaultAnswer (fn : Nat) (v : Word) (s : State) : Out := onBar s (if fn < 64 then answer fn v s else s)

/-- PF_FAULT_ANSWER (R296, R330). -/
def execPfFaultAnswer (ring : Nat) (v : Word) (s : State) : Out :=
  onBar s (if ring = retryRing ∨ ring = termRing then answer ring v s else s)

/-! ### Invalidation (R297, R330) -/

/-- An invalidation started. -/
def startInval (x : Inval) (s : State) : State := { s with dev := { s.dev with invals := s.dev.invals ++ [x] } }

/-- INV1 (R297): started by the write of the page count. -/
def execInv1 (fn : Nat) (count : Word) (s : State) : Out :=
  onBar s (if fn < 64 then startInval ⟨fn, 1, (fnOf s fn).inv1.toNat / 4096, count.toNat⟩ s else s)

/-- INV2 (R297). -/
def execInv2 (fn : Nat) (count : Word) (s : State) : Out :=
  onBar s (if fn < 64 then startInval ⟨fn, 2, (fnOf s fn).inv2.toNat / 4096, count.toNat⟩ s else s)

/-- Whether a cached translation is among those that an invalidation names. One of stage 2 may name the pages of any stage-1
table, so it drops every result that a stage-1 walk gave (log 11). -/
def named (s : State) (x : Inval) (e : TlbEntry) : Bool :=
  let page := if x.stage = 1 then e.page else e.gpage
  e.fn == x.fn && ((x.stage != 1 && bit (fnOf s x.fn).s1.toNat 0) || decide (x.base ≤ page ∧ page < x.base + x.count))

/-- A strand whose host path holds translations that it cannot yet give up: those of a deterministic strand stand until its gang
drains, and others until their VFENCE completes. -/
def pathHeld (st : Strand) : Bool := !st.hpath.isEmpty && (st.det || st.hpath.any fun x => x.held != 0)

/-- The strands of a function. -/
def strandsFor (s : State) (fn : Nat) : List Strand := (s.me :: s.others).filter fun st => st.status != .free && st.fn == fn

/-- The host-path accesses of a function's strands, which hold their translations, are performed. -/
def performPaths (fn : Nat) (s : State) : State :=
  (strandsFor s fn).foldl (fun s st =>
    onBy (isStrand st.fn st.lseq st.gang st.lsn) (fun s => s.me.hpath.foldl performHost { s with me := { s.me with hpath := [] } }) s) s

/-- INVALIDATION_COMPLETION (R297): no access uses the old entries from then on. -/
def execInvalidationCompletion (s : State) : Out :=
  .next (match s.dev.invals with
    | [] => s
    | x :: t =>
      if (strandsFor s x.fn).any pathHeld then s
      else
        let s := performPaths x.fn s
        { s with dev := { s.dev with invals := t, tlb := s.dev.tlb.filter fun e => !named s x e } })

/-! ### Page retirement (R298) -/

/-- The vault byte at a run-space address of a function, where its page is present. -/
def vaultAt (s : State) (fn a : Nat) : Option Nat :=
  match runWalk s (fnOf s fn) a false with
  | .ok (.vault k) => some k
  | _ => none

/-- The least function whose partition holds a vault. DEDUCED (log 47). -/
def vaultOwner (s : State) (vault : Nat) : Option Nat := (upTo 64).find? fun f => mapBit (fnOf s f) (vault / 4)

/-- The listed bytes of frame k moved to frame j, its lost lines zero. -/
def moveFrame (k j : Nat) (lost : List Nat) (s : State) : State :=
  let d := vaultDflt s.dev.erased
  let moved := cslice (k * 2 ^ 21) (2 ^ 21) (j * 2 ^ 21) s.vault
  let m := cclear (k * 2 ^ 21) (2 ^ 21) (cclear (j * 2 ^ 21) (2 ^ 21) s.vault)
  let m := moved.foldl (fun m c => cset d m c.1 c.2) m
  { s with vault := lost.foldl (fun m o => csets d m (j * 2 ^ 21 + o) (toBytes 64 0)) m }

/-- The frame that stands for k, and those that stood for themselves, now stand at j. -/
def retire (k j : Nat) (t : List (Nat × Nat)) : List (Nat × Nat) :=
  let t := t.map fun x => if x.2 = k then (x.1, j) else x
  if thas t k then t else tset t k j

/-- The byte offset of the frame that holds record j of a DKEY run, and its length. -/
def dkeyFrame (s : State) (fn : Nat) (h : Handle) (j : Nat) : Nat → Nat → Nat → Nat × Nat
  | 0, off, _ => (off, 0)
  | n + 1, off, done =>
    match frameAt s fn h off done with
    | .error _ => (off, 16)
    | .ok (rs, size) => if j < done + rs.length then (off, size) else dkeyFrame s fn h j n (off + size) (done + rs.length)

/-- The addresses of a run that a command at the head of its FIFO is reading: the next record of an RDSTR, or whole runs. -/
def reading (s : State) (fn : Nat) (c : Cmd) : List (Nat × Nat) :=
  match c.kind with
  | .rdstr first =>
    c.srcs.filterMap fun x =>
      if x.h.host then none
      else if fmtDkey x.h.fmt then
        let f := dkeyFrame s fn x.h (first + c.count) x.h.len 0 0
        some (x.h.addr + f.1, f.2)
      else some (x.h.addr + (first + c.count) * fmtRw x.h.fmt, fmtRw x.h.fmt)
  | _ => c.srcs.filterMap fun x => if x.h.host then none else some (x.h.addr, extentOf x.h.fmt x.h.cap)

/-- The first lost line that a command is reading. -/
def lostLine (s : State) (fn : Nat) (c : Cmd) (lost : List Nat) : Option Nat :=
  lost.find? fun a => (reading s fn c).any fun r => decide (r.1 < a + 64 ∧ a < r.1 + r.2)

/-- A running command: accepted, and not completed. -/
def running (c : Cmd) : Bool := c.phase != .queued && c.fixed == 0 && c.held.isNone

/-- Notice to a reader of a lost line: a stream stops for its consumer, a command ends with LOST. -/
def noticeLost (lost : List Nat) (q : Nat) (s : State) : State :=
  match (fifoOf s.me q).cmds with
  | [] => s
  | c :: _ =>
    if !running c then s
    else
      match lostLine s s.me.fn c lost with
      | none => s
      | some a =>
        if isReader c then wakeConsumer c.batch (putCmd q { c with phase := .stream, fixed := 9, addr := a } s)
        else endUnwritten q c 9 s

/-- f for every strand that p names and each of its FIFOs. -/
def forFifos (p : Strand → Bool) (f : Nat → State → State) (s : State) : State :=
  ((s.me :: s.others).filter p).foldl (fun s st =>
    onBy (isStrand st.fn st.lseq st.gang st.lsn) (fun s => (upTo 16).foldl (fun s q => f q s) s) s) s

/-- The data-loss record of a line (R298): it takes no answer. -/
def lossRecord (fn : Nat) (s : State) (a : Nat) : State := holdRec s fn (plainRec s fn nobody 0x0F a false false)

/-- PAGE_RETIREMENT (R298): lost names the run-space addresses of the lost lines of the frame, or 2^48 plus the offset of a line
that no run-space address maps. DESIGN CHOICE (log 25). -/
def execPageRetirement (vault frame spare : Nat) (lost : List Nat) (s : State) : Out :=
  .next (
    let k := vault * 384 + frame
    let j := vault * 384 + spare
    if 512 ≤ vault ∨ 384 ≤ frame ∨ 384 ≤ spare ∨ frame = spare ∨
        (s.dev.retired.any fun x => x.1 == j || x.2 == j) = true then s
    else
      let bare := (lost.filter fun a => decide (2 ^ 48 ≤ a ∧ a < 2 ^ 48 + 2 ^ 21) && a % 64 == 0).map fun a => a - 2 ^ 48
      match vaultOwner s vault with
      | none => { moveFrame k j bare s with dev := { s.dev with retired := retire k j s.dev.retired } }
      | some fn =>
        let lines := lost.filter fun a =>
          a % 64 == 0 && decide (a < 2 ^ 48) && (match vaultAt s fn a with | some b => b / 2 ^ 21 == k | none => false)
        let offs := lines.map fun a => (vaultAt s fn a).getD 0 % 2 ^ 21
        let s := forFifos (fun st => st.status != .free && samePart s st.fn fn) (noticeLost lines) s
        let s := moveFrame k j (bare ++ offs) s
        let s := { s with dev := { s.dev with retired := retire k j s.dev.retired } }
        lines.foldl (lossRecord fn) s)

/-- SNOOP (R329): an atomic or a merge is one move here, so that none is in progress on the line, and the hub holds no line.
DESIGN CHOICE (log 2). -/
def execSnoop (_line : Nat) (s : State) : Out := .next s

end Sys2Proof.Machine
end

