-- ==== Sys2Proof/Machine/Peer.lean ====
section
/-! DEFINITION. Flits that arrive on Hjelvor links, and links that go down (R333, R334). Remote memory that this package reads
or writes through its peer windows is the state's own `Dev.peer` (log 19). -/

namespace Sys2Proof.Machine

/-- A flit of a link that is up whose CRC holds, next in its stream tag's order; any other is resent or waits. -/
def deliverable (link : Nat) (f : Flit) (kind : Nat) (s : State) : Bool :=
  !s.dev.linksDown.getLsbD link && flitOk f && f.kind == kind && f.seq == nextSeqOf s (rxKey f.tag)

/-- The flit has been delivered. -/
def taken (f : Flit) (s : State) : State :=
  { s with dev := { s.dev with tagSeq := tset s.dev.tagSeq (rxKey f.tag) ((f.seq + 1) % 2 ^ 32) } }

/-- The effect of a flit of a kind, once and in order. -/
def onFlit (link : Nat) (f : Flit) (kind : Nat) (g : State → State) (s : State) : Out :=
  .next (if deliverable link f kind s then g s else s)

/-- Traffic for a function is accepted from a package that a valid window of its tenant names. -/
def accepts (s : State) (pkg fn : Nat) : Bool :=
  (upTo 16).any fun n =>
    let w := tget Window.reset s.dev.windows n
    w.valid && w.tenant == (fnOf s fn).tenant && w.pkg.toNat == pkg

/-- What a stream tag stands for: package, function, run-space address and record width. -/
structure Remote where
  pkg : Nat
  fn : Nat
  addr : Nat
  width : Nat
  count : Nat
  deriving DecidableEq, Repr

/-- R333: a record has 8, 16, 32 or 64 bytes; the rest is as the free value says. DESIGN CHOICE (log 19). -/
def remoteOf (tag : Nat) (payload : List Byte) : Remote :=
  ⟨Config.peerField tag payload 0 % 256, Config.peerField tag payload 1 % 64, Config.peerField tag payload 2 % 2 ^ 47,
    8 * 2 ^ (Config.peerField tag payload 3 % 4), Config.peerField tag payload 4⟩

/-- Whether a batch of the tag waits for its answer. -/
def waitsAt (s : State) (link tag : Nat) : Bool :=
  s.dev.batches.any fun b => match b.2.2 with | .peer l t _ _ _ => l == link && t == tag | _ => false

/-- A page fault at the peer is reported on the peer's rings, and the flit is served after the answer. -/
def peerFault (link tag fn cause : Nat) (p : PFault) (write : Bool) (s : State) : State :=
  if waitsAt s link tag then s else (reportBatch s fn nobody cause [p] write false (.peer link tag fn p write)).1

/-- Traffic that is refused ends the remote command with status TRANSLATION. -/
def refuseFlit (fn link : Nat) (f : Flit) (s : State) : State :=
  linkFlit fn link 4 0 f.tag (Config.completionPayload 8) (taken f s)

/-- What a fault of traffic does: a page waits for its answer, and any other fault refuses it. -/
def flitFault (fn link : Nat) (f : Flit) (write : Bool) (e : RFault) (s : State) : State :=
  match e with
  | .page cause p _ => peerFault link f.tag fn cause p write s
  | .term _ p => refuseFlit fn link f (reportTerm s fn nobody p write false)
  | .format _ => refuseFlit fn link f s

/-- The service of a read request: its records, then a completion. -/
def serveRead (link : Nat) (f : Flit) (s : State) : State :=
  let r := remoteOf f.tag f.payload
  if !accepts s r.pkg r.fn then refuseFlit r.fn link f s
  else
    match runRead s r.fn false r.addr (r.count * r.width) with
    | .error e => flitFault r.fn link f false e s
    | .ok bs => linkFlit r.fn link 4 0 f.tag (Config.completionPayload 0)
        (sendRecords r.fn link 2 f.tag r.width r.count bs (taken f s))

/-- HJELVOR_READ_REQUEST (R333, R334). -/
def execHjelvorReadRequest (link : Nat) (flit : Flit) (s : State) : Out := onFlit link flit 1 (serveRead link flit) s

/-- The bytes of a flit's records. -/
def flitRecords (f : Flit) (width : Nat) : List Byte := f.payload.take (f.count * width)

def updAsked (tag : Nat) (g : Asked → Asked) (s : State) : State :=
  { s with dev := { s.dev with asked := s.dev.asked.map fun a => if a.tag = tag then g a else a } }

/-- Records that come for a command stand, in record order, where it reads them (R334). -/
def landRecords (f : Flit) (s : State) : State :=
  match askedOf s f.tag with
  | none => s
  | some a =>
    let bs := flitRecords f a.width
    updAsked f.tag (fun a => { a with key := a.key + bs.length })
      { s with dev := { s.dev with peer := csets zeros s.dev.peer a.key bs } }

/-- HJELVOR_READ_RECORDS (R333, R334). -/
def execHjelvorReadRecords (link : Nat) (flit : Flit) (s : State) : Out :=
  onFlit link flit 2 (fun s => taken flit (landRecords flit s)) s

/-- Records written one after another, each whole. -/
def writeEach (fn width : Nat) : Nat → Nat → List Byte → State → Except RFault State
  | 0, _, _, s => .ok s
  | n + 1, a, bs, s =>
    match runWrite s fn false a (bs.take width) with
    | .ok s => writeEach fn width n (a + width) (bs.drop width) s
    | .error f => .error f

/-- The bytes that a stream tag has written so far. -/
def landedOf (s : State) (tag : Nat) : Nat := tget 0 s.dev.landed tag

/-- The service of a flit that writes records: they follow those of the tag's earlier flits, and the writer is answered. -/
def serveWrite (link : Nat) (f : Flit) (s : State) : State :=
  let r := remoteOf f.tag []
  if !accepts s r.pkg r.fn then refuseFlit r.fn link f s
  else
    let at' := landedOf s f.tag
    match writeEach r.fn r.width f.count (r.addr + at') (flitRecords f r.width) s with
    | .error e => flitFault r.fn link f true e s
    | .ok t =>
      linkFlit r.fn link 4 0 f.tag (Config.completionPayload 0)
        (taken f { t with dev := { t.dev with landed := tset t.dev.landed f.tag (at' + f.count * r.width) } })

/-- HJELVOR_WRITE_RECORDS (R334, R97). -/
def execHjelvorWriteRecords (link : Nat) (flit : Flit) (s : State) : Out := onFlit link flit 3 (serveWrite link flit) s

/-- A completion for a command: one less to come, and the first status other than 0 stands (R334). -/
def completionOf (f : Flit) (a : Asked) : Asked :=
  { a with left := a.left - 1, status := if a.status = 0 then Config.completionStatus f.payload else a.status }

/-- HJELVOR_COMPLETION_FLIT (R333, R334). -/
def execHjelvorCompletionFlit (link : Nat) (flit : Flit) (s : State) : Out :=
  onFlit link flit 4 (fun s =>
    let s := updAsked flit.tag (completionOf flit) s
    taken flit { s with dev := { s.dev with peerDone := s.dev.peerDone ++ [(flit.tag, flit)] } }) s

/-- HJELVOR_FENCE_FLIT (R334): every earlier flit's records are performed when it arrives. -/
def execHjelvorFenceFlit (link : Nat) (flit : Flit) (s : State) : Out :=
  onFlit link flit 5 (fun s => sendFlit link 6 0 flit.tag [] (taken flit s)) s

/-- HJELVOR_FENCE_ACK (R334). -/
def execHjelvorFenceAck (link : Nat) (flit : Flit) (s : State) : Out :=
  onFlit link flit 6 (fun s =>
    taken flit { s with dev := { s.dev with fenceWait := s.dev.fenceWait.filter fun t => t != flit.tag } }) s

/-! ### A link goes down (R333) -/

/-- The peer address of a run that goes over a link. -/
def usesLink (s : State) (link : Nat) (x : Cap) : Bool :=
  !x.h.host && bit x.h.addr 47 &&
    (let w := tget Window.reset s.dev.windows (bits x.h.addr 46 43); w.valid && linkFor s w == some link)

/-- A running command over the link ends as a terminal translation fault ends it. -/
def cutCommand (old : State) (link q : Nat) (s : State) : State :=
  match (fifoOf s.me q).cmds with
  | [] => s
  | c :: _ =>
    let caps := c.srcs ++ c.dsts
    match ((upTo caps.length).zip caps).find? fun x => usesLink old link x.2 with
    | none => s
    | some x =>
      if !running c then s
      else
        let write := decide (c.srcs.length ≤ x.1)
        let s := dropAsked (c.reads ++ c.writes) (commandTerm s (peerPage x.2.h.addr) write)
        let c := { c with reads := [], writes := [] }
        if isReader c || isWriter c then
          wakeConsumer c.batch (putCmd q { c with
            phase := .stream, fixed := if isWriter c then writerStatus c 8 else 8, addr := x.2.h.addr
            src := if write then 0 else x.1 } s)
        else endUnwritten q c 8 s

/-- What was asked over a link that is down gets no answer: it counts as refused, and a fence that waits for a peer reached
over it no longer waits (log 34). -/
def loseLink (old : State) (link : Nat) (s : State) : State :=
  let gone := fun (t : Nat) => linkFor old (tget Window.reset old.dev.windows (t % 16)) == some link
  { s with dev := { s.dev with
      asked := s.dev.asked.map fun a => if a.link = link ∧ a.left ≠ 0 then { a with left := 0, status := 8 } else a
      fenceWait := s.dev.fenceWait.filter fun t => !gone t } }

/-- LINK_DOWN (R333). -/
def execLinkDown (link : Nat) (s : State) : Out :=
  .next (
    if link < 12 then
      let t := { s with dev := { s.dev with linksDown := s.dev.linksDown ||| BitVec.ofNat 12 (2 ^ link) } }
      forFifos (fun st => st.status != .free) (cutCommand s link) (loseLink s link t)
    else s)

end Sys2Proof.Machine
end

