-- ==== Sys2Proof/Machine/Platform.lean ====
section
/-! DEFINITION. Boot, the mailbox and the configuration block (R335 to R339), the security alarm (R340, R341), and the events
of the debug block that have rows of their own (R321, R323, R326, R327). -/

namespace Sys2Proof.Machine

/-! ### Boot (R335) -/

/-- The three conditions under which an image is started. -/
def imageOk (counter : Nat) (bs : List Byte) : Bool :=
  Config.ecdsaOk bs && Config.lmsOk bs && decide (counter ≤ Config.imageVersion bs)

/-- POWER_ON (R335, R336, R6): every key derives anew and every register has its Reset value; the host's memory, the flash and the
monotonic counter stay. The agenda and the number of free values used are the model's own. -/
def execPowerOn (s : State) : Out :=
  let ok := imageOk s.dev.counter s.dev.flash
  .next { State.reset with
    host := s.host
    dev := { Dev.reset with
      flash := s.dev.flash, counter := s.dev.counter, fw := ok, image := if ok then s.dev.flash else [] }
    agenda := s.agenda, tick := s.tick, nextId := s.nextId }

/-! ### The mailbox (R337 to R339) -/

/-- The buffer of a mailbox command, none where it does not lie in host space. The physical function's addresses are system
physical. DEDUCED (log 42). -/
def mailBuffer (s : State) : Option (List Byte) :=
  if s.dev.mbaddr.toNat + s.dev.mblen.toNat ≤ hostSize then some (cgets zeros s.host s.dev.mbaddr.toNat s.dev.mblen.toNat)
  else none

/-- A command has begun, and its STATUS is settled. -/
def mailed (cmd status : Nat) (s : State) : State :=
  { s with dev := { s.dev with mbcmd := cmd, mbbusy := true, mbresult := some status } }

/-- A command's effect, ignored while BUSY = 1. -/
def onMail (cmd : Nat) (f : State → State × Nat) (s : State) : State :=
  if s.dev.mbbusy then s
  else
    let r := f s
    mailed cmd r.2 r.1

/-- The image in the buffer is run, where it starts, with the STATUS of the command. DESIGN CHOICE (log 22). -/
def runImage (s : State) : State × Nat :=
  match mailBuffer s with
  | none => (s, 3)
  | some bs =>
    if imageOk s.dev.counter bs then ({ s with dev := { s.dev with fw := true, image := bs } }, 0) else (s, 1)

/-- LOAD begins with a reset of every function; its image runs once they have completed, and its STATUS is settled then.
The physical function's own registers keep their values. DESIGN CHOICE (log 78). -/
def loadImage (s : State) : State × Nat := ((upTo 64).foldl (fun s f => resetFunction f s) s, 0)

/-- LOAD (R338, R335). -/
def execLoad (s : State) : Out := .next (onMail 1 loadImage s)

/-- DESIGN CHOICE (log 22). -/
def commitImage (s : State) : State × Nat :=
  if s.dev.fw then
    ({ s with dev := { s.dev with
      flash := s.dev.image, counter := max s.dev.counter (Config.imageVersion s.dev.image) } }, 0)
  else (s, 2)

/-- COMMIT (R338): with no image running there is none to write. -/
def execCommit (s : State) : Out := .next (onMail 2 commitImage s)

/-- What an accepted block sets; the coefficients wait for the next window. -/
def applyConfig (bs : List Byte) (d : Dev) : Dev :=
  let x := Config.cfgField bs
  { d with
    cfgSeq := x 0, nextCoefs := [x 1, x 2, x 3, x 4, x 5], weights := [x 6, x 7, x 8], lowLimit := 1200 + x 9
    levels := [x 10 % 3 + 1, x 11 % 3 + 1, x 12 % 3 + 1, x 13 % 3 + 1, x 14 % 3 + 1] }

/-- A refused block sets PFERR.CFG. -/
def refuseConfig (s : State) : State := { s with dev := { s.dev with pferr := s.dev.pferr ||| 4 } }

/-- DESIGN CHOICE (log 23). -/
def configBlock (s : State) : State × Nat :=
  match mailBuffer s with
  | none => (s, 3)
  | some bs =>
    if !s.dev.fw || !Config.blockOk s.dev.image bs then (refuseConfig s, 1)
    else if Config.cfgField bs 0 ≤ s.dev.cfgSeq then (refuseConfig s, 2)
    else ({ s with dev := applyConfig bs s.dev }, 0)

/-- CONFIG (R339). -/
def execConfig (s : State) : Out := .next (onMail 3 configBlock s)

/-- The quote of a completed launch whose manifest is kept. -/
def quoteOf (s : State) (l : Launch) (nonce : List Byte) : List Byte :=
  Config.quoteBytes ((upTo 0x2C).map (manifestReg s l)) nonce ((sha384 s.dev.image).flatMap fun w => toBytes 8 w.toNat) s.dev.cfgSeq

/-- DESIGN CHOICE (log 46). -/
def quoteLaunch (s : State) : State × Nat :=
  match mailBuffer s with
  | none => (s, 3)
  | some bs =>
    match launchFind s (Config.quoteField bs 0) (Config.quoteField bs 1) with
    | none => (s, 2)
    | some l =>
      if l.hashes.isEmpty || !s.dev.attKey then (s, 2)
      else
        let q := (quoteOf s l (Config.quoteNonce bs)).take s.dev.mblen.toNat
        ({ s with host := csets zeros s.host s.dev.mbaddr.toNat q }, 0)

/-- QUOTE (R337). -/
def execQuote (s : State) : Out := .next (onMail 4 quoteLaunch s)

/-- A command has completed with a STATUS. -/
def endMail (r : Nat) (s : State) : State := raisePf 1 { s with dev := { s.dev with mbbusy := false, mbstatus := r, mbresult := none } }

/-- MAILBOX_COMPLETION (R338): a LOAD runs its image, and completes, once the resets of every function have. -/
def execMailboxCompletion (s : State) : Out :=
  .next (match s.dev.mbresult with
    | none => s
    | some r =>
      if s.dev.mbcmd = 1 then
        if (upTo 64).any fun f => (fnOf s f).flr then s else endMail (runImage s).2 (runImage s).1
      else endMail r s)

/-- The sensors of a set, in the order of Table 19.7. -/
def sensorsOf (set : Nat) : List Nat := (upTo 5).filter (bit set)

/-- SECURITY_ALARM (R340, R341): the sensors that strike at once, bit k for sensor k of Table 19.7, naming tenants or none.
DEDUCED (log 49). -/
def execSecurityAlarm (sensors : Nat) (tenants : List Nat) (s : State) : Out :=
  .next (if (sensorsOf sensors).isEmpty then s else strike (sensorsOf sensors) tenants s)

/-! ### Debug -/

/-- A strand of a halted gang goes on from its stopped state (R30, R323). -/
def unhalt (fn : Nat) (st : Strand) : Strand :=
  if st.fn == fn && (st.status == .halted || st.status == .halting) then { st with status := if st.susp.isSome then .suspended else .run } else st

/-- An answer TERMINAL that came during a halt is taken when it ends. -/
def takeAnswer (s : State) : State :=
  match s.me.susp with
  | some x => if x.answered && s.me.status == .suspended then terminate x s else s
  | none => s

/-- DEBUG_RESUME (R323). -/
def debugResume (fn : Nat) (s : State) : State :=
  let s := updDebug s fn fun d => { d with halted := false }
  let halted := (s.me :: s.others).filter fun st => st.fn == fn && (st.status == .halted || st.status == .halting)
  let s := { s with
    gangs := s.gangs.map fun g => if g.fn == fn then { g with halted := false } else g
    me := unhalt fn s.me
    others := s.others.map (unhalt fn) }
  halted.foldl (fun s st => onBy (isStrand st.fn st.lseq st.gang st.lsn) takeAnswer s) s

/-- DEBUG_RESUME (R323): releases every halted gang of the function. -/
def execDebugResume (fn : Nat) (s : State) : Out := onBar s (if fn < 64 then debugResume fn s else s)

/-- SMPLOST_READ (R321, Table 0.2): the read clears the count. -/
def execSmplostRead (fn : Nat) (s : State) : Out :=
  onBar s (if fn < 64 then updDebug s fn fun d => { d with smplost := 0 } else s)

/-- TRSIG_WRITE (R327): a write by the issuing strand; that of a strand not traced is ignored. -/
def execTrsigWrite (v : Word) (s : State) : Out := .next (if s.me.status = .run then signal v s else s)

/-- An open session ends with reason 3 (R326). -/
def clearTren (fn : Nat) (s : State) : State :=
  let at' := match tracedStrand s fn with
    | some st => (st.pc, vcpOf st)
    | none => (0, 0)
  let s := traceClock fn at'.1 at'.2 s
  let s := if (debugOf s fn).sessionOpen then traceEnd fn at'.1 at'.2 3 s else s
  updDebug s fn fun d => { d with tren := false }

/-- TREN_CLEAR (R326). -/
def execTrenClear (fn : Nat) (s : State) : Out := onBar s (if fn < 64 then clearTren fn s else s)

end Sys2Proof.Machine
end

