-- ==== Sys2Proof/Machine/HostRegs.lean ====
section
/-! DEFINITION. Register writes over CXL.io (R330, R7, R5): Tables 17.1, 17.2, 18.4, 19.1 to 19.3, 19.5 and 19.10, FRPTR
(R331), PWRSET (R343) and the mailbox (R338). A register that has a row of its own in the table of operations has that
row's effect here too. -/

namespace Sys2Proof.Machine

def orSame (s : State) : Option State → State
  | some t => t
  | none => s

def setIf (ok : Bool) (t : State) : Option State := if ok then some t else none

def aligned (n : Nat) (v : Word) : Bool := v.toNat % n == 0

/-- A HEAD beyond TAIL, both counting modulo 2^32 (R331). DEDUCED (log 45). -/
def beyond (head tail : BitVec 32) : Bool := decide (0 < ahead head tail ∧ ahead head tail < 2 ^ 31)

def low32 (v : Word) : BitVec 32 := v.setWidth 32

/-! ### A function's BAR: launch queues (Table 17.2) -/

/-- LQBASE: only while EN = 0, and ignored while BUSY = 1 (R312). -/
def writeLqbase (fn q : Nat) (v : Word) (s : State) : Option State :=
  let x := queueOf s fn q
  if x.busy then some s else setIf (!x.en && hostAddr 4096 v) (updQueue fn q (fun x => { x with base := v }) s)

/-- LQCTL: a 1 in RESET starts a reset and its other fields are ignored; ignored while BUSY = 1. LOG2N keeps its value while
EN = 1. -/
def writeLqctl (fn q : Nat) (v : Word) (s : State) : Option State :=
  let x := queueOf s fn q
  let n := field v 3 0
  if x.busy then some s
  else if bit v.toNat 8 then some (resetLaunches fn q (updQueue fn q (fun x => { x with busy := true }) s))
  else setIf (decide (4 ≤ n ∧ n ≤ 12) && (!x.en || n == x.log2n))
    (updQueue fn q (fun x => { x with ie := bit v.toNat 5, en := bit v.toNat 4, log2n := n }) s)

/-- Register r of queue q; LQHEAD is RO. -/
def writeQueue (fn q r : Nat) (v : Word) (s : State) : Option State :=
  match r with
  | 0x00 => writeLqbase fn q v s
  | 0x08 => writeLqctl fn q v s
  | 0x10 => some (updQueue fn q (ringBell (low32 v)) s)
  | _ => some s

/-! ### A function's BAR: the debug block (Table 18.4) -/

def setBrk (fn : Nat) (b : Fin 4) (v : Word) (s : State) : Option State :=
  setIf (field v 1 0 != 3) (updDebug s fn fun d => { d with brk := d.brk.set b v })

/-- DBGCTL: RESUME acts, ROUTE takes its value. -/
def writeDbgctl (fn : Nat) (v : Word) (s : State) : State :=
  let s := updDebug s fn fun d => { d with route := bit v.toNat 0 }
  if bit v.toNat 8 then debugResume fn s else s

def writeSmpctl (fn : Nat) (v : Word) (s : State) : Option State :=
  let n := field v 4 0
  setIf (field v 63 32 != 0 && decide (4 ≤ n ∧ n ≤ 16))
    (updDebug s fn fun d => { d with period := field v 63 32, smpen := bit v.toNat 7, smplog := n })

/-- TRCTL: a write that clears TREN ends an open session (R326). -/
def writeTrctl (fn : Nat) (v : Word) (s : State) : Option State :=
  let n := field v 4 0
  let on := bit v.toNat 8
  let set := fun (s : State) => updDebug s fn fun d => { d with
    stopk := field v 31 28, startk := field v 27 24, tren := on, trlog := n }
  if !decide (field v 31 28 ≤ 3 ∧ field v 27 24 ≤ 3 ∧ 4 ≤ n ∧ n ≤ 20) then none
  else if (debugOf s fn).tren && !on then some (set (clearTren fn s))
  else some (set s)

/-- Register r of the debug block; those not listed are RO or RC. -/
def writeDebug (fn r : Nat) (v : Word) (s : State) : Option State :=
  let d := (fnOf s fn).debug
  match r with
  | 0x00 => setBrk fn 0 v s
  | 0x08 => setBrk fn 1 v s
  | 0x10 => setBrk fn 2 v s
  | 0x18 => setBrk fn 3 v s
  | 0x20 => some (writeDbgctl fn v s)
  | 0x40 => setIf (!d.smpen && hostAddr 4096 v) (updDebug s fn fun d => { d with smpbase := v })
  | 0x48 => writeSmpctl fn v s
  | 0x50 => some (updDebug s fn fun d => { d with smphead := low32 v })
  | 0x60 => setIf (!d.tren && aligned 4096 v) (updDebug s fn fun d => { d with trbase := v })
  | 0x68 => writeTrctl fn v s
  | 0x70 => some (updDebug s fn fun d => { d with trval0 := v })
  | 0x78 => some (updDebug s fn fun d => { d with trval1 := v })
  | 0x80 => some (updDebug s fn fun d => { d with trfilt := v &&& ~~~0xC0 })
  | 0x88 => some (updDebug s fn fun d => { d with trhead := low32 v })
  | _ => some s

/-! ### A function's BAR -/

/-- FRPTR: HEAD. -/
def writeFrptr (fn : Nat) (v : Word) (s : State) : Option State :=
  setIf (!beyond (low32 v) (fnOf s fn).frtail) (updFn s fn fun f => { f with frhead := low32 v })

/-- A write at an offset of a function's BAR (R301, R321, R330, R331): none where it is refused. -/
def writeVf (fn off : Nat) (v : Word) (s : State) : Option State :=
  if 0x1000 ≤ off ∧ off < 0x1100 then writeQueue fn ((off - 0x1000) / 0x20) (off % 0x20) v s
  else if 0x3000 ≤ off ∧ off < 0x3098 then writeDebug fn (off - 0x3000) v s
  else
    match off with
    | 0x2000 => some (updFn s fn fun f => { f with inv1 := v })
    | 0x2008 => some (startInval ⟨fn, 1, (fnOf s fn).inv1.toNat / 4096, v.toNat⟩ s)
    | 0x2010 => some (answer fn v s)
    | 0x2018 => writeFrptr fn v s
    | _ => some s

/-! ### The physical function's BAR: function configuration (Table 17.1) -/

/-- Two pools on one stack overlap. -/
def poolsMeet (a b : Nat × Nat) : Bool := regionsMeet a.1 a.2 b.1 b.2

/-- PWPOOL of a stack: a pool beyond the 4,096 identifiers, or one that overlaps another, is refused, and PFERR.MAP set. -/
def writePool (fn stack : Nat) (v : Word) (s : State) : Option State :=
  let p := (field v 11 0, field v 28 16)
  if decide (4096 < p.1 + p.2) || (upTo 64).any fun f => f != fn && poolsMeet p (poolOf (fnOf s f) stack) then
    some { s with dev := { s.dev with pferr := s.dev.pferr ||| 1 } }
  else some (updFn s fn fun f => { f with pools := tset f.pools stack p })

def writeTimes (fn : Nat) (v : Word) (s : State) : Option State :=
  setIf (field v 63 48 != 0 && field v 47 32 != 0 && field v 31 16 != 0 && decide (16 ≤ field v 15 0))
    (updFn s fn fun f => { f with
      grace := field v 63 48, pwrint := field v 47 32, slice := field v 31 16, quantum := field v 15 0 })

def writeFrsize (fn : Nat) (v : Word) (s : State) : Option State :=
  let n := field v 4 0
  setIf (field v 15 5 == 0 && (n == 0 || decide (4 ≤ n ∧ n ≤ 16))) (updFn s fn fun f => { f with frsize := n })

/-- Register r of function fn's block; those not listed are RO. -/
def writeConfig (fn r : Nat) (v : Word) (s : State) : Option State :=
  match r with
  | 0x00 => some (remap fn { fnOf s fn with map0 := v } s)
  | 0x08 => some (remap fn { fnOf s fn with map1 := v } s)
  | 0x10 => some (remap fn { fnOf s fn with tenant := field v 15 0 } s)
  | 0x18 => some (updFn s fn fun f => { f with ebu := field v 63 32, tbu := field v 31 0 })
  | 0x20 => setIf (hostAddr 4 v) (updFn s fn fun f => { f with thandler := v })
  | 0x28 => writeTimes fn v s
  | 0x70 => setIf (hostAddr 4096 v) (updFn s fn fun f => { f with frbase := v })
  | 0x78 => writeFrsize fn v s
  | r => if 0x30 ≤ r ∧ r < 0x70 ∧ r % 8 = 0 then writePool fn ((r - 0x30) / 8) v s else some s

/-! ### The physical function's BAR: translation contexts (R291, R299, R330) -/

/-- A change to a context discards the function's cached entries. -/
def changeContext (fn : Nat) (g : Func → Func) (s : State) : State :=
  let s := updFn s fn g
  { s with dev := { s.dev with tlb := s.dev.tlb.filter fun e => e.fn != fn } }

/-- A root's bits [11:1] must be zero: it is a multiple of 4,096. DESIGN CHOICE (log 33). -/
def rootOk (v : Word) : Bool := field v 11 1 == 0

def writeContext (fn r : Nat) (v : Word) (s : State) : Option State :=
  match r with
  | 0x00 => some (changeContext fn (fun f => { f with pasid := field v 19 0 }) s)
  | 0x08 => setIf (rootOk v) (changeContext fn (fun f => { f with s1 := v }) s)
  | 0x10 => setIf (rootOk v) (changeContext fn (fun f => { f with s2 := v }) s)
  | 0x18 => some (updFn s fn fun f => { f with inv2 := v })
  | 0x20 => some (startInval ⟨fn, 2, (fnOf s fn).inv2.toNat / 4096, v.toNat⟩ s)
  | _ => some s

/-! ### The physical function's BAR: peer windows (Table 19.5, R334) -/

def tenantBusy (s : State) (t : Nat) : Bool := (busyTenants s).contains t

/-- A write that would leave window n as w: it sets PFERR.WIN where a limit is broken, and PFERR.BUSY where a launch of the old
or the new TENANT is in progress. -/
def writeWindow (n : Nat) (ok : Bool) (w : Window) (s : State) : State :=
  let busy := tenantBusy s (tget Window.reset s.dev.windows n).tenant || tenantBusy s w.tenant
  if !ok || busy then
    { s with dev := { s.dev with pferr := s.dev.pferr ||| BitVec.ofNat 4 (8 * b2n (!ok) + 2 * b2n busy) } }
  else { s with dev := { s.dev with windows := tset s.dev.windows n w } }

def writeWinReg (n r : Nat) (v : Word) (s : State) : State :=
  let w := tget Window.reset s.dev.windows n
  match r with
  | 0x00 => writeWindow n true { w with
      valid := bit v.toNat 63, links := BitVec.ofNat 12 (field v 59 48), pkg := BitVec.ofNat 8 (field v 47 40),
      rvf := BitVec.ofNat 6 (field v 37 32), tenant := field v 31 16 } s
  | 0x08 => writeWindow n (aligned (2 ^ 21) v && decide (v.toNat < 2 ^ 47)) { w with rbase := v } s
  | 0x10 => writeWindow n true { w with size := field v 21 0 } s
  | _ => s

/-! ### The physical function's BAR: fault rings (Table 19.10) and the rest -/

/-- Register r of a fault ring. While EN = 1 a write of +0x08 that keeps LOG2N is taken, and one that changes it is refused whole.
DESIGN CHOICE (log 71). -/
def writeRing (r : Nat) (v : Word) (p : PRing) : Option PRing :=
  let n := field v 4 0
  match r with
  | 0x00 => if p.en || !hostAddr 4096 v then none else some { p with base := v }
  | 0x08 =>
    if decide (4 ≤ n ∧ n ≤ 16) && (!p.en || n == p.log2n) then some { p with en := bit v.toNat 5, log2n := n } else none
  | 0x10 => if beyond (low32 v) p.tail then none else some { p with head := low32 v }
  | _ => some p

/-- PWRSET.LIMIT (R343). -/
def writePwrset (v : Word) (s : State) : Option State :=
  let n := field v 11 0
  setIf (decide (s.dev.lowLimit ≤ n ∧ n ≤ 2200) && n % 25 == 0) { s with dev := { s.dev with pwrLimit := n } }

/-- MBCMD: ignored while BUSY = 1; a command that Table 19.6 does not give is refused. -/
def writeMbcmd (v : Word) (s : State) : Option State :=
  if s.dev.mbbusy then some s
  else
    match v.toNat with
    | 1 => some (onMail 1 loadImage s)
    | 2 => some (onMail 2 commitImage s)
    | 3 => some (onMail 3 configBlock s)
    | 4 => some (onMail 4 quoteLaunch s)
    | _ => none

/-- The single registers of the physical function's BAR; those not listed are RO. -/
def writePfReg (off : Nat) (v : Word) (s : State) : Option State :=
  match off with
  | 0x100 => some { s with dev := { s.dev with pferr := s.dev.pferr &&& ~~~v.setWidth 4 } }
  | 0x200 => writePwrset v s
  | 0x300 => some (answer retryRing v s)
  | 0x308 => some (answer termRing v s)
  | 0x1000 => writeMbcmd v s
  | 0x1010 => some { s with dev := { s.dev with mbaddr := v } }
  | 0x1018 => some { s with dev := { s.dev with mblen := v } }
  | _ => some s

/-- A write at an offset of the physical function's BAR (Table 19.1): none where it is refused. -/
def writePf (off : Nat) (v : Word) (s : State) : Option State :=
  if 0x400 ≤ off ∧ off < 0x418 then
    (writeRing (off - 0x400) v s.dev.retry).map fun p => { s with dev := { s.dev with retry := p } }
  else if 0x420 ≤ off ∧ off < 0x438 then
    (writeRing (off - 0x420) v s.dev.term).map fun p => { s with dev := { s.dev with term := p } }
  else if 0x20000 ≤ off ∧ off < 0x20200 then some (writeWinReg ((off - 0x20000) / 0x20) (off % 0x20) v s)
  else if 0x80000 ≤ off ∧ off < 0x81000 then writeContext ((off - 0x80000) / 0x40) (off % 0x40) v s
  else if 0x100000 ≤ off ∧ off < 0x104000 then writeConfig ((off - 0x100000) / 0x100) (off % 0x100) v s
  else writePfReg off v s

/-- The mailbox, which is served at all times (R338). -/
def isMailbox (fn off : Nat) : Bool := fn == 64 && decide (0x1000 ≤ off ∧ off < 0x1020)

/-- REGISTER_WRITE (R7, R330): fn 0 to 63 names a virtual function's BAR, 64 the physical function's. A refused write leaves the
whole register as it was. While the boot ROM runs, and after an alarm of level 3, the mailbox alone is served (R335, R341). -/
def execRegisterWrite (fn off : Nat) (v : Word) (s : State) : Out :=
  .next (
    if served s || isMailbox fn off then
      orSame s (if fn < 64 then writeVf fn off v s else if fn = 64 then writePf off v s else some s)
    else s)

/-! ### Reads over CXL.io (R330)

A read returns what these give in the state in which it is made, in which every earlier write has taken effect (log 64). -/

/-- Fields of a register, each with its lowest bit. -/
def regWord (fs : List (Nat × Nat)) : Word := word (fs.foldl (fun a f => a + f.2 * 2 ^ f.1) 0)

/-- The registers of a launch queue (Table 17.2). -/
def readQueue (s : State) (fn q r : Nat) : Word :=
  let x := queueOf s fn q
  match r with
  | 0x00 => x.base
  | 0x08 => regWord [(7, b2n x.busy), (6, b2n x.err), (5, b2n x.ie), (4, b2n x.en), (0, x.log2n)]
  | 0x10 => x.tail.setWidth 64
  | 0x18 => x.head.setWidth 64
  | _ => 0

/-- The debug block (Table 18.4). -/
def readDebug (s : State) (fn r : Nat) : Word :=
  let d := debugOf s fn
  match r with
  | 0x00 => d.brk[0]
  | 0x08 => d.brk[1]
  | 0x10 => d.brk[2]
  | 0x18 => d.brk[3]
  | 0x20 => regWord [(0, b2n d.route)]
  | 0x28 => regWord [(63, b2n d.halted), (32, d.hgang), (0, d.hlseq)]
  | 0x30 => d.dpc
  | 0x38 => d.dvcp
  | 0x40 => d.smpbase
  | 0x48 => regWord [(32, d.period), (7, b2n d.smpen), (0, d.smplog)]
  | 0x50 => regWord [(32, d.smptail.toNat), (0, d.smphead.toNat)]
  | 0x58 => d.smplost
  | 0x60 => d.trbase
  | 0x68 => regWord [(28, d.stopk), (24, d.startk), (8, b2n d.tren), (0, d.trlog)]
  | 0x70 => d.trval0
  | 0x78 => d.trval1
  | 0x80 => d.trfilt
  | 0x88 => regWord [(32, d.trtail.toNat), (0, d.trhead.toNat)]
  | 0x90 => regWord [(0, b2n d.sessionOpen)]
  | _ => 0

/-- A function's BAR, with FRPTR (R331). -/
def readVf (s : State) (fn off : Nat) : Word :=
  if 0x1000 ≤ off ∧ off < 0x1100 then readQueue s fn ((off - 0x1000) / 0x20) (off % 0x20)
  else if 0x3000 ≤ off ∧ off < 0x3098 then readDebug s fn (off - 0x3000)
  else
    match off with
    | 0x2000 => (fnOf s fn).inv1
    | 0x2018 => regWord [(32, (fnOf s fn).frtail.toNat), (0, (fnOf s fn).frhead.toNat)]
    | _ => 0

/-- A function's configuration (Table 17.1): SCRUB and ACTIVE say what runs. -/
def readConfig (s : State) (fn r : Nat) : Word :=
  let f := fnOf s fn
  match r with
  | 0x00 => f.map0
  | 0x08 => f.map1
  | 0x10 => word f.tenant
  | 0x18 => regWord [(32, f.ebu), (0, f.tbu)]
  | 0x20 => f.thandler
  | 0x28 => regWord [(48, f.grace), (32, f.pwrint), (16, f.slice), (0, f.quantum)]
  | 0x70 => f.frbase
  | 0x78 => word f.frsize
  | 0x80 => regWord [(1, b2n ((partGroups f).any fun g => thas s.dev.scrubbing g)), (0, b2n (hasLaunch s fn))]
  | r =>
    if 0x30 ≤ r ∧ r < 0x70 ∧ r % 8 = 0 then
      let p := poolOf f ((r - 0x30) / 8)
      regWord [(16, p.2), (0, p.1)]
    else 0

/-- A translation context (Table 19.1). -/
def readContext (s : State) (fn r : Nat) : Word :=
  match r with
  | 0x00 => word (fnOf s fn).pasid
  | 0x08 => (fnOf s fn).s1
  | 0x10 => (fnOf s fn).s2
  | 0x18 => (fnOf s fn).inv2
  | _ => 0

/-- A peer window (Table 19.5). -/
def readWindow (s : State) (n r : Nat) : Word :=
  let w := tget Window.reset s.dev.windows n
  match r with
  | 0x00 => regWord [(63, b2n w.valid), (48, w.links.toNat), (40, w.pkg.toNat), (32, w.rvf.toNat), (16, w.tenant)]
  | 0x08 => w.rbase
  | 0x10 => word w.size
  | _ => 0

/-- A fault ring of the physical function (Table 19.10). -/
def readRing (p : PRing) (r : Nat) : Word :=
  match r with
  | 0x00 => p.base
  | 0x08 => regWord [(5, b2n p.en), (0, p.log2n)]
  | 0x10 => regWord [(32, p.tail.toNat), (0, p.head.toNat)]
  | _ => 0

/-- DEVSTAT (Table 19.2), PFERR (Table 19.3), PWRSET and PWRSTAT (R343), and the mailbox (R338). -/
def readPfReg (s : State) (off : Nat) : Word :=
  match off with
  | 0x000 => regWord [(6, s.dev.alarm), (5, b2n s.dev.lock), (0, b2n s.dev.fw)]
  | 0x100 => s.dev.pferr.setWidth 64
  | 0x200 => word s.dev.pwrLimit
  | 0x208 => regWord [(16, s.dev.pwrReason.toNat), (0, (Config.powerAvg s.traceT).toNat)]
  | 0x1000 => word s.dev.mbcmd
  | 0x1008 => regWord [(8, s.dev.mbstatus), (0, b2n s.dev.mbbusy)]
  | 0x1010 => s.dev.mbaddr
  | 0x1018 => s.dev.mblen
  | _ => 0

/-- The physical function's BAR (Table 19.1). -/
def readPf (s : State) (off : Nat) : Word :=
  if 0x400 ≤ off ∧ off < 0x418 then readRing s.dev.retry (off - 0x400)
  else if 0x420 ≤ off ∧ off < 0x438 then readRing s.dev.term (off - 0x420)
  else if 0x20000 ≤ off ∧ off < 0x20200 then readWindow s ((off - 0x20000) / 0x20) (off % 0x20)
  else if 0x80000 ≤ off ∧ off < 0x81000 then readContext s ((off - 0x80000) / 0x40) (off % 0x40)
  else if 0x100000 ≤ off ∧ off < 0x104000 then readConfig s ((off - 0x100000) / 0x100) (off % 0x100)
  else readPfReg s off

/-- What a read of a BAR returns: fn 0 to 63 names a virtual function's, 64 the physical function's; none where it is not served. -/
def readBar (s : State) (fn off : Nat) : Option Word :=
  if served s || isMailbox fn off then some (if fn < 64 then readVf s fn off else if fn = 64 then readPf s off else 0) else none

end Sys2Proof.Machine
end

