-- ==== Sys2Proof/Machine/Scalar.lean ====
section
/-! DEFINITION. Scalar integer, bit, immediate and address instructions (R104 to R107). -/

namespace Sys2Proof.Machine

/-- DIV: the quotient truncated toward zero, with the cases of Table 5.4. -/
def divWord (a b : Word) : Word := if b = 0 then BitVec.allOnes 64 else BitVec.ofInt 64 (a.toInt.tdiv b.toInt)

def divuWord (a b : Word) : Word := if b = 0 then BitVec.allOnes 64 else word (a.toNat / b.toNat)

/-- REM: a − b × quotient, with the cases of Table 5.4. -/
def remWord (a b : Word) : Word := if b = 0 then a else BitVec.ofInt 64 (a.toInt.tmod b.toInt)

def remuWord (a b : Word) : Word := if b = 0 then a else word (a.toNat % b.toNat)

/-- Bits [127:64] of the signed product. -/
def mulhWord (a b : Word) : Word := BitVec.ofInt 64 (a.toInt * b.toInt / 2 ^ 64)

def mulhuWord (a b : Word) : Word := word (a.toNat * b.toNat / 2 ^ 64)

/-- The shift amount b[5:0]. -/
def shamt (b : Word) : Nat := field b 5 0

def truth (p : Bool) : Word := if p then 1 else 0

/-- The field position and length that b gives BFX and BFI: b[5:0] and min(b[14:8], 64). -/
def bfPos (b : Word) : Nat := field b 5 0

def bfLen (b : Word) : Nat := min (field b 14 8) 64

def bfxWord (a b : Word) : Word := word (a.toNat / 2 ^ bfPos b % 2 ^ bfLen b)

/-- The bits that BFI replaces: those shifted past bit 63 are dropped. -/
def bfMask (b : Word) : Word := word ((2 ^ bfLen b - 1) * 2 ^ bfPos b)

def bfiWord (d a b : Word) : Word := (d &&& ~~~(bfMask b)) ||| ((a <<< bfPos b) &&& bfMask b)

/-- The 128-bit value with a its high half, shifted right (R105). -/
def fshrWord (a b : Word) (n : Nat) : Word := word ((a.toNat * 2 ^ 64 + b.toNat) / 2 ^ n)

/-- ADD (R104, Table 5.3). -/
def execAdd (d a b : BitVec 5) (s : State) : Out := alu d (reg s a + reg s b) s

/-- SUB (R104, Table 5.3). -/
def execSub (d a b : BitVec 5) (s : State) : Out := alu d (reg s a - reg s b) s

/-- AND (R104, Table 5.3). -/
def execAnd (d a b : BitVec 5) (s : State) : Out := alu d (reg s a &&& reg s b) s

/-- OR (R104, Table 5.3). -/
def execOr (d a b : BitVec 5) (s : State) : Out := alu d (reg s a ||| reg s b) s

/-- XOR (R104, Table 5.3). -/
def execXor (d a b : BitVec 5) (s : State) : Out := alu d (reg s a ^^^ reg s b) s

/-- SLL (R104, Table 5.3). -/
def execSll (d a b : BitVec 5) (s : State) : Out := alu d (reg s a <<< shamt (reg s b)) s

/-- SRL (R104, Table 5.3). -/
def execSrl (d a b : BitVec 5) (s : State) : Out := alu d (reg s a >>> shamt (reg s b)) s

/-- SRA (R104, Table 5.3). -/
def execSra (d a b : BitVec 5) (s : State) : Out := alu d ((reg s a).sshiftRight (shamt (reg s b))) s

/-- SLT (R104, Table 5.3). -/
def execSlt (d a b : BitVec 5) (s : State) : Out := alu d (truth ((reg s a).slt (reg s b))) s

/-- SLTU (R104, Table 5.3). -/
def execSltu (d a b : BitVec 5) (s : State) : Out := alu d (truth ((reg s a).ult (reg s b))) s

/-- MIN (R104, Table 5.3). -/
def execMin (d a b : BitVec 5) (s : State) : Out := alu d (if (reg s b).slt (reg s a) then reg s b else reg s a) s

/-- MAX (R104, Table 5.3). -/
def execMax (d a b : BitVec 5) (s : State) : Out := alu d (if (reg s a).slt (reg s b) then reg s b else reg s a) s

/-- MINU (R104, Table 5.3). -/
def execMinu (d a b : BitVec 5) (s : State) : Out := alu d (if (reg s b).ult (reg s a) then reg s b else reg s a) s

/-- MAXU (R104, Table 5.3). -/
def execMaxu (d a b : BitVec 5) (s : State) : Out := alu d (if (reg s a).ult (reg s b) then reg s b else reg s a) s

/-- MUL (R104, Table 5.3). -/
def execMul (d a b : BitVec 5) (s : State) : Out := alu d (reg s a * reg s b) s

/-- MULH (R104, Table 5.3). -/
def execMulh (d a b : BitVec 5) (s : State) : Out := alu d (mulhWord (reg s a) (reg s b)) s

/-- MULHU (R104, Table 5.3). -/
def execMulhu (d a b : BitVec 5) (s : State) : Out := alu d (mulhuWord (reg s a) (reg s b)) s

/-- DIV (R104, Table 5.3). -/
def execDiv (d a b : BitVec 5) (s : State) : Out := alu d (divWord (reg s a) (reg s b)) s

/-- DIVU (R104, Table 5.3). -/
def execDivu (d a b : BitVec 5) (s : State) : Out := alu d (divuWord (reg s a) (reg s b)) s

/-- REM (R104, Table 5.3). -/
def execRem (d a b : BitVec 5) (s : State) : Out := alu d (remWord (reg s a) (reg s b)) s

/-- REMU (R104, Table 5.3). -/
def execRemu (d a b : BitVec 5) (s : State) : Out := alu d (remuWord (reg s a) (reg s b)) s

/-- CLZ (R105). -/
def execClz (d a : BitVec 5) (s : State) : Out := alu d (word (leadZeros 64 (reg s a).toNat)) s

/-- CTZ (R105). -/
def execCtz (d a : BitVec 5) (s : State) : Out := alu d (word (trailZeros 64 (reg s a).toNat)) s

/-- POPC (R105). -/
def execPopc (d a : BitVec 5) (s : State) : Out := alu d (word (popCount 64 (reg s a).toNat)) s

/-- BFX (R105). -/
def execBfx (d a b : BitVec 5) (s : State) : Out := alu d (bfxWord (reg s a) (reg s b)) s

/-- BFI (R105): D is a third source. -/
def execBfi (d a b : BitVec 5) (s : State) : Out := alu d (bfiWord (reg s d) (reg s a) (reg s b)) s

/-- FSHR (R105). -/
def execFshr (d a b : BitVec 5) (n : BitVec 6) (s : State) : Out := alu d (fshrWord (reg s a) (reg s b) n.toNat) s

/-- ADDI (R106). -/
def execAddi (d a : BitVec 5) (i : BitVec 12) (s : State) : Out := alu d (reg s a + sext i) s

/-- ANDI (R106). -/
def execAndi (d a : BitVec 5) (i : BitVec 12) (s : State) : Out := alu d (reg s a &&& sext i) s

/-- ORI (R106). -/
def execOri (d a : BitVec 5) (i : BitVec 12) (s : State) : Out := alu d (reg s a ||| sext i) s

/-- XORI (R106). -/
def execXori (d a : BitVec 5) (i : BitVec 12) (s : State) : Out := alu d (reg s a ^^^ sext i) s

/-- SLTI (R106). -/
def execSlti (d a : BitVec 5) (i : BitVec 12) (s : State) : Out := alu d (truth ((reg s a).slt (sext i))) s

/-- SLLI (R106). -/
def execSlli (d a : BitVec 5) (n : BitVec 6) (s : State) : Out := alu d (reg s a <<< n.toNat) s

/-- SRLI (R106). -/
def execSrli (d a : BitVec 5) (n : BitVec 6) (s : State) : Out := alu d (reg s a >>> n.toNat) s

/-- SRAI (R106). -/
def execSrai (d a : BitVec 5) (n : BitVec 6) (s : State) : Out := alu d ((reg s a).sshiftRight n.toNat) s

/-- LUI (R107). -/
def execLui (d : BitVec 5) (i : BitVec 20) (s : State) : Out := alu d (sext i <<< 12) s

/-- AUIPC (R107). -/
def execAuipc (d : BitVec 5) (i : BitVec 20) (s : State) : Out := alu d (s.me.pc + (sext i <<< 12)) s

end Sys2Proof.Machine
end

