-- ==== Sys2Proof/Machine/Dispatch.lean ====
section
/-! DEFINITION. The meaning of every row of the table of operations and events. -/

namespace Sys2Proof.Machine

def exec (i : Instr) (s : State) : Host.Outcome State Fault Refusal :=
  match i with
  | .add d a b => Sys2Proof.Machine.execAdd d a b s
  | .sub d a b => Sys2Proof.Machine.execSub d a b s
  | .and d a b => Sys2Proof.Machine.execAnd d a b s
  | .or d a b => Sys2Proof.Machine.execOr d a b s
  | .xor d a b => Sys2Proof.Machine.execXor d a b s
  | .sll d a b => Sys2Proof.Machine.execSll d a b s
  | .srl d a b => Sys2Proof.Machine.execSrl d a b s
  | .sra d a b => Sys2Proof.Machine.execSra d a b s
  | .slt d a b => Sys2Proof.Machine.execSlt d a b s
  | .sltu d a b => Sys2Proof.Machine.execSltu d a b s
  | .min d a b => Sys2Proof.Machine.execMin d a b s
  | .max d a b => Sys2Proof.Machine.execMax d a b s
  | .minu d a b => Sys2Proof.Machine.execMinu d a b s
  | .maxu d a b => Sys2Proof.Machine.execMaxu d a b s
  | .mul d a b => Sys2Proof.Machine.execMul d a b s
  | .mulh d a b => Sys2Proof.Machine.execMulh d a b s
  | .mulhu d a b => Sys2Proof.Machine.execMulhu d a b s
  | .div d a b => Sys2Proof.Machine.execDiv d a b s
  | .divu d a b => Sys2Proof.Machine.execDivu d a b s
  | .rem d a b => Sys2Proof.Machine.execRem d a b s
  | .remu d a b => Sys2Proof.Machine.execRemu d a b s
  | .clz d a => Sys2Proof.Machine.execClz d a s
  | .ctz d a => Sys2Proof.Machine.execCtz d a s
  | .popc d a => Sys2Proof.Machine.execPopc d a s
  | .bfx d a b => Sys2Proof.Machine.execBfx d a b s
  | .bfi d a b => Sys2Proof.Machine.execBfi d a b s
  | .fshr d a b sh => Sys2Proof.Machine.execFshr d a b sh s
  | .addi d a im => Sys2Proof.Machine.execAddi d a im s
  | .andi d a im => Sys2Proof.Machine.execAndi d a im s
  | .ori d a im => Sys2Proof.Machine.execOri d a im s
  | .xori d a im => Sys2Proof.Machine.execXori d a im s
  | .slli d a sh => Sys2Proof.Machine.execSlli d a sh s
  | .srli d a sh => Sys2Proof.Machine.execSrli d a sh s
  | .srai d a sh => Sys2Proof.Machine.execSrai d a sh s
  | .slti d a im => Sys2Proof.Machine.execSlti d a im s
  | .lui d im => Sys2Proof.Machine.execLui d im s
  | .auipc d im => Sys2Proof.Machine.execAuipc d im s
  | .ld d a im w => Sys2Proof.Machine.execLd d a im w s
  | .st a b h w l => Sys2Proof.Machine.execSt a b h w l s
  | .beq a b o => Sys2Proof.Machine.execBeq a b o s
  | .bne a b o => Sys2Proof.Machine.execBne a b o s
  | .blt a b o => Sys2Proof.Machine.execBlt a b o s
  | .bge a b o => Sys2Proof.Machine.execBge a b o s
  | .bltu a b o => Sys2Proof.Machine.execBltu a b o s
  | .bgeu a b o => Sys2Proof.Machine.execBgeu a b o s
  | .jal d o => Sys2Proof.Machine.execJal d o s
  | .jalr d a im => Sys2Proof.Machine.execJalr d a im s
  | .amo d a b sh o r z => Sys2Proof.Machine.execAmo d a b sh o r z s
  | .cas d a b sh r z => Sys2Proof.Machine.execCas d a b sh r z s
  | .sysrd d n => Sys2Proof.Machine.execSysrd d n s
  | .syswr a n => Sys2Proof.Machine.execSyswr a n s
  | .sysset a n => Sys2Proof.Machine.execSysset a n s
  | .sysclr a n => Sys2Proof.Machine.execSysclr a n s
  | .trap t => Sys2Proof.Machine.execTrap t s
  | .eret => Sys2Proof.Machine.execEret s
  | .endStrand => Sys2Proof.Machine.execEndStrand s
  | .yield => Sys2Proof.Machine.execYield s
  | .bkpt t => Sys2Proof.Machine.execBkpt t s
  | .wfe => Sys2Proof.Machine.execWfe s
  | .vsave a => Sys2Proof.Machine.execVsave a s
  | .vrest a => Sys2Proof.Machine.execVrest a s
  | .vsetl d a im => Sys2Proof.Machine.execVsetl d a im s
  | .vcfg d a => Sys2Proof.Machine.execVcfg d a s
  | .vregs n => Sys2Proof.Machine.execVregs n s
  | .mstart d a p => Sys2Proof.Machine.execMstart d a p s
  | .mstop => Sys2Proof.Machine.execMstop s
  | .vadd d a b o => Sys2Proof.Machine.execVadd d a b o s
  | .vsub d a b o => Sys2Proof.Machine.execVsub d a b o s
  | .vrsub d a b o => Sys2Proof.Machine.execVrsub d a b o s
  | .vmin d a b o => Sys2Proof.Machine.execVmin d a b o s
  | .vmax d a b o => Sys2Proof.Machine.execVmax d a b o s
  | .vand d a b o => Sys2Proof.Machine.execVand d a b o s
  | .vor d a b o => Sys2Proof.Machine.execVor d a b o s
  | .vxor d a b o => Sys2Proof.Machine.execVxor d a b o s
  | .vaddVs d a b o => Sys2Proof.Machine.execVaddVs d a b o s
  | .vsubVs d a b o => Sys2Proof.Machine.execVsubVs d a b o s
  | .vrsubVs d a b o => Sys2Proof.Machine.execVrsubVs d a b o s
  | .vminVs d a b o => Sys2Proof.Machine.execVminVs d a b o s
  | .vmaxVs d a b o => Sys2Proof.Machine.execVmaxVs d a b o s
  | .vandVs d a b o => Sys2Proof.Machine.execVandVs d a b o s
  | .vorVs d a b o => Sys2Proof.Machine.execVorVs d a b o s
  | .vxorVs d a b o => Sys2Proof.Machine.execVxorVs d a b o s
  | .vaddVi d b im o => Sys2Proof.Machine.execVaddVi d b im o s
  | .vsubVi d b im o => Sys2Proof.Machine.execVsubVi d b im o s
  | .vrsubVi d b im o => Sys2Proof.Machine.execVrsubVi d b im o s
  | .vminVi d b im o => Sys2Proof.Machine.execVminVi d b im o s
  | .vmaxVi d b im o => Sys2Proof.Machine.execVmaxVi d b im o s
  | .vandVi d b im o => Sys2Proof.Machine.execVandVi d b im o s
  | .vorVi d b im o => Sys2Proof.Machine.execVorVi d b im o s
  | .vxorVi d b im o => Sys2Proof.Machine.execVxorVi d b im o s
  | .vmul d a b o => Sys2Proof.Machine.execVmul d a b o s
  | .vmulh d a b o => Sys2Proof.Machine.execVmulh d a b o s
  | .vmacc d a b o => Sys2Proof.Machine.execVmacc d a b o s
  | .vnmacc d a b o => Sys2Proof.Machine.execVnmacc d a b o s
  | .vdiv d a b o => Sys2Proof.Machine.execVdiv d a b o s
  | .vrem d a b o => Sys2Proof.Machine.execVrem d a b o s
  | .vsll d a b o => Sys2Proof.Machine.execVsll d a b o s
  | .vsrl d a b o => Sys2Proof.Machine.execVsrl d a b o s
  | .vmulVs d a b o => Sys2Proof.Machine.execVmulVs d a b o s
  | .vmulhVs d a b o => Sys2Proof.Machine.execVmulhVs d a b o s
  | .vmaccVs d a b o => Sys2Proof.Machine.execVmaccVs d a b o s
  | .vnmaccVs d a b o => Sys2Proof.Machine.execVnmaccVs d a b o s
  | .vdivVs d a b o => Sys2Proof.Machine.execVdivVs d a b o s
  | .vremVs d a b o => Sys2Proof.Machine.execVremVs d a b o s
  | .vsllVs d a b o => Sys2Proof.Machine.execVsllVs d a b o s
  | .vsrlVs d a b o => Sys2Proof.Machine.execVsrlVs d a b o s
  | .vsllVi d b im o => Sys2Proof.Machine.execVsllVi d b im o s
  | .vsrlVi d b im o => Sys2Proof.Machine.execVsrlVi d b im o s
  | .vsraVi d b im o => Sys2Proof.Machine.execVsraVi d b im o s
  | .vsra d a b o => Sys2Proof.Machine.execVsra d a b o s
  | .vclz d b o => Sys2Proof.Machine.execVclz d b o s
  | .vpopc d b o => Sys2Proof.Machine.execVpopc d b o s
  | .vbfx d a b o => Sys2Proof.Machine.execVbfx d a b o s
  | .vfshr d a b o => Sys2Proof.Machine.execVfshr d a b o s
  | .vsqrt d b o => Sys2Proof.Machine.execVsqrt d b o s
  | .vabs d b o => Sys2Proof.Machine.execVabs d b o s
  | .vneg d b o => Sys2Proof.Machine.execVneg d b o s
  | .vsraVs d a b o => Sys2Proof.Machine.execVsraVs d a b o s
  | .vbfxVs d a b o => Sys2Proof.Machine.execVbfxVs d a b o s
  | .vfshrVs d a b o => Sys2Proof.Machine.execVfshrVs d a b o s
  | .vcmp d a b q o => Sys2Proof.Machine.execVcmp d a b q o s
  | .vcmpVs d a b q o => Sys2Proof.Machine.execVcmpVs d a b q o s
  | .vcmpVi d b q im o => Sys2Proof.Machine.execVcmpVi d b q im o s
  | .vsel d a b o => Sys2Proof.Machine.execVsel d a b o s
  | .vmv d b o => Sys2Proof.Machine.execVmv d b o s
  | .vclass d b o => Sys2Proof.Machine.execVclass d b o s
  | .vrecip d b o => Sys2Proof.Machine.execVrecip d b o s
  | .vidx d m => Sys2Proof.Machine.execVidx d m s
  | .vselVs d a b o => Sys2Proof.Machine.execVselVs d a b o s
  | .vmvVs d a m => Sys2Proof.Machine.execVmvVs d a m s
  | .mand d a b => Sys2Proof.Machine.execMand d a b s
  | .mor d a b => Sys2Proof.Machine.execMor d a b s
  | .mxor d a b => Sys2Proof.Machine.execMxor d a b s
  | .mandn d a b => Sys2Proof.Machine.execMandn d a b s
  | .mnot d a => Sys2Proof.Machine.execMnot d a s
  | .mffs d a => Sys2Proof.Machine.execMffs d a s
  | .mpopc d a => Sys2Proof.Machine.execMpopc d a s
  | .vcvtw d b v o => Sys2Proof.Machine.execVcvtw d b v o s
  | .vcvtn d b v o => Sys2Proof.Machine.execVcvtn d b v o s
  | .vcvti d b v o => Sys2Proof.Machine.execVcvti d b v o s
  | .vcvtf4 d b v o => Sys2Proof.Machine.execVcvtf4 d b v o s
  | .vcvtdy d b v o => Sys2Proof.Machine.execVcvtdy d b v o s
  | .kset d b k => Sys2Proof.Machine.execKset d b k s
  | .kmv d a b m => Sys2Proof.Machine.execKmv d a b m s
  | .kcalc d a b m k => Sys2Proof.Machine.execKcalc d a b m k s
  | .vslup d a b f m k => Sys2Proof.Machine.execVslup d a b f m k s
  | .vsldn d a b f m k => Sys2Proof.Machine.execVsldn d a b f m k s
  | .vperm d a b m k j => Sys2Proof.Machine.execVperm d a b m k j s
  | .vcmpr d b m k => Sys2Proof.Machine.execVcmpr d b m k s
  | .vexpd d b m k => Sys2Proof.Machine.execVexpd d b m k s
  | .viota d b m => Sys2Proof.Machine.execViota d b m s
  | .vred d a b o m k j => Sys2Proof.Machine.execVred d a b o m k j s
  | .vscan d a b o m k j => Sys2Proof.Machine.execVscan d a b o m k j s
  | .vhist d b l w m k => Sys2Proof.Machine.execVhist d b l w m k s
  | .vtopk d a b m k => Sys2Proof.Machine.execVtopk d a b m k s
  | .vtkmrg d a b k j => Sys2Proof.Machine.execVtkmrg d a b k j s
  | .vld d a m => Sys2Proof.Machine.execVld d a m s
  | .vlds d a b m => Sys2Proof.Machine.execVlds d a b m s
  | .vldx d a b m k => Sys2Proof.Machine.execVldx d a b m k s
  | .vldxo d a b m k => Sys2Proof.Machine.execVldxo d a b m k s
  | .vldff d a m => Sys2Proof.Machine.execVldff d a m s
  | .vldseg d a n m => Sys2Proof.Machine.execVldseg d a n m s
  | .vst d a m => Sys2Proof.Machine.execVst d a m s
  | .vsts d a b m => Sys2Proof.Machine.execVsts d a b m s
  | .vstx d a b m k => Sys2Proof.Machine.execVstx d a b m k s
  | .vstxo d a b m k => Sys2Proof.Machine.execVstxo d a b m k s
  | .vstseg d a n m => Sys2Proof.Machine.execVstseg d a n m s
  | .mfset a => Sys2Proof.Machine.execMfset a s
  | .vamo d a b r o m k => Sys2Proof.Machine.execVamo d a b r o m k s
  | .fence r sh => Sys2Proof.Machine.execFence r sh s
  | .vfence sh => Sys2Proof.Machine.execVfence sh s
  | .iterset a l => Sys2Proof.Machine.execIterset a l s
  | .post a l => Sys2Proof.Machine.execPost a l s
  | .waiti a l => Sys2Proof.Machine.execWaiti a l s
  | .bar => Sys2Proof.Machine.execBar s
  | .bararr => Sys2Proof.Machine.execBararr s
  | .barwt => Sys2Proof.Machine.execBarwt s
  | .ropen d a => Sys2Proof.Machine.execRopen d a s
  | .rclose a => Sys2Proof.Machine.execRclose a s
  | .rstat d a o => Sys2Proof.Machine.execRstat d a o s
  | .rdstr a b q => Sys2Proof.Machine.execRdstr a b q s
  | .wrstr a q => Sys2Proof.Machine.execWrstr a q s
  | .qpush d e k q => Sys2Proof.Machine.execQpush d e k q s
  | .qpop d a k q => Sys2Proof.Machine.execQpop d a k q s
  | .rsort d a y c q => Sys2Proof.Machine.execRsort d a y c q s
  | .rmerge d a b u l c q => Sys2Proof.Machine.execRmerge d a b u l c q s
  | .rjoin d a b l j q => Sys2Proof.Machine.execRjoin d a b l j q s
  | .rpart d a q => Sys2Proof.Machine.execRpart d a q s
  | .rwait d q => Sys2Proof.Machine.execRwait d q s
  | .cspec a => Sys2Proof.Machine.execCspec a s
  | .mattach d a w => Sys2Proof.Machine.execMattach d a w s
  | .mdetach => Sys2Proof.Machine.execMdetach s
  | .mwldCfg d a r => Sys2Proof.Machine.execMwldCfg d a r s
  | .mwldSp a b r => Sys2Proof.Machine.execMwldSp a b r s
  | .mwldQ d a b r => Sys2Proof.Machine.execMwldQ d a b r s
  | .mwldSc a b r => Sys2Proof.Machine.execMwldSc a b r s
  | .mxv d a b z w r => Sys2Proof.Machine.execMxv d a b z w r s
  | .mop a b f r => Sys2Proof.Machine.execMop a b f r s
  | .maccrd d a r => Sys2Proof.Machine.execMaccrd d a r s
  | .maccwr d a r => Sys2Proof.Machine.execMaccwr d a r s
  | .maccz a r => Sys2Proof.Machine.execMaccz a r s
  | .msave a => Sys2Proof.Machine.execMsave a s
  | .mrest a => Sys2Proof.Machine.execMrest a s
  | .mcensRd d a => Sys2Proof.Machine.execMcensRd d a s
  | .mcensRdclr d a => Sys2Proof.Machine.execMcensRdclr d a s
  | .mcensClr => Sys2Proof.Machine.execMcensClr s
  | .mcensIdx d a => Sys2Proof.Machine.execMcensIdx d a s
  | .qrtld a c f => Sys2Proof.Machine.execQrtld a c f s
  | .qrseed d a m n => Sys2Proof.Machine.execQrseed d a m n s
  | .qrgen d a b o => Sys2Proof.Machine.execQrgen d a b o s
  | .qrgens d a b o => Sys2Proof.Machine.execQrgens d a b o s
  | .pwld d a b n q => Sys2Proof.Machine.execPwld d a b n q s
  | .pwcntSt d a => Sys2Proof.Machine.execPwcntSt d a s
  | .pwcntHist d a b => Sys2Proof.Machine.execPwcntHist d a b s
  | .pwcntCnt d a b => Sys2Proof.Machine.execPwcntCnt d a b s
  | .pwcntFree a => Sys2Proof.Machine.execPwcntFree a s
  | .pwchk d a b => Sys2Proof.Machine.execPwchk d a b s
  | .pwdrft d a b => Sys2Proof.Machine.execPwdrft d a b s
  | .pwconf d a b => Sys2Proof.Machine.execPwconf d a b s
  | .pwinj d a => Sys2Proof.Machine.execPwinj d a s
  | .split core slot => Sys2Proof.Machine.execSplit core slot s
  | .fetch core slot => Sys2Proof.Machine.execFetch core slot s
  | .execute core slot => Sys2Proof.Machine.execExecute core slot s
  | .drain core slot line => Sys2Proof.Machine.execDrain core slot line s
  | .deliver src dst => Sys2Proof.Machine.execDeliver src dst s
  | .serve core bank port => Sys2Proof.Machine.execServe core bank port s
  | .hostPerform core slot => Sys2Proof.Machine.execHostPerform core slot s
  | .push core slot => Sys2Proof.Machine.execPush core slot s
  | .acceptAndProduce core slot q => Sys2Proof.Machine.execAcceptAndProduce core slot q s
  | .streamRecord core slot q => Sys2Proof.Machine.execStreamRecord core slot q s
  | .commandComplete core slot q => Sys2Proof.Machine.execCommandComplete core slot q s
  | .stall core slot q => Sys2Proof.Machine.execStall core slot q s
  | .streamPageFault core slot q => Sys2Proof.Machine.execStreamPageFault core slot q s
  | .pop core slot => Sys2Proof.Machine.execPop core slot s
  | .postAndObserve core slot => Sys2Proof.Machine.execPostAndObserve core slot s
  | .proof core slot => Sys2Proof.Machine.execProof core slot s
  | .hearthServe core slot => Sys2Proof.Machine.execHearthServe core slot s
  | .gangDrain fn seq gang => Sys2Proof.Machine.execGangDrain fn seq gang s
  | .wfeWake core slot => Sys2Proof.Machine.execWfeWake core slot s
  | .sliceEnd core => Sys2Proof.Machine.execSliceEnd core s
  | .waitQuantumExpiry core => Sys2Proof.Machine.execWaitQuantumExpiry core s
  | .doorbell fn q tail => Sys2Proof.Machine.execDoorbell fn q tail s
  | .launchFetch fn q => Sys2Proof.Machine.execLaunchFetch fn q s
  | .gangPlacement fn seq gang stack places lc => Sys2Proof.Machine.execGangPlacement fn seq gang stack places lc s
  | .warmSlot fn seq gang stack places => Sys2Proof.Machine.execWarmSlot fn seq gang stack places s
  | .priorityPreemption fn seq gang vfn vseq vgang => Sys2Proof.Machine.execPriorityPreemption fn seq gang vfn vseq vgang s
  | .resumption fn seq gang lc => Sys2Proof.Machine.execResumption fn seq gang lc s
  | .graceExpiry fn seq gang => Sys2Proof.Machine.execGraceExpiry fn seq gang s
  | .budgetWindow => Sys2Proof.Machine.execBudgetWindow s
  | .budgetExhausted fn tbu ebu => Sys2Proof.Machine.execBudgetExhausted fn tbu ebu s
  | .powerInterval avg reason lc issue duty => Sys2Proof.Machine.execPowerInterval avg reason lc issue duty s
  | .completionWordWrite fn seq => Sys2Proof.Machine.execCompletionWordWrite fn seq s
  | .queueLevelReset fn q => Sys2Proof.Machine.execQueueLevelReset fn q s
  | .functionLevelReset fn => Sys2Proof.Machine.execFunctionLevelReset fn s
  | .partmapWrite fn half v => Sys2Proof.Machine.execPartmapWrite fn half v s
  | .tenantWrite fn v => Sys2Proof.Machine.execTenantWrite fn v s
  | .scrub hg => Sys2Proof.Machine.execScrub hg s
  | .faultRecordWrite ring => Sys2Proof.Machine.execFaultRecordWrite ring s
  | .faultAnswer fn v => Sys2Proof.Machine.execFaultAnswer fn v s
  | .pfFaultAnswer ring v => Sys2Proof.Machine.execPfFaultAnswer ring v s
  | .inv1 fn count => Sys2Proof.Machine.execInv1 fn count s
  | .inv2 fn count => Sys2Proof.Machine.execInv2 fn count s
  | .pageRetirement vault frame spare lost => Sys2Proof.Machine.execPageRetirement vault frame spare lost s
  | .snoop line => Sys2Proof.Machine.execSnoop line s
  | .hjelvorReadRequest link flit => Sys2Proof.Machine.execHjelvorReadRequest link flit s
  | .hjelvorReadRecords link flit => Sys2Proof.Machine.execHjelvorReadRecords link flit s
  | .hjelvorWriteRecords link flit => Sys2Proof.Machine.execHjelvorWriteRecords link flit s
  | .hjelvorCompletionFlit link flit => Sys2Proof.Machine.execHjelvorCompletionFlit link flit s
  | .hjelvorFenceFlit link flit => Sys2Proof.Machine.execHjelvorFenceFlit link flit s
  | .hjelvorFenceAck link flit => Sys2Proof.Machine.execHjelvorFenceAck link flit s
  | .linkDown link => Sys2Proof.Machine.execLinkDown link s
  | .powerOn => Sys2Proof.Machine.execPowerOn s
  | .load => Sys2Proof.Machine.execLoad s
  | .commit => Sys2Proof.Machine.execCommit s
  | .config => Sys2Proof.Machine.execConfig s
  | .quote => Sys2Proof.Machine.execQuote s
  | .securityAlarm sensor tenants => Sys2Proof.Machine.execSecurityAlarm sensor tenants s
  | .debugResume fn => Sys2Proof.Machine.execDebugResume fn s
  | .smplostRead fn => Sys2Proof.Machine.execSmplostRead fn s
  | .trsigWrite v => Sys2Proof.Machine.execTrsigWrite v s
  | .trenClear fn => Sys2Proof.Machine.execTrenClear fn s
  | .registerWrite fn off v => Sys2Proof.Machine.execRegisterWrite fn off v s
  | .illegalInstruction w => Sys2Proof.Machine.execIllegalInstruction w s
  | .instructionFetchFault => Sys2Proof.Machine.execInstructionFetchFault s
  | .resetCompletion fn q => Sys2Proof.Machine.execResetCompletion fn q s
  | .mailboxCompletion => Sys2Proof.Machine.execMailboxCompletion s
  | .invalidationCompletion => Sys2Proof.Machine.execInvalidationCompletion s

end Sys2Proof.Machine
end

