-- ==== Sys2Proof/Machine/Turn.lean ====
section
/-! DEFINITION. One move of the device: which agent makes it (log 2), and the fetch, the checks and the issue of an
instruction (R22, R63, R77, R78, R286, R322). -/

namespace Sys2Proof.Machine

/-! ### The strand that issues -/

/-- The state in which the instruction at PC, fetched from pa, is executed: the page is noted for the manifest, a breakpoint
that has matched at another address may match again, and the issue is an event of the traced strand. -/
def issued (pa : Nat) (s : State) : State :=
  traceEvent (noteFetch pa { s with me := { s.me with skipBrk := if s.me.skipBrk = some s.me.pc then some s.me.pc else none } })
    0 s.me.pc (vcpOf s.me) 0

/-- The end of a move: the stops that have waited take place, and the clock of the traced strands is recorded. -/
def closeMove (s : State) : State := traceFlush (lateStops s)

/-- What follows a move of the strand that issues: an active strand that cannot go on gives up its turn. -/
def afterMove (s : State) (t : State) : State := closeMove (settleTurn s.me.core t)

/-- A move's outcome with what follows it. -/
def thenMove (f : State → State) : Out → Out
  | .next t => .next (f t)
  | .fault x => .fault x
  | .refused x => .refused x

/-- A word fetched without a fault: it is not an instruction, it waits for a queue that is not resident, it waits at issue, or
it executes. A word that is no instruction raises its trap and does not issue. -/
def wordMove (w pa : Nat) (s : State) : Out :=
  match decodeNat w with
  | .error _ => execIllegalInstruction (BitVec.ofNat 32 w) (noteFetch pa s)
  | .ok i =>
    if lacksQueue i s then .next (trapFront 9 0 (noteFetch pa s))
    else if waits i s then .next (waitMove i (noteFetch pa s))
    else if noInstr i s then exec i (noteFetch pa s)
    else thenMove (commitScalar s i) (exec i (issued pa s))

/-- The fetch at PC and what follows it. -/
def fetchTurn (s : State) : Out :=
  match fetchAt s with
  | .word w pa => if brkHit s 1 s.me.pc && s.me.skipBrk != some s.me.pc then .next (frontBreak true (noteFetch pa s)) else wordMove w pa s
  | _ => execInstructionFetchFault s

/-- The wait of a WFE has ended: the instruction has completed, and a commit breakpoint at it may match (R322). -/
def wokenMove (s : State) : Out :=
  let t := updMe s fun st => { st with woke := false }
  if brkHit s 2 (s.me.pc - 4) then .next (frontBreak false t) else fetchTurn t

/-- The move of a strand that runs. -/
def strandMove (s : State) : Out :=
  if stands s.me then .next s
  else if s.me.ending then .next (endLoop 40 s)
  else if s.me.hm && s.me.thandler == 0 then .next (builtin s)
  else if s.me.woke then wokenMove s
  else fetchTurn s

/-- The move of the front end that has the focus, where its strand runs. -/
def issueTurn (s : State) : Out := if ready s.me then thenMove (afterMove s) (strandMove s) else .next s

/-! ### Turns (R22, R35) -/

/-- The cores on which a strand is ready, in ascending order after core c, c itself last. -/
def coresAfter (s : State) (c : Nat) : List Nat :=
  ((upTo 512).map fun j => (c + 1 + j) % 512).filter fun k => (s.me :: s.others).any fun st => ready st && st.core == k

/-- The strand that has the turn gives it up: its core goes on to its next slot, and the front end of the next core issues. -/
def passTurn (s : State) : State :=
  let s := if ready s.me then changeSlot s.me.core s else s
  match coresAfter s s.me.core with
  | k :: _ => focus k s
  | [] => s

/-- A strand that stands at a drain point: its gang drains, or the turn passes. -/
def standTurn (s : State) : State :=
  match myGang s with
  | some g => if gangStands g s then gangDrain g.fn g.seq g.gang s else passTurn s
  | none => s

/-! ### The device's round (log 2): every agent that R35 to R40 promise to serve moves -/

def did (s : State) : Out → State
  | .next t => t
  | _ => s

/-- f for every strand that p names. -/
def eachStrand (p : Strand → Bool) (f : State → State) (s : State) : State :=
  ((s.me :: s.others).filter p).foldl (fun s st => onBy (isStrand st.fn st.lseq st.gang st.lsn) f s) s

/-- Stores on their way go on: one line of each WCB, every request, and one entry of each host path. -/
def roundStores (s : State) : State :=
  eachStrand (fun st => !st.hpath.isEmpty) hostMove (settle
    (eachStrand (fun st => !st.det && st.wcb.any fun x => x.held == 0) drainOldest s))

/-- The order of R323 among strands: launch sequence number, gang, logical strand number. -/
def strandKey (st : Strand) : Nat := (st.lseq * 2 ^ 24 + st.gang) * 64 + st.lsn

def strandIn (x : Strand) : List Strand → List Strand
  | [] => [x]
  | y :: t => if strandKey x < strandKey y then x :: y :: t else y :: strandIn x t

/-- f for every strand that p names, in the order of R323: of breakpoints that match in one clock the first is recorded. -/
def eachInOrder (p : Strand → Bool) (f : State → State) (s : State) : State :=
  (((s.me :: s.others).filter p).foldl (fun l st => strandIn st l) []).foldl (fun s st => onBy (isStrand st.fn st.lseq st.gang st.lsn) f s) s

/-- Every Hearth port and every queue that may move does, and the head command of every FIFO (R37, R214). -/
def roundQueues (s : State) : State :=
  let s := (s.hearths.flatMap fun h => h.2.ports.map HReq.core).eraseDups.foldl (fun s core => servePort core s) s
  let s := eachInOrder (fun st => queueLive st && !stands st) (runHead whole) s
  eachStrand (fun st => st.status != .free && st.fifos.any fun f => !f.2.cmds.isEmpty)
    (fun s => (upTo 16).foldl (fun s q => (knead q s).getD s) s) s

/-- The hub's part: a fault record, completion words, the ends of resets, of invalidations and of mailbox commands, and the
next record of every queue (R40). -/
def roundHub (s : State) : State :=
  let s := match (upTo 66).find? fun r => ringReady s r && ringKind r == (portTurnOf s).1 with
    | some r => reportTurn r s
    | none => s
  let s := (s.launches.filter fun l => inProgress l && l.status.isSome).foldl (fun s l => did s (execCompletionWordWrite l.fn l.seq s)) s
  let s := s.funcs.foldl (fun s f => f.2.queues.foldl (fun s q => did s (execResetCompletion f.1 q.1 s)) s) s
  let s := did s (execMailboxCompletion (did s (execInvalidationCompletion s)))
  s.funcs.foldl (fun s f => f.2.queues.foldl (fun s q => launchFetch f.1 q.1 s) s) s

/-- The places that the dispatcher takes for the next gang of a launch: its warm slot, or the first cores, slots and regions
that fit. DESIGN CHOICE (log 2). -/
def pickPlaces (s : State) (l : Launch) (stack : Nat) : List (Nat × Nat × Nat) :=
  match ownWarm s l with
  | some w => w.places
  | none =>
    let cores := (coresOn (fnOf s l.fn) stack).filter fun c =>
      groupClean s (fnOf s l.fn).tenant (c / 4) && coreFits s l.fn l.seq l.next (recSpad l) c
    (cores.take (recS l)).map fun c =>
      (c, ((upTo 4).find? fun k => slotFree s l.fn l.seq l.next c k).getD 0,
        4096 * (((upTo 128).find? fun j => regionFits s l.fn l.seq l.next c (4096 * j) (recSpad l)).getD 0))

/-- The grant that the dispatcher gives. -/
def pickGrant (s : State) (det : Bool) : Nat := if det then 8 else s.dev.dispLc

/-- The grant with which a taken-off gang resumes. -/
def resumeGrant (s : State) (x : Gang) : Nat :=
  let det := (strandsOf s x).any fun st => st.det
  if det then 8 else min s.dev.dispLc x.lcCap

/-- The next gang that may be placed is. -/
def placeNext (s : State) : State :=
  let tries := (s.launches.filter fun l => inProgress l && pending' l).flatMap fun l => (upTo 8).map fun k => (l, k)
  match tries.find? fun x => mayPlace s x.1 x.2 (pickPlaces s x.1 x.2) (pickGrant s (recDet x.1)) with
  | some x => placeGang x.1 x.2 (pickPlaces s x.1 x.2) (pickGrant s (recDet x.1)) s
  | none => s

/-- Late gangs pre-empt (R306). -/
def preemptForLate (s : State) : State :=
  match (s.launches.filter fun l => inProgress l && pending' l && late l).findSome? fun l => (s.gangs.find? (victim s l)) with
  | some x => preemptGang x s
  | none => s

/-- The dispatchers' part: scrubs, budgets, pre-emption for late gangs, resumptions and a placement. -/
def roundDispatch (s : State) : State :=
  let s := (s.dev.scrubbing.map Prod.fst).foldl (fun s g => did s (execScrub g s)) s
  let s := preemptForLate (s.funcs.foldl (fun s f => enforceBudget f.1 s) s)
  let s := s.gangs.foldl (fun s x =>
    did s (execResumption x.fn x.seq x.gang (resumeGrant s x) s)) s
  placeNext s

/-- Moves of a slice, of which the last of every roundMoves is a round. DESIGN CHOICE (log 2). -/
def sliceMoves : Nat := 1024

/-- The grace interval of a gang ends with the second slice that ends after its pre-emption (R289). DESIGN CHOICE (log 2). -/
def graceTurn (s : State) : State :=
  let s := (s.gangs.filter fun x => x.preempting && decide (1 ≤ x.slices)).foldl (fun s x => did s (execGraceExpiry x.fn x.seq x.gang s)) s
  { s with gangs := s.gangs.map fun x => if x.preempting then { x with slices := x.slices + 1 } else x }

/-- A slice ends: grace intervals end, every gang that is still to be placed has waited one more, a budget window opens (R308), and the
turn passes. -/
def sliceTurn (s : State) : State :=
  let s := graceTurn s
  passTurn (openWindow { s with
    beat := 0
    launches := s.launches.map fun l =>
      if inProgress l && pending' l then
        { l with waited := l.waited + 1, passed := if l.passed = 0 then 0 else l.passed + 1 }
      else l })

/-- A round, and where it is the last of a slice the end of the slice. With no strand ready a wait at WFE ends (R283). -/
def roundTurn (s : State) : State :=
  let s := roundDispatch (roundHub (roundQueues (roundStores { s with beat := s.beat + 1 })))
  let s := if sliceMoves ≤ s.beat then sliceTurn s else s
  if (s.me :: s.others).any ready then s
  else
    match (s.me :: s.others).find? fun st => st.status == .wfe with
    | some st => onBy (isStrand st.fn st.lseq st.gang st.lsn) (fun s => updMe s endWfe) s
    | none => s

/-- Every 16th move of a slice is a round of the device. DESIGN CHOICE (log 2). -/
def roundMoves : Nat := 16

def roundDue (s : State) : Bool := s.beat % roundMoves + 1 == roundMoves

/-- With nothing on the agenda the strand that has the turn moves, one that waits passes its turn, and the device makes its rounds
(log 2). -/
def freeTurn (s : State) : Out :=
  if roundDue s || !((s.me :: s.others).any ready) then .next (closeMove (roundTurn s))
  else
    let s := { s with beat := s.beat + 1 }
    if ready s.me then
      if stands s.me then .next (closeMove (standTurn s))
      else thenMove (fun t => if waiting' s then passTurn t else t) (issueTurn s)
    else issueTurn (passTurn s)

/-- The front end of a core issues, where a strand is ready there. -/
def coreTurn (core : Nat) (s : State) : Out :=
  let t := focus core s
  if ready t.me && t.me.core == core then issueTurn t else .next s

/-- The rows of the table that the device itself makes, at no strand's fetch: those that are no word (ADD has the word 0 only
where it is no instruction, R77) and not the two entries of a failed fetch. -/
def isEvent (i : Instr) : Bool :=
  encodeNat i == 0 && !(match i with | .add _ _ _ | .illegalInstruction _ | .instructionFetchFault => true | _ => false)

/-- An event of the agenda. -/
def eventTurn (i : Instr) (s : State) : Out := if isEvent i then thenMove closeMove (exec i s) else .next s

/-- One move. -/
def move (s : State) : Out :=
  match s.agenda with
  | .event i :: t => eventTurn i { s with agenda := t, defer := false }
  | .issue core d :: t => coreTurn core { s with agenda := t, defer := d }
  | [] => freeTurn { s with defer := false }

/-! ### Placing a word where it is fetched next -/

/-- The next step fetches and executes the word at PC. -/
def fetchesNext (s : State) : Bool :=
  s.agenda.isEmpty && !roundDue s && ready s.me && !s.me.woke && !s.me.ending && !(s.me.hm && s.me.thandler == 0) &&
    !stands s.me &&
    s.me.vctx.queue.isEmpty && s.me.dumped.isEmpty && !brkHit s 1 s.me.pc &&
    (match fetchAt s with | .word _ _ => true | _ => false)

/-- A strand that runs at address 0x1000 of a function whose translation is the identity, the owner of core 0's vector context
with 32 registers declared. -/
def bareStrand : Strand :=
  { Strand.reset with
    status := .run, gcount := 1, gsize := 1, pc := 0x1000, spSize := spadSize, vlcap := 65536, lc := 8, vown := true
    thandler := 0x100000, vctx := { VCtx.reset with cnt := 3 } }

/-- A state whose next step fetches at its strand's PC: the state itself, or one in which that strand runs. -/
def readyToFetch (s : State) : State :=
  if fetchesNext s then s
  else
    let s := updFn s 0 fun f => { f with s1 := 0, s2 := 0, debug := { f.debug with brk := Vector.replicate 4 0 } }
    { s with
      me := bareStrand
      others := s.others.filter fun st => !(holdsRegion 0 st)
      agenda := []
      beat := 0
      dev := { s.dev with tlb := s.dev.tlb.filter fun e => e.fn != 0 } }

/-- The bytes of a word written where the strand fetches. -/
def placeWord (bs : List Byte) (s : State) : State :=
  match fetchAt s with
  | .word _ pa => { s with host := csets zeros s.host pa bs }
  | _ => s

end Sys2Proof.Machine
end

