-- ==== Sys2Proof/Machine/Step.lean ====
section
/-! DEFINITION. One step of the device is one move. -/

namespace Sys2Proof.Machine

def step (s : State) : Host.Outcome State Fault Refusal := move s

/-- s with an instruction of the table placed where the next step fetches (log 8): its 32-bit word, little-endian. -/
def State.withFetchWord (s : State) (_nbits w : Nat) : State := placeWord (toBytes 4 w) (readyToFetch s)

end Sys2Proof.Machine
end

