-- ==== Sys2Proof/Safety.lean ====
section
/-! DEFINITION. The terms in which statements about the machine are made: when an instruction runs undisturbed, what it leaves
unchanged, and the invariants of the state. -/

namespace Sys2Proof.Machine

/-! ### When an instruction runs -/

/-- The strand that has the focus runs (R22). -/
def Running (s : State) : Prop := s.me.status = .run

/-- The debug block of the strand's function acts on nothing: no breakpoint is armed, no sample is due, the strand is not
traced (R322, R324, R326). -/
def Quiet (s : State) : Prop :=
  (∀ b ∈ (myDebug s).brk.toList, field b 1 0 = 0) ∧ (myDebug s).smpen = false ∧ traced s = false

/-- A vector-queue instruction executes as soon as it is issued: the strand owns its core's vector context, its queue is empty
and the agenda does not hold the instruction back (R23, R24). -/
def QueueReady (s : State) : Prop :=
  Running s ∧ s.me.vown = true ∧ s.me.vctx.queue = [] ∧ s.defer = false ∧ Quiet s

/-- VL is no greater than the grant it was trimmed from, which is within MAXVL and the 65,536 bits of a mask register
(R114, R115, R155). -/
def VlOk (s : State) : Prop :=
  s.me.vctx.vl ≤ s.me.vctx.vlGrant ∧ s.me.vctx.vlGrant ≤ maxVl s.me.vctx.vshape s.me.vctx.cnt ∧ s.me.vctx.vlGrant ≤ 65536

/-- The registers of a vector instruction lie below the declared count (R66). -/
def Declared (s : State) (rs : List (BitVec 5)) : Prop := ∀ r ∈ rs, r.toNat < nregsOf s.me.vctx.cnt

/-- The registers begin groups of L registers (R76). -/
def Grouped (s : State) (rs : List (BitVec 5)) : Prop :=
  ∀ r ∈ rs, badGroup s.me.vctx.cnt (lmulOf s.me.vctx.vshape) r.toNat = false

/-- A drain point does not hold the strand: normal mode, or a strand with no other of its gang to wait for (R99). -/
def NoDrain (s : State) : Prop := s.me.det = false

/-- Nothing that the strand has issued is still to come: no load, atomic or element buffer, and no access kept behind a VFENCE
(R81, R93, R102). -/
def NothingOut (s : State) : Prop :=
  s.me.out = [] ∧ s.me.vctx.bufs = [] ∧ s.me.kept = [] ∧ ∀ x ∈ s.me.hpath, bars x = false

/-- Only stores of drained lines are on their way (R81, R86), and what the strand's buffers hold waits for no VFENCE and for
no load or atomic (R91, R93). -/
def Calm (s : State) : Prop :=
  NothingOut s ∧ (∀ q ∈ s.net, q.late = none) ∧ (∀ x ∈ s.me.wcb, x.held = 0) ∧ ∀ x ∈ s.me.hpath, x.held = 0 ∧ x.late = none

/-! ### What an instruction leaves unchanged -/

/-- Every byte of addressable space reads as before. -/
def SameBytes (s t : State) : Prop := ∀ a, viewByte t a = viewByte s a

/-- Every scalar register but d reads as before, and d reads v, where s0 reads zero. -/
def WritesReg (s t : State) (d : BitVec 5) (v : Word) : Prop :=
  reg t d = (if d = 0 then 0 else v) ∧ ∀ r, r ≠ d → reg t r = reg s r

/-- t is s but for the strand's PC and scalar registers. -/
def SameButRegs (s t : State) : Prop := { t with me := { t.me with pc := s.me.pc, regs := s.me.regs } } = s

/-- t is s but for the strand's PC and what a trace session keeps of its transfer. -/
def SameButPc (s t : State) : Prop := { t with me := { t.me with pc := s.me.pc }, trev := s.trev } = s

/-- A completed vector-queue instruction changes, besides what it says, the numbering of entries, the activity of its strand and PC.
It is counted while SMPEN = 1 alone (R324), which Quiet excludes. -/
def Completed (s t : State) : Prop :=
  t.me.pc = s.me.pc + 4 ∧ t.nextId = s.nextId + 1 ∧ t.me.nsample = s.me.nsample

/-- t with the numbering, the activity and the PC of s: what every completed entry may change (R248, R308). -/
def sinceEntry (s t : State) : State :=
  { t with
    nextId := s.nextId
    me := { t.me with pc := s.me.pc, laneCycles := s.me.laneCycles, bitCycles := s.me.bitCycles } }

/-- t is s but for what every completed entry may change, XFLAGS and the physical file. -/
def SameButFile (s t : State) : Prop :=
  let u := sinceEntry s t
  { u with me := { u.me with xflags := s.me.xflags, vctx := { u.me.vctx with vf := s.me.vctx.vf } } } = s

/-- t is s but for what every completed entry may change, XFLAGS and the masks. -/
def SameButMasks (s t : State) : Prop :=
  let u := sinceEntry s t
  { u with me := { u.me with xflags := s.me.xflags, vctx := { u.me.vctx with masks := s.me.vctx.masks } } } = s

/-- t is s but for what every completed entry may change and the scales. -/
def SameButScales (s t : State) : Prop :=
  let u := sinceEntry s t
  { u with me := { u.me with vctx := { u.me.vctx with scales := s.me.vctx.scales } } } = s

/-- t is s but for what every completed entry may change and the scalar registers. -/
def SameButQueueReg (s t : State) : Prop :=
  let u := sinceEntry s t
  { u with me := { u.me with regs := s.me.regs } } = s

/-! ### Elements -/

/-- elem(v, i) of the current type. -/
def velem (s : State) (v : BitVec 5) (i : Nat) : Nat :=
  elemGet s.me.vctx.vf (rbOf s.me.vctx.cnt) (sewOf s.me.vctx.vshape) v.toNat i

/-- A byte of the physical file. -/
def vbyte (s : State) (x : Nat) : Byte := cget zeros s.me.vctx.vf x

/-- A byte of a location as the strand reads it once every request in flight is served. -/
def seen (s : State) (l : Loc) : Byte := locByte (settle s) l

/-! ### Invariants -/

/-- The waiting stores of a strand: a line of its write-combining buffer once for each number of VFENCEs it waits for, its
bytes once, in ascending order and in the line (R81), each byte of a store in the host path once (R91), and the stores that
wait for fewer VFENCEs first (R93). -/
def StoresInOrder (st : Strand) : Prop :=
  (st.wcb.map fun x => (x.line, x.held)).Nodup ∧
    (∀ x ∈ st.wcb, (x.bytes.map Prod.fst).Pairwise (· < ·) ∧ ∀ b ∈ x.bytes, b.1 / 256 = x.line) ∧
    (∀ x ∈ st.hpath, (x.bytes.map Prod.fst).Nodup) ∧
    (st.wcb.map WLine.held).Pairwise (· ≤ ·) ∧ (st.hpath.map HStore.held).Pairwise (· ≤ ·)

def StoresOk (s : State) : Prop := StoresInOrder s.me

/-- The memory of the device in its canonical form: host memory and the scratchpads. -/
def MemoryOk (s : State) : Prop := Memory.wf s.host = true ∧ Memory.wf s.spad = true

end Sys2Proof.Machine
end

