-- ==== Sys2Proof/Certificates/Slice0/Obligations.lean ====
section
/-! DEFINITION. The statements for the provers: what the rules of the spec say each instruction and each move of the device does,
said of the model. The definitions before each group say, from the rules, what the statements of the group compare the model with. -/

set_option Elab.async false

/-! ## References: what the tables of the manual say of a result, in exact arithmetic -/

namespace Sys2Proof.Claims

open Sys2Proof Sys2Proof.Machine

/-- The number of one bits of a word. -/
def ones (x : Word) : Nat := (List.range 64).countP fun k => x.getLsbD k

/-- Results of Table 5.3, R106 and R107 as exact integers, of which D receives the low 64 bits; SLT and its kin give 0 or 1. -/
def aluInt (s : State) : Instr → Option (BitVec 5 × Int)
  | .add d a b => some (d, (reg s a).toNat + (reg s b).toNat)
  | .sub d a b => some (d, (reg s a).toNat - (reg s b).toNat)
  | .and d a b => some (d, ((reg s a).toNat &&& (reg s b).toNat : Nat))
  | .or d a b => some (d, ((reg s a).toNat ||| (reg s b).toNat : Nat))
  | .xor d a b => some (d, ((reg s a).toNat ^^^ (reg s b).toNat : Nat))
  | .sll d a b => some (d, (reg s a).toNat * 2 ^ ((reg s b).toNat % 64))
  | .srl d a b => some (d, ((reg s a).toNat / 2 ^ ((reg s b).toNat % 64) : Nat))
  | .sra d a b => some (d, (reg s a).toInt / 2 ^ ((reg s b).toNat % 64))
  | .slt d a b => some (d, if (reg s a).toInt < (reg s b).toInt then 1 else 0)
  | .sltu d a b => some (d, if (reg s a).toNat < (reg s b).toNat then 1 else 0)
  | .min d a b => some (d, Min.min (reg s a).toInt (reg s b).toInt)
  | .max d a b => some (d, Max.max (reg s a).toInt (reg s b).toInt)
  | .minu d a b => some (d, (Min.min (reg s a).toNat (reg s b).toNat : Nat))
  | .maxu d a b => some (d, (Max.max (reg s a).toNat (reg s b).toNat : Nat))
  | .mul d a b => some (d, (reg s a).toInt * (reg s b).toInt)
  | .mulh d a b => some (d, (reg s a).toInt * (reg s b).toInt / 2 ^ 64)
  | .mulhu d a b => some (d, ((reg s a).toNat * (reg s b).toNat / 2 ^ 64 : Nat))
  | .div d a b => some (d, if reg s b = 0 then -1 else (reg s a).toInt.tdiv (reg s b).toInt)
  | .divu d a b => some (d, if reg s b = 0 then -1 else ((reg s a).toNat / (reg s b).toNat : Nat))
  | .rem d a b => some (d, if reg s b = 0 then (reg s a).toInt else (reg s a).toInt.tmod (reg s b).toInt)
  | .remu d a b => some (d, if reg s b = 0 then (reg s a).toInt else ((reg s a).toNat % (reg s b).toNat : Nat))
  | .addi d a i => some (d, (reg s a).toInt + i.toInt)
  | .andi d a i => some (d, (reg s a &&& BitVec.ofInt 64 i.toInt).toInt)
  | .ori d a i => some (d, (reg s a ||| BitVec.ofInt 64 i.toInt).toInt)
  | .xori d a i => some (d, (reg s a ^^^ BitVec.ofInt 64 i.toInt).toInt)
  | .slli d a n => some (d, (reg s a).toNat * 2 ^ n.toNat)
  | .srli d a n => some (d, ((reg s a).toNat / 2 ^ n.toNat : Nat))
  | .srai d a n => some (d, (reg s a).toInt / 2 ^ n.toNat)
  | .slti d a i => some (d, if (reg s a).toInt < i.toInt then 1 else 0)
  | .lui d i => some (d, i.toInt * 2 ^ 12)
  | .auipc d i => some (d, s.me.pc.toInt + i.toInt * 2 ^ 12)
  | _ => none

/-- Results of R105 as natural numbers. -/
def bitInt (s : State) : Instr → Option (BitVec 5 × Int)
  | .clz d a => some (d, if reg s a = 0 then 64 else (63 - (reg s a).toNat.log2 : Nat))
  | .ctz d a => some (d, if reg s a = 0 then 64 else padicValNat 2 (reg s a).toNat)
  | .popc d a => some (d, ones (reg s a))
  | .bfx d a b =>
    let n := (reg s b).toNat
    some (d, ((reg s a).toNat / 2 ^ (n % 64) % 2 ^ Min.min (n / 256 % 128) 64 : Nat))
  | .fshr d a b n => some (d, (((reg s a).toNat * 2 ^ 64 + (reg s b).toNat) / 2 ^ n.toNat : Nat))
  | _ => none

/-- The branches of R112: whether the condition holds, and the distance in instructions. -/
def branchInt (s : State) : Instr → Option (Prop × BitVec 12)
  | .beq a b o => some ((reg s a).toNat = (reg s b).toNat, o)
  | .bne a b o => some ((reg s a).toNat ≠ (reg s b).toNat, o)
  | .blt a b o => some ((reg s a).toInt < (reg s b).toInt, o)
  | .bge a b o => some ((reg s b).toInt ≤ (reg s a).toInt, o)
  | .bltu a b o => some ((reg s a).toNat < (reg s b).toNat, o)
  | .bgeu a b o => some ((reg s b).toNat ≤ (reg s a).toNat, o)
  | _ => none

/-- The address of a scalar load or store. -/
def address (s : State) (a : BitVec 5) (i : BitVec 12) : Nat := (reg s a + BitVec.ofInt 64 i.toInt).toNat

/-- The n bytes at a location as the strand reads them, as a number. -/
def seenNat (s : State) (l : Loc) (n : Nat) : Nat := ofBytes ((List.range n).map fun j => seen s (l.plus j))

/-- What LD writes (Table 3.4): sub-codes 0 b, 1 bu, 2 h, 3 hu, 4 w, 5 wu, 6 d. -/
def loaded (w : BitVec 3) (x : Nat) : Int :=
  match w.toNat with
  | 0 => (BitVec.ofNat 8 x).toInt
  | 2 => (BitVec.ofNat 16 x).toInt
  | 4 => (BitVec.ofNat 32 x).toInt
  | _ => x

/-- Bytes of the sub-codes of LD. -/
def loadBytes (w : BitVec 3) : Nat :=
  match w.toNat with
  | 0 | 1 => 1
  | 2 | 3 => 2
  | 4 | 5 => 4
  | _ => 8

/-- The result of an atomic operation of Table 3.5 on n bytes: w the memory value, b the operand. -/
def atomicResult (op : BitVec 4) (n w b : Nat) : Nat :=
  match op.toNat with
  | 0 => (w + b) % 2 ^ (8 * n)
  | 1 => w &&& b
  | 2 => w ||| b
  | 3 => w ^^^ b
  | 4 => if (BitVec.ofNat (8 * n) w).toInt ≤ (BitVec.ofNat (8 * n) b).toInt then w else b
  | 5 => if (BitVec.ofNat (8 * n) b).toInt ≤ (BitVec.ofNat (8 * n) w).toInt then w else b
  | 6 => if w ≤ b then w else b
  | 7 => if b ≤ w then w else b
  | _ => b

end Sys2Proof.Claims

open Sys2Proof Sys2Proof.Machine Sys2Proof.Claims

/-! ## Scalar instructions -/

/-- R101, R104, R106, R107: ADD, SUB, AND, OR, XOR, SLL, SRL, SRA, SLT, SLTU, MIN, MAX, MINU, MAXU, MUL, MULH, MULHU, DIV,
DIVU, REM, REMU, ADDI, ANDI, ORI, XORI, SLLI, SRLI, SRAI, SLTI, LUI and AUIPC complete on every operand: D receives the low 64
bits of the exact result, nothing where D is s0, PC goes to the next word, and nothing else changes: no trap is taken and
XFLAGS keeps its value. -/
def Obligations.ScalarResults : Prop :=
  ∀ (i : Instr) (s : State) (d : BitVec 5) (x : Int), aluInt s i = some (d, x) → Running s →
    ∃ t, exec i s = .next t ∧ WritesReg s t d (BitVec.ofInt 64 x) ∧ t.me.pc = s.me.pc + 4 ∧ SameButRegs s t ∧ SameBytes s t

/-- R105: CLZ, CTZ, POPC, BFX and FSHR complete on every operand with the value of R105 in D; BFI completes: bit k of D becomes bit
k − pos of A inside the field, and keeps its value outside it. PC goes to the next word and nothing else changes. -/
def Obligations.BitInstructions : Prop :=
  (∀ (i : Instr) (s : State) (d : BitVec 5) (x : Int), bitInt s i = some (d, x) → Running s →
    ∃ t, exec i s = .next t ∧ WritesReg s t d (BitVec.ofInt 64 x) ∧ t.me.pc = s.me.pc + 4 ∧ SameButRegs s t ∧ SameBytes s t) ∧
  ∀ (s : State) (d a b : BitVec 5), Running s →
    ∃ t v, exec (.bfi d a b) s = .next t ∧ WritesReg s t d v ∧ t.me.pc = s.me.pc + 4 ∧ SameButRegs s t ∧ SameBytes s t ∧
      ∀ k < 64, v.getLsbD k =
        let n := (reg s b).toNat
        if n % 64 ≤ k ∧ k < n % 64 + Min.min (n / 256 % 128) 64 then (reg s a).getLsbD (k - n % 64) else (reg s d).getLsbD k

/-- R112: the branches BEQ, BNE, BLT, BGE, BLTU and BGEU complete: PC becomes P + 4 × the displacement where the condition
holds, else P + 4; no register and no byte changes.
R112: JAL and JALR complete: D receives P + 4, and the target of JALR, read before D is written, keeps its low bits. -/
def Obligations.BranchesAndJumps : Prop :=
  (∀ (i : Instr) (s : State) (c : Prop) (o : BitVec 12), branchInt s i = some (c, o) → Running s →
    ∃ t, exec i s = .next t ∧ SameButPc s t ∧ SameBytes s t ∧ (traced s = false → t.trev = s.trev) ∧
      (c → t.me.pc = s.me.pc + BitVec.ofInt 64 (4 * o.toInt)) ∧ (¬c → t.me.pc = s.me.pc + 4)) ∧
  (∀ (s : State) (d a : BitVec 5), Running s → traced s = false →
    (∀ o : BitVec 20, ∃ t, exec (.jal d o) s = .next t ∧ t.me.pc = s.me.pc + BitVec.ofInt 64 (4 * o.toInt) ∧
      WritesReg s t d (s.me.pc + 4) ∧ SameButRegs s t ∧ SameBytes s t) ∧
    ∀ i : BitVec 12, ∃ t, exec (.jalr d a i) s = .next t ∧ t.me.pc = reg s a + BitVec.ofInt 64 i.toInt ∧
      WritesReg s t d (s.me.pc + 4) ∧ SameButRegs s t ∧ SameBytes s t)

/-- R108, R110: a load of every width at an aligned address that passes its checks completes, where the agenda does not defer
it and nothing of the strand is outstanding: D receives the bytes the strand reads there, extended as the sub-code says, and
every location reads as before. R102, Table 4.3: a load that the agenda defers (log 2), and whose value its own waiting stores
do not give, completes with D pending and no register written; a later instruction that names D waits at issue, and so does a
ninth load. R88, R93: a load of bytes of an atomic that waits for a VFENCE is kept behind it, D pending. -/
def Obligations.LoadReads : Prop :=
  ∀ (s : State) (d a : BitVec 5) (i : BitVec 12) (w : BitVec 3) (l : Loc), Running s → w.toNat < 7 →
    address s a i % loadBytes w = 0 → reach s (address s a i) .load = .ok l →
    (s.defer = false → Calm s →
      ∃ t, exec (.ld d a i w) s = .next t ∧ t.me.pc = s.me.pc + 4 ∧
        WritesReg s t d (BitVec.ofInt 64 (loaded w (seenNat s l (loadBytes w)))) ∧ SameBytes s t ∧ (∀ x, seen t x = seen s x) ∧
        { t with
          net := s.net, spad := s.spad, dev := { t.dev with tlb := s.dev.tlb },
          me := { t.me with pc := s.me.pc, regs := s.me.regs } } = s) ∧
    (s.defer = true → (∀ k, l = .spad k → ∃ j < loadBytes w, (forwarded s.me (.spad (k + j))).mask ≠ 0xFF) →
      ∃ t, exec (.ld d a i w) s = .next t ∧ t.me.pc = s.me.pc + 4 ∧ t.me.regs = s.me.regs ∧
        t.me.out = s.me.out ++ [pendLoad d s.nextId] ∧ t.host = s.host ∧ t.spad = s.spad ∧
        (d ≠ 0 → ∀ e b, waits (.add e d b) t = true) ∧
        ((s.me.out.filter Pend.load).length = 7 → ∀ e b j v, waits (.ld e b j v) t = true)) ∧
    (∀ k, l = .spad k → meetsKept s.me k (loadBytes w) = true →
      ∃ t x, exec (.ld d a i w) s = .next t ∧ t.me.pc = s.me.pc + 4 ∧ t.me.kept = s.me.kept ++ [⟨[], fencesAhead s.me, some x⟩] ∧
        x.id = s.nextId ∧ x.key = k ∧ t.me.out = s.me.out ++ [pendLoad d s.nextId] ∧
        { t with nextId := s.nextId, me := { t.me with pc := s.me.pc, out := s.me.out, kept := s.me.kept } } = s)

/-- R84, R88, R93, R108: a store of every width at an aligned address that passes its checks completes, where the line of a
scratchpad byte is open or can be opened: the bytes stored read as the low bytes of B, every other byte reads as before, and no
register changes; R88, R93: a store of bytes of an atomic that waits for a VFENCE is kept behind it. R102: in normal mode a store
that finds every line of the WCB taken waits at issue. The model's choices, not rules: such a store, executed all the same, acts
as after the Drain move of the oldest line (log 2); and a store behind a VFENCE, whose line is open with stores that wait for
none, acts as after the Drain move of that line (log 65). -/
def Obligations.StoreWrites : Prop :=
  (∀ (s : State) (a b : BitVec 5) (h : BitVec 7) (w : BitVec 2) (l : BitVec 5) (p : Loc), Running s → StoresOk s →
    (∀ x ∈ s.me.wcb, x.held ≤ fencesAhead s.me) → (∀ x ∈ s.me.hpath, x.held ≤ fencesAhead s.me) →
    address s a (h ++ l) % 2 ^ w.toNat = 0 → reach s (address s a (h ++ l)) .store = .ok p →
    (∀ k, p = .spad k → k % 2 ^ w.toNat = 0 ∧ noLine s (fencesAhead s.me) k = false ∧ reopens s (fencesAhead s.me) k = false ∧
      meetsKept s.me k (2 ^ w.toNat) = false) →
    ∃ t, exec (.st a b h w l) s = .next t ∧ t.me.pc = s.me.pc + 4 ∧
      (∀ j < 2 ^ w.toNat, seen t (p.plus j) = BitVec.ofNat 8 ((reg s b).toNat / 256 ^ j)) ∧
      (∀ x, (∀ j < 2 ^ w.toNat, x ≠ p.plus j) → seen t x = seen s x) ∧
      { t with
        dev := { t.dev with tlb := s.dev.tlb },
        me := { t.me with pc := s.me.pc, wcb := s.me.wcb, hpath := s.me.hpath } } = s) ∧
  (∀ (s : State) (a b : BitVec 5) (h : BitVec 7) (w : BitVec 2) (l : BitVec 5) (k : Nat), Running s → s.me.wcb.length ≤ 64 →
    address s a (h ++ l) % 2 ^ w.toNat = 0 → reach s (address s a (h ++ l)) .store = .ok (.spad k) →
    meetsKept s.me k (2 ^ w.toNat) = true →
    ∃ t, exec (.st a b h w l) s = .next t ∧ t.me.pc = s.me.pc + 4 ∧
      t.me.kept = s.me.kept ++ [⟨(List.range (2 ^ w.toNat)).map fun j => (k + j, ⟨BitVec.ofNat 8 ((reg s b).toNat / 256 ^ j), 0xFF⟩),
        fencesAhead s.me, none⟩] ∧
      { t with nextId := s.nextId, me := { t.me with pc := s.me.pc, kept := s.me.kept } } = s) ∧
  (∀ (s : State) (a b : BitVec 5) (h : BitVec 7) (w : BitVec 2) (l : BitVec 5) (k : Nat), Running s → s.me.wcb.length ≤ 64 →
    address s a (h ++ l) % 2 ^ w.toNat = 0 → reach s (address s a (h ++ l)) .store = .ok (.spad k) →
    meetsKept s.me k (2 ^ w.toNat) = false → reopens s (fencesAhead s.me) k = true → wcbFind s.me.wcb (k / 256) (fencesAhead s.me) = none →
    (∃ t, exec (.st a b h w l) s = .next t) ∧ exec (.st a b h w l) s = exec (.st a b h w l) (drainLine s (k / 256))) ∧
  (∀ (s : State) (a b : BitVec 5) (h : BitVec 7) (w : BitVec 2) (l : BitVec 5) (k : Nat) (x : WLine) (xs : List WLine),
    Running s → NoDrain s → fencesAhead s.me = 0 → meetsKept s.me k (2 ^ w.toNat) = false → address s a (h ++ l) % 2 ^ w.toNat = 0 →
    reach s (address s a (h ++ l)) .store = .ok (.spad k) → s.me.wcb = x :: xs → x.held = 0 → s.me.wcb.length = 64 →
    wcbFull s k = true →
    waits (.st a b h w l) s = true ∧ (∃ t, exec (.st a b h w l) s = .next t) ∧
      exec (.st a b h w l) s = exec (.st a b h w l) (drainLine s x.line))

/-- R109: an access of n bytes at an address that is not a multiple of n raises cause 0x03, and one at an address in no region
cause 0x04, the alignment first; TVAL holds the address and TEPC that of the instruction, which writes nothing. -/
def Obligations.AccessChecks : Prop :=
  ∀ (s : State) (d a b : BitVec 5) (i : BitVec 12) (h : BitVec 7) (l : BitVec 5) (w : BitVec 3) (v : BitVec 2), Running s →
    s.me.hm = false →
    (w.toNat < 7 → address s a i % loadBytes w ≠ 0 →
      exec (.ld d a i w) s = .next (takeTrap 3 0 false false s.me.pc (word (address s a i)) s)) ∧
    (w.toNat < 7 → address s a i % loadBytes w = 0 → regionOf (address s a i) = .nowhere →
      exec (.ld d a i w) s = .next (takeTrap 4 0 false false s.me.pc (word (address s a i)) s)) ∧
    (address s a (h ++ l) % 2 ^ v.toNat ≠ 0 →
      exec (.st a b h v l) s = .next (takeTrap 3 0 false false s.me.pc (word (address s a (h ++ l))) s)) ∧
    (address s a (h ++ l) % 2 ^ v.toNat = 0 → regionOf (address s a (h ++ l)) = .nowhere →
      exec (.st a b h v l) s = .next (takeTrap 4 0 false false s.me.pc (word (address s a (h ++ l))) s))

/-- R189 to R191: AMO and CAS of both widths complete in normal mode at an aligned address, where nothing of the strand is
outstanding, the agenda does not defer them, no VFENCE is queued ahead of them, and a release has no push to wait for: the
memory value at the point of coherence, after the waiting stores that R88, R91 and R94 put before the atomic, is combined with
the operand in one step; D receives the old value, sign-extended where it has 32 bits; CAS writes only where the old value
equals D; every other byte keeps its value at the point of coherence. An acquire lets the strand's node observe its gang
(R95). R93, R191: behind a queued VFENCE one that does not release completes with its access kept until the VFENCE has
completed, in host space as the last entry of the host path, D pending: nothing else changes. That an acquire observes at once
is the model's choice (log 69). -/
def Obligations.AtomicsAtCoherence : Prop :=
  (∀ (s : State) (d a b : BitVec 5) (sc : BitVec 3) (o : BitVec 4) (r : BitVec 2) (z : BitVec 1) (l : Loc) (i : Instr), Running s →
    NoDrain s → r.toNat < 2 → keepsAtomic s = true → i = .amo d a b sc o r z ∨ i = .cas d a b sc r z →
    (reg s a).toNat % (if z = 0 then 4 else 8) = 0 → reach s (reg s a).toNat .store = .ok l →
    (∀ y ∈ s.me.hpath, y.held ≤ fencesAhead s.me) →
    ∃ t x, exec i s = .next t ∧ t.me.pc = s.me.pc + 4 ∧ t.me.out = s.me.out ++ [pendAtomic d (r.toNat == 1) s.nextId] ∧
      x.id = s.nextId ∧
      (∀ k, l = .spad k → x.key = k ∧ t.me.hpath = s.me.hpath ∧ t.me.kept = s.me.kept ++ [⟨[], fencesAhead s.me, some x⟩]) ∧
      (∀ k, l = .host k → x.key = k ∧ t.me.kept = s.me.kept ∧ t.me.hpath = s.me.hpath ++ [⟨[], fencesAhead s.me, some x⟩]) ∧
      { t with nextId := s.nextId, me := { t.me with
          pc := s.me.pc, out := s.me.out, kept := s.me.kept, hpath := s.me.hpath } } = s) ∧
  ∀ (s : State) (d a b : BitVec 5) (sc : BitVec 3) (o : BitVec 4) (r : BitVec 2) (z : BitVec 1) (l : Loc), Running s → NoDrain s →
    s.defer = false → Calm s → keepsAtomic s = false → (2 ≤ r.toNat → allAccepted s = true) → o.toNat < 9 →
    let n := if z = 0 then 4 else 8
    (reg s a).toNat % n = 0 → reach s (reg s a).toNat .store = .ok l →
    let u := beforeAtomic (fencesAhead s.me) (if 2 ≤ r.toNat then flushAll s else s) l
    let w := coherent u l n
    let old : Word := if z = 0 then BitVec.ofInt 64 (BitVec.ofNat 32 w).toInt else word w
    let gangs := if r.toNat % 2 = 1 then (observe s).gangs else s.gangs
    (∃ t, exec (.amo d a b sc o r z) s = .next t ∧ t.me.pc = s.me.pc + 4 ∧ WritesReg s t d old ∧
      coherent t l n = atomicResult o n w ((reg s b).toNat % 2 ^ (8 * n)) ∧
      (∀ x, (∀ j < n, x ≠ l.plus j) → atCoherence t x = atCoherence u x) ∧ t.gangs = gangs ∧
      { t with spad := u.spad, host := u.host, gangs := u.gangs, me := { t.me with
          pc := u.me.pc, regs := u.me.regs, acquired := u.me.acquired } } = u) ∧
    ∃ t, exec (.cas d a b sc r z) s = .next t ∧ t.me.pc = s.me.pc + 4 ∧ WritesReg s t d old ∧
      coherent t l n = (if w = (reg s d).toNat % 2 ^ (8 * n) then (reg s b).toNat % 2 ^ (8 * n) else w) ∧
      (∀ x, (∀ j < n, x ≠ l.plus j) → atCoherence t x = atCoherence u x) ∧ t.gangs = gangs ∧
      { t with spad := u.spad, host := u.host, gangs := u.gangs, me := { t.me with
          pc := u.me.pc, regs := u.me.regs, acquired := u.me.acquired } } = u

namespace Sys2Proof.Claims

open Sys2Proof Sys2Proof.Machine

/-- The system registers that some chapter assigns (Tables 1.2, 6.1, 7.6, 11.1, 12.5, 13.2, 15.1, 16.4, 16.6, 18.1, 18.7). -/
def assigned (n : Nat) : Bool :=
  [0x001, 0x002, 0x003, 0x004, 0x005, 0x006, 0x007, 0x008, 0x009, 0x00A, 0x00B, 0x00C, 0x00D, 0x00E, 0x010, 0x011, 0x012, 0x013,
    0x020, 0x021, 0x022, 0x023, 0x024, 0x030, 0x040, 0x041, 0x110, 0x111, 0x200, 0x201, 0x202, 0x203, 0x204, 0x205, 0x206, 0x207,
    0x400, 0x401, 0x402, 0x403, 0x404, 0x405, 0x406, 0x407, 0x408, 0x409, 0x40A, 0x510, 0x700].contains n ||
    (decide (0x300 ≤ n) && decide (n < 0x380))

/-- The registers of the vector context (R275). -/
def ofContext (n : Nat) : Bool := [0x001, 0x002, 0x004, 0x005, 0x009, 0x00A, 0x041].contains n

/-- TEPC and TSCR0 to TSCR3 (R277). -/
def ofHandler (n : Nat) : Bool := [0x401, 0x407, 0x408, 0x409, 0x40A].contains n

/-- The stopped queue of the strand (R285). -/
def stopped (s : State) : List QEntry := if s.me.qstop then s.me.vctx.queue else []

/-- Register 0x300 + n of the manifest of a launch (Table 18.3): MLCC, MSTAT, and a hash once it is fixed, MHMODE from the
placement on. -/
def manifestValue (l : Launch) (n : Nat) : Nat :=
  if n = 0x2A then (l.record.getD 1 0).toNat % 2 ^ 31
  else if n = 0x2B then (if l.hashes = [] then 0 else 1)
  else if 0x2A < n then 0
  else if l.hashes ≠ [] then (l.hashes.getD n 0).toNat
  else if n / 6 = 1 then ((sha384 (toBytes 8 (l.record.getD 1 0).toNat)).getD (n % 6) 0).toNat
  else 0

/-- The values of the registers but the barrier's and the ring's. -/
def plainValue (s : State) (n : Nat) : Option Nat :=
  match n with
  | 0x004 => some s.me.vctx.cnt.toNat
  | 0x007 => some (match s.me.dumped ++ s.me.vctx.queue with | e :: _ => e.addr.toNat | [] => s.me.pc.toNat)
  | 0x008 => some (match stopped s with | e :: _ => e.prog | [] => 0)
  | 0x00B => some (if stopped s = [] then 0 else s.me.vpsel.toNat)
  | 0x00C => some ((stopped s).length * 2 ^ 32 + match (stopped s)[s.me.vpsel.toNat]? with | some e => encodeNat e.instr | none => 0)
  | 0x00D => some (match (stopped s)[s.me.vpsel.toNat]? with | some e => e.addr.toNat | none => 0)
  | 0x00E => some (match (stopped s)[s.me.vpsel.toNat]? with | some e => e.prog | none => 0)
  | 0x010 => some (s.me.cspec.get 0).toNat
  | 0x012 => some (s.me.cspec.get 2).toNat
  | 0x013 => some (s.me.cspec.get 3).toNat
  | 0x023 => let p := tget (0, 0) (fnOf s s.me.fn).pools (s.me.core / 64); some (p.2 * 2 ^ 16 + p.1)
  | 0x110 => let h := hearthOf s s.me.core; some (h.duty * 2 ^ 24 + freeMacros h * 2 ^ 16 + freeRows s s.me.core)
  | 0x111 => some ((List.range 16).map fun j =>
      let n := tget 0 (hearthOf s s.me.core).heights j
      (if n = 0 then 0 else if n = 1024 then 1 else if n = 2048 then 2 else 3) * 4 ^ j).sum
  | 0x406 => some (match ownerOf s s.me.core with | some st => (st.ctxarea + 1).toNat | none => 0)
  | 0x408 => some (s.me.tscr.get 1).toNat
  | 0x409 => some (s.me.tscr.get 2).toNat
  | 0x700 => some (((List.range 256).map fun e => (cget zeros s.census (s.me.core * 256 + e)).rotateLeft (e % 64)).foldr
      (· ^^^ ·) (0 : Word)).toNat
  | 0x001 => some s.me.vctx.vl
  | 0x002 => some s.me.vctx.vshape.toNat
  | 0x003 => some (s.me.lc + 2 ^ 8 * s.me.epoch + 2 ^ 16 * s.me.issue)
  | 0x005 => some s.me.vctx.mfcr.toNat
  | 0x006 => some s.me.xflags.toNat
  | 0x009 => some s.me.vctx.mvl.toNat
  | 0x00A => some s.me.vctx.mgrant
  | 0x011 => some (s.me.cspec.get 1).toNat
  | 0x020 => some s.me.notify.toNat
  | 0x021 => some s.me.pwstat.toNat
  | 0x022 => some s.me.pwctl.toNat
  | 0x024 => some s.me.pref.toNat
  | 0x030 => some (if s.me.det then 1 else 0)
  | 0x040 => some s.me.dseed.toNat
  | 0x041 => some s.me.vctx.didx.toNat
  | 0x200 => some (2 ^ 32 * s.me.gang + 2 ^ 24 * s.me.gsize + 2 ^ 16 * s.me.lsn + 2 ^ 6 * (s.me.core / 64) + s.me.core % 64)
  | 0x201 => some s.me.gcount
  | 0x400 => some s.me.tcause.toNat
  | 0x401 => some s.me.tepc.toNat
  | 0x402 => some s.me.tval.toNat
  | 0x403 => some ((if s.me.hm then 1 else 0) + (if s.me.vown then 2 else 0) + (if s.me.qstop then 4 else 0) +
      (if s.me.pre then 8 else 0) + (if s.me.ev then 16 else 0))
  | 0x404 => some s.me.thandler.toNat
  | 0x405 => some s.me.ctxarea.toNat
  | 0x407 => some (s.me.tscr.get 0).toNat
  | 0x40A => some (s.me.tscr.get 3).toNat
  | 0x510 => some 0
  | _ => if 0x300 ≤ n ∧ n < 0x380 then (launchFind s s.me.fn s.me.lseq).map fun l => manifestValue l (n - 0x300) else none

/-- SYSWR, SYSSET and SYSCLR. -/
def sysInstr (o : SysOp) (a : BitVec 5) (n : BitVec 12) : Instr :=
  match o with
  | .wr => .syswr a n
  | .set => .sysset a n
  | .clr => .sysclr a n

/-- What SYSWR, SYSSET and SYSCLR make of a read-write field (R275). -/
def sysNew (o : SysOp) (old v : Word) : Word :=
  match o with
  | .wr => v
  | .set => old ||| v
  | .clr => old &&& ~~~v

/-- Registers whose bits below the given width are read-write, any value accepted. -/
def freeWidth (n : Nat) : Option Nat :=
  match n with
  | 0x006 => some 6
  | 0x011 | 0x012 | 0x013 => some 64
  | 0x022 | 0x041 => some 32
  | 0x401 | 0x407 | 0x408 | 0x409 | 0x40A => some 64
  | _ => none

/-- A strand may name the register: its own vector context, and handler mode for the handler's registers. -/
def mayName (s : State) (n : Nat) : Prop := (ofContext n = true → s.me.vown = true) ∧ (ofHandler n = true → s.me.hm = true)

end Sys2Proof.Claims

/-! ## System registers, traps and control -/

/-- R204, R275, R277, R285: SYSRD completes for every assigned register that the strand may name: D receives its value, and
nothing else changes, but that the reads of BARSTAT, ITERSTAT and ITERF0 to ITERF3 let the strand's node observe its gang,
whose state they show; every other register reads as the table of its chapter says, and the dump registers read 0 with no
stopped queue. A number that no chapter assigns raises "illegal instruction", a context register without the context cause
0x09, and a handler register outside handler mode cause 0x12 with no register written. R340, R341: for TSCR0 to TSCR3 that is
debug misuse too: with the level of its sensor at 1 the strand takes the trap, the sensor is logged, the alarm stands at 1 at
least, vector 0 of the physical function is raised, and nothing else changes; the other levels are those of R341. The model's choices:
the node observes every change that the ring has applied as the register is read (log 69), where R204 gives what it has observed by
then; and VCP with nothing outstanding is the address of the SYSRD (log 62). -/
def Obligations.SystemRegisterReads : Prop :=
  ∀ (s : State) (d : BitVec 5) (n : BitVec 12), Running s →
    (assigned n.toNat = true → mayName s n.toNat → n.toNat < 0x202 ∨ 0x207 < n.toNat →
      ∃ t v, exec (.sysrd d n) s = .next t ∧ WritesReg s t d v ∧ t.me.pc = s.me.pc + 4 ∧ SameButRegs s t ∧ SameBytes s t ∧
        (∀ x, plainValue s n.toNat = some x → v = word x) ∧
        (s.me.qstop = true → s.me.vctx.queue ≠ [] → n.toNat = 0x00B → v = s.me.vpsel.setWidth 64) ∧
        (s.me.qstop = false → n.toNat ∈ [0x008, 0x00B, 0x00C, 0x00D, 0x00E] → v = 0)) ∧
    (0x202 ≤ n.toNat → n.toNat ≤ 0x207 → s.defer = false → ∀ g m, myGang s = some g → g.members[s.me.lsn]? = some m →
      ∃ t v, exec (.sysrd d n) s = .next t ∧ WritesReg s t d v ∧ t.me.pc = s.me.pc + 4 ∧ t.gangs = (observe s).gangs ∧
        { t with gangs := s.gangs, me := { t.me with pc := s.me.pc, regs := s.me.regs, acquired := s.me.acquired } } = s ∧
        (n.toNat = 0x202 → v = word (g.phase % 2 ^ 32 * 2 ^ 32 + (if m.arr then 2 ^ 7 else 0) +
          g.members.countP fun x => x.ended || x.arr)) ∧
        (n.toNat = 0x203 → ∀ k : Fin 4, v.getLsbD k = (g.loops.get k).set) ∧
        ∀ k : Fin 4, n.toNat = 0x204 + k → v = if (g.loops.get k).set then (g.loops.get k).f else 0) ∧
    (assigned n.toNat = false →
      exec (.sysrd d n) s = .next (takeTrap 1 0 false false s.me.pc (word (encodeNat (.sysrd d n))) s)) ∧
    (ofContext n.toNat = true → s.me.vown = false →
      exec (.sysrd d n) s = .next (takeTrap 9 0 false false s.me.pc 0 s)) ∧
    (n.toNat = 0x401 → s.me.hm = false →
      exec (.sysrd d n) s = .next (takeTrap 0x12 0 false false s.me.pc 0 s)) ∧
    (0x407 ≤ n.toNat → n.toNat ≤ 0x40A → s.me.hm = false →
      let u := takeTrap 0x12 0 false false s.me.pc 0 s
      ∃ t, exec (.sysrd d n) s = .next t ∧
        (s.dev.levels.getD 3 1 = 1 → t.dev.sensorLog = s.dev.sensorLog ++ [3] ∧ t.dev.alarm = max s.dev.alarm 1 ∧
          t.dev.msix = s.dev.msix ++ [0] ∧
          { t with dev := { t.dev with alarm := u.dev.alarm, msix := u.dev.msix, sensorLog := u.dev.sensorLog } } = u))

/-- R275: SYSWR, SYSSET and SYSCLR complete on every register whose bits below its width are read-write: it then reads as the
written value, the old value or A, and the old value and not A, and every other such register reads as before.
R214: a queued command keeps CSPEC1 to CSPEC3 as they stood in its program order.
R7, R120, R275: SYSWR of VSHAPE completes on the values of Table 6.2 and raises "illegal instruction" on any other, which leaves
the register unchanged; a 1 written to NOTIFY clears its bit; and a write of a read-only register changes nothing. -/
def Obligations.SystemRegisterWrites : Prop :=
  (∀ (s : State) (o : SysOp) (a : BitVec 5) (n : BitVec 12) (w : Nat), Running s → freeWidth n.toNat = some w →
    mayName s n.toNat →
    ∃ t old, exec (sysInstr o a n) s = .next t ∧ sysRead s n.toNat = some old ∧
      sysRead t n.toNat = some (word ((sysNew o old (reg s a)).toNat % 2 ^ w)) ∧ t.me.pc = s.me.pc + 4 ∧ SameBytes s t ∧
      (∀ m, (freeWidth m).isSome → m ≠ n.toNat → sysRead t m = sysRead s m) ∧
      (let keep := fun e : QEntry =>
        if 0x11 ≤ n.toNat ∧ n.toNat ≤ 0x13 ∧ isCommand e.instr = true ∧ e.spec = none then { e with spec := some s.me.cspec } else e
       t.me.vctx.queue = s.me.vctx.queue.map keep ∧ t.me.dumped = s.me.dumped.map keep) ∧
      { t with me := { t.me with
          pc := s.me.pc, xflags := s.me.xflags, cspec := s.me.cspec, pwctl := s.me.pwctl, tepc := s.me.tepc,
          tscr := s.me.tscr, dumped := s.me.dumped
          vctx := { t.me.vctx with didx := s.me.vctx.didx, queue := s.me.vctx.queue } } } = s) ∧
  (∀ (s : State) (a : BitVec 5), Running s →
    (∀ o, ∃ t, exec (sysInstr o a 0x00B) s = .next t ∧
      t.me.vpsel = (sysNew o (s.me.vpsel.setWidth 64) (reg s a)).setWidth 5 ∧ t.me.pc = s.me.pc + 4 ∧
      { t with me := { t.me with pc := s.me.pc, vpsel := s.me.vpsel } } = s) ∧
    (s.me.vown = true → shapeOk (reg s a) = true →
      ∃ t, exec (.syswr a 0x002) s = .next t ∧ t.me.vctx.vshape = reg s a ∧ t.me.pc = s.me.pc + 4 ∧
        { t with me := { t.me with pc := s.me.pc, vctx := { t.me.vctx with vshape := s.me.vctx.vshape } } } = s) ∧
    (s.me.vown = true → shapeOk (reg s a) = false →
      exec (.syswr a 0x002) s = .next (takeTrap 1 0 false false s.me.pc (word (encodeNat (.syswr a 0x002))) s)) ∧
    (∃ t, exec (.syswr a 0x020) s = .next t ∧ t.me.notify = s.me.notify &&& ~~~(reg s a).setWidth 34 ∧
      t.me.pc = s.me.pc + 4 ∧ { t with me := { t.me with pc := s.me.pc, notify := s.me.notify } } = s) ∧
    ∀ n ∈ [0x003, 0x007, 0x008, 0x00C, 0x00D, 0x00E, 0x021, 0x023, 0x024, 0x030, 0x040, 0x110, 0x111, 0x200, 0x201, 0x202, 0x203,
        0x204, 0x400, 0x402, 0x404, 0x405, 0x406, 0x700],
      ∃ t, exec (.syswr a (BitVec.ofNat 12 n)) s = .next t ∧ t.me.pc = s.me.pc + 4 ∧ SameButPc s t)

/-- R278: taking a trap outside handler mode completes what is outstanding, writes TCAUSE (the cause, its origin, RESUME and the
tag), TEPC and TVAL, enters handler mode and passes control to THANDLER; beyond what was outstanding no scalar register, no vector
register and no byte changes. R280: a trap raised in handler mode is not entered: the strand ends as END in handler mode does, a
stopped queue and a dump discarded, TCAUSE holds the nested cause, and TEPC, TVAL and PC keep their values. R281: TRAP and BKPT
enter the handler with cause 0x0D and 0x0C, their tag in TCAUSE and TEPC the next word. R281: ERET in handler mode leaves it, lets
the stopped queue move again and fetches from TEPC; outside handler mode it raises "security violation" with no change of TEPC.
With TSTAT.PRE set the strand is taken off; in deterministic mode its stores go on waiting for a drain (R99). What is outstanding
are the loads, and the atomics on their way. The model's choice (log 7): a trap performs what is kept behind a VFENCE of the
stopped queue too, with the stores that it must follow, where R278 names scalar loads alone and R29 puts every earlier access
before the handler. -/
def Obligations.TrapsTakenAndReturned : Prop :=
  ((∀ (cause tag : Nat) (vec resume : Bool) (epc tval : Word) (s : State), s.me.hm = false → traced s = false →
    let u := completeAll s
    let t := takeTrap cause tag vec resume epc tval s
    t.me.tcause = word (cause + (if vec then 256 else 0) + (if resume then 512 else 0) + 2 ^ 20 * tag) ∧ t.me.tepc = epc ∧
      t.me.tval = tval ∧ t.me.hm = true ∧ t.me.pc = s.me.thandler ∧ t.me.status = .run ∧ t.me.ending = false ∧ SameBytes u t ∧
      { t with me := { t.me with
          tcause := u.me.tcause, tepc := u.me.tepc, tval := u.me.tval, hm := false, pc := u.me.pc, status := u.me.status,
          ending := u.me.ending } } = u) ∧
  (∀ (cause tag : Nat) (vec resume : Bool) (epc tval : Word) (s : State), s.me.hm = true →
    let u := completeAll s
    let t := takeTrap cause tag vec resume epc tval s
    field t.me.tcause 7 0 = cause % 256 ∧ t.me.ending = true ∧ t.me.endOff = true ∧ t.me.status = .run ∧ t.me.qstop = false ∧
      t.me.stand = none ∧ t.me.dumped = [] ∧
      t.me.vctx = (if u.me.qstop = true then { u.me.vctx with queue := [], bufs := [] } else u.me.vctx) ∧
      { t with me := { t.me with
          tcause := u.me.tcause, ending := u.me.ending, endOff := u.me.endOff, status := u.me.status, qstop := u.me.qstop,
          stand := u.me.stand, dumped := u.me.dumped, vctx := u.me.vctx } } = u)) ∧
  ((∀ (s : State) (tag : BitVec 12), Running s → s.me.hm = false →
    let u := completeAll s
    (∃ t, exec (.trap tag) s = .next t ∧ t.me.tcause = word (0x0D + 2 ^ 20 * tag.toNat) ∧ t.me.tepc = s.me.pc + 4 ∧
      t.me.tval = 0 ∧ t.me.hm = true ∧ t.me.pc = s.me.thandler ∧ t.me.regs = u.me.regs ∧ t.me.vctx = u.me.vctx ∧
      SameBytes u t ∧ (NothingOut s → u = s)) ∧
    ∃ t, exec (.bkpt tag) s = .next t ∧ t.me.tcause = word (0x0C + 2 ^ 20 * tag.toNat) ∧ t.me.tepc = s.me.pc + 4 ∧
      t.me.tval = 0 ∧ t.me.hm = true ∧ t.me.pc = s.me.thandler ∧ t.me.regs = u.me.regs ∧ t.me.vctx = u.me.vctx ∧
      SameBytes u t) ∧
  (∀ (s : State), Running s →
    (s.me.hm = true → s.me.pre = false → s.me.susp = none →
      ∃ t, exec .eret s = .next t ∧ t.me.pc = s.me.tepc ∧ t.me.hm = false ∧ t.me.qstop = false ∧
        { t with me := { t.me with pc := s.me.pc, hm := s.me.hm, qstop := s.me.qstop } } = s) ∧
    (s.me.hm = false → exec .eret s = .next (takeTrap 0x12 0 false false s.me.pc 0 s)) ∧
    (s.me.hm = true → s.me.pre = true → ∃ t, exec .eret s = .next t ∧ t.me.status = .off ∧
      (s.me.det = false → t.me.wcb = [] ∧ t.me.hpath = []) ∧
      (s.me.det = true → t.me.wcb = (completeAll s).me.wcb ∧ t.spad = (completeAll s).spad))))

/-- R22, R282, R283: END of a strand with nothing to wait for frees its slot with its stores performed; YIELD passes the
turn to the next ready slot of the core, the strand going on after it; WFE clears an event that is set, and waits where none is. -/
def Obligations.EndYieldWait : Prop :=
  ∀ (s : State), Running s →
    (NoDrain s → s.me.hm = false → s.me.ending = false → s.me.dumped = [] → s.me.fifos = [] → s.me.vctx.queue = [] →
      traced s = false →
      let u := flushAll (completeAll s)
      ∃ t, exec .endStrand s = .next t ∧ t.me = Strand.reset ∧ t.host = u.host ∧ t.spad = u.spad) ∧
    (∀ j, nextReady (advance s) s.me.core = some j →
      ∃ t, exec .yield s = .next t ∧ activeSlot t s.me.core = j ∧ t.me.core = s.me.core ∧ t.me.slot = j ∧
        strandAt t s.me.core s.me.slot = some { s.me with pc := s.me.pc + 4 }) ∧
    (s.me.ev = true → ∃ t, exec .wfe s = .next t ∧ t.me.pc = s.me.pc + 4 ∧ t.me.ev = false ∧ t.me.status = .run ∧
      { t with me := { t.me with pc := s.me.pc, ev := s.me.ev } } = s) ∧
    (s.me.ev = false → ∃ t, exec .wfe s = .next t ∧ t.me.pc = s.me.pc + 4 ∧ t.me.status = .wfe ∧
      { t with me := { t.me with pc := s.me.pc, status := s.me.status } } = s)

/-- R287: VSAVE in handler mode changes nothing but PC where nobody owns the core's context. Else, for the strand's own
context and for another strand's, it writes the image of the owner's context to the area, after what is outstanding, and the
owner's queue leaves the core for its dump; of the strand's own waiting stores those to the area are earlier than its image,
and the others wait on (R99). VREST on a core whose context nobody owns takes the placement context where the area has format
0, and the saved context where it has format 1 and its IDENT and CHECK match: the entries of the area's dump are then the
stopped queue, each with the operands and the progress that its 256 bytes hold. On an owned core VREST raises cause 0x11, and
outside handler mode both raise cause 0x12. The model's choices: CHECK is a free value over the area's head (log 5, log 38),
and what an entry's device-state bytes stand for is kept by the device (log 39). -/
def Obligations.SaveAndRestore : Prop :=
  ∀ (s : State) (a : BitVec 5), Running s →
    (s.me.hm = true → ownerOf s s.me.core = none → exec (.vsave a) s = .next (advance s)) ∧
    (s.me.hm = true → s.me.vown = true → ∀ ls, areaPages s (reg s a).toNat .store = .ok ls →
      let u := settle (evenOut (servePort s.me.core (completeAll s)))
      ∃ t, exec (.vsave a) s = .next t ∧ t.me.pc = s.me.pc + 4 ∧ t.me.vown = false ∧ t.me.dumped = u.me.vctx.queue ∧
        t.me.vctx = { u.me.vctx with queue := [], bufs := [] } ∧ t.me.regs = u.me.regs ∧
        t.host = (areaWrite ls (areaImage u.me) u).host ∧ t.spad = (areaWrite ls (areaImage u.me) u).spad ∧
        t.me.wcb = (dropArea ls u).me.wcb ∧ t.me.hpath = (dropArea ls u).me.hpath) ∧
    (s.me.hm = true → s.me.vown = false → ((s.me :: s.others).filter (owns s.me.core)).length = 1 →
      (∀ x ∈ s.others, isStrand s.me.fn s.me.lseq s.me.gang s.me.lsn x = false) →
      ∀ ls o, areaPages s (reg s a).toNat .store = .ok ls →
      let u := settle (onBy (owns s.me.core) (fun s => evenOut (servePort s.me.core (saveOut s))) s)
      ownerOf u s.me.core = some o →
      ∃ t, exec (.vsave a) s = .next t ∧ t.me.pc = s.me.pc + 4 ∧ t.me.vown = false ∧ ownerOf t s.me.core = none ∧
        (∃ x ∈ t.others, x.fn = o.fn ∧ x.lseq = o.lseq ∧ x.gang = o.gang ∧ x.lsn = o.lsn ∧ x.dumped = o.vctx.queue ∧
          x.vctx = { o.vctx with queue := [], bufs := [] } ∧ x.regs = o.regs) ∧
        t.host = (areaWrite ls (areaImage o) u).host ∧ t.spad = (areaWrite ls (areaImage o) u).spad) ∧
    (s.me.hm = true → ownerOf s s.me.core = none → ∀ ls l, areaPages s (reg s a).toNat .store = .ok ls →
      wordAt (areaBytes (flushAll s) ls 0 0x2100) 0 = 0 → launchFind s s.me.fn s.me.lseq = some l →
      ∃ t, exec (.vrest a) s = .next t ∧ t.me.pc = s.me.pc + 4 ∧ t.me.vown = true ∧ t.me.dumped = [] ∧
        t.me.vctx = { placementCtx l with vlSpan := s.me.vctx.vlSpan + 1 } ∧ t.me.regs = (settle s).me.regs) ∧
    (s.me.hm = true → ownerOf s s.me.core = none → ∀ ls, areaPages s (reg s a).toNat .store = .ok ls →
      let hd := areaBytes (flushAll s) ls 0 0x2100
      let n := (wordAt hd 9).toNat
      let bs := fun k => (hd.drop (0x100 + 256 * k)).take 256
      wordAt hd 0 = 1 → (wordAt hd 1).toNat = identOf s.me → s.dev.checkKey = true → (wordAt hd 31).toNat = headCheck s.me.fn hd →
      n ≤ 32 → ∀ is : Nat → Instr, (∀ k < n, decodeNat (ofBytes ((bs k).take 4)) = .ok (is k)) →
      ∃ t, exec (.vrest a) s = .next t ∧ t.me.pc = s.me.pc + 4 ∧ t.me.vown = true ∧ t.me.dumped = [] ∧ t.me.qstop = true ∧
        t.me.vctx = ctxOf (flushAll s) ls t.me.vctx.queue s.me.vctx.vlSpan ∧ t.me.regs = (settle s).me.regs ∧
        t.me.vctx.queue.length = n ∧
        ∀ k e, t.me.vctx.queue[k]? = some e →
          let w := wordAt (bs k)
          e.instr = is k ∧ e.addr = w 1 ∧ e.prog = (w 2).toNat ∧ e.a = w 3 ∧ e.b = w 4 ∧ e.d = w 5 ∧ e.vshape = w 6 ∧
            e.vl = (w 7).toNat ∧ e.mvl = w 8 ∧ e.mfcr = w 9) ∧
    (s.me.hm = true → (∃ st, ownerOf s s.me.core = some st) →
      exec (.vrest a) s = .next (takeTrap 0x11 0 false false s.me.pc 0 s)) ∧
    (s.me.hm = false → exec (.vsave a) s = .next (takeTrap 0x12 0 false false s.me.pc 0 s) ∧
      exec (.vrest a) s = .next (takeTrap 0x12 0 false false s.me.pc 0 s))

namespace Sys2Proof.Claims

open Sys2Proof Sys2Proof.Machine

/-! ### Elements -/

/-- Element i of a group of elements of width w under the declared count. -/
def elemW (s : State) (w : Nat) (v : BitVec 5) (i : Nat) : Nat := elemGet s.me.vctx.vf (rbOf s.me.vctx.cnt) w v.toNat i

def on (s : State) (m : BitVec 2) (i : Nat) : Bool := maskBit s.me.vctx m.toNat i

/-- The loop of R148 over the elements below VL of a group d of width w: enabled elements take what f gives them, masked-off ones
the zero z under MPOL, and XFLAGS takes the flags of the enabled ones. Every other element and byte keeps its value. -/
def LoopResult (s t : State) (w : Nat) (d : BitVec 5) (m : BitVec 2) (z : Nat) (f : Nat → Option FR) : Prop :=
  (∀ i < s.me.vctx.vl, on s m i = true →
    elemW t w d i = match f i with | some r => r.v % 2 ^ w | none => elemW s w d i) ∧
  (∀ i < s.me.vctx.vl, on s m i = false →
    elemW t w d i = if mpolOf s.me.vctx.vshape then z % 2 ^ w else elemW s w d i) ∧
  (∀ i, s.me.vctx.vl ≤ i → elemW t w d i = elemW s w d i) ∧
  (∀ x, x < d.toNat * rbOf s.me.vctx.cnt ∨ d.toNat * rbOf s.me.vctx.cnt + (s.me.vctx.vl * w + 7) / 8 ≤ x →
    vbyte t x = vbyte s x) ∧
  ∀ k < 6, t.me.xflags.getLsbD k = (s.me.xflags.getLsbD k ||
    (List.range s.me.vctx.vl).any fun i => on s m i && (f i).any fun r => r.fl.testBit k)

/-- The environment of element i of an arithmetic instruction. -/
def env (s : State) (i : Nat) : FEnv :=
  { et := etypeOf s.me.vctx.vshape, sew := sewOf s.me.vctx.vshape, sat := satOf s.me.vctx.vshape,
    mode := modeOf s.me.vctx.vshape s.me.vctx s.me.dseed i }

/-- b(i): replicated operands repeat their first 4^BSZ elements (R68). -/
def rep (z : BitVec 2) (c : BitVec 1) (i : Nat) : Nat := if c = 1 then i % 4 ^ z.toNat else i

/-- The operation of a mnemonic with its operand forms: destination, sources that are vectors, mask, the ETYPE values it is
defined for, and the operands a(i), b(i) and d(i) as patterns. -/
structure Form where
  op : VOp
  d : BitVec 5
  rs : List (BitVec 5)
  m : BitVec 2
  a : State → Nat → Nat
  b : BitVec 5
  z : BitVec 2
  c : BitVec 1

def vv (op : VOp) (d a b : BitVec 5) (q : VMod) : Option Form :=
  some ⟨op, d, [d, a, b], q.m, fun s i => velem s a i, b, q.z, q.c⟩

def vs (op : VOp) (d a b : BitVec 5) (q : SMod) : Option Form :=
  some ⟨op, d, [d, b], q.m, fun s _ => (reg s a).toNat % 2 ^ sewOf s.me.vctx.vshape, b, q.z, q.c⟩

/-- The immediate is signed, and unsigned for shifts (R147). -/
def vi (op : VOp) (d b : BitVec 5) (x : Int) (q : SMod) : Option Form :=
  some ⟨op, d, [d, b], q.m, fun s _ => immVal (etypeOf s.me.vctx.vshape) (sewOf s.me.vctx.vshape) x, b, q.z, q.c⟩

def un (op : VOp) (d b : BitVec 5) (q : SMod) : Option Form := some ⟨op, d, [d, b], q.m, fun _ _ => 0, b, q.z, q.c⟩

/-- The arithmetic instructions of Tables 8.1 and 8.2. -/
def form : Instr → Option Form
  | .vadd d a b q => vv .add d a b q
  | .vsub d a b q => vv .sub d a b q
  | .vrsub d a b q => vv .rsub d a b q
  | .vmin d a b q => vv .min d a b q
  | .vmax d a b q => vv .max d a b q
  | .vand d a b q => vv .and d a b q
  | .vor d a b q => vv .or d a b q
  | .vxor d a b q => vv .xor d a b q
  | .vmul d a b q => vv .mul d a b q
  | .vmulh d a b q => vv .mulh d a b q
  | .vmacc d a b q => vv .macc d a b q
  | .vnmacc d a b q => vv .nmacc d a b q
  | .vdiv d a b q => vv .div d a b q
  | .vrem d a b q => vv .rem d a b q
  | .vsll d a b q => vv .sll d a b q
  | .vsrl d a b q => vv .srl d a b q
  | .vsra d a b q => vv .sra d a b q
  | .vbfx d a b q => vv .bfx d a b q
  | .vfshr d a b q => vv .fshr d a b q
  | .vaddVs d a b q => vs .add d a b q
  | .vsubVs d a b q => vs .sub d a b q
  | .vrsubVs d a b q => vs .rsub d a b q
  | .vminVs d a b q => vs .min d a b q
  | .vmaxVs d a b q => vs .max d a b q
  | .vandVs d a b q => vs .and d a b q
  | .vorVs d a b q => vs .or d a b q
  | .vxorVs d a b q => vs .xor d a b q
  | .vmulVs d a b q => vs .mul d a b q
  | .vmulhVs d a b q => vs .mulh d a b q
  | .vmaccVs d a b q => vs .macc d a b q
  | .vnmaccVs d a b q => vs .nmacc d a b q
  | .vdivVs d a b q => vs .div d a b q
  | .vremVs d a b q => vs .rem d a b q
  | .vsllVs d a b q => vs .sll d a b q
  | .vsrlVs d a b q => vs .srl d a b q
  | .vsraVs d a b q => vs .sra d a b q
  | .vbfxVs d a b q => vs .bfx d a b q
  | .vfshrVs d a b q => vs .fshr d a b q
  | .vaddVi d b i q => vi .add d b i.toInt q
  | .vsubVi d b i q => vi .sub d b i.toInt q
  | .vrsubVi d b i q => vi .rsub d b i.toInt q
  | .vminVi d b i q => vi .min d b i.toInt q
  | .vmaxVi d b i q => vi .max d b i.toInt q
  | .vandVi d b i q => vi .and d b i.toInt q
  | .vorVi d b i q => vi .or d b i.toInt q
  | .vxorVi d b i q => vi .xor d b i.toInt q
  | .vsllVi d b i q => vi .sll d b i.toNat q
  | .vsrlVi d b i q => vi .srl d b i.toNat q
  | .vsraVi d b i q => vi .sra d b i.toNat q
  | .vclz d b q => un .clz d b q
  | .vpopc d b q => un .popc d b q
  | .vsqrt d b q => un .sqrt d b q
  | .vabs d b q => un .abs d b q
  | .vneg d b q => un .neg d b q
  | .vclass d b q => un .cls d b q
  | .vrecip d b q => un .recip d b q
  | .vmv d b q => un .mv d b q
  | _ => none

/-- The type table: integers, floats and both (Table 3.7). -/
def definedFor (o : VOp) (et : Nat) : Bool :=
  match o with
  | .add | .sub | .rsub | .min | .max | .mul | .macc | .nmacc | .div | .abs | .neg => decide (et < 6)
  | .and | .or | .xor | .mulh | .rem | .sll | .srl | .sra | .clz | .popc | .bfx | .fshr => decide (et < 2)
  | .sqrt | .recip | .cls => decide (2 ≤ et) && decide (et < 6)
  | .mv => true

/-- Results of R151 and Table 8.1 on w-bit integers: a, b and d read as the type says, before the result is resolved. -/
def exactInt (o : VOp) (w : Nat) (signed : Bool) (a b d : Int) : Option Int :=
  match o with
  | .add => some (a + b)
  | .sub => some (a - b)
  | .rsub => some (b - a)
  | .mul => some (a * b)
  | .macc => some (d + a * b)
  | .nmacc => some (d - a * b)
  | .div => some (if b = 0 then (if signed then -1 else 2 ^ w - 1) else a.tdiv b)
  | .abs => some |b|
  | .neg => some (-b)
  | _ => none

/-! Bit patterns of the IEEE formats (R128, Table 7.1), read without their values. -/

/-- A format by its exponent and mantissa bits. -/
structure Layout where
  e : Nat
  m : Nat

/-- FP64, FP32, BF16 and FP16 by their ETYPE. -/
def layout (et : Nat) : Layout :=
  match et with
  | 2 => ⟨11, 52⟩
  | 3 => ⟨8, 23⟩
  | 4 => ⟨8, 7⟩
  | _ => ⟨5, 10⟩

def Layout.sign (p : Layout) : Nat := 2 ^ (p.e + p.m)

def Layout.mag (p : Layout) (x : Nat) : Nat := x % p.sign

def Layout.neg (p : Layout) (x : Nat) : Bool := x / p.sign % 2 == 1

/-- The pattern of infinity without its sign. -/
def Layout.top (p : Layout) : Nat := (2 ^ p.e - 1) * 2 ^ p.m

def Layout.inf (p : Layout) (x : Nat) : Bool := p.mag x == p.top

def Layout.zero (p : Layout) (x : Nat) : Bool := p.mag x == 0

def Layout.nan (p : Layout) (x : Nat) : Bool := decide (p.top < p.mag x)

/-- A NaN whose greatest mantissa bit is 0 signals. -/
def Layout.snan (p : Layout) (x : Nat) : Bool := p.nan x && decide (x % 2 ^ p.m < 2 ^ (p.m - 1))

def Layout.finite (p : Layout) (x : Nat) : Bool := decide (p.mag x < p.top)

/-- The canonical NaN. -/
def Layout.quiet (p : Layout) : Nat := p.top + 2 ^ (p.m - 1)

def Layout.signed (p : Layout) (neg : Bool) (x : Nat) : Nat := (if neg then p.sign else 0) + x

/-- The order of the patterns that are no NaN, −0 below +0. -/
def Layout.rank (p : Layout) (x : Nat) : Int := if p.neg x then -(p.mag x : Int) - 1 else p.mag x

/-- The order of the numbers, −0 equal to +0. -/
def Layout.num (p : Layout) (x : Nat) : Int := if p.neg x then -(p.mag x : Int) else p.mag x

/-- The bit of R154 that classifies a pattern. -/
def Layout.cls (p : Layout) (x : Nat) : Nat :=
  if p.nan x then (if p.snan x then 8 else 9)
  else if p.inf x then (if p.neg x then 0 else 7)
  else if p.zero x then (if p.neg x then 3 else 4)
  else if p.mag x < 2 ^ p.m then (if p.neg x then 2 else 5)
  else if p.neg x then 1 else 6

/-- NV where a condition holds. -/
def nv (c : Bool) : Nat := if c then 16 else 0

/-- An exact infinity of either sign. -/
def Layout.infinity (p : Layout) (neg : Bool) : Nat := p.signed neg p.top

/-- A w-bit pattern read as an integer. -/
def asInt (w : Nat) (signed : Bool) (x : Nat) : Int := if signed then (BitVec.ofNat w x).toInt else (x % 2 ^ w : Nat)

/-- The mask instructions of two sources, and MNOT: D with its function of the two bits (R155). -/
def maskForm : Instr → Option (BitVec 5 × BitVec 5 × BitVec 5 × (Bool → Bool → Bool))
  | .mand d a b => some (d, a, b, fun x y => x && y)
  | .mor d a b => some (d, a, b, fun x y => x || y)
  | .mxor d a b => some (d, a, b, fun x y => x != y)
  | .mandn d a b => some (d, a, b, fun x y => x && !y)
  | .mnot d a => some (d, a, a, fun x _ => !x)
  | _ => none

/-- Bit i of mask register m. -/
def mbit (s : State) (m : BitVec 5) (i : Nat) : Bool := maskBit s.me.vctx m.toNat i

/-- Mask register d takes f below VL and keeps its other bits; every other mask register keeps its bits. m0 reads as ones. -/
def MaskResult (s t : State) (d : BitVec 5) (f : Nat → Bool) : Prop :=
  (∀ i < s.me.vctx.vl, mbit t d i = if d = 0 then true else f i) ∧
  (∀ i, s.me.vctx.vl ≤ i → i < 65536 → mbit t d i = mbit s d i) ∧
  ∀ m i, m ≠ d → i < 65536 → mbit t m i = mbit s m i

/-- The compares: D, the sources that are vectors, the condition, a(i), B with its replication, and the mask. -/
structure CForm where
  d : BitVec 5
  rs : List (BitVec 5)
  q : BitVec 3
  a : State → Nat → Nat
  b : BitVec 5
  z : BitVec 2
  c : BitVec 1
  m : BitVec 2

def cform : Instr → Option CForm
  | .vcmp d a b q o => some ⟨d, [a, b], q, fun s i => velem s a i, b, o.z, o.c, o.m⟩
  | .vcmpVs d a b q o => some ⟨d, [b], q, fun s _ => (reg s a).toNat % 2 ^ sewOf s.me.vctx.vshape, b, o.z, o.c, o.m⟩
  | .vcmpVi d b q i o =>
    some ⟨d, [b], q, fun s _ => immVal (etypeOf s.me.vctx.vshape) (sewOf s.me.vctx.vshape) i.toInt, b, o.z, o.c, o.m⟩
  | _ => none

/-- Conditions of R153 and the types they are defined for. -/
def condFor (q : BitVec 3) (et : Nat) : Bool :=
  if q = 4 ∨ q = 5 then decide (et < 2) else if 6 ≤ q.toNat then decide (2 ≤ et) && decide (et < 6) else decide (et < 6)

/-- Table 8.3 for the integer types, w bits wide. -/
def intCond (q : BitVec 3) (w : Nat) (signed : Bool) (x y : Nat) : Prop :=
  match q.toNat with
  | 0 => x = y
  | 1 => x ≠ y
  | 2 => asInt w signed x < asInt w signed y
  | 3 => asInt w signed x ≤ asInt w signed y
  | 4 => x < y
  | _ => x ≤ y

/-- Table 8.3 for the floating types: the condition, and its NV. -/
def floatCond (q : BitVec 3) (p : Layout) (x y : Nat) : Prop × Bool :=
  let un := p.nan x || p.nan y
  match q.toNat with
  | 0 => (un = false ∧ p.num x = p.num y, p.snan x || p.snan y)
  | 1 => (un = true ∨ p.num x ≠ p.num y, p.snan x || p.snan y)
  | 2 => (un = false ∧ p.num x < p.num y, un)
  | 3 => (un = false ∧ p.num x ≤ p.num y, un)
  | 6 => (un = true, p.snan x || p.snan y)
  | _ => (un = false, p.snan x || p.snan y)

/-- The result of compare cond on elements i of a compare. -/
def cmpAt (s : State) (f : CForm) (i : Nat) : Bool × Nat :=
  compare f.q.toNat (etypeOf s.me.vctx.vshape) (sewOf s.me.vctx.vshape) (f.a s i) (velem s f.b (rep f.z f.c i))

/-- Conversions of Table 7.8 under a VSHAPE. -/
def convForm (vs : Word) : Instr → Option (BitVec 5 × BitVec 5 × SMod × Conv)
  | .vcvtw d b v q => (convW vs v.toNat).map fun x => (d, b, q, x)
  | .vcvtn d b v q => (convN vs v.toNat).map fun x => (d, b, q, x)
  | .vcvti d b v q => (convI vs v.toNat).map fun x => (d, b, q, x)
  | _ => none

/-- Block conversions: D, B, F3, modifiers, the conversion and the target offset of the scale (R142). -/
def blockForm (vs : Word) : Instr → Option (BitVec 5 × BitVec 5 × BitVec 3 × SMod × Conv × Int)
  | .vcvtf4 d b v q => (convF4 vs).map fun x => (d, b, v, q, x, 2)
  | .vcvtdy d b v q => (convDy vs).map fun x => (d, b, v, q, x, 0)
  | _ => none

/-! ### Number formats, read and rounded as R10, R128, R130 and Table 7.4 say -/

/-- The formats of Table 7.1. -/
def formats : List Fmt := [fp64, fp32, fp16, bf16, e4m3, e5m2, e2m1]

/-- The formats with infinities. -/
def withInf : List Fmt := [fp64, fp32, fp16, bf16, e5m2]

/-- The value of a magnitude code (R128), taken on beyond the range of the format. -/
def magQ (f : Fmt) (c : Nat) : ℚ :=
  if c < 2 ^ f.m then c * 2 ^ (1 - (f.bias : Int) - f.m)
  else ((2 ^ f.m + c % 2 ^ f.m : Nat) : ℚ) * 2 ^ (((c / 2 ^ f.m : Nat) : Int) - f.bias - f.m)

/-- The value of a Dyad8 byte (R130). -/
def dyadQ (x : Nat) : ℚ :=
  let term := fun (neg : Bool) (c : Nat) => if c = 7 then (0 : ℚ) else (if neg then -1 else 1) / 2 ^ c
  term (x.testBit 7) (x / 16 % 8) + term (x.testBit 3) (x % 8)

/-- The nonzero terms of a Dyad8 byte. -/
def dyadTerms (x : Nat) : Nat := (if x / 16 % 8 = 7 then 0 else 1) + if x % 8 = 7 then 0 else 1

/-- The canonical encoding of a value (R131). -/
def DyadCanonical (x : Nat) : Prop :=
  x < 256 ∧ (dyadQ x = 0 → x = 0x77) ∧ (dyadTerms x = 1 → x % 16 = 7) ∧
    ∀ y < 256, dyadQ y = dyadQ x → dyadQ x ≠ 0 →
      dyadTerms x < dyadTerms y ∨ (dyadTerms x = dyadTerms y ∧ x / 16 % 8 ≤ y / 16 % 8)

/-- The bit of the sign of a format, where it is set. -/
def signOf (f : Fmt) (neg : Bool) : Nat := if neg then 2 ^ (f.width - 1) else 0

/-- The pattern x reads as the finite value ±q, neg its sign. -/
def Reads : Ty → Nat → Bool → ℚ → Prop
  | .int sg w, x, neg, q => 0 < w ∧ neg = decide (asInt w sg x < 0) ∧ q = ((asInt w sg x).natAbs : ℚ)
  | .flt f, x, neg, q => f ∈ formats ∧ x < 2 ^ f.width ∧ x % 2 ^ (f.width - 1) ≤ f.maxCode ∧ neg = x.testBit (f.width - 1) ∧
      q = magQ f (x % 2 ^ (f.width - 1))
  | .dyad, x, neg, q => x < 256 ∧ neg = decide (dyadQ x < 0) ∧ q = |dyadQ x|

/-- Whether the magnitude q, at or above its neighbour lo and below hi, goes up to hi (R10). -/
def GoesUp (mode : RMode) (neg odd : Bool) (lo hi q : ℚ) : Prop :=
  lo < q ∧
    match mode with
    | .rne => lo + hi < 2 * q ∨ (lo + hi = 2 * q ∧ odd = true)
    | .rtz => False
    | .rdn => neg = true
    | .rup => neg = false
    | .dith d => if neg then ⌊(hi - q) / (hi - lo) * 2 ^ 32⌋₊ ≤ d else d < ⌊(q - lo) / (hi - lo) * 2 ^ 32⌋₊

/-- r is ±q rounded into a format of Table 7.1, with the flags of R136 and R137. -/
def RoundsTo (f : Fmt) (mode : RMode) (neg : Bool) (q : ℚ) (r : FR) : Prop :=
  ∃ c, magQ f c ≤ q ∧ q < magQ f (c + 1) ∧
    let beyond := f.maxCode < c ∨ (f.maxCode = c ∧ q ≠ magQ f c)
    let m := match mode with | .dith d => if beyond then RMode.rne else .dith d | x => x
    let becomes := fun k : Nat =>
      if f.maxCode < k then
        if f ∈ [e4m3, e5m2, e2m1] then r = ⟨signOf f neg + f.maxCode, flOF + flNX + flSAT⟩
        else r = ⟨signOf f neg + if m = .rne ∨ (m = .rdn ∧ neg = true) ∨ (m = .rup ∧ neg = false) then f.maxCode + 1 else f.maxCode,
          flOF + flNX⟩
      else r = ⟨signOf f neg + k,
        (if q = magQ f c then 0 else flNX) + if q ≠ magQ f c ∧ q < magQ f (2 ^ f.m) then flUF else 0⟩
    let up := GoesUp m neg (c % 2 == 1) (magQ f c) (magQ f (c + 1)) q
    (up → becomes (c + 1)) ∧ (¬up → becomes c)

/-- r is ±q rounded into Dyad8: a tie goes to the lesser magnitude, and beyond 2 it becomes ±2. -/
def RoundsDyad (mode : RMode) (neg : Bool) (q : ℚ) (r : FR) : Prop :=
  let is := fun m : ℚ => ∃ y < 256, |dyadQ y| = m
  let value := fun m : ℚ => dyadQ r.v = if neg then -m else m
  DyadCanonical r.v ∧ (2 < q → value 2 ∧ r.fl = flOF + flNX + flSAT) ∧ (q = 2 → value 2 ∧ r.fl = 0) ∧
    ∀ lo hi, is lo → lo ≤ q → (∀ m, is m → m ≤ q → m ≤ lo) → is hi → q < hi → (∀ m, is m → q < m → hi ≤ m) →
      (GoesUp mode neg false lo hi q → value hi) ∧ (¬GoesUp mode neg false lo hi q → value lo) ∧
        r.fl = (if q = lo then 0 else flNX) + if q ≠ lo ∧ q < 1 / 64 then flUF else 0

/-- The least and the greatest integer of a type, and its pattern. -/
def intLo (sg : Bool) (w : Nat) : Int := if sg then -2 ^ (w - 1) else 0
def intHi (sg : Bool) (w : Nat) : Int := if sg then 2 ^ (w - 1) - 1 else 2 ^ w - 1
def intPat (w : Nat) (n : Int) : Nat := (BitVec.ofInt w n).toNat

/-- r is the float value ±q rounded to an integer of a type, or its nearest bound with NV (Table 7.4). -/
def RoundsInt (sg : Bool) (w : Nat) (mode : RMode) (neg : Bool) (q : ℚ) (r : FR) : Prop :=
  let c := ⌊q⌋₊
  let becomes := fun k : Nat =>
    let n : Int := if neg then -k else k
    r = if n < intLo sg w then ⟨intPat w (intLo sg w), flNV⟩ else if intHi sg w < n then ⟨intPat w (intHi sg w), flNV⟩
      else ⟨intPat w n, if q = c then 0 else flNX⟩
  (GoesUp mode neg (c % 2 == 1) c (c + 1) q → becomes (c + 1)) ∧ (¬GoesUp mode neg (c % 2 == 1) c (c + 1) q → becomes c)

/-- The pattern x of a format is an infinity, or a NaN. -/
def isInf (f : Fmt) (x : Nat) : Prop := f ∈ withInf ∧ x < 2 ^ f.width ∧ x % 2 ^ (f.width - 1) = f.maxCode + 1
def isNaN (f : Fmt) (x : Nat) : Prop :=
  f ∈ formats ∧ x < 2 ^ f.width ∧ f.maxCode < x % 2 ^ (f.width - 1) ∧ (f ∈ withInf → x % 2 ^ (f.width - 1) ≠ f.maxCode + 1)

/-- Whether a NaN of a format signals (R129). -/
def signals (f : Fmt) (x : Nat) : Bool := decide (f ∈ withInf) && !x.testBit (f.m - 1)

/-- The magnitude of a pattern as pscale counts it: an infinity as 2^128, a NaN not (R142). -/
def magOfPat (f : Fmt) (x : Nat) : Option ℚ :=
  let c := x % 2 ^ (f.width - 1)
  if c ≤ f.maxCode then some (magQ f c) else if c = f.maxCode + 1 then some (2 ^ 128) else none

/-- The FP32 pattern of 2^k, for k from −149 to 127. -/
def scaleCode (k : Int) : Nat := if -126 ≤ k then (k + 127).toNat * 2 ^ 23 else 2 ^ (k + 149).toNat

/-- The scale of block j that a block's enabled values of a format give (pscale of R142). -/
def blockScale (s : State) (t : Int) (f : Fmt) (b : BitVec 5) (z : BitVec 2) (c : BitVec 1) (m : BitVec 2) (j : Nat) : Nat :=
  let n := blkOf s.me.vctx.vshape
  let is := (List.range n).filter fun i => decide (j * n + i < s.me.vctx.vl) && on s m (j * n + i)
  let mx := (is.filterMap fun i => magOfPat f (velem s b (rep z c (j * n + i)))).foldl max 0
  if mx = 0 then 0x3F800000 else scaleCode (max (-149) (min 127 (Int.log 2 mx - t)))

/-- The format of a floating element type that KCALC reads. -/
def srcFormat (et : Nat) : Fmt := match et with | 2 => fp64 | 3 => fp32 | 4 => bf16 | _ => fp16

/-- Scale b of register k. -/
def scale (s : State) (k b : Nat) : Nat := scaleGet s.me.vctx k b

/-- Scale register k takes f for the blocks below n; every other scale keeps its value. -/
def ScaleResult (s t : State) (k n : Nat) (f : Nat → Nat) : Prop :=
  (∀ j < n, scale t k j = f j % 2 ^ 32) ∧
  ∀ k' j, j < 4096 → (k' ≠ k ∨ n ≤ j) → scale t k' j = scale s k' j

end Sys2Proof.Claims

/-! ## Vector configuration and arithmetic -/

/-- R115, R120, R122, R126: VSETL, VCFG, VREGS, MSTART and MSTOP complete. VSETL grants the least of the request, MAXVL, VLCAP and
what the granted lane clusters give (in deterministic mode all eight); VCFG accepts the values of Table 6.2 and gives D the old
VSHAPE; VREGS sets the count and zeroes the physical file; MSTART grants at most 4,096, or 256 with `.mop`; MSTOP leaves matrix
mode and releases the rows that it held.
An entry of an empty queue executes in the step that issues it (log 2). -/
def Obligations.VectorConfiguration : Prop :=
  ∀ (s : State) (d a : BitVec 5), QueueReady s →
    let c := s.me.vctx
    (∀ i : BitVec 12,
      let req := if a = 0 then i.toNat else (reg s a).toNat
      let mx := maxVl c.vshape c.cnt
      let g := Min.min (Min.min req mx) (Min.min s.me.vlcap (if s.me.det then mx else mx * s.me.lc / 8))
      ∃ t, exec (.vsetl d a i) s = .next t ∧ Completed s t ∧ t.me.vctx.vl = g ∧ WritesReg s t d (word g) ∧
        { t with nextId := s.nextId, me := { t.me with
            pc := s.me.pc, laneCycles := s.me.laneCycles, bitCycles := s.me.bitCycles, regs := s.me.regs
            vctx := { t.me.vctx with vl := c.vl, vlGrant := c.vlGrant, vlSpan := c.vlSpan } } } = s) ∧
    (shapeOk (reg s a) = true →
      ∃ t, exec (.vcfg d a) s = .next t ∧ Completed s t ∧ t.me.vctx.vshape = reg s a ∧ WritesReg s t d c.vshape ∧
        { t with nextId := s.nextId, me := { t.me with
            pc := s.me.pc, laneCycles := s.me.laneCycles, bitCycles := s.me.bitCycles, regs := s.me.regs,
            vctx := { t.me.vctx with vshape := c.vshape } } } = s) ∧
    (shapeOk (reg s a) = false →
      exec (.vcfg d a) s = .next (takeTrap 1 0 false false s.me.pc (word (encodeNat (.vcfg d a))) s)) ∧
    (∀ n : BitVec 12, n = 4 ∨ n = 8 ∨ n = 16 ∨ n = 32 →
      ∃ t, exec (.vregs n) s = .next t ∧ Completed s t ∧ nregsOf t.me.vctx.cnt = n.toNat ∧ (∀ x, vbyte t x = 0) ∧
        { t with nextId := s.nextId, me := { t.me with
            pc := s.me.pc, laneCycles := s.me.laneCycles, bitCycles := s.me.bitCycles,
            vctx := { t.me.vctx with cnt := c.cnt, vf := c.vf } } } = s) ∧
    (∀ p : BitVec 1,
      let g := Min.min (reg s a).toNat (if p = 1 then 256 else 4096)
      ∃ t, exec (.mstart d a p) s = .next t ∧ Completed s t ∧
        t.me.vctx.mvl = word (g + (if p = 1 then 2 ^ 13 else 0) + 2 ^ 14) ∧ WritesReg s t d (word g) ∧
        { t with nextId := s.nextId, me := { t.me with
            pc := s.me.pc, laneCycles := s.me.laneCycles, bitCycles := s.me.bitCycles, regs := s.me.regs,
            vctx := { t.me.vctx with mvl := c.mvl } } } = s) ∧
    ∃ t, exec .mstop s = .next t ∧ Completed s t ∧ t.me.vctx.mvl = 0 ∧
      (matrixOn c.mvl = true → t.me.accRows = 0 ∧ t.me.vctx.mgrant = 0) ∧
      (matrixOn c.mvl = false → t.me.accRows = s.me.accRows ∧ t.me.acc = s.me.acc ∧ t.me.vctx.mgrant = c.mgrant) ∧
      { t with nextId := s.nextId, me := { t.me with
          pc := s.me.pc, laneCycles := s.me.laneCycles, bitCycles := s.me.bitCycles, accRows := s.me.accRows, acc := s.me.acc
          vctx := { t.me.vctx with mvl := c.mvl, mgrant := c.mgrant } } } = s

/-- R66, R78: the checks of a vector arithmetic instruction at issue, in their order: a register at or above the declared
count raises cause 0x01 with the word in TVAL, a vector context not owned cause 0x09, and a type the mnemonic is not defined
for, a group that is not one, or VL above MAXVL cause 0x02. Nothing enters the queue. -/
def Obligations.VectorIssueChecks : Prop :=
  ∀ (i : Instr) (f : Form) (s : State), form i = some f → Running s →
    ((∃ r ∈ f.rs, nregsOf s.me.vctx.cnt ≤ r.toNat) →
      exec i s = .next (takeTrap 1 0 false false s.me.pc (word (encodeNat i)) s)) ∧
    (Declared s f.rs → s.me.vown = false → exec i s = .next (takeTrap 9 0 false false s.me.pc 0 s)) ∧
    (Declared s f.rs → s.me.vown = true →
      (definedFor f.op (etypeOf s.me.vctx.vshape) = false ∨ ¬Grouped s f.rs ∨
        maxVl s.me.vctx.vshape s.me.vctx.cnt < s.me.vctx.vlGrant) →
      exec i s = .next (takeTrap 2 0 false false s.me.pc (word (encodeNat i)) s))

/-- R147, R148, R150 to R154: every arithmetic instruction of majors 0x20 to 0x2D (the 19 with two vectors, the 19 with a scalar A,
the 11 with an immediate, and VCLZ, VPOPC, VSQRT, VABS, VNEG, VCLASS, VRECIP and VMV) completes under the checks of R78: enabled
elements take the result of the operation on a(i), b(i) and d(i) as they stood before it, masked-off elements are zeroed under
MPOL, XFLAGS accumulates the flags, and nothing else changes.
R150, R151, Table 8.1: the integer results. The exact results of VADD, VSUB, VRSUB, VMUL, VMACC, VNMACC, VDIV, VABS and VNEG are
taken modulo 2^w under SAT = 0, and under SAT = 1 a result beyond the type becomes its nearest bound with the flag SAT; the others,
VBFX among them, are as Table 8.1 gives.
Table 8.2, R154: the special floating results, on the bit patterns of FP64, FP32, BF16 and FP16: a NaN result is canonical, NV is
set where an operand signals and for an invalid operation, DZ for a finite nonzero value divided by zero and for the reciprocal of
zero; an exact difference of zero is +0, −0 under RDN; VABS and VNEG change the sign bit alone; VCLASS sets the one bit of a
pattern's class; VMIN and VMAX put −0 below +0 and take the other operand for one NaN. The rounding of the other finite results is
the model's own function (R10), of which these clauses say nothing.
An entry of an empty queue executes in the step that issues it (log 2). -/
def Obligations.VectorArithmetic : Prop :=
  (∀ (i : Instr) (f : Form) (s : State), form i = some f → QueueReady s → VlOk s → Declared s f.rs → Grouped s f.rs →
    definedFor f.op (etypeOf s.me.vctx.vshape) = true →
    ∃ t, exec i s = .next t ∧ Completed s t ∧ SameButFile s t ∧
      LoopResult s t (sewOf s.me.vctx.vshape) f.d f.m (if etypeOf s.me.vctx.vshape = 9 then 0x77 else 0)
        fun k => some (vop f.op (env s k) (f.a s k) (velem s f.b (rep f.z f.c k)) (velem s f.d k))) ∧
  (∀ (v : FEnv) (x y z : Nat), v.et < 2 → 0 < v.sew → x < 2 ^ v.sew → y < 2 ^ v.sew → z < 2 ^ v.sew →
    let w := v.sew
    let sg := decide (v.et = 0)
    let lo : Int := if sg then -2 ^ (w - 1) else 0
    let hi : Int := if sg then 2 ^ (w - 1) - 1 else 2 ^ w - 1
    let pat := fun r : Int => (BitVec.ofInt w r).toNat
    (∀ o r, exactInt o w sg (asInt w sg x) (asInt w sg y) (asInt w sg z) = some r →
      vop o v x y z =
        if v.sat = true ∧ r < lo then ⟨pat lo, flSAT⟩ else if v.sat = true ∧ hi < r then ⟨pat hi, flSAT⟩ else ⟨pat r, 0⟩) ∧
    asInt w sg (vop .min v x y z).v = Min.min (asInt w sg x) (asInt w sg y) ∧
    asInt w sg (vop .max v x y z).v = Max.max (asInt w sg x) (asInt w sg y) ∧
    vop .and v x y z = ⟨x &&& y, 0⟩ ∧ vop .or v x y z = ⟨x ||| y, 0⟩ ∧ vop .xor v x y z = ⟨x ^^^ y, 0⟩ ∧
    vop .mulh v x y z = ⟨pat (asInt w sg x * asInt w sg y / 2 ^ w), 0⟩ ∧
    vop .rem v x y z = ⟨pat (if asInt w sg y = 0 then asInt w sg x else (asInt w sg x).tmod (asInt w sg y)), 0⟩ ∧
    vop .sll v x y z = ⟨y * 2 ^ (x % w) % 2 ^ w, 0⟩ ∧ vop .srl v x y z = ⟨y / 2 ^ (x % w), 0⟩ ∧
    vop .sra v x y z = ⟨pat (asInt w true y / 2 ^ (x % w)), 0⟩ ∧
    vop .clz v x y z = ⟨if y = 0 then w else w - 1 - y.log2, 0⟩ ∧
    vop .popc v x y z = ⟨(List.range w).countP fun k => y.testBit k, 0⟩ ∧
    vop .fshr v x y z = ⟨(z * 2 ^ w + y) / 2 ^ (x % w) % 2 ^ w, 0⟩ ∧ vop .mv v x y z = ⟨y, 0⟩ ∧
    let pos := x % 2 ^ (w / 2)
    let len := Min.min (x / 2 ^ (w / 2) % 2 ^ (w - w / 2)) w
    vop .bfx v x y z = ⟨if w ≤ pos then 0 else y / 2 ^ pos % 2 ^ len, 0⟩) ∧
  ∀ (v : FEnv) (x y z : Nat), 2 ≤ v.et → v.et < 6 →
    let p := layout v.et
    x < 2 * p.sign → y < 2 * p.sign → z < 2 * p.sign →
    let un := p.nan x || p.nan y
    let opposed := p.neg x != p.neg y
    -- NaN operands
    (∀ o ∈ [VOp.add, .sub, .rsub, .mul, .div], un = true → vop o v x y z = ⟨p.quiet, nv (p.snan x || p.snan y)⟩) ∧
    (∀ o ∈ [VOp.sqrt, .recip, .abs, .neg], p.nan y = true → vop o v x y z = ⟨p.quiet, nv (p.snan y)⟩) ∧
    (∀ o ∈ [VOp.macc, .nmacc],
      (un = true → vop o v x y z = ⟨p.quiet, nv (p.snan x || p.snan y || p.snan z)⟩) ∧
      ((p.inf x = true ∧ p.zero y = true) ∨ (p.zero x = true ∧ p.inf y = true) → vop o v x y z = ⟨p.quiet, 16⟩) ∧
      (un = false → p.nan z = true → ¬(p.inf x = true ∧ p.zero y = true) → ¬(p.zero x = true ∧ p.inf y = true) →
        vop o v x y z = ⟨p.quiet, nv (p.snan z)⟩)) ∧
    -- invalid operations, divisions by zero, infinities and zeros
    (p.inf x = true → p.inf y = true →
      vop .add v x y z = (if opposed then ⟨p.quiet, 16⟩ else ⟨x, 0⟩) ∧
      vop .sub v x y z = (if opposed then ⟨x, 0⟩ else ⟨p.quiet, 16⟩) ∧
      vop .rsub v x y z = (if opposed then ⟨y, 0⟩ else ⟨p.quiet, 16⟩) ∧ vop .div v x y z = ⟨p.quiet, 16⟩) ∧
    ((p.inf x = true ∧ p.zero y = true) ∨ (p.zero x = true ∧ p.inf y = true) → vop .mul v x y z = ⟨p.quiet, 16⟩) ∧
    ((p.inf x = true ∨ p.inf y = true) → un = false → p.zero x = false → p.zero y = false →
      vop .mul v x y z = ⟨p.infinity opposed, 0⟩ ∧
      (p.inf z = true →
        vop .macc v x y z = (if p.neg z != opposed then ⟨p.quiet, 16⟩ else ⟨z, 0⟩) ∧
        vop .nmacc v x y z = (if p.neg z != opposed then ⟨z, 0⟩ else ⟨p.quiet, 16⟩))) ∧
    (p.zero x = true → p.zero y = true → vop .div v x y z = ⟨p.quiet, 16⟩) ∧
    (p.finite x = true → p.zero x = false → p.zero y = true → vop .div v x y z = ⟨p.infinity opposed, 8⟩) ∧
    (p.zero y = true → vop .recip v x y z = ⟨p.infinity (p.neg y), 8⟩ ∧ vop .sqrt v x y z = ⟨y, 0⟩) ∧
    (p.inf y = true → vop .recip v x y z = ⟨p.signed (p.neg y) 0, 0⟩ ∧ (p.neg y = false → vop .sqrt v x y z = ⟨y, 0⟩)) ∧
    (p.nan y = false → p.zero y = false → p.neg y = true → vop .sqrt v x y z = ⟨p.quiet, 16⟩) ∧
    (p.finite x = true →
      vop .add v x (x ^^^ p.sign) z = ⟨p.signed (decide (v.mode = .rdn)) 0, 0⟩ ∧
      vop .sub v x x z = ⟨p.signed (decide (v.mode = .rdn)) 0, 0⟩ ∧ vop .rsub v x x z = ⟨p.signed (decide (v.mode = .rdn)) 0, 0⟩) ∧
    -- signs, classes, the lesser and the greater
    (p.nan y = false → vop .abs v x y z = ⟨p.mag y, 0⟩ ∧ vop .neg v x y z = ⟨y ^^^ p.sign, 0⟩) ∧
    vop .cls v x y z = ⟨2 ^ p.cls y, 0⟩ ∧ vop .mv v x y z = ⟨y, 0⟩ ∧
    ∀ o ∈ [VOp.min, .max], vop o v x y z =
      if p.nan x && p.nan y then ⟨p.quiet, nv (p.snan x || p.snan y)⟩
      else if p.nan x then ⟨y, nv (p.snan x)⟩
      else if p.nan y then ⟨x, nv (p.snan y)⟩
      else ⟨if (if o = .min then p.rank x ≤ p.rank y else p.rank y ≤ p.rank x) then x else y, 0⟩

/-- R148, R150, R154, Table 8.1: VIDX gives each element its index modulo 2^SEW, VMV the low bits of a scalar; VSEL takes a(i)
where the mask enables and b(i) elsewhere, for two vectors or a scalar A, and MPOL does not apply to it. An entry of an empty
queue executes in the step that issues it (log 2). -/
def Obligations.IndexMoveSelect : Prop :=
  ∀ (s : State) (d a b : BitVec 5) (m : BitVec 2) (q : VMod) (p : SMod), QueueReady s → VlOk s →
    let w := sewOf s.me.vctx.vshape
    let z := if etypeOf s.me.vctx.vshape = 9 then 0x77 else 0
    (Declared s [d] → Grouped s [d] → etypeOf s.me.vctx.vshape < 2 →
      ∃ t, exec (.vidx d m) s = .next t ∧ Completed s t ∧ SameButFile s t ∧
        LoopResult s t w d m 0 fun i => some ⟨i % 2 ^ w, 0⟩) ∧
    (Declared s [d] → Grouped s [d] →
      ∃ t, exec (.vmvVs d a m) s = .next t ∧ Completed s t ∧ SameButFile s t ∧
        LoopResult s t w d m z fun _ => some ⟨(reg s a).toNat % 2 ^ w, 0⟩) ∧
    (Declared s [d, a, b] → Grouped s [d, a, b] →
      ∃ t, exec (.vsel d a b q) s = .next t ∧ Completed s t ∧ SameButFile s t ∧
        LoopResult s t w d 0 z fun i => some ⟨if on s q.m i then velem s a i else velem s b (rep q.z q.c i), 0⟩) ∧
    (Declared s [d, b] → Grouped s [d, b] →
      ∃ t, exec (.vselVs d a b p) s = .next t ∧ Completed s t ∧ SameButFile s t ∧
        LoopResult s t w d 0 z fun i => some ⟨if on s p.m i then (reg s a).toNat % 2 ^ w else velem s b (rep p.z p.c i), 0⟩)

/-- R153: VCMP in its three forms completes: an enabled bit of D becomes the condition on a(i) and b(i), a masked-off one 0 under
MPOL, and keeps its value else; XFLAGS takes the flags of the enabled elements. The conditions are those of Table 8.3, on integers
in the signedness of ETYPE or unsigned, and on the patterns of the floating types with NV for a signalling NaN, or under .lt and .le
for any NaN.
R155: MAND, MOR, MXOR, MANDN and MNOT write the bits of D below VL and keep the others, a write of m0 being discarded; MFFS
gives the least set index, all ones where there is none, and MPOPC the number of set bits.
An entry of an empty queue executes in the step that issues it (log 2). -/
def Obligations.ComparesAndMasks : Prop :=
  (∀ (i : Instr) (f : CForm) (s : State), cform i = some f → QueueReady s → VlOk s → Declared s f.rs → Grouped s f.rs →
    condFor f.q (etypeOf s.me.vctx.vshape) = true → f.d.toNat < 8 →
    ∃ t, exec i s = .next t ∧ Completed s t ∧ SameButMasks s t ∧
      MaskResult s t f.d (fun k =>
        if on s f.m k then (cmpAt s f k).1 else if mpolOf s.me.vctx.vshape then false else mbit s f.d k) ∧
      ∀ k < 6, t.me.xflags.getLsbD k = (s.me.xflags.getLsbD k ||
        (List.range s.me.vctx.vl).any fun j => on s f.m j && (cmpAt s f j).2.testBit k)) ∧
  (∀ (q : BitVec 3) (et w x y : Nat), condFor q et = true → et < 2 → 0 < w → x < 2 ^ w → y < 2 ^ w →
    ((compare q.toNat et w x y).1 = true ↔ intCond q w (decide (et = 0)) x y) ∧ (compare q.toNat et w x y).2 = 0) ∧
  (∀ (q : BitVec 3) (et w x y : Nat), condFor q et = true → 2 ≤ et → x < 2 * (layout et).sign → y < 2 * (layout et).sign →
    ((compare q.toNat et w x y).1 = true ↔ (floatCond q (layout et) x y).1) ∧
    (compare q.toNat et w x y).2 = nv (floatCond q (layout et) x y).2) ∧
  (∀ (s : State), QueueReady s → s.me.vctx.vl ≤ 65536 →
    (∀ i d a b f, maskForm i = some (d, a, b, f) → d.toNat < 8 → a.toNat < 8 → b.toNat < 8 →
      ∃ t, exec i s = .next t ∧ Completed s t ∧ SameButMasks s t ∧ t.me.xflags = s.me.xflags ∧
        MaskResult s t d fun k => f (mbit s a k) (mbit s b k)) ∧
    ∀ d a : BitVec 5,
      (∃ t v, exec (.mffs d a) s = .next t ∧ Completed s t ∧ SameButQueueReg s t ∧ WritesReg s t d v ∧
        (∀ k < s.me.vctx.vl, mbit s a k = true → (∀ j < k, mbit s a j = false) → v = word k) ∧
        ((∀ k < s.me.vctx.vl, mbit s a k = false) → v = BitVec.allOnes 64)) ∧
      ∃ t, exec (.mpopc d a) s = .next t ∧ Completed s t ∧ SameButQueueReg s t ∧
        WritesReg s t d (word ((List.range s.me.vctx.vl).countP (mbit s a))))

/-- R140, R141: VCVTW, VCVTN and VCVTI complete for every type of Table 7.8: each enabled element of D is the value of b(i)
resolved in the destination type under SAT and the rounding mode. R142: VCVTF4 and VCVTDY complete: with F3 = 0 the scale of each
block becomes the power of two that R142 gives, and each enabled element the quotient by its block's scale, resolved once; an
unusable scale gives zero with NV. R128, R130, R131, R134, R136, R137: what resolving gives, said by the exact values of the
formats of Table 7.1 and of Dyad8: a finite value becomes the neighbour that the rounding mode names, with NX, UF and the results
of Table 7.4 beyond the range; infinities and NaNs as Table 7.4 gives them; an integer the pattern of its value, or the nearest
bound. That every magnitude above 2 lies beyond Dyad8's range is the model's reading (log 14). An entry of an empty queue executes
in the step that issues it (log 2). -/
def Obligations.Conversions : Prop :=
  (∀ (i : Instr) (s : State) (d b : BitVec 5) (q : SMod) (x : Conv), convForm s.me.vctx.vshape i = some (d, b, q, x) →
    QueueReady s → VlOk s → Declared s [d, b] → Grouped s [b] → badGroup s.me.vctx.cnt x.group d.toNat = false →
    overlap d.toNat x.group b.toNat (lmulOf s.me.vctx.vshape) = false →
    ∃ t, exec i s = .next t ∧ Completed s t ∧ SameButFile s t ∧
      LoopResult s t x.dst.width d q.m x.dst.zero fun k =>
        some (convert x.src x.dst (satOf s.me.vctx.vshape) (env s k).mode (velem s b (rep q.z q.c k)))) ∧
  (∀ (i : Instr) (s : State) (d b : BitVec 5) (v : BitVec 3) (q : SMod) (x : Conv) (o : Int),
    blockForm s.me.vctx.vshape i = some (d, b, v, q, x, o) → QueueReady s → VlOk s → Declared s [d, b] → Grouped s [b] →
    badGroup s.me.vctx.cnt x.group d.toNat = false → overlap d.toNat x.group b.toNat (lmulOf s.me.vctx.vshape) = false →
    let n := blkOf s.me.vctx.vshape
    ∃ t, exec i s = .next t ∧ Completed s t ∧
      (v = 0 → ScaleResult s t (kselOf s.me.vctx.vshape) (ceilDiv s.me.vctx.vl n)
        fun j => blockScale s o fp32 b q.z q.c q.m j) ∧
      (v ≠ 0 → t.me.vctx.scales = s.me.vctx.scales) ∧
      LoopResult s t x.dst.width d q.m x.dst.zero (fun k =>
        some (scaledElem x (scale t (kselOf s.me.vctx.vshape) (k / n)) (env s k).mode (velem s b (rep q.z q.c k)))) ∧
      { t with nextId := s.nextId, me := { t.me with
          pc := s.me.pc, laneCycles := s.me.laneCycles, bitCycles := s.me.bitCycles, xflags := s.me.xflags,
          vctx := { t.me.vctx with vf := s.me.vctx.vf, scales := s.me.vctx.scales } } } = s) ∧
  formats.map (fun f => (f.width, f.e, f.bias, f.m, f.maxCode, f.canonical)) =
    [(64, 11, 1023, 52, 0x7FEFFFFFFFFFFFFF, 0x7FF8000000000000), (32, 8, 127, 23, 0x7F7FFFFF, 0x7FC00000),
      (16, 5, 15, 10, 0x7BFF, 0x7E00), (16, 8, 127, 7, 0x7F7F, 0x7FC0), (8, 4, 7, 3, 0x7E, 0x7F), (8, 5, 15, 2, 0x7B, 0x7E),
      (4, 2, 1, 1, 7, 0)] ∧
  (∀ (t : Ty) (sat : Bool) (mode : RMode) (x : Nat) (neg : Bool) (q : ℚ), Reads t x neg q →
    (∀ f ∈ formats, RoundsTo f mode neg q (convert t (.flt f) sat mode x)) ∧
    RoundsDyad mode neg q (convert t .dyad sat mode x) ∧
    ∀ sg w, 0 < w → (∀ sg' w', t ≠ .int sg' w') → (∀ d, mode ≠ .dith d) → RoundsInt sg w mode neg q (convert t (.int sg w) sat mode x)) ∧
  (∀ (sg sg' : Bool) (w w' : Nat) (mode : RMode) (x : Nat), 0 < w → 0 < w' →
    let n := asInt w sg x
    convert (.int sg w) (.int sg' w') false mode x = ⟨intPat w' n, 0⟩ ∧
    convert (.int sg w) (.int sg' w') true mode x = if n < intLo sg' w' then ⟨intPat w' (intLo sg' w'), flSAT⟩
      else if intHi sg' w' < n then ⟨intPat w' (intHi sg' w'), flSAT⟩ else ⟨intPat w' n, 0⟩) ∧
  (∀ (f g : Fmt) (sat : Bool) (mode : RMode) (x : Nat), f ∈ formats →
    (isInf g x →
      let neg := x.testBit (g.width - 1)
      convert (.flt g) (.flt f) sat mode x =
        (if f ∈ withInf then ⟨signOf f neg + (f.maxCode + 1), 0⟩ else ⟨signOf f neg + f.maxCode, flSAT⟩) ∧
      convert (.flt g) .dyad sat mode x = ⟨if neg then 0x88 else 0, flSAT⟩ ∧
      ∀ sg w, 0 < w → convert (.flt g) (.int sg w) sat mode x = ⟨intPat w (if neg then intLo sg w else intHi sg w), flNV⟩) ∧
    (isNaN g x →
      convert (.flt g) (.flt f) sat mode x = ⟨f.canonical, if signals g x = true ∨ f = e2m1 then flNV else 0⟩ ∧
      convert (.flt g) .dyad sat mode x = ⟨0x77, flNV⟩ ∧
      ∀ sg w, convert (.flt g) (.int sg w) sat mode x = ⟨0, flNV⟩)) ∧
  ∀ (x : Conv) (k : Nat) (mode : RMode) (y : Nat), x.dst = .flt e2m1 ∨ x.dst = .dyad → k < 2 ^ 32 → y < 2 ^ 32 →
    let r := scaledElem x k mode y
    let neg := y.testBit 31
    let max := if x.dst = .dyad then (if neg then 0x88 else 0) else signOf e2m1 neg + 7
    ((k = 0 ∨ 2 ^ 31 ≤ k ∨ 0x7F7FFFFF < k) → r = ⟨x.dst.zero, flNV⟩) ∧
    (0 < k → k ≤ 0x7F7FFFFF →
      (∀ q, Reads (.flt fp32) y neg q →
        (x.dst = .flt e2m1 → RoundsTo e2m1 mode neg (q / magQ fp32 k) r) ∧
        (x.dst = .dyad → RoundsDyad mode neg (q / magQ fp32 k) r)) ∧
      (isInf fp32 y → r = ⟨max, flSAT⟩) ∧ (isNaN fp32 y → r = ⟨x.dst.zero, flNV⟩))

/-- R144, R145: KSET copies FP32 elements to scales, KMV scales to elements, one each or its block's to every element, and KCALC
writes the scale of each block for its target format, the power of two that R142 gives for the greatest magnitude of the block.
An entry of an empty queue executes in the step that issues it (log 2). -/
def Obligations.ScaleInstructions : Prop :=
  ∀ (s : State) (d a b : BitVec 5) (m : BitVec 2) (k : BitVec 1), QueueReady s → VlOk s → d.toNat < 8 →
    (etypeOf s.me.vctx.vshape = 3 → s.me.vctx.vlGrant ≤ 4096 → Declared s [b] → Grouped s [b] →
      ∃ t, exec (.kset d b k) s = .next t ∧ Completed s t ∧ SameButScales s t ∧
        ScaleResult s t d.toNat s.me.vctx.vl fun j => elemW s 32 b j) ∧
    (etypeOf s.me.vctx.vshape = 3 → (a = 0 → s.me.vctx.vlGrant ≤ 4096) → Declared s [d] → Grouped s [d] →
      ∃ t, exec (.kmv d a b m) s = .next t ∧ Completed s t ∧ SameButFile s t ∧
        LoopResult s t 32 d m 0 fun j => some ⟨scale s b.toNat (if a = 0 then j else j / blkOf s.me.vctx.vshape), 0⟩) ∧
    (2 ≤ etypeOf s.me.vctx.vshape → etypeOf s.me.vctx.vshape < 6 → Declared s [b] → Grouped s [b] → a.toNat < 4 →
      ∃ t, exec (.kcalc d a b m k) s = .next t ∧ Completed s t ∧ SameButScales s t ∧
        ScaleResult s t d.toNat (ceilDiv s.me.vctx.vl (blkOf s.me.vctx.vshape)) fun j =>
          blockScale s ([2, 0, 8, 15].getD a.toNat 0) (srcFormat (etypeOf s.me.vctx.vshape)) b 0 0 m j)

namespace Sys2Proof.Claims

open Sys2Proof Sys2Proof.Machine

/-- The fill of Table 10.2 for the current type: leave, zero, one, the greatest and the least value, else the scalar. -/
def fill (s : State) (f : BitVec 3) (a : Word) : Option Nat :=
  let et := etypeOf s.me.vctx.vshape
  let w := sewOf s.me.vctx.vshape
  match f.toNat with
  | 0 => none
  | 1 => some (zeroOf et)
  | 2 => some (oneOf et)
  | 3 => some (greatest et w)
  | 4 => some (least et w)
  | _ => some (a.toNat % 2 ^ w)

/-- The number of enabled elements before i. -/
def before (s : State) (m : BitVec 2) (i : Nat) : Nat := (List.range i).countP (on s m)

def asFR (x : Nat) : FR := ⟨x, 0⟩

/-- A value as .minloc and .maxloc order it: an integer, or a float with −0 below +0. -/
def rank (v : Word) (x : Nat) : Int :=
  if etypeOf v < 2 then asInt (sewOf v) (decide (etypeOf v = 0)) x else (layout (etypeOf v)).rank x

/-- Whether a value is a NaN, and whether it signals. -/
def nanValue (v : Word) (x : Nat) : Bool := decide (2 ≤ etypeOf v) && (layout (etypeOf v)).nan x

def snanValue (v : Word) (x : Nat) : Bool := decide (2 ≤ etypeOf v) && (layout (etypeOf v)).snan x

/-- The identity pair of Table 10.3. -/
def noPair (o : BitVec 3) (v : Word) : Nat × Nat :=
  (if o = 6 then greatest (etypeOf v) (sewOf v) else least (etypeOf v) (sewOf v), 0xFFFFFFFF)

/-- The pairs that .minloc and .maxloc choose from: the initial pair and those of the elements of B below n, a NaN and a masked-off
element entering as the identity pair (R184). -/
def pairs (s : State) (a b : BitVec 5) (o : BitVec 3) (m : BitVec 2) (n : Nat) : List (Nat × Nat) :=
  let v := s.me.vctx.vshape
  let enter := fun p : Nat × Nat => if nanValue v p.1 then noPair o v else p
  enter (velem s a 0, elemW s 32 (a + BitVec.ofNat 5 (lmulOf v)) 0) ::
    (List.range n).map fun i =>
      if on s m i then enter (velem s b i, (s.me.vctx.didx.toNat + i) % 2 ^ 32) else noPair o v

/-- p is one of the pairs, and none has a better value, or the same with a lesser identity. -/
def BestPair (v : Word) (o : BitVec 3) (ps : List (Nat × Nat)) (p : Nat × Nat) : Prop :=
  p ∈ ps ∧ ∀ q ∈ ps, (if o = 6 then rank v p.1 < rank v q.1 else rank v q.1 < rank v p.1) ∨ rank v p.1 = rank v q.1 ∧ p.2 ≤ q.2

/-- .minloc and .maxloc: element i of D and of the identities at D + L hold the best of the pairs. -/
def PairAt (s t : State) (d a b : BitVec 5) (o : BitVec 3) (m : BitVec 2) (i n : Nat) : Prop :=
  let v := s.me.vctx.vshape
  ∃ p, BestPair v o (pairs s a b o m n) p ∧ velem t d i = p.1 % 2 ^ sewOf v ∧
    elemW t 32 (d + BitVec.ofNat 5 (lmulOf v)) i = p.2 % 2 ^ 32

/-- .minloc and .maxloc set NV alone, for a signalling NaN among the enabled elements, and nothing where no value signals. -/
def PairFlags (s t : State) (a b : BitVec 5) (m : BitVec 2) : Prop :=
  let v := s.me.vctx.vshape
  let signals := (List.range s.me.vctx.vl).any fun i => on s m i && snanValue v (velem s b i)
  (∀ k < 6, k ≠ 4 → t.me.xflags.getLsbD k = s.me.xflags.getLsbD k) ∧ (signals = true → t.me.xflags.getLsbD 4 = true) ∧
  (signals = false → snanValue v (velem s a 0) = false → t.me.xflags = s.me.xflags)

/-- t is s but for what every completed entry may change, XFLAGS, the physical file, the scalar registers and the manifest. -/
def SameButTree (s t : State) : Prop :=
  let u := sinceEntry s t
  { u with
    launches := s.launches
    me := { u.me with xflags := s.me.xflags, regs := s.me.regs, vctx := { u.me.vctx with vf := s.me.vctx.vf } } } = s

end Sys2Proof.Claims

/-! ## Slides, permutes, reductions and selections -/

/-- R176 to R180: VSLUP, VSLDN, VPERM, VCMPR, VEXPD and VIOTA complete. A slide moves elements by 1 or by A and fills the
ends; VPERM takes a(index), zero where the index is VL or more; VCMPR packs the enabled elements and zeroes the rest under
MPOL; VEXPD spreads them; VIOTA counts, before each element, the enabled elements whose bit of B is set. An entry of an empty
queue executes in the step that issues it (log 2). -/
def Obligations.PermuteInstructions : Prop :=
  ∀ (s : State) (d a b : BitVec 5) (f : BitVec 3) (m : BitVec 2) (k j : BitVec 1), QueueReady s → VlOk s →
    let w := sewOf s.me.vctx.vshape
    let n := s.me.vctx.vl
    let z := zeroOf (etypeOf s.me.vctx.vshape)
    let by' := if f = 5 then 1 else (reg s a).toNat
    (Declared s [d, b] → Grouped s [d, b] →
      (∃ t, exec (.vslup d a b f m k) s = .next t ∧ Completed s t ∧ SameButFile s t ∧
        LoopResult s t w d m z fun i => if by' ≤ i then some (asFR (velem s b (i - by'))) else (fill s f (reg s a)).map asFR) ∧
      (∃ t, exec (.vsldn d a b f m k) s = .next t ∧ Completed s t ∧ SameButFile s t ∧
        LoopResult s t w d m z fun i => if i + by' < n then some (asFR (velem s b (i + by'))) else (fill s f (reg s a)).map asFR) ∧
      (∃ t, exec (.vexpd d b m k) s = .next t ∧ Completed s t ∧ SameButFile s t ∧
        LoopResult s t w d m z fun i => some (asFR (velem s b (before s m i)))) ∧
      ∃ t, exec (.vcmpr d b m k) s = .next t ∧ Completed s t ∧ SameButFile s t ∧
        (∀ i < n, on s m i = true → velem t d (before s m i) = velem s b i) ∧
        (∀ i < n, before s m n ≤ i → velem t d i = if mpolOf s.me.vctx.vshape then z % 2 ^ w else velem s d i) ∧
        (∀ i, n ≤ i → velem t d i = velem s d i)) ∧
    (Declared s [d, a, b] → Grouped s [d, a] → badGroup s.me.vctx.cnt (indexRegs s.me.vctx.vshape) b.toNat = false →
      ∃ t, exec (.vperm d a b m k j) s = .next t ∧ Completed s t ∧ SameButFile s t ∧
        LoopResult s t w d m z fun i => some (asFR (if elemW s 32 b i < n then velem s a (elemW s 32 b i) else z))) ∧
    (Declared s [d] → Grouped s [d] → etypeOf s.me.vctx.vshape < 2 →
      ∃ t, exec (.viota d b m) s = .next t ∧ Completed s t ∧ SameButFile s t ∧
        LoopResult s t w d m z fun i =>
          some (asFR ((List.range i).countP (fun x => on s m x && mbit s b x) % 2 ^ w)))

/-- R181 to R183: VRED and VSCAN complete under the checks of Table 10.1. VRED writes element 0 of D alone: the initial
element of A combined with the pairwise tree of B's elements, the identity standing for masked-off ones; VSCAN writes each
enabled element with the log-step scan up to it, and under MPOL zeroes the masked-off ones. With VL = 0 neither writes
anything or sets a flag. R184: under .minloc and .maxloc they write the best of the initial pair and the pairs (value, DIDX +
i) of the enabled elements, with the lesser identity of equal values and no NaN, to D and to the identities at D + L; no flag
but NV changes. R181, R182: an integer VRED.ADD without saturation is the sum modulo 2^SEW of element 0 of A and the enabled
elements of B, in whatever order the tree combines them. An entry of an empty queue executes in the step that issues it (log
2). -/
def Obligations.ReduceAndScan : Prop :=
  (∀ (s : State) (d a b : BitVec 5) (o : BitVec 3) (m : BitVec 2) (k j : BitVec 1), QueueReady s → VlOk s →
    Declared s [d, a, b] →
    let w := sewOf s.me.vctx.vshape
    let v := s.me.vctx.vshape
    let xs := (List.range s.me.vctx.vl).map fun i => if on s m i then velem s b i else redId o.toNat v
    (redWrong false d a b o s.me.vctx = false →
      ∃ t, exec (.vred d a b o m k j) s = .next t ∧ Completed s t ∧ SameButTree s t ∧ t.me.regs = s.me.regs ∧
        (0 < s.me.vctx.vl → o.toNat < 6 →
          velem t d 0 = (redOp o.toNat v (velem s a 0) ((treeOf (redOp o.toNat v) 17 xs).1.headD 0)).1 % 2 ^ w ∧
          ∀ i, 0 < i → velem t d i = velem s d i) ∧
        (0 < s.me.vctx.vl → 6 ≤ o.toNat → PairAt s t d a b o m 0 s.me.vctx.vl ∧ PairFlags s t a b m ∧
          (∀ i, 0 < i → i < maxVl v s.me.vctx.cnt → velem t d i = velem s d i) ∧
          ∀ i, 0 < i → elemW t 32 (d + BitVec.ofNat 5 (lmulOf v)) i = elemW s 32 (d + BitVec.ofNat 5 (lmulOf v)) i) ∧
        (s.me.vctx.vl = 0 → t.me.vctx.vf = s.me.vctx.vf ∧ t.me.xflags = s.me.xflags)) ∧
    (redWrong true d a b o s.me.vctx = false →
      ∃ t, exec (.vscan d a b o m k j) s = .next t ∧ Completed s t ∧ SameButTree s t ∧ t.me.regs = s.me.regs ∧
        (0 < s.me.vctx.vl → o.toNat < 6 →
          (∀ i < s.me.vctx.vl, on s m i = true → velem t d i =
            (redOp o.toNat v (velem s a 0) ((scanOf (redOp o.toNat v) 17 1 xs).1.getD i 0)).1 % 2 ^ w) ∧
          (∀ i < s.me.vctx.vl, on s m i = false →
            velem t d i = if mpolOf v then zeroOf (etypeOf v) % 2 ^ w else velem s d i) ∧
          ∀ i, s.me.vctx.vl ≤ i → velem t d i = velem s d i) ∧
        (0 < s.me.vctx.vl → 6 ≤ o.toNat → PairFlags s t a b m ∧
          (∀ i < s.me.vctx.vl, on s m i = true → PairAt s t d a b o m i (i + 1)) ∧
          (∀ i < s.me.vctx.vl, on s m i = false →
            velem t d i = (if mpolOf v then zeroOf (etypeOf v) % 2 ^ w else velem s d i) ∧
            elemW t 32 (d + BitVec.ofNat 5 (lmulOf v)) i =
              if mpolOf v then 0 else elemW s 32 (d + BitVec.ofNat 5 (lmulOf v)) i) ∧
          (∀ i, s.me.vctx.vl ≤ i → i < maxVl v s.me.vctx.cnt → velem t d i = velem s d i) ∧
          ∀ i, s.me.vctx.vl ≤ i → elemW t 32 (d + BitVec.ofNat 5 (lmulOf v)) i = elemW s 32 (d + BitVec.ofNat 5 (lmulOf v)) i) ∧
        (s.me.vctx.vl = 0 → t.me.vctx.vf = s.me.vctx.vf ∧ t.me.xflags = s.me.xflags))) ∧
  (∀ (s : State) (d a b : BitVec 5) (m : BitVec 2) (k j : BitVec 1), QueueReady s → VlOk s → Declared s [d, a, b] →
    redWrong false d a b 0 s.me.vctx = false → etypeOf s.me.vctx.vshape < 2 → satOf s.me.vctx.vshape = false →
    0 < s.me.vctx.vl →
    ∃ t, exec (.vred d a b 0 m k j) s = .next t ∧
      velem t d 0 = (velem s a 0 + (((List.range s.me.vctx.vl).filter (on s m)).map (velem s b)).sum) %
        2 ^ sewOf s.me.vctx.vshape)

namespace Sys2Proof.Claims

open Sys2Proof Sys2Proof.Machine

/-- el holds the entries of E, the greatest value first and, of equal values, the least identity first (R186). -/
def BestFirst (v : Word) (E el : List (Nat × Nat)) : Prop :=
  el.Perm E ∧ el.Pairwise fun p q => rank v q.1 < rank v p.1 ∨ (rank v q.1 = rank v p.1 ∧ p.2 ≤ q.2)

/-- The entries of a list whose identity no earlier entry has (R187). -/
def firsts (xs : List (Nat × Nat)) : List (Nat × Nat) :=
  ((List.range xs.length).filter fun x => (List.range x).all fun y => xs[y]?.map Prod.snd != xs[x]?.map Prod.snd).map
    fun x => xs.getD x (0, 0)

end Sys2Proof.Claims

/-- R185 to R187: VHIST adds to each 32-bit counter of D the number of enabled elements whose low four or eight bits are its number,
from zero with `.clr`; VTOPK writes the k best enabled values in order with their identities and gives A how many there are; VTKMRG
merges two lists, each identity once. A k outside 1 to 64 raises "illegal instruction".
An entry of an empty queue executes in the step that issues it (log 2). -/
def Obligations.HistogramAndTopK : Prop :=
  ∀ (s : State) (d a b : BitVec 5) (l w : BitVec 1) (m : BitVec 2) (k j : BitVec 1), QueueReady s → VlOk s →
    let c := s.me.vctx
    let L := lmulOf c.vshape
    let n := nregsOf c.cnt
    (Declared s [d, b] → Grouped s [b] → etypeOf c.vshape < 2 → (w = 1 → 8 ≤ sewOf c.vshape) →
      overlap d.toNat 1 b.toNat L = false →
      ∃ t, exec (.vhist d b l w m k) s = .next t ∧ Completed s t ∧ SameButFile s t ∧
        ∀ x < 2 ^ (if w = 0 then 4 else 8), elemW t 32 d x =
          ((if l = 1 then 0 else elemW s 32 d x) +
            (List.range c.vl).countP fun i => on s m i && velem s b i % 2 ^ (if w = 0 then 4 else 8) == x) % 2 ^ 32) ∧
    (Declared s [d, b] → Grouped s [d, b] → etypeOf c.vshape < 6 → d.toNat + L + 1 ≤ n →
      overlap (d.toNat + L) 1 b.toNat L = false →
      (1 ≤ (reg s a).toNat → (reg s a).toNat ≤ 64 →
        ∃ t el, exec (.vtopk d a b m k) s = .next t ∧ Completed s t ∧ SameButTree s t ∧
          BestFirst c.vshape ((((List.range c.vl).filter (on s m)).map fun i => (velem s b i, (c.didx.toNat + i) % 2 ^ 32)).filter
            fun p => !nanValue c.vshape p.1) el ∧
          WritesReg s t a (word (Min.min (reg s a).toNat el.length)) ∧
          ∀ x < (reg s a).toNat,
            velem t d x = (el[x]?.map Prod.fst).getD (least (etypeOf c.vshape) (sewOf c.vshape)) % 2 ^ sewOf c.vshape ∧
            elemW t 32 (d + BitVec.ofNat 5 L) x = (el[x]?.map Prod.snd).getD 0xFFFFFFFF % 2 ^ 32) ∧
      ((reg s a).toNat = 0 ∨ 64 < (reg s a).toNat →
        exec (.vtopk d a b m k) s = .next (takeTrap 1 0 false false s.me.pc (word (encodeNat (.vtopk d a b m k))) s))) ∧
    (Declared s [d, a, b] → Grouped s [d, a, b] → etypeOf c.vshape < 6 → 0 < c.vlGrant → c.vlGrant ≤ 64 → d.toNat + L + 1 ≤ n →
      a.toNat + L + 1 ≤ n → b.toNat + L + 1 ≤ n → overlap d.toNat (L + 1) b.toNat L = false →
      ∃ t el, exec (.vtkmrg d a b k j) s = .next t ∧ Completed s t ∧ SameButFile s t ∧
        let all := ((List.range c.vl).map fun x => (velem s a x, elemW s 32 (a + BitVec.ofNat 5 L) x)) ++
          (List.range c.vl).map fun x => (velem s b x, elemW s 32 (b + BitVec.ofNat 5 L) x)
        BestFirst c.vshape (firsts (all.filter fun p => p.2 != 0xFFFFFFFF && !nanValue c.vshape p.1)) el ∧
        ∀ x < c.vl,
          velem t d x = (el[x]?.map Prod.fst).getD (least (etypeOf c.vshape) (sewOf c.vshape)) % 2 ^ sewOf c.vshape ∧
          elemW t 32 (d + BitVec.ofNat 5 L) x = (el[x]?.map Prod.snd).getD 0xFFFFFFFF % 2 ^ 32)

namespace Sys2Proof.Claims

open Sys2Proof Sys2Proof.Machine

/-- A vector load or store: D, the vector sources, the mask, the address of element i, and whether SEW 4 is allowed. -/
structure MForm where
  d : BitVec 5
  rs : List (BitVec 5)
  m : BitVec 2
  addr : State → Nat → Nat
  index : Option (BitVec 5)
  nibble : Bool

def unitAddr (a : BitVec 5) (s : State) (i : Nat) : Nat :=
  let w := sewOf s.me.vctx.vshape
  ((reg s a).toNat + (if w = 4 then i / 2 else i * (w / 8))) % 2 ^ 64

def strideAddr (a b : BitVec 5) (s : State) (i : Nat) : Nat := ((reg s a).toNat + i * (reg s b).toNat) % 2 ^ 64

def indexAddr (a b : BitVec 5) (s : State) (i : Nat) : Nat := ((reg s a).toNat + elemW s 32 b i) % 2 ^ 64

/-- The loads of Table 9.1. -/
def loadForm : Instr → Option MForm
  | .vld d a m => some ⟨d, [d], m, unitAddr a, none, true⟩
  | .vldff d a m => some ⟨d, [d], m, unitAddr a, none, true⟩
  | .vlds d a b m => some ⟨d, [d], m, strideAddr a b, none, false⟩
  | .vldx d a b m _ => some ⟨d, [d, b], m, indexAddr a b, some b, false⟩
  | .vldxo d a b m _ => some ⟨d, [d, b], m, indexAddr a b, some b, false⟩
  | _ => none

/-- The stores of Table 9.1. -/
def storeForm : Instr → Option MForm
  | .vst d a m => some ⟨d, [d], m, unitAddr a, none, true⟩
  | .vsts d a b m => some ⟨d, [d], m, strideAddr a b, none, false⟩
  | .vstx d a b m _ => some ⟨d, [d, b], m, indexAddr a b, some b, false⟩
  | .vstxo d a b m _ => some ⟨d, [d, b], m, indexAddr a b, some b, false⟩
  | _ => none

/-- The checks of R159 at issue: the type, the group of D, and the index group, apart from D. -/
def memChecks (s : State) (f : MForm) : Prop :=
  Declared s f.rs ∧ Grouped s [f.d] ∧ VlOk s ∧ (f.nibble = false → sewOf s.me.vctx.vshape ≠ 4) ∧
    ∀ b ∈ f.index, badGroup s.me.vctx.cnt (indexRegs s.me.vctx.vshape) b.toNat = false ∧
      overlap f.d.toNat (lmulOf s.me.vctx.vshape) b.toNat (indexRegs s.me.vctx.vshape) = false

/-- Bytes of an element in memory. -/
def esize (w : Nat) : Nat := if w = 4 then 1 else w / 8

/-- Where the enabled elements lie: each passes its checks at a location. -/
def Located (s : State) (f : MForm) (acc : Acc) (l : Nat → Loc) : Prop :=
  ∀ i < s.me.vctx.vl, on s f.m i = true →
    f.addr s i % esize (sewOf s.me.vctx.vshape) = 0 ∧ reach s (f.addr s i) acc = .ok (l i)

/-- The value that element i of width w reads at its location. -/
def elemSeen (s : State) (w : Nat) (l : Loc) (i : Nat) : Nat :=
  if w = 4 then (if i % 2 = 0 then (seen s l).toNat % 16 else (seen s l).toNat / 16)
  else ofBytes ((List.range (w / 8)).map fun j => seen s (l.plus j))

/-- No request on its way is still in a channel of the die fabric. -/
def PortsOnly (s : State) : Prop := ∀ q ∈ s.net, q.inChannel = false

/-- An entry of the queue whose execution a fault stopped. -/
def Stopped (t : State) (i : Instr) (prog : Nat) : Prop :=
  ∃ e rest, t.me.vctx.queue = e :: rest ∧ e.instr = i ∧ e.prog = prog

/-- Element i passes its checks. -/
def passesAt (s : State) (f : MForm) (acc : Acc) (i : Nat) : Bool :=
  f.addr s i % esize (sewOf s.me.vctx.vshape) == 0 && match reach s (f.addr s i) acc with | .ok _ => true | _ => false

/-- Where the elements that pass their checks lie. -/
def Placed (s : State) (f : MForm) (acc : Acc) (l : Nat → Loc) : Prop :=
  ∀ i, passesAt s f acc i = true → reach s (f.addr s i) acc = .ok (l i)

/-- Element j is the first enabled one that fails a check of R160, misaligned or in no region, with its cause. -/
def StopsFirst (s : State) (f : MForm) (acc : Acc) (l : Nat → Loc) (j c : Nat) : Prop :=
  let w := sewOf s.me.vctx.vshape
  j < s.me.vctx.vl ∧ on s f.m j = true ∧
    (∀ i < j, on s f.m i = true → f.addr s i % esize w = 0 ∧ reach s (f.addr s i) acc = .ok (l i)) ∧
    ((c = 3 ∧ f.addr s j % esize w ≠ 0) ∨ (c = 4 ∧ f.addr s j % esize w = 0 ∧ reach s (f.addr s j) acc = .access))

/-- Instruction i stands stopped at a progress, and its trap is entered with a cause and TVAL (R167, R278, R284). -/
def TrappedAt (s t : State) (i : Instr) (prog c v : Nat) : Prop :=
  Stopped t i prog ∧ t.me.qstop = true ∧ t.me.hm = true ∧ field t.me.tcause 7 0 = c ∧ bit t.me.tcause.toNat 8 = true ∧
    t.me.tval = word v ∧ t.me.pc = s.me.thandler ∧ t.me.tepc = s.me.pc + 4

end Sys2Proof.Claims

/-! ## Vector memory -/

/-- R158, R161: VLD, VLDS, VLDX, VLDXO and VLDFF complete where every enabled element passes its checks and nothing of the strand is
outstanding: enabled elements take the values that the strand sees at their addresses, masked-off ones are zeroed under MPOL, every
location reads as before; VLDX clears the bits of m7 below VL, and no other mask changes.
An entry of an empty queue executes in the step that issues it (log 2). -/
def Obligations.VectorLoads : Prop :=
  ∀ (i : Instr) (f : MForm) (s : State) (l : Nat → Loc), loadForm i = some f → QueueReady s → Calm s → memChecks s f →
    Located s f .load l →
    let w := sewOf s.me.vctx.vshape
    ∃ t, exec i s = .next t ∧ Completed s t ∧ SameBytes s t ∧
      (∀ x, seen t x = seen s x) ∧
      LoopResult s t w f.d f.m (zeroOf (etypeOf s.me.vctx.vshape)) (fun k => some (asFR (elemSeen s w (l k) k))) ∧
      (∀ m k, k < 65536 → mbit t m k =
        if (∃ d a b q c, i = .vldx d a b q c) ∧ m = 7 ∧ k < s.me.vctx.vl then false else mbit s m k) ∧
      { t with
        nextId := s.nextId, net := s.net, spad := s.spad, dev := { t.dev with tlb := s.dev.tlb }
        me := { t.me with
          pc := s.me.pc, laneCycles := s.me.laneCycles, bitCycles := s.me.bitCycles
          vctx := { t.me.vctx with vf := s.me.vctx.vf, masks := s.me.vctx.masks } } } = s

/-- R84, R90, R161: VST, VSTS, VSTX and VSTXO complete where every enabled element passes its checks, outside deterministic
mode: each byte that enabled elements store reads as that byte of one of them, and of the one with the highest index in host
space (R91), for VSTXO (R90), and where that one alone stores it; every other byte reads as before, and no register changes. VST at
SEW 4 stores each element's nibble alone. In deterministic mode the highest index prevails everywhere, and a store that finds all
64 lines of the buffer taken, with other strands of the gang live, stands at a drain point before it (R90, R99).
An entry of an empty queue executes in the step that issues it (log 2). -/
def Obligations.VectorStores : Prop :=
  (∀ (i : Instr) (f : MForm) (s : State) (l : Nat → Loc), storeForm i = some f → QueueReady s → NoDrain s → StoresOk s → Calm s →
    PortsOnly s → memChecks s f → Located s f .store l → sewOf s.me.vctx.vshape ≠ 4 →
    (∀ j < s.me.vctx.vl, ∀ k, on s f.m j = true → l j = .spad k → k % esize (sewOf s.me.vctx.vshape) = 0) →
    let w := sewOf s.me.vctx.vshape
    let stores := fun j b x => j < s.me.vctx.vl ∧ on s f.m j = true ∧ b < w / 8 ∧ x = (l j).plus b
    ∃ t, exec i s = .next t ∧ Completed s t ∧
      (∀ x, (∃ j b, stores j b x) → ∃ j b, stores j b x ∧ seen t x = BitVec.ofNat 8 (velem s f.d j / 256 ^ b)) ∧
      (∀ x j b, stores j b x → (∀ j' b', stores j' b' x → j' ≤ j) →
        ((∃ pa, x = .host pa) ∨ (∃ d a c q k, i = .vstxo d a c q k) ∨ ∀ j' b', stores j' b' x → j' = j) →
        seen t x = BitVec.ofNat 8 (velem s f.d j / 256 ^ b)) ∧
      (∀ x, (∀ j b, ¬stores j b x) → seen t x = seen s x) ∧
      t.me.regs = s.me.regs ∧ t.me.vctx.vf = s.me.vctx.vf ∧ t.me.xflags = s.me.xflags ∧ t.me.acc = s.me.acc) ∧
  (∀ (d a : BitVec 5) (m : BitVec 2) (s : State) (l : Nat → Loc), QueueReady s → NoDrain s → StoresOk s → Calm s → PortsOnly s →
    memChecks s ⟨d, [d], m, unitAddr a, none, true⟩ → Located s ⟨d, [d], m, unitAddr a, none, true⟩ .store l →
    sewOf s.me.vctx.vshape = 4 →
    let nibble := fun (v : Byte) p => v.toNat / 16 ^ p % 16
    let stores := fun j p x => j < s.me.vctx.vl ∧ on s m j = true ∧ p = j % 2 ∧ x = l j
    ∃ t, exec (.vst d a m) s = .next t ∧ Completed s t ∧ t.me.regs = s.me.regs ∧ t.me.vctx.vf = s.me.vctx.vf ∧
      (∀ x j p, stores j p x → (∀ j', stores j' p x → j' ≤ j) → nibble (seen t x) p = velem s d j) ∧
      ∀ x, ∀ p < 2, (∀ j, ¬stores j p x) → nibble (seen t x) p = nibble (seen s x) p) ∧
  ∀ (i : Instr) (f : MForm) (s : State) (l : Nat → Loc), storeForm i = some f → QueueReady s → s.me.det = true → StoresOk s →
    Calm s → PortsOnly s → memChecks s f → Located s f .store l → sewOf s.me.vctx.vshape ≠ 4 →
    (∀ j < s.me.vctx.vl, ∀ k, on s f.m j = true → l j = .spad k → k % esize (sewOf s.me.vctx.vshape) = 0) →
    let stores := fun j b x => j < s.me.vctx.vl ∧ on s f.m j = true ∧ b < sewOf s.me.vctx.vshape / 8 ∧ x = (l j).plus b
    (s.me.wcb.length + s.me.vctx.vl ≤ 64 →
      ∃ t, exec i s = .next t ∧ Completed s t ∧ t.me.regs = s.me.regs ∧ t.me.vctx.vf = s.me.vctx.vf ∧
        (∀ x j b, stores j b x → (∀ j' b', stores j' b' x → j' ≤ j) → seen t x = BitVec.ofNat 8 (velem s f.d j / 256 ^ b)) ∧
        ∀ x, (∀ j b, ¬stores j b x) → seen t x = seen s x) ∧
    ∀ j k, j < s.me.vctx.vl → on s f.m j = true → (∀ j' < j, on s f.m j' = false) → l j = .spad k → alone s = false →
      s.me.wcb.length = 64 → (∀ x ∈ s.me.wcb, x.line ≠ k / 256) → (∀ j' < s.me.vctx.vl, on s f.m j' = true → l j' = l j → j' = j) →
      ∃ t, exec i s = .next t ∧ (∃ p, Stopped t i p) ∧ t.me.stand = some i ∧ (∀ x, seen t x = seen s x) ∧ t.me.regs = s.me.regs

/-- R160, R167: VLD, VLDS, VLDXO, VLDFF at its first enabled element, VST, VSTS, VSTXO and the segment forms whose first faulting
element is misaligned (cause 0x03) or lies in no region (cause 0x04) stop there: the elements before it are moved, nothing of it and
of those after it is, the entry stands at the head of the stopped queue with that element as its progress, and the handler is
entered with TVAL the address. R168, R169: VLDFF whose fault lies after an enabled element completes, VL trimmed to the faulting
element's index. R170: VLDX and VSTX move every element that passes, m7 takes a one for each enabled element that faults and a zero
for every other below VL, and the trap is that of the least element that faults; the progress is 1, the m7 pass, by the model's count
(log 16). An entry of an empty queue executes in the step that issues it (log 2). -/
def Obligations.VectorLoadStops : Prop :=
  (∀ (i : Instr) (f : MForm) (s : State) (l : Nat → Loc) (j c : Nat), loadForm i = some f → QueueReady s → Calm s →
    s.me.hm = false → memChecks s f → StopsFirst s f .load l j c →
    let w := sewOf s.me.vctx.vshape
    let v := fun k => elemSeen s w (l k) k
    ((∀ d a b m k, i ≠ .vldx d a b m k) → (∀ d a m, i = .vldff d a m → ∀ k < j, on s m k = false) →
      ∃ t, exec i s = .next t ∧ TrappedAt s t i j c (f.addr s j) ∧ t.me.regs = s.me.regs ∧
        (∀ k < j, on s f.m k = true → velem t f.d k = v k) ∧ ∀ k, j ≤ k → velem t f.d k = velem s f.d k) ∧
    (∀ d a b m k, i = .vldx d a b m k → Placed s f .load l →
      ∃ t, exec i s = .next t ∧ TrappedAt s t i 1 c (f.addr s j) ∧ t.me.regs = s.me.regs ∧
        (∀ k < s.me.vctx.vl, on s m k = true → velem t d k = if passesAt s f .load k then v k else velem s d k) ∧
        ∀ k < s.me.vctx.vl, mbit t 7 k = (on s m k && !passesAt s f .load k))) ∧
  (∀ (i : Instr) (f : MForm) (s : State) (l : Nat → Loc) (j c : Nat), storeForm i = some f → QueueReady s → NoDrain s →
    StoresOk s → Calm s → PortsOnly s → s.me.hm = false → memChecks s f → StopsFirst s f .store l j c →
    sewOf s.me.vctx.vshape ≠ 4 → Placed s f .store l →
    (∀ k < s.me.vctx.vl, passesAt s f .store k = true → ∀ x, l k = .spad x → x % esize (sewOf s.me.vctx.vshape) = 0) →
    let made := fun k => on s f.m k = true ∧ passesAt s f .store k = true ∧
      if (∃ d a b m q, i = .vstx d a b m q) then k < s.me.vctx.vl else k < j
    let stores := fun k b x => made k ∧ b < sewOf s.me.vctx.vshape / 8 ∧ x = (l k).plus b
    ∃ t, exec i s = .next t ∧ t.me.regs = s.me.regs ∧ t.me.vctx.vf = s.me.vctx.vf ∧
      (∀ x, (∃ k b, stores k b x) → ∃ k b, stores k b x ∧ seen t x = BitVec.ofNat 8 (velem s f.d k / 256 ^ b)) ∧
      (∀ x, (∀ k b, ¬stores k b x) → seen t x = seen s x) ∧
      ((∀ d a b m q, i ≠ .vstx d a b m q) → TrappedAt s t i j c (f.addr s j)) ∧
      ∀ d a b m q, i = .vstx d a b m q → TrappedAt s t i 1 c (f.addr s j) ∧
        ∀ k < s.me.vctx.vl, mbit t 7 k = (on s m k && !passesAt s f .store k)) ∧
  (∀ (s : State) (d a : BitVec 5) (n : BitVec 3) (m : BitVec 2) (j g c : Nat), QueueReady s → Calm s → s.me.hm = false →
    Declared s [d] → VlOk s → segWrong d n s.me.vctx = false → j < s.me.vctx.vl → on s m j = true → g ≤ n.toNat →
    let w := sewOf s.me.vctx.vshape
    let mw := fun x => mtWidth w (mtOf s.me.vctx.mfcr x)
    let off := fun x => ((List.range x).map mw).sum
    let addr := fun i x => ((reg s a).toNat + i * (off (n.toNat + 1) + field s.me.vctx.mfcr 39 32) + off x) % 2 ^ 64
    let ends := fun acc => (∀ i ≤ j, on s m i = true → ∀ x ≤ n.toNat, i < j ∨ x < g →
        addr i x % mw x = 0 ∧ ∃ p, reach s (addr i x) acc = .ok p) ∧
      ((c = 3 ∧ addr j g % mw g ≠ 0) ∨ (c = 4 ∧ addr j g % mw g = 0 ∧ reach s (addr j g) acc = .access))
    (ends .load → ∃ t, exec (.vldseg d a n m) s = .next t ∧ TrappedAt s t (.vldseg d a n m) j c (addr j g) ∧
      t.me.regs = s.me.regs ∧
      ∀ x ≤ n.toNat, ∀ i, j ≤ i → elemW t w (d + BitVec.ofNat 5 (x * lmulOf s.me.vctx.vshape)) i =
        elemW s w (d + BitVec.ofNat 5 (x * lmulOf s.me.vctx.vshape)) i) ∧
    (NoDrain s → StoresOk s → PortsOnly s → ends .store → (∀ i < j, on s m i = true → ∀ x ≤ n.toNat, ∀ y,
        reach s (addr i x) .store = .ok (.spad y) → y % mw x = 0) →
      ∃ t, exec (.vstseg d a n m) s = .next t ∧ TrappedAt s t (.vstseg d a n m) j c (addr j g) ∧ t.me.regs = s.me.regs ∧
        t.me.vctx.vf = s.me.vctx.vf ∧
        ∀ x, (∀ i < j, on s m i = true → ∀ y ≤ n.toNat, ∀ b < mw y, ∀ p, reach s (addr i y) .store = .ok p → x ≠ p.plus b) →
          seen t x = seen s x)) ∧
  (∀ (s : State) (d a : BitVec 5) (m : BitVec 2) (j : Nat) (l : Nat → Loc), QueueReady s → Calm s →
    memChecks s ⟨d, [d], m, unitAddr a, none, true⟩ → j < s.me.vctx.vl → on s m j = true →
    let w := sewOf s.me.vctx.vshape
    (∃ i < j, on s m i = true) →
    (∀ i < j, on s m i = true → unitAddr a s i % esize w = 0 ∧ reach s (unitAddr a s i) .load = .ok (l i)) →
    (unitAddr a s j % esize w ≠ 0 ∨ ∀ p, reach s (unitAddr a s j) .load ≠ .ok p) →
    ∃ t, exec (.vldff d a m) s = .next t ∧ Completed s t ∧ t.me.vctx.vl = j ∧ t.me.hm = s.me.hm ∧
      (∀ i < j, on s m i = true → velem t d i = elemSeen s w (l i) i) ∧ ∀ i, j ≤ i → velem t d i = velem s d i)

/-- R163 to R166: MFSET takes an accepted MFCR and refuses any other; VLDSEG and VSTSEG complete where every field of every enabled
element passes its checks: field f of element i is moved between D + f × L and the record's offset for f, converted between the
memory type and the register's type.
An entry of an empty queue executes in the step that issues it (log 2). -/
def Obligations.SegmentForms : Prop :=
  ∀ (s : State) (d a : BitVec 5) (n : BitVec 3) (m : BitVec 2) (l : Nat → Nat → Loc), QueueReady s → Calm s →
    let c := s.me.vctx
    let w := sewOf c.vshape
    let k := n.toNat + 1
    let mt := mtOf c.mfcr
    let mw := fun f => mtWidth w (mt f)
    let off := fun f => ((List.range f).map mw).sum
    let addr := fun i f => ((reg s a).toNat + i * (off k + field c.mfcr 39 32) + off f) % 2 ^ 64
    (mfcrOk (reg s a) = true → ∃ t, exec (.mfset a) s = .next t ∧ Completed s t ∧ t.me.vctx.mfcr = reg s a ∧
      { t with nextId := s.nextId, me := { t.me with
          pc := s.me.pc, laneCycles := s.me.laneCycles, bitCycles := s.me.bitCycles, vctx := { t.me.vctx with mfcr := c.mfcr } } } = s) ∧
    (mfcrOk (reg s a) = false →
      exec (.mfset a) s = .next (takeTrap 1 0 false false s.me.pc (word (encodeNat (.mfset a))) s)) ∧
    (Declared s [d] → VlOk s → segWrong d n c = false →
      (∀ i < c.vl, on s m i = true → ∀ f < k, addr i f % mw f = 0 ∧ reach s (addr i f) .load = .ok (l i f)) →
      ∃ t, exec (.vldseg d a n m) s = .next t ∧ Completed s t ∧ SameBytes s t ∧ t.me.regs = s.me.regs ∧
        ∀ i < c.vl, on s m i = true → ∀ f < k, elemW t w (d + BitVec.ofNat 5 (f * lmulOf c.vshape)) i =
          (fieldConv (mtTy c.vshape (mt f)) (tyOf c.vshape) (satOf c.vshape) (env s i).mode
            (ofBytes ((List.range (mw f)).map fun j => seen s ((l i f).plus j)))).v % 2 ^ w) ∧
    (Declared s [d] → VlOk s → segWrong d n c = false → NoDrain s → StoresOk s → PortsOnly s →
      (∀ i < c.vl, on s m i = true → ∀ f < k, addr i f % mw f = 0 ∧ reach s (addr i f) .store = .ok (l i f) ∧
        ∀ x, l i f = .spad x → x % mw f = 0) →
      (∀ i f i' f' j j', i < c.vl → i' < c.vl → f < k → f' < k → j < mw f → j' < mw f' →
        on s m i = true → on s m i' = true → (l i f).plus j = (l i' f').plus j' → i = i' ∧ f = f') →
      ∃ t, exec (.vstseg d a n m) s = .next t ∧ Completed s t ∧ t.me.regs = s.me.regs ∧ t.me.vctx.vf = c.vf ∧
        (∀ i < c.vl, on s m i = true → ∀ f < k, ∀ j < mw f, seen t ((l i f).plus j) =
          BitVec.ofNat 8 ((fieldConv (tyOf c.vshape) (mtTy c.vshape (mt f)) (satOf c.vshape) (env s i).mode
            (elemW s w (d + BitVec.ofNat 5 (f * lmulOf c.vshape)) i)).v / 256 ^ j)) ∧
        ∀ x, (∀ i < c.vl, on s m i = true → ∀ f < k, ∀ j < mw f, x ≠ (l i f).plus j) → seen t x = seen s x)

/-- R193, R194: VAMO completes in normal mode where every enabled element passes its checks and lies at its own location in a
scratchpad, nothing of the strand is outstanding and a release has no push to wait for: each such element of D takes the old
value at the point of coherence, and memory the result of the operation with what the element held; every other byte keeps its
value at the point of coherence, and the bits of m7 below VL are cleared. An entry of an empty queue executes in the step that
issues it (log 2). -/
def Obligations.VectorAtomics : Prop :=
  ∀ (s : State) (d a b : BitVec 5) (r : BitVec 2) (o : BitVec 4) (m : BitVec 2) (k : BitVec 1) (l : Nat → Nat), QueueReady s →
    NoDrain s → Calm s → s.me.wcb = [] → s.net = [] → (2 ≤ r.toNat → allAccepted s = true) → o.toNat < 9 →
    memChecks s ⟨d, [d, b], m, indexAddr a b, some b, false⟩ → etypeOf s.me.vctx.vshape < 2 →
    (sewOf s.me.vctx.vshape = 32 ∨ sewOf s.me.vctx.vshape = 64) →
    Located s ⟨d, [d, b], m, indexAddr a b, some b, false⟩ .store (fun i => .spad (l i)) →
    let n := sewOf s.me.vctx.vshape / 8
    (∀ i < s.me.vctx.vl, ∀ j < s.me.vctx.vl, on s m i = true → on s m j = true → i ≠ j → l i + n ≤ l j ∨ l j + n ≤ l i) →
    ∃ t, exec (.vamo d a b r o m k) s = .next t ∧ Completed s t ∧ t.me.regs = s.me.regs ∧
      (∀ i < s.me.vctx.vl, on s m i = true →
        velem t d i = coherent s (.spad (l i)) n ∧
        coherent t (.spad (l i)) n = atomicResult o n (coherent s (.spad (l i)) n) (velem s d i)) ∧
      (∀ x, (∀ i < s.me.vctx.vl, on s m i = true → x < l i ∨ l i + n ≤ x) →
        atCoherence t (.spad x) = atCoherence s (.spad x)) ∧
      ∀ i < s.me.vctx.vl, mbit t 7 i = false

namespace Sys2Proof.Claims

open Sys2Proof Sys2Proof.Machine

/-- Iteration n of a loop is posted (R197). -/
def posted (l : Loop) (n : Nat) : Prop := n < l.f.toNat ∨ (n < l.f.toNat + 64 ∧ l.w.getLsbD (n - l.f.toNat) = true)

/-- t is s but for what every completed entry may change, the gangs and whether an observation is due. -/
def SameButGangs (s t : State) : Prop :=
  let u := sinceEntry s t
  { u with gangs := s.gangs, me := { u.me with acquired := s.me.acquired } } = s

/-- A command and its FIFO, handles that must be valid, and whether it is a write stream. -/
structure CmdForm where
  q : BitVec 4
  hs : List (BitVec 5)
  ws : Bool
  kind : CmdKind → Prop

/-- Commands with all their handles in registers. -/
def cmdForm (s : State) : Instr → Option CmdForm
  | .rdstr a b q => some ⟨q, [a], false, fun k => k = .rdstr (reg s b).toNat⟩
  | .wrstr a q => some ⟨q, [a], true, fun k => k = .wrstr⟩
  | .rsort d a y c q => some ⟨q, if c = 1 ∧ d = 0 then [a] else [a, d], false, fun k => k = .rsort (c == 1) y.toNat⟩
  | .rmerge d a b u l c q =>
    if l = 0 then some ⟨q, if c = 1 ∧ d = 0 then [a, b] else [a, b, d], false, fun k => k = .rmerge (c == 1) (u == 1)⟩ else none
  | .rjoin d a b l j q => some ⟨q, [a, b, d], false, fun k => k = .rjoin j.toNat (l == 1)⟩
  | _ => none

/-- The FIFO pair q of the strand. -/
def fifo (s : State) (q : BitVec 4) : Fifo := fifoOf s.me q.toNat

/-- A command joins FIFO q: OUT counts it, WS is set by a write stream, and every earlier store of the strand is performed. -/
def Pushed (s t : State) (q : BitVec 4) (ws : Bool) (c : Cmd) : Prop :=
  (fifo t q).cmds = (fifo s q).cmds ++ [c] ∧ c.phase = .queued ∧ c.cspec = s.me.cspec.toList ∧
    (fifo t q).out = (fifo s q).out + 1 ∧ (fifo t q).ws = ws ∧ (fifo t q).res = (fifo s q).res ∧
    (∀ p, p ≠ q → fifo t p = fifo s p) ∧ t.me.wcb = [] ∧ t.me.hpath = [] ∧ t.me.regs = s.me.regs ∧
    t.host = (flushAll s).host ∧ t.spad = (flushAll s).spad

end Sys2Proof.Claims

/-! ## Ordering, the iteration ring and barriers -/

/-- R92, R93, R95, R96, R334: FENCE acq completes and lets the strand's node observe its gang, changing nothing else; any
other FENCE and VFENCE complete, outside deterministic mode with every pushed command accepted, with every earlier store of
the strand performed: memory then holds what the strand saw. At scope SYSTEM each, whatever its order, completes where no peer
is to be asked and no record is still to go there; else it sends its fence flits and stands at the head of the queue until
they are acknowledged. The model's choices: an entry of an empty queue executes in the step that issues it (log 2), and an acquire
observes every change that the ring has applied at once (log 69). -/
def Obligations.FencesPerform : Prop :=
  (∀ (s : State) (r : BitVec 2) (sc : BitVec 3), QueueReady s → NoDrain s → StoresOk s → Calm s → allAccepted s = true →
    (sc = 5 → myWindows s = [] ∧ fencesDone s.nextId s = true ∧ linksIdle s = true) →
    (∃ t, exec (.fence 1 sc) s = .next t ∧ Completed s t ∧ t.gangs = (observe s).gangs ∧ SameButGangs s t) ∧
    ∀ i, (i = .fence r sc ∧ r ≠ 1) ∨ i = .vfence sc →
      ∃ t, exec i s = .next t ∧ Completed s t ∧ t.me.wcb = [] ∧ t.me.hpath = [] ∧ t.net = [] ∧
        (∀ x, atCoherence t x = seen s x ∧ seen t x = seen s x) ∧
        t.gangs = (if i = .fence 0 sc ∨ i = .fence 3 sc then (observe s).gangs else s.gangs) ∧
        let u := sinceEntry s t
        { u with spad := s.spad, host := s.host, net := s.net, gangs := s.gangs, me := { u.me with
            wcb := s.me.wcb, hpath := s.me.hpath, acquired := s.me.acquired } } = s) ∧
  ∀ (s : State) (r : BitVec 2), QueueReady s → NoDrain s → Calm s → allAccepted s = true → linksIdle s = true → myWindows s ≠ [] →
    ∀ i, i = .fence r 5 ∨ i = .vfence 5 →
      ∃ t, exec i s = .next t ∧ Stopped t i 2 ∧ t.me.hm = s.me.hm ∧ t.dev.fenceWait = s.dev.fenceWait ++
        (myWindows s).map fun w => fenceTag s.nextId w.1

/-- R197 to R200: ITERSET sets a loop with no posted iteration from A on; POST of an iteration that is not posted and less
than 64 beyond the first unposted one adds exactly that iteration, and is an event of the gang; WAITI of a posted iteration
completes. Each lets the strand's node observe its gang. An iteration of a loop that is not set, or posted twice, raises cause
0x11. The model's choices: an entry of an empty queue executes in the step that issues it (log 2), and WAITI, ITERSET and POST observe
every change that the ring has applied at once, so that WAITI is judged by the ring's own state (log 69). -/
def Obligations.IterationRing : Prop :=
  ∀ (s : State) (a : BitVec 5) (l : BitVec 2) (g : Gang) (m : Member), QueueReady s → NoDrain s → Calm s → allAccepted s = true →
    myGang s = some g → g.members[s.me.lsn]? = some m →
    let n := (reg s a).toNat
    let p := loopOf s l
    (∃ t, exec (.iterset a l) s = .next t ∧ Completed s t ∧ loopOf t l = ⟨true, reg s a, 0⟩ ∧
      (∀ k, k ≠ l → loopOf t k = loopOf s k) ∧ (nodeView t).loops.get l.toFin = ⟨true, reg s a, 0⟩ ∧
      t.me.wcb = [] ∧ t.me.hpath = [] ∧ t.me.regs = s.me.regs) ∧
    (p.set = true → n ≤ 2 ^ 64 - 65 → n < p.f.toNat + 64 → ¬posted p n →
      ∃ t, exec (.post a l) s = .next t ∧ Completed s t ∧ (loopOf t l).set = true ∧
        (∀ m, m < 2 ^ 64 - 65 → (posted (loopOf t l) m ↔ m = n ∨ posted p m)) ∧
        (∀ k, k ≠ l → loopOf t k = loopOf s k) ∧ t.me.ev = true ∧ t.me.wcb = [] ∧ t.me.hpath = [] ∧ t.me.regs = s.me.regs) ∧
    (p.set = true → n ≤ 2 ^ 64 - 65 → posted p n →
      ∃ t, exec (.waiti a l) s = .next t ∧ Completed s t ∧ t.gangs = (observe s).gangs ∧ SameButGangs s t) ∧
    (s.me.hm = false → p.set = false →
      ∃ t, exec (.waiti a l) s = .next t ∧ Stopped t (.waiti a l) 0 ∧ field t.me.tcause 7 0 = 0x11 ∧ t.me.hm = true) ∧
    (s.me.hm = false → p.set = true → n ≤ 2 ^ 64 - 65 → posted p n →
      ∃ t, exec (.post a l) s = .next t ∧ Stopped t (.post a l) 0 ∧ field t.me.tcause 7 0 = 0x11 ∧ loopOf t l = p)

/-- R201 to R203: an arrival that leaves another strand of the gang out is recorded and changes no phase; the last one completes
the phase and clears every arrival. BARWT completes once its phase has, and BAR at the last arrival. A second arrival in one phase
raises cause 0x11. The model's choices: an entry of an empty queue executes in the step that issues it (log 2), and BARWT observes
every change that the ring has applied at once and completes as soon as its phase has (log 69). -/
def Obligations.Barriers : Prop :=
  ∀ (s : State) (g : Gang) (m : Member), QueueReady s → NoDrain s → Calm s → allAccepted s = true → myGang s = some g →
    g.members[s.me.lsn]? = some m →
    let last := ∀ j x, g.members[j]? = some x → j ≠ s.me.lsn → x.ended = true ∨ x.arr = true
    (m.arr = false → m.ended = false → ¬last →
      ∃ t g', exec .bararr s = .next t ∧ Completed s t ∧ myGang t = some g' ∧ g'.phase = g.phase ∧
        (g'.members[s.me.lsn]?).map Member.arr = some true ∧ t.me.wcb = [] ∧ t.me.hpath = [] ∧ t.me.regs = s.me.regs) ∧
    (m.arr = false → m.ended = false → last → ∀ i, i = .bararr ∨ i = .bar →
      ∃ t g', exec i s = .next t ∧ Completed s t ∧ myGang t = some g' ∧ g'.phase = g.phase + 1 ∧
        (∀ x ∈ g'.members, x.arr = false) ∧ t.me.ev = true ∧ t.me.wcb = [] ∧ t.me.hpath = [] ∧ t.me.regs = s.me.regs) ∧
    (m.target ≤ g.phase →
      ∃ t, exec .barwt s = .next t ∧ Completed s t ∧ t.me.lc = g.lc ∧ t.me.epoch = g.epoch ∧ t.gangs = (observe s).gangs ∧
        let u := sinceEntry s t
        { u with gangs := s.gangs, me := { u.me with lc := s.me.lc, epoch := s.me.epoch, acquired := s.me.acquired } } = s) ∧
    (s.me.hm = false → m.arr = true → ∀ i, i = .bararr ∨ i = .bar →
      ∃ t, exec i s = .next t ∧ Stopped t i 0 ∧ field t.me.tcause 7 0 = 0x11 ∧ t.me.hm = true)

/-! ## Runs and engine FIFOs -/

/-- R211, R212: ROPEN of an accepted descriptor opens the least free slot and gives D its handle, all ones where no slot is free,
and the negated code of a refused descriptor; RSTAT reads the fields of a handle; RCLOSE makes it invalid; a value that is no
handle raises "access fault" with that value.
An entry of an empty queue executes in the step that issues it (log 2). -/
def Obligations.RunHandles : Prop :=
  ∀ (s : State) (d a : BitVec 5) (o : BitVec 3), QueueReady s → Calm s →
    (∀ bs, padRead s (reg s a).toNat 8 4 = .ok bs →
      let c := refusal (wordAt bs 0) (wordAt bs 1) (wordAt bs 2) (wordAt bs 3)
      (∀ k, freeSlot s.me = some k → c = 0 →
        ∃ t, exec (.ropen d a) s = .next t ∧ Completed s t ∧ WritesReg s t d (word (genOf s.me k * 256 + k)) ∧
          t.me.handles = tset s.me.handles k
            (fillHandle (partNo (fnOf s s.me.fn)) (wordAt bs 0) (wordAt bs 1) (wordAt bs 2) (wordAt bs 3)) ∧ SameBytes s t) ∧
      (∀ k, freeSlot s.me = some k → c ≠ 0 →
        ∃ t, exec (.ropen d a) s = .next t ∧ Completed s t ∧ WritesReg s t d (0 - word c) ∧ t.me.handles = s.me.handles) ∧
      (freeSlot s.me = none →
        ∃ t, exec (.ropen d a) s = .next t ∧ Completed s t ∧ WritesReg s t d (BitVec.allOnes 64) ∧
          t.me.handles = s.me.handles)) ∧
    (∀ c, handleOf s.me (reg s a) = some c →
      (∃ t v, exec (.rstat d a o) s = .next t ∧ Completed s t ∧ SameButQueueReg s t ∧ WritesReg s t d v ∧
        (o = 0 → v = word c.h.len) ∧ (o = 1 → v = c.h.fmt) ∧ (o = 2 → v = c.h.base) ∧ (o = 3 → v = word c.h.cap)) ∧
      ∃ t, exec (.rclose a) s = .next t ∧ Completed s t ∧ handleOf t.me (reg s a) = none ∧ t.me.regs = s.me.regs ∧
        { t with nextId := s.nextId, me := { t.me with
            pc := s.me.pc, laneCycles := s.me.laneCycles, bitCycles := s.me.bitCycles, handles := s.me.handles, gens := s.me.gens } } = s) ∧
    (handleOf s.me (reg s a) = none →
      exec (.rclose a) s = .next (takeTrap 4 0 false false s.me.pc (reg s a) s) ∧
      exec (.rstat d a o) s = .next (takeTrap 4 0 false false s.me.pc (reg s a) s))

/-- R213, R214, R218, R224: RDSTR, WRSTR, RSORT, RMERGE, RJOIN and RPART whose handles are valid, on a FIFO with no open write
stream and fewer than 16 completions outstanding, complete outside deterministic mode: a command of their kind joins the FIFO
with CSPEC as it stands, OUT counts it and a write stream sets WS. The list form of RMERGE and RPART read their operands as
loads. An entry of an empty queue executes in the step that issues it (log 2). -/
def Obligations.CommandPushes : Prop :=
  ∀ (s : State), QueueReady s → NoDrain s → Calm s →
    (∀ (i : Instr) (f : CmdForm), cmdForm s i = some f → (fifo s f.q).ws = false → (fifo s f.q).out < 16 →
      (∀ r ∈ f.hs, (handleOf s.me (reg s r)).isSome) →
      ∃ t c, exec i s = .next t ∧ Completed s t ∧ f.kind c.kind ∧ c.bad = 0 ∧ Pushed s t f.q f.ws c) ∧
    (∀ (d a b : BitVec 5) (u c : BitVec 1) (q : BitVec 4) (bs : List Byte), (fifo s q).ws = false → (fifo s q).out < 16 →
      (handleOf s.me (reg s d)).isSome → 2 ≤ (reg s b).toNat → (reg s b).toNat ≤ 16 →
      padRead (flushAll s) (reg s a).toNat 2 (reg s b).toNat = .ok bs →
      ∃ t x, exec (.rmerge d a b u 1 c q) s = .next t ∧ Completed s t ∧ x.kind = .rmerge (c == 1) (u == 1) ∧
        x.srcs = capsOf s (halfWords bs (reg s b).toNat) ∧ Pushed s t q false x) ∧
    ∀ (d a : BitVec 5) (q : BitVec 4) (hd bs : List Byte), (fifo s q).ws = false → (fifo s q).out < 16 →
      (handleOf s.me (reg s a)).isSome → padRead (flushAll s) (reg s d).toNat 8 1 = .ok hd →
      let p := ofBytes (hd.take 2)
      2 ≤ p → p ≤ 16 → padRead (flushAll s) ((reg s d).toNat + 8) 8 (p - 1 + (2 * p + 7) / 8) = .ok bs →
      ∃ t x, exec (.rpart d a q) s = .next t ∧ Completed s t ∧
        x.kind = .rpart ((List.range (p - 1)).map fun j => (wordAt bs j).toNat) ∧
        x.dsts = capsOf s (halfWords (bs.drop (8 * (p - 1))) p) ∧ Pushed s t q false x

/-- R217, R219, R222: RWAIT takes the completion element that follows any records left: D receives its word, OUT drops by one and
XFLAGS takes its bits [53:48]; QPOP of at least VL records that are there takes them, one a lane and one field a group, and gives
A their number; QPUSH appends a record for each element to the open write stream, `.end` closing it; CSPEC takes an accepted block.
R213: the conditions of the engine FIFOs: any of the six commands with valid handles on a FIFO with an open write stream or 16
completions outstanding, a QPUSH
without an open write stream, and a QPOP or RWAIT with an open write stream or no completion outstanding raise cause 0x11.
An entry of an empty queue executes in the step that issues it (log 2). -/
def Obligations.FifoTransfers : Prop :=
  (∀ (s : State) (d a : BitVec 5) (q : BitVec 4) (k : BitVec 2) (en : BitVec 1), QueueReady s → Calm s →
    let v := s.me.vctx.vshape
    (∀ (rs : List Rec) w u rest, (fifo s q).ws = false → 0 < (fifo s q).out → (fifo s q).res = rs.map ResElem.record ++ .done w u :: rest →
      ∃ t, exec (.rwait d q) s = .next t ∧ Completed s t ∧ WritesReg s t d w ∧ (fifo t q).res = rest ∧
        (fifo t q).out = (fifo s q).out - 1 ∧ t.me.xflags = s.me.xflags ||| BitVec.ofNat 6 (field w 53 48) ∧
        (∀ p, p ≠ q → fifo t p = fifo s p) ∧ SameBytes s t) ∧
    (∀ (rs : List Rec) rest, Declared s [d] → VlOk s → qWrong d (k.toNat + 1) s.me.vctx = false → (fifo s q).ws = false →
      0 < (fifo s q).out → (fifo s q).res = rs.map ResElem.record ++ rest → rs.length = s.me.vctx.vl →
      let fmt := ((fifo s q).unpopped.headD (false, 0)).2
      fieldTrap (.qpop d a k q) fmt (k.toNat + 1) s = none →
      ∃ t, exec (.qpop d a k q) s = .next t ∧ Completed s t ∧ WritesReg s t a (word s.me.vctx.vl) ∧ (fifo t q).res = rest ∧
        (∀ p, p ≠ q → fifo t p = fifo s p) ∧ SameBytes s t ∧
        ∀ f ≤ k.toNat, ∀ j, (hj : j < rs.length) →
          elemW t (sewOf v) (d + BitVec.ofNat 5 (f * lmulOf v)) j =
            (fieldConv (mtTy v (mtOf s.me.vctx.mfcr f)) (tyOf v) (satOf v) (env s j).mode
              (if f = 0 then recKey (fmtKw fmt) rs[j] else getField fmt f rs[j])).v % 2 ^ sewOf v) ∧
    (∀ c, Declared s [d] → VlOk s → NoDrain s → qWrong d (k.toNat + 1) s.me.vctx = false → (fifo s q).ws = true →
      fieldTrap (.qpush d en k q) ((fifo s q).unpopped.getLastD (false, 0)).2 (k.toNat + 1) s = none →
      openWriter (fifo s q) = some c → c.phase ≠ .stall →
      ∃ t c', exec (.qpush d en k q) s = .next t ∧ Completed s t ∧ c' ∈ (fifo t q).cmds ∧
        c'.pushed = c.pushed ++ (List.range s.me.vctx.vl).map
          (fun i => (pushRec (mkEntry (.qpush d en k q) 0 0 0 s) (concerned c) d.toNat (k.toNat + 1) i s).1) ∧
        c'.pushEnd = (en == 1) ∧ (fifo t q).ws = (en == 0) ∧ t.me.regs = s.me.regs ∧ t.me.wcb = [] ∧ t.me.hpath = []) ∧
    ∀ bs, padRead s (reg s a).toNat 8 4 = .ok bs →
      (cspecOk (wordAt bs 0) = true →
        ∃ t, exec (.cspec a) s = .next t ∧ Completed s t ∧
          t.me.cspec = #v[wordAt bs 0, wordAt bs 1, wordAt bs 2, wordAt bs 3] ∧ t.me.regs = s.me.regs ∧ SameBytes s t) ∧
      (cspecOk (wordAt bs 0) = false → s.me.hm = false →
        ∃ t, exec (.cspec a) s = .next t ∧ Stopped t (.cspec a) 0 ∧ field t.me.tcause 7 0 = 1 ∧ t.me.hm = true ∧
          t.me.cspec = s.me.cspec)) ∧
  (∀ (s : State) (d a b : BitVec 5) (q : BitVec 4) (k : BitVec 2) (en : BitVec 1), Running s → s.me.vown = true → s.me.hm = false →
    let trap := fun i => exec i s = .next (takeTrap 0x11 0 false false s.me.pc 0 s)
    ((fifo s q).ws = true ∨ (fifo s q).out = 0 → trap (.rwait d q)) ∧
    ((fifo s q).ws = true ∨ 16 ≤ (fifo s q).out →
      (∀ i f, cmdForm s i = some f → f.q = q → (∀ r ∈ f.hs, (handleOf s.me (reg s r)).isSome) → trap i) ∧
      (∀ u c : BitVec 1, (c = 1 ∧ d = 0) ∨ (handleOf s.me (reg s d)).isSome → trap (.rmerge d a b u 1 c q)) ∧
      ((handleOf s.me (reg s a)).isSome → trap (.rpart d a q))) ∧
    (Declared s [d] → qWrong d (k.toNat + 1) s.me.vctx = false → (fifo s q).ws = false → trap (.qpush d en k q)) ∧
    (Declared s [d] → qWrong d (k.toNat + 1) s.me.vctx = false → (fifo s q).ws = true ∨ (fifo s q).out = 0 →
      trap (.qpop d a k q)))

namespace Sys2Proof.Claims

open Sys2Proof Sys2Proof.Machine

/-- acc(r, c) of the strand. -/
def acc (s : State) (r c : Nat) : Nat := accGet s.me r c

/-- The weight w(slot, row, c) and the scale ws(slot, blk, c) of the strand's Hearth. -/
def wgt (s : State) (slot row c : Nat) : Nat := weightAt (hearthOf s s.me.core) slot row c

def wsc (s : State) (slot blk c : Nat) : Nat := wscaleAt (hearthOf s s.me.core) slot blk c

def height (s : State) (slot : Nat) : Nat := tileHeight (hearthOf s s.me.core) slot

/-- Every weight of the Hearth but those of rows [lo, hi) of a slot, every scale but those of blocks [blo, bhi) of it, and every
height but its own reads as before, as do the other Hearths. -/
def TilesKept (s t : State) (slot lo hi blo bhi : Nat) : Prop :=
  (∀ j r c, j < 16 → r < 4096 → c < 256 → ¬(j = slot ∧ lo ≤ r ∧ r < hi) → wgt t j r c = wgt s j r c) ∧
  (∀ j r c, j < 16 → r < 64 → c < 256 → ¬(j = slot ∧ blo ≤ r ∧ r < bhi) → wsc t j r c = wsc s j r c) ∧
  (∀ j, j ≠ slot → height t j = height s j) ∧ ∀ c, c / 4 ≠ s.me.core / 4 → hearthOf t c = hearthOf s c

/-- t is s but for what every completed entry may change, the scalar registers and the Hearths. -/
def SameButTiles (s t : State) : Prop :=
  let u := sinceEntry s t
  { u with hearths := s.hearths, me := { u.me with regs := s.me.regs } } = s

/-- t is s but for what every completed entry may change and the accumulator elements. -/
def SameButRows (s t : State) : Prop :=
  let u := sinceEntry s t
  { u with me := { u.me with acc := s.me.acc } } = s

/-- t is s but for what a matrix operation changes: the elements, XFLAGS, the census and the manifest. -/
def SameButMatrix (s t : State) : Prop :=
  let u := sinceEntry s t
  (∀ c, hearthOf t c = hearthOf s c) ∧
    { u with
      launches := s.launches, census := s.census, hearths := s.hearths
      me := { u.me with xflags := s.me.xflags, acc := s.me.acc } } = s

/-- No unit stands at the strand's port of its Hearth (R245). -/
def PortIdle (s : State) : Prop := portReqs s s.me.core = []

/-- Activation x(i) of register B (R239). -/
def activation (s : State) (b : BitVec 5) (i4 : Bool) (i : Nat) : Int :=
  if i4 then toInt 4 (elemW s 4 b i) else toInt 8 (elemW s 8 b i)

/-- 64 × S of block j in column c (R240), an integer. -/
def blockSum64 (s : State) (b : BitVec 5) (i4 : Bool) (slot row j c : Nat) : Int :=
  (Finset.Ico (64 * j) (min (mvlOf s.me.vctx.mvl) (64 * j + 64))).sum fun i =>
    activation s b i4 i * weight64 (wgt s slot (row + i) c)

/-- One block of MXV in column c: t, then its sum with x. -/
def mxvStep (s : State) (d b : BitVec 5) (i4 : Bool) (slot row j c x : Nat) : AccStep :=
  let t := scaleProduct (scaleGet s.me.vctx d.toNat j) (wsc s slot (row / 64 + j) c) (blockSum64 s b i4 slot row j c)
  let r := accAdd x t.v
  ⟨r.v, t.fl ||| r.fl, isInfinite (fp32.read t.v)⟩

/-- acc(r, c) before block n of MXV, from x at block 0. -/
def mxvAcc (s : State) (d b : BitVec 5) (i4 : Bool) (slot row c x : Nat) : Nat → Nat
  | 0 => x
  | n + 1 => (mxvStep s d b i4 slot row n c (mxvAcc s d b i4 slot row c x n % 2 ^ 32)).v

/-- The census entry of an address on the strand's core. -/
def censusAt (s : State) (p : Nat) : Word := cget zeros s.census (s.me.core * 256 + siteHash p)

/-- An operation's updates: XFLAGS takes their flags, and the census entry of the instruction's address counts the exceptional ones,
each counter stopping at 0xFFFF. -/
def Counted (s t : State) (xs : List AccStep) : Prop :=
  (∀ k < 6, t.me.xflags.getLsbD k = (s.me.xflags.getLsbD k || xs.any fun x => x.fl.testBit k)) ∧
  (let e := censusAt s s.me.pc.toNat
   let n := fun (f : AccStep → Nat) => (xs.map f).sum
   censusAt t s.me.pc.toNat =
    word (min (field e 63 48 + n fun x => (exceptional x).1) 0xFFFF * 2 ^ 48 +
      min (field e 47 32 + n fun x => (exceptional x).2.1) 0xFFFF * 2 ^ 32 +
      min (field e 31 16 + n fun x => (exceptional x).2.2.1) 0xFFFF * 2 ^ 16 +
      min (field e 15 0 + n fun x => (exceptional x).2.2.2) 0xFFFF)) ∧
  ∀ k, k ≠ s.me.core * 256 + siteHash s.me.pc.toNat → cget zeros t.census k = cget zeros s.census k

/-- The words of a save area at the value of A, each at its location. -/
def AreaAt (s : State) (a : BitVec 5) (n : Nat) (how : Acc) (l : Nat → Loc) : Prop :=
  (reg s a).toNat % 256 = 0 ∧ ∀ j < n, hostSize ≤ ((reg s a).toNat + 8 * j) % 2 ^ 64 ∧
    reach s (((reg s a).toNat + 8 * j) % 2 ^ 64) how = .ok (l j)

/-- Byte q of a save area of n rows (R243). -/
def areaByte (s : State) (n q : Nat) : Byte :=
  if q < 8 then BitVec.ofNat 8 (n / 256 ^ q)
  else if q < 64 then 0
  else BitVec.ofNat 8 ((cget zeros s.me.acc ((q - 64) / 4)).toNat / 256 ^ (q % 4))

end Sys2Proof.Claims

/-! ## The Hearth -/

/-- R234, R235: MATTACH of an accepted request completes where it need not wait: a request for no more rows than are held changes
none; any other gets what is free of what it lacks, in units of 16, each new element +0, and rows held keep their contents. MDETACH
releases every row.
R234: outside matrix mode MATTACH, MXV, MOP, MACCRD, MACCWR and MACCZ raise cause 0x0A with their own word, precise at the
instruction, with no change. The spec does not order this cause and cause 0x01 where an operand breaks a limit too: the model's choice
is that the mode is judged first (log 72).
An entry of an empty queue executes in the step that issues it (log 2). -/
def Obligations.AccumulatorGrant : Prop :=
  (∀ (s : State) (d a : BitVec 5) (w : BitVec 1), QueueReady s →
    (matrixOn s.me.vctx.mvl = true → (reg s a).toNat % 16 = 0 → (reg s a).toNat ≤ 256 →
      let q := (reg s a).toNat
      let g := s.me.vctx.mgrant
      let n := if q ≤ g then 0 else min (q - g) (freeRows s s.me.core) / 16 * 16
      (w = 1 → q ≤ g ∨ q - g ≤ freeRows s s.me.core) →
      ∃ t, exec (.mattach d a w) s = .next t ∧ Completed s t ∧ WritesReg s t d (word (g + n)) ∧ t.me.vctx.mgrant = g + n ∧
        t.me.accRows = s.me.accRows + n ∧
        (∀ r c, c < 256 → acc t r c = if s.me.accRows ≤ r ∧ r < s.me.accRows + n then 0 else acc s r c) ∧ SameBytes s t ∧
        { t with nextId := s.nextId, me := { t.me with
            pc := s.me.pc, laneCycles := s.me.laneCycles, bitCycles := s.me.bitCycles, regs := s.me.regs,
            accRows := s.me.accRows, acc := s.me.acc,
            vctx := { t.me.vctx with mgrant := g } } } = s) ∧
    ∃ t, exec .mdetach s = .next t ∧ Completed s t ∧ t.me.vctx.mgrant = 0 ∧ t.me.accRows = 0 ∧
      { t with nextId := s.nextId, me := { t.me with
          pc := s.me.pc, laneCycles := s.me.laneCycles, bitCycles := s.me.bitCycles, accRows := s.me.accRows, acc := s.me.acc,
          vctx := { t.me.vctx with mgrant := s.me.vctx.mgrant } } } = s) ∧
  (∀ (s : State) (i : Instr) (d a b : BitVec 5) (z w : BitVec 1) (f : BitVec 2) (r : BitVec 8), Running s → s.me.vown = true →
    s.me.hm = false → matrixOn s.me.vctx.mvl = false → Declared s [d, a, b] →
    i ∈ [Instr.mattach d a w, .mxv d a b z w r, .mop a b f r, .maccrd d a r, .maccwr d a r, .maccz a r] →
    exec i s = .next (takeTrap 0x0A 0 false false s.me.pc (word (encodeNat i)) s))

/-- R232, R237, R238: MWLD .cfg frees a slot, allocates a free one where the macros suffice, every weight 0x77 and every scale
1.0, and otherwise changes nothing; D tells which. MWLD .sp copies rows of 256 bytes, and .sc blocks of 256 words, that the
strand sees at scratchpad addresses; MWLD .q takes 256 records of 64 bytes for every 64 rows. No other weight, scale or slot
changes. An entry of an empty queue executes in the step that issues it (log 2). -/
def Obligations.TileLoads : Prop :=
  ∀ (s : State) (d a b : BitVec 5) (q : BitVec 4) (r : BitVec 8), QueueReady s → Calm s → PortIdle s → r.toNat < 16 →
    height s r.toNat ≤ 4096 →
    let slot := r.toNat
    let n := (reg s a).toNat
    let first := spanFirst (reg s b)
    let count := spanCount (reg s b)
    (n = 0 ∨ n = 1024 ∨ n = 2048 ∨ n = 4096 →
      let st := if n = 0 then 0 else if height s slot = 0 then (if n / 1024 ≤ freeMacros (hearthOf s s.me.core) then 0 else 1)
        else if height s slot = n then 0 else 2
      let new := n = 0 ∨ (height s slot = 0 ∧ n / 1024 ≤ freeMacros (hearthOf s s.me.core))
      ∃ t, exec (.mwldCfg d a r) s = .next t ∧ Completed s t ∧ WritesReg s t d (word st) ∧ SameButTiles s t ∧
        TilesKept s t slot 0 4096 0 64 ∧ (¬new → ∀ c, hearthOf t c = hearthOf s c) ∧
        (new → height t slot = n ∧ (∀ x < 4096, ∀ c < 256, wgt t slot x c = 0x77) ∧
          ∀ x < 64, ∀ c < 256, wsc t slot x c = 0x3F800000)) ∧
    (∀ (l : Nat → Loc), rowSpanOk (reg s b) = true → first + count ≤ height s slot → n % 256 = 0 →
      (∀ x < count, hostSize ≤ (n + 256 * x) % 2 ^ 64 ∧ reach s ((n + 256 * x) % 2 ^ 64) .load = .ok (l x)) →
      ∃ t, exec (.mwldSp a b r) s = .next t ∧ Completed s t ∧ TilesKept s t slot first (first + count) 0 0 ∧
        (∀ x < count, ∀ c < 256, wgt t slot (first + x) c = (seen s ((l x).plus c)).toNat) ∧ height t slot = height s slot ∧
        t.me.regs = s.me.regs ∧ SameBytes s t) ∧
    (∀ (l : Nat → Loc), blockSpanOk (reg s b) = true → 64 * (first + count) ≤ height s slot → n % 256 = 0 →
      (∀ x < 4 * count, hostSize ≤ (n + 256 * x) % 2 ^ 64 ∧ reach s ((n + 256 * x) % 2 ^ 64) .load = .ok (l x)) →
      ∃ t, exec (.mwldSc a b r) s = .next t ∧ Completed s t ∧ TilesKept s t slot 0 0 first (first + count) ∧
        (∀ x < count, ∀ c < 256, wsc t slot (first + x) c =
          ofBytes ((List.range 4).map fun k => seen s ((l (4 * x + c / 64)).plus (4 * (c % 64) + k)))) ∧
        height t slot = height s slot ∧ t.me.regs = s.me.regs ∧ SameBytes s t) ∧
    ∀ (rs : List Rec) rest, rowSpanOk (reg s b) = true → first + count ≤ height s slot → (fifo s q).ws = false → 0 < (fifo s q).out →
      streams64 s q.toNat = none → (fifo s q).res = rs.map ResElem.record ++ rest → rs.length = 4 * count →
      (∀ x ∈ rs, x.length = 64) →
      ∃ t, exec (.mwldQ d q b r) s = .next t ∧ Completed s t ∧ WritesReg s t d (word count) ∧ (fifo t q).res = rest ∧
        TilesKept s t slot first (first + count) 0 0 ∧ SameBytes s t ∧ height t slot = height s slot ∧
        ∀ x < count, ∀ c < 256, some (wgt t slot (first + x) c) = (rs[4 * x + c / 64]?.bind fun y => y[c % 64]?).map BitVec.toNat

/-- R239 to R241: MXV adds to each of the 256 elements of its row, block by block, the product of the block's exact sum and its two
scales, rounded once, then the sum rounded, .z taking +0 for the row's old elements; MOP adds the product of two elements to every
element of a square, with one rounding. Flags and census are those of every update; no other element changes.
An entry of an empty queue executes in the step that issues it (log 2). -/
def Obligations.MatrixAccumulate : Prop :=
  ∀ (s : State) (d a b : BitVec 5) (z w : BitVec 1) (f : BitVec 2) (r : BitVec 8), QueueReady s → PortIdle s →
    matrixOn s.me.vctx.mvl = true →
    let v := reg s a
    let mvl := mvlOf s.me.vctx.mvl
    let slot := selSlot v
    let row := selRow v
    let nb := (mvl + 63) / 64
    (Declared s [b] → matrixPath s.me.vctx.mvl = false → field v 15 4 = 0 → field v 63 32 = 0 → row % 64 = 0 →
      r.toNat < s.me.vctx.mgrant → 0 < height s slot → row + mvl ≤ height s slot →
      let x := fun c => if z = 1 ∧ 0 < mvl then 0 else acc s r.toNat c
      let blk := mxvAcc s d b (w == 1) slot row
      ∃ t, exec (.mxv d a b z w r) s = .next t ∧ Completed s t ∧ SameButMatrix s t ∧
        (∀ c < 256, acc t r.toNat c = blk c (x c) nb % 2 ^ 32) ∧
        (∀ k c, c < 256 → k ≠ r.toNat → acc t k c = acc s k c) ∧
        Counted s t ((List.range nb).flatMap fun j => (List.range 256).map fun c =>
          mxvStep s d b (w == 1) slot row j c (blk c (x c) j % 2 ^ 32))) ∧
    (Declared s [a, b] → matrixPath s.me.vctx.mvl = true → f ≠ 3 → mvl ≤ 256 → r.toNat + mvl ≤ s.me.vctx.mgrant →
      let g := mopFmt f.toNat
      let up := fun i j => mopElem g (acc s (r.toNat + i) j) (elemW s g.width a i) (elemW s g.width b j)
      ∃ t, exec (.mop a b f r) s = .next t ∧ Completed s t ∧ SameButMatrix s t ∧
        (∀ i < mvl, ∀ j < mvl, acc t (r.toNat + i) j = (up i j).v % 2 ^ 32) ∧
        (∀ k c, c < 256 → ¬(r.toNat ≤ k ∧ k < r.toNat + mvl ∧ c < mvl) → acc t k c = acc s k c) ∧
        Counted s t ((List.range mvl).flatMap fun i => (List.range mvl).map fun j => up i j))

/-- R242: MACCRD copies rows into a register, MACCWR a register into rows and MACCZ zeroes rows, one row of 1,024 bytes after
another; every other byte of the register and every other row keeps its value.
An entry of an empty queue executes in the step that issues it (log 2). -/
def Obligations.AccumulatorRows : Prop :=
  ∀ (s : State) (d a : BitVec 5) (r : BitVec 8), QueueReady s → matrixOn s.me.vctx.mvl = true →
    let n := if a = 0 then 1 else (reg s a).toNat
    let rb := rbOf s.me.vctx.cnt
    1 ≤ n → n ≤ 256 - r.toNat → r.toNat + n ≤ s.me.vctx.mgrant →
    (Declared s [d] → n ≤ rb / 1024 →
      (∃ t, exec (.maccrd d a r) s = .next t ∧ Completed s t ∧ SameButFile s t ∧ t.me.xflags = s.me.xflags ∧
        (∀ j < n, ∀ c < 256, elemW t 32 d (256 * j + c) = acc s (r.toNat + j) c) ∧
        ∀ x, x < d.toNat * rb ∨ d.toNat * rb + 1024 * n ≤ x → vbyte t x = vbyte s x) ∧
      ∃ t, exec (.maccwr d a r) s = .next t ∧ Completed s t ∧ SameButRows s t ∧
        (∀ j < n, ∀ c < 256, acc t (r.toNat + j) c = elemW s 32 d (256 * j + c)) ∧
        ∀ k c, c < 256 → ¬(r.toNat ≤ k ∧ k < r.toNat + n) → acc t k c = acc s k c) ∧
    ∃ t, exec (.maccz a r) s = .next t ∧ Completed s t ∧ SameButRows s t ∧
      ∀ k c, c < 256 → acc t k c = if r.toNat ≤ k ∧ k < r.toNat + n then 0 else acc s k c

/-- R243: MSAVE writes its save area, a header and the rows, and releases every row; MREST of an area whose header is well
formed, by a strand that holds no rows of a Hearth with that many, takes them with the contents it reads. An entry of an empty
queue executes in the step that issues it (log 2). -/
def Obligations.MatrixSaveAreas : Prop :=
  ∀ (s : State) (a : BitVec 5) (l : Nat → Loc), QueueReady s → Calm s → inPreemption s = false →
    (let n := s.me.vctx.mgrant
     let stores := fun j b x => j < 8 + 128 * n ∧ b < 8 ∧ x = (l j).plus b
     NoDrain s → StoresOk s → PortsOnly s → AreaAt s a (8 + 128 * n) .store l → (∀ j < 8 + 128 * n, ∀ k, l j = .spad k → k % 8 = 0) →
     ∃ t, exec (.msave a) s = .next t ∧ Completed s t ∧ t.me.vctx.mgrant = 0 ∧ t.me.accRows = 0 ∧ t.me.regs = s.me.regs ∧
      (∀ x j b, stores j b x → (∀ j' b', stores j' b' x → j' ≤ j) → seen t x = areaByte s n (8 * j + b)) ∧
      ∀ x, (∀ j b, ¬stores j b x) → seen t x = seen s x) ∧
    (let byte := fun q => seen s ((l (q / 8)).plus (q % 8))
     ∀ n, s.me.accRows = 0 → n % 16 = 0 → n ≤ 256 → AreaAt s a (8 + 128 * n) .load l →
      ofBytes ((List.range 8).map byte) = n → (∀ q, 8 ≤ q → q < 64 → byte q = 0) → n ≤ freeRows s s.me.core + s.me.reserved →
      ∃ t, exec (.mrest a) s = .next t ∧ Completed s t ∧ t.me.vctx.mgrant = n ∧ t.me.accRows = n ∧ t.me.reserved = 0 ∧
        (∀ k < n, ∀ c < 256, acc t k c = ofBytes ((List.range 4).map fun x => byte (64 + 1024 * k + 4 * c + x))) ∧
        t.me.regs = s.me.regs ∧ SameBytes s t)

/-- R246, R247: MCENS reads an entry of the core's census, reads and zeroes one, zeroes every entry, or gives the entry's number for
an address; the entries of other cores do not change. A word of its major has B = 0 and ROW8 = 0.
An entry of an empty queue executes in the step that issues it (log 2). -/
def Obligations.CensusReads : Prop :=
  (∀ (w : Nat) (i : Instr), decodeNat w = .ok i → w % 128 = 0x66 → w / 2 ^ 17 % 32 = 0 ∧ w / 2 ^ 22 % 256 = 0) ∧
  ∀ (s : State) (d a : BitVec 5), QueueReady s →
    let v := (reg s a).toNat
    let k := s.me.core * 256 + v % 256
    (∃ t, exec (.mcensRd d a) s = .next t ∧ Completed s t ∧ SameButQueueReg s t ∧ WritesReg s t d (cget zeros s.census k)) ∧
    (∃ t, exec (.mcensRdclr d a) s = .next t ∧ Completed s t ∧ WritesReg s t d (cget zeros s.census k) ∧
      (∀ j, cget zeros t.census j = if j = k then 0 else cget zeros s.census j) ∧
      { t with nextId := s.nextId, census := s.census,
               me := { t.me with pc := s.me.pc, laneCycles := s.me.laneCycles, bitCycles := s.me.bitCycles, regs := s.me.regs } } = s) ∧
    (∃ t, exec .mcensClr s = .next t ∧ Completed s t ∧
      (∀ j, cget zeros t.census j = if j / 256 = s.me.core then 0 else cget zeros s.census j) ∧
      { t with nextId := s.nextId, census := s.census,
               me := { t.me with pc := s.me.pc, laneCycles := s.me.laneCycles, bitCycles := s.me.bitCycles } } = s) ∧
    ∃ t, exec (.mcensIdx d a) s = .next t ∧ Completed s t ∧ SameButQueueReg s t ∧
      WritesReg s t d (word (v / 4 % 256 ^^^ v / 1024 % 256 ^^^ v / 2 ^ 18 % 256 ^^^ v / 2 ^ 26 % 256))

namespace Sys2Proof.Claims

open Sys2Proof Sys2Proof.Machine

/-- The sequence that the value of A names in the strand's pool. -/
def seqOf (s : State) (v : Word) : Seq := seqAt s (seqKey s v.toNat)

/-- t is s but for what every completed entry may change, the scalar registers and the sequences. -/
def SameButSeqs (s t : State) : Prop :=
  let u := sinceEntry s t
  { u with seqs := s.seqs, me := { u.me with regs := s.me.regs } } = s

/-- The sequence id becomes q, and no other changes. -/
def SeqBecomes (s t : State) (id : Nat) (q : Seq) : Prop :=
  seqAt t (seqKey s id) = q ∧ ∀ k, k ≠ seqKey s id → seqAt t k = seqAt s k

/-- The result word (Table 15.4). -/
def result (n : Nat) (q : Seq) (act ent : Nat) : Word :=
  word (n * 2 ^ 28 + q.fq.length * 2 ^ 23 + q.st * 2 ^ 19 + act * 2 ^ 16 + ent * 2 ^ 12)

/-- What firing the NOTIFY entries ns and the action w on the sequence id leaves (R263): b is the sequence with its token joined and
r what it becomes; f, e and x are ACT, ENT and the remaining bits of the result word. The result says QF, FF or a child. -/
def Fires (s t : State) (id : Nat) (b r : Seq) (ns : List Nat) (w : Option Nat) (f e x : Nat) : Prop :=
  let ent := entryAt b.entries
  let used := { b with h := (ns ++ w.toList).foldl (fun h e => consume b.entries e h) b.h }
  let free := fun c => inRange (poolOf (fnOf s s.me.fn) (stackOf s.me.core)) c = true ∧ (seqAt s (seqKey s c)).st = 0
  let rises := fun js => ∀ j < 34, t.me.notify.getLsbD j =
    (s.me.notify.getLsbD j || decide (j ∈ ns.map (fun e => (ent e).bit) ++ js))
  let kept := fun c => ∀ k, k ≠ seqKey s id → k ≠ seqKey s c → seqAt t k = seqAt s k
  (w = none → r = used ∧ rises [] ∧ kept id ∧ x = 0 ∧ match ns with | [] => f = 7 ∧ e = 0 | y :: _ => f = 4 ∧ e = y) ∧
    ∀ y, w = some y →
      let z := ent y
      e = y ∧
        (z.act = 0 → r = { used with st := 2, fq := [], drafts := [], shadow := Hist.reset } ∧ rises [] ∧ kept id ∧ f = 0 ∧ x = 0) ∧
        (z.act = 1 → r = used ∧ rises [] ∧ kept id ∧ f = 1 ∧ x = 0) ∧
        (z.act = 2 → b.fq.length + z.ninj ≤ 16 →
          r = { used with
            h := (z.injs.take z.ninj).foldl (fun h t => joinTok b.entries t h) used.h, fq := b.fq ++ z.injs.take z.ninj } ∧
          rises [] ∧ kept id ∧ f = 2 ∧ x = 0) ∧
        (z.act = 2 → 16 < b.fq.length + z.ninj → r = used ∧ rises [z.bit, 33] ∧ kept id ∧ f = 4 ∧ x = 2 ^ 22) ∧
        (∀ c, z.act = 3 → free c → (∀ c' < c, ¬free c') →
          r = used ∧ rises [] ∧ kept c ∧ f = 3 ∧ x = c ∧
            seqAt t (seqKey s c) = { used with st := 1, fq := [], drafts := [], shadow := Hist.reset }) ∧
        (z.act = 3 → (∀ c, ¬free c) → r = used ∧ rises [z.bit, 32] ∧ kept id ∧ f = 4 ∧ x = 2 ^ 21)

/-- How the check ends (R263, R272): D takes the result word, and a TRAP sets PWSTAT and enters the handler, with the instruction
completed; any other check completes. -/
def Answers (s t : State) (id : Nat) (tok : BitVec 32) (pos : Nat) (conf : Bool) (d : BitVec 5) (r : Seq) (n f e x : Nat) : Prop :=
  WritesReg s t d (result n r f e + word x) ∧ t.me.vctx.queue = [] ∧
    if f = 1 then
      field t.me.tcause 7 0 = 0x0B ∧ bit t.me.tcause.toNat 8 = true ∧ t.me.hm = true ∧ t.me.pc = s.me.thandler ∧
        t.me.tepc = s.me.pc + 4 ∧
        t.me.pwstat = word (tok.toNat * 2 ^ 32 + id * 2 ^ 20 + pos * 2 ^ 16 + (if conf then 2 ^ 15 else 0) + e * 2 ^ 12)
    else Completed s t ∧ SameBytes s t ∧ t.me.hm = s.me.hm ∧ t.me.pwstat = s.me.pwstat

/-- A sequence loaded with entries (R261). -/
def Loaded (s : State) (es : List WEntry) (q : Seq) : Prop :=
  q.st = 1 ∧ q.owner = s.me.fn ∧ q.tenants = [(fnOf s s.me.fn).tenant] ∧ (∀ j < 8, q.entries[j]? = some (es.getD j emptyEntry)) ∧
    q.h.toks = [] ∧ q.h.total = 0 ∧
    (∀ j < 8, q.h.armed.getLsbD j = decide ((es.getD j emptyEntry).kind ≠ 0) ∧ cget zeros q.h.cnt j = 0) ∧ q.fq = [] ∧ q.drafts = []

/-- V(d, b) of the strand's context, as a number. -/
def dirNo (s : State) (d b : Nat) : Nat := (cget dirDefault s.me.vctx.dirs (32 * d + b)).toNat

/-- The mixing function of R251: two rounds of a shift and a product, and a last shift. -/
def mixed (h : BitVec 32) : BitVec 32 :=
  let round := fun x : BitVec 32 => (x ^^^ (x >>> 16)) * 0x45D9F3B5
  round (round h) ^^^ (round (round h) >>> 16)

/-- x is the point of dimension d at index n (R251): the exclusive or of the direction numbers that the Gray code of the low half
selects, scrambled as MODE(d) says. -/
def IsPoint (s : State) (d n : Nat) (x : BitVec 32) : Prop :=
  let lo := n % 2 ^ 32
  let raw := ((List.range 32).filter fun b => (lo ^^^ (lo / 2)).testBit b).foldl (fun r b => r ^^^ BitVec.ofNat 32 (dirNo s d b)) 0
  let key := cget zeros s.me.vctx.seeds d ^^^ mixed (BitVec.ofNat 32 (n / 2 ^ 32))
  let mode := cget modeDefault s.me.vctx.modes d
  (mode = 0 → x = raw) ∧ (mode = 1 → x = raw ^^^ key) ∧
    (mode = 2 → ∀ k < 32, x.getLsbD k =
      (raw.getLsbD k ^^ (mixed (key ^^^ mixed (BitVec.ofNat 32 (raw.toNat / 2 ^ (k + 1) + 2 ^ (31 - k))))).getLsbD 0))

/-- v is the output of QRGEN and QRGENS at an index under a selector (R256): a fraction of 24 bits for FP32, the point where the
bound is zero, else the point scaled to the bound. -/
def Output (s : State) (idx sel v : Nat) : Prop :=
  let w := sewOf s.me.vctx.vshape
  let k := sel / 2 ^ (w / 2) % 2 ^ (w / 2)
  ∃ x, IsPoint s (sel % 64) idx x ∧
    if etypeOf s.me.vctx.vshape = 3 then Reads (.flt fp32) v false (((x.toNat / 2 ^ 8 : Nat) : ℚ) / 2 ^ 24)
    else v = if k = 0 then x.toNat else x.toNat * k / 2 ^ 32

end Sys2Proof.Claims

/-! ## The Dredger and the Proofers -/

/-- R253 to R256: QRTLD loads the 32 direction numbers of each of its dimensions from the words it reads; QRSEED gives the old
mode and seed of a dimension and sets both; QRGEN and QRGENS write each enabled element with the point (R251) of the dimension
that its selector names at its index, as a fraction or within a bound, and no other state of the Dredger changes. An entry of an
empty queue executes in the step that issues it (log 2). -/
def Obligations.DredgerInstructions : Prop :=
  ∀ (s : State) (d a b : BitVec 5), QueueReady s → Calm s →
    (∀ (c f : BitVec 6) (l : Nat → Loc),
      (∀ j < 16 * (c.toNat + 1), resolve s (((reg s a).toNat + 8 * j) % 2 ^ 64) 8 .load = .ok (l j)) →
      ∃ t, exec (.qrtld a c f) s = .next t ∧ Completed s t ∧
        (∀ x, x < f.toNat ∨ f.toNat + c.toNat < x → ∀ y < 32, dirNo t x y = dirNo s x y) ∧
        (∀ x ≤ c.toNat, ∀ y < 32, dirNo t (f.toNat + x) y =
          ofBytes ((List.range 4).map fun k => seen s ((l (16 * x + y / 2)).plus (4 * (y % 2) + k)))) ∧
        t.me.vctx.seeds = s.me.vctx.seeds ∧ t.me.vctx.modes = s.me.vctx.modes ∧ t.me.vctx.vf = s.me.vctx.vf ∧
        t.me.regs = s.me.regs ∧ SameBytes s t) ∧
    (∀ (m : BitVec 2) (n : BitVec 6),
      let c := s.me.vctx
      ∃ t, exec (.qrseed d a m n) s = .next t ∧ Completed s t ∧
        WritesReg s t d (word ((cget modeDefault c.modes n.toNat).toNat * 2 ^ 32 + (cget zeros c.seeds n.toNat).toNat)) ∧
        (∀ x, cget zeros t.me.vctx.seeds x = if x = n.toNat then (reg s a).setWidth 32 else cget zeros c.seeds x) ∧
        (∀ x, cget modeDefault t.me.vctx.modes x = if x = n.toNat then m else cget modeDefault c.modes x) ∧
        { t with nextId := s.nextId, launches := s.launches, me := { t.me with
            pc := s.me.pc, laneCycles := s.me.laneCycles, bitCycles := s.me.bitCycles, regs := s.me.regs,
            vctx := { t.me.vctx with seeds := c.seeds, modes := c.modes } } } = s) ∧
    (VlOk s → etypeOf s.me.vctx.vshape = 3 ∨ (etypeOf s.me.vctx.vshape = 1 ∧
      (sewOf s.me.vctx.vshape = 32 ∨ sewOf s.me.vctx.vshape = 64)) →
      let w := sewOf s.me.vctx.vshape
      let iw := if w = 64 then 64 else 32
      (∀ q : VMod, Declared s [d, a, b] → Grouped s [d, a, b] →
        ∃ t, exec (.qrgen d a b q) s = .next t ∧ Completed s t ∧ SameButFile s t ∧
          ∃ o : Nat → Nat, LoopResult s t w d q.m 0 (fun i => some (asFR (o i))) ∧
            ∀ i < s.me.vctx.vl, on s q.m i = true → Output s (velem s a i % 2 ^ iw) (velem s b (rep q.z q.c i)) (o i)) ∧
      ∀ q : SMod, Declared s [d, b] → Grouped s [d, b] →
        ∃ t, exec (.qrgens d a b q) s = .next t ∧ Completed s t ∧ SameButFile s t ∧
          ∃ o : Nat → Nat, LoopResult s t w d q.m 0 (fun i => some (asFR (o i))) ∧
            ∀ i < s.me.vctx.vl, on s q.m i = true → Output s (((reg s a).toNat + i) % 2 ^ iw) (velem s b (rep q.z q.c i)) (o i))

/-- R264, R266, R267, R271: PWLD of a readable table loads the sequence it names, or the least free one of the pool, with the
entries, armed and empty; D is its identifier, −1 with none free and −2 for a malformed table. PWCNT reads a sequence's status,
history and counts, or frees it; PWINJ takes the oldest forced token, −1 with none. In each Proofer instruction that names a
sequence an identifier outside the pool raises "access fault", with TVAL the operand, which is the model's choice (log 17). An
entry of an empty queue executes in the step that issues it (log 2). -/
def Obligations.ProofSequences : Prop :=
  ∀ (s : State) (d a b : BitVec 5) (n : BitVec 3), QueueReady s → Calm s →
    let id := (reg s a).toNat
    let q := seqOf s (reg s a)
    (∀ (w : BitVec 1) (bs : List Byte), tableRead s id (n.toNat + 1) = .ok bs →
      let es := (List.range (n.toNat + 1)).map fun j => watchEntry ((bs.drop (64 * j)).take 64)
      let wrong := ∃ j ≤ n.toNat, watchOk ((bs.drop (64 * j)).take 64) = false
      let tgt := if w = 0 then some (reg s b).toNat else leastFree s
      (w = 0 → inPool s (reg s b).toNat = true) →
      ∃ t v, exec (.pwld d a b w n) s = .next t ∧ Completed s t ∧ WritesReg s t d v ∧ SameBytes s t ∧
        (wrong → v = BitVec.ofInt 64 (-2) ∧ t.seqs = s.seqs) ∧
        (¬wrong → tgt = none → v = BitVec.ofInt 64 (-1) ∧ t.seqs = s.seqs) ∧
        ∀ k, ¬wrong → tgt = some k → v = word k ∧ ∃ x, SeqBecomes s t k x ∧ Loaded s es x) ∧
    (inPool s id = true →
      (∃ t, exec (.pwcntSt d a) s = .next t ∧ Completed s t ∧ SameButQueueReg s t ∧
        WritesReg s t d (word (q.h.total.toNat * 2 ^ 32 + q.h.armed.toNat * 2 ^ 20 + q.drafts.length * 2 ^ 16 +
          q.fq.length * 2 ^ 8 + q.h.toks.length * 2 ^ 4 + q.st))) ∧
      ((reg s b).toNat < 8 →
        (∃ t, exec (.pwcntHist d a b) s = .next t ∧ Completed s t ∧ SameButQueueReg s t ∧
          WritesReg s t d (match q.h.toks.reverse[(reg s b).toNat]? with
            | some x => x.setWidth 64
            | none => BitVec.ofInt 64 (-1))) ∧
        ∃ t, exec (.pwcntCnt d a b) s = .next t ∧ Completed s t ∧ SameButQueueReg s t ∧
          WritesReg s t d (word ((if q.h.armed.getLsbD (reg s b).toNat then 2 ^ 32 else 0) +
            (cget zeros q.h.cnt (reg s b).toNat).toNat))) ∧
      (∃ t, exec (.pwcntFree a) s = .next t ∧ Completed s t ∧ SameButSeqs s t ∧ t.me.regs = s.me.regs ∧ SeqBecomes s t id Seq.reset) ∧
      (q.fq = [] → ∃ t, exec (.pwinj d a) s = .next t ∧ Completed s t ∧ SameButQueueReg s t ∧
        WritesReg s t d (BitVec.ofInt 64 (-1))) ∧
      ∀ x xs, q.fq = x :: xs → ∃ t, exec (.pwinj d a) s = .next t ∧ Completed s t ∧ SameButSeqs s t ∧
        WritesReg s t d (x.setWidth 64) ∧ (q.st ≠ 0 → SeqBecomes s t id { q with fq := xs })) ∧
    (inPool s id = false → s.me.hm = false →
      (∀ i ∈ [Instr.pwcntSt d a, .pwcntFree a, .pwchk d a b, .pwdrft d a b, .pwconf d a b, .pwinj d a],
        ∃ t, exec i s = .next t ∧ TrappedAt s t i 0 4 id) ∧
      ((reg s b).toNat < 8 → ∀ i, i = .pwcntHist d a b ∨ i = .pwcntCnt d a b → ∃ t, exec i s = .next t ∧ TrappedAt s t i 0 4 id)) ∧
    (inPool s (reg s b).toNat = false → s.me.hm = false → ∀ bs, tableRead s id (n.toNat + 1) = .ok bs →
      ∃ t, exec (.pwld d a b 0 n) s = .next t ∧ TrappedAt s t (.pwld d a b 0 n) 0 4 (reg s b).toNat)

/-- R262, R268 to R270, R272: on a sequence that is not LIVE, PWCHK and PWDRFT change nothing but D. On a LIVE one PWCHK joins
its token, discards the drafts and fires what it selects, as R263 says: every NOTIFY entry sets its bit, and of the others the one
selected stops the sequence, sets PWSTAT and enters the handler with cause 0x0B after D is written, joins and queues its tokens, or
copies the sequence to the least free one; an INJECT without room and a FORK with none free become a NOTIFY. PWDRFT holds one draft
more and fires nothing; PWCONF joins the drafts it confirms, ends at the first with an action, fires it, and discards the rest: it is
stated where none fires, and where one of those confirmed does. An entry of an empty queue executes in the step that issues it (log
2). -/
def Obligations.ProofChecks : Prop :=
  ∀ (s : State) (d a b : BitVec 5), QueueReady s → NothingOut s → inPool s (reg s a).toNat = true →
    let id := (reg s a).toNat
    let q := seqOf s (reg s a)
    let tok : BitVec 32 := (reg s b).setWidth 32
    (q.st ≠ 1 → ∀ i, i = .pwchk d a b ∨ i = .pwdrft d a b →
      ∃ t, exec i s = .next t ∧ Completed s t ∧ SameButQueueReg s t ∧ WritesReg s t d (result 0 q 7 0)) ∧
    (q.st = 1 →
      let h := joinTok q.entries tok q.h
      let base := { q with h := h, drafts := [], shadow := Hist.reset }
      let act := fun w : Option Nat => w.map fun e => (entryAt q.entries e).act
      let x := selectSet q.entries h
      (x = ([], none) →
        ∃ t, exec (.pwchk d a b) s = .next t ∧ Completed s t ∧ SameButSeqs s t ∧ SeqBecomes s t id base ∧
          WritesReg s t d (result 0 base 7 0)) ∧
      ((∀ n ∈ act x.2, n < 4) → (act x.2 = some 1 → s.me.hm = false) →
        ∃ t r f e y, exec (.pwchk d a b) s = .next t ∧ Fires s t id base r x.1 x.2 f e y ∧ seqAt t (seqKey s id) = r ∧
          Answers s t id tok 0 false d r 0 f e y) ∧
      (q.drafts.length < 8 →
        let h := joinTok q.entries tok (if q.drafts = [] then q.h else q.shadow)
        let x := selectSet q.entries h
        let ds := q.drafts ++ [⟨tok, x.1, x.2⟩]
        let now := { q with drafts := ds, shadow := (x.1 ++ x.2.toList).foldl (fun h e => consume q.entries e h) h }
        let f := match x.2, x.1 with | some e, _ => (5, e) | none, e :: _ => (5, e) | none, [] => (7, 0)
        ∃ t, exec (.pwdrft d a b) s = .next t ∧ Completed s t ∧ SameButSeqs s t ∧ SeqBecomes s t id now ∧
          WritesReg s t d (result ds.length now f.1 f.2)) ∧
      let ds := q.drafts.take (reg s b).toNat
      (∀ x ∈ ds, x.nset = [] ∧ x.w = none) →
        let now := { q with h := ds.foldl (fun h x => joinTok q.entries x.tok h) q.h, drafts := [], shadow := Hist.reset }
        ∃ t, exec (.pwconf d a b) s = .next t ∧ Completed s t ∧ SameButSeqs s t ∧ SeqBecomes s t id now ∧
          WritesReg s t d (result ds.length now 7 0)) ∧
    (q.st = 1 → ∀ pre x post, q.drafts.take (reg s b).toNat = pre ++ x :: post →
      let quiet := fun y : Draft => y.nset = [] ∧ y.w = none
      (∀ y ∈ pre, quiet y) → (x.w = none → ∀ y ∈ post, quiet y) →
      let act := x.w.map fun e => (entryAt q.entries e).act
      (∀ n ∈ act, n < 4) → (act = some 1 → s.me.hm = false) →
      let joins := fun (ds : List Draft) h => ds.foldl (fun h y => joinTok q.entries y.tok h) h
      let rest := if x.w = none then post else []
      ∃ t r f e y, exec (.pwconf d a b) s = .next t ∧ Fires s t id { q with h := joins (pre ++ [x]) q.h } r x.nset x.w f e y ∧
        let now := { r with h := joins rest r.h, drafts := [], shadow := Hist.reset }
        seqAt t (seqKey s id) = now ∧
          Answers s t id x.tok (pre.length + 1) true d now (pre.length + 1 + rest.length) f e y)

namespace Sys2Proof.Claims

open Sys2Proof Sys2Proof.Machine

/-- The strand that has the focus stands in the slot. -/
def InSlot (s : State) (core slot : Nat) : Prop := isAt core slot s.me = true

/-- The move of Table 4.3 that an entry at the head of a queue makes. -/
def ownMove (i : Instr) (core slot : Nat) : Instr :=
  match i with
  | .qpush _ _ _ _ | .rdstr _ _ _ | .wrstr _ _ | .rsort _ _ _ _ _ | .rmerge _ _ _ _ _ _ _ | .rjoin _ _ _ _ _ _ | .rpart _ _ _ =>
    .push core slot
  | .qpop _ _ _ _ | .rwait _ _ => .pop core slot
  | .iterset _ _ | .post _ _ | .waiti _ _ | .bar | .bararr | .barwt => .postAndObserve core slot
  | .pwld .. | .pwcntSt .. | .pwcntHist .. | .pwcntCnt .. | .pwcntFree .. | .pwchk .. | .pwdrft .. | .pwconf .. | .pwinj .. =>
    .proof core slot
  | .mwldCfg .. | .mxv .. => .hearthServe core slot
  | _ => .execute core slot

/-- One unit of the oldest entry e of a queue, f saying how it executes and rest being the entries behind it: what it sends on
is left to later moves. -/
def unitMove (e : QEntry) (f : Body) (rest : List QEntry) (s : State) : State :=
  let u := { s with defer := true, me := { s.me with vctx := { s.me.vctx with queue := rest } } }
  { settleEntry e (if e.done then .done u else f e 1 u) with defer := s.defer }

/-- A unit of entry n, where the move is that entry's own and it may go on ahead of those before it. -/
def laterUnit (m : Instr) (core slot n : Nat) (s : State) : State :=
  match s.me.vctx.queue[n]? with
  | some e => if ownMove e.instr core slot = m then { chainMove n { s with defer := true } with defer := s.defer } else s
  | none => s

/-- t is s but for the vector queue and its element buffers. -/
def SameButQueue (s t : State) : Prop :=
  { t with me := { t.me with vctx := { t.me.vctx with queue := s.me.vctx.queue, bufs := s.me.vctx.bufs } } } = s

/-- The head command of FIFO q, and a change of it that keeps everything else. -/
def headCmd (s : State) (q : Nat) : Option Cmd := (fifoOf s.me q).cmds.head?

/-- t is s but for the FIFOs and the event flag. -/
def SameButFifos (s t : State) : Prop := { t with me := { t.me with fifos := s.me.fifos, ev := s.me.ev } } = s

/-- FIFO q of t; every other FIFO is that of s. -/
def FifoIs (s t : State) (q : Nat) (f : Fifo) : Prop := fifoOf t.me q = f ∧ ∀ k, k ≠ q → fifoOf t.me k = fifoOf s.me k

end Sys2Proof.Claims

/-! ## The moves of the ordering machine and of the Kneaders -/

/-- R25, R86, R87, Table 4.3: SPLIT splits the oldest entry that is not split; FETCH of a unit-stride load whose first group
lies in scratchpad sends the group's reads for an element buffer, into which the values come that the strand saw; EXECUTE,
PUSH, POP, POST_AND_OBSERVE, PROOF and HEARTH_SERVE make one unit of the oldest entry, or complete it where it has run ahead and all
of its work is made, where it is split, its queue runs, the strand stands at no drain point and the move is the entry's own, and
else change nothing, but that POST_AND_OBSERVE first lets the strand's node observe the next change on its way. R25, R28: EXECUTE,
PUSH and POP may make the next unit of a later entry whose move they are and that may go ahead of those before it; which one is a
free value (log 60). R245: HEARTH_SERVE serves the first
request at the port of the core in the port's turn, and the entry it belongs to makes a unit. -/
def Obligations.QueueMoves : Prop :=
  ∀ (s : State) (core slot : Nat), InSlot s core slot →
    (∀ a e b, s.me.vctx.queue = a ++ e :: b → (∀ x ∈ a, x.split = true) → e.split = false →
      ∃ t, exec (.split core slot) s = .next t ∧ SameButQueue s t ∧
        t.me.vctx.queue = a ++ { e with split := true } :: b ∧ t.me.vctx.bufs = s.me.vctx.bufs) ∧
    (∀ d a e rest (l : Nat → Nat), queueLive s.me = true → s.me.vctx.queue = e :: rest → e.instr = .vld d a 0 → e.split = true →
      e.prog = 0 → e.done = false → s.me.vctx.bufs = [] → 8 ≤ sewOf e.vshape → 0 < e.vl → PortsOnly s → (∀ q ∈ s.net, q.late = none) →
      (∀ i, i < min e.vl (epg (sewOf e.vshape)) →
        let ad := (e.a.toNat + i * (sewOf e.vshape / 8)) % 2 ^ 64
        ad % (sewOf e.vshape / 8) = 0 ∧ reach s ad .load = .ok (.spad (l i))) →
      ∃ t b, exec (.fetch core slot) s = .next t ∧ t.me.vctx.bufs = [b] ∧ b.entry = e.id ∧ b.vals = [] ∧
        (∃ b', (settle t).me.vctx.bufs = [b'] ∧ b'.id = b.id ∧
          ∀ i, i < min e.vl (epg (sewOf e.vshape)) → (i, elemSeen s (sewOf e.vshape) (.spad (l i)) i) ∈ b'.vals) ∧
        t.spad = s.spad ∧ { t.me with vctx := { t.me.vctx with bufs := [] } } = s.me) ∧
    (∀ e rest f, s.me.vctx.queue = e :: rest → queueLive s.me = true → s.me.stand = none → e.split = true →
      queueBody e.instr = some f →
      let m := ownMove e.instr core slot
      (m = .proof core slot ∨ (m = .hearthServe core slot ∧ portReqs s core = []) →
        exec m s = .next (unitMove e f rest s)) ∧
      (m = .postAndObserve core slot → exec m s = .next (unitMove e f rest (observeOne s))) ∧
      (m = .execute core slot ∨ m = .push core slot ∨ m = .pop core slot →
        ∃ n ≤ rest.length, exec m s = .next (bump (if n = 0 then unitMove e f rest s else laterUnit m core slot n s)))) ∧
    (∀ m, m ∈ [Instr.execute core slot, .push core slot, .pop core slot, .postAndObserve core slot, .proof core slot,
        .hearthServe core slot] →
      (∀ e rest, s.me.vctx.queue = e :: rest →
        queueLive s.me = false ∨ s.me.stand ≠ none ∨ e.split = false ∨ ownMove e.instr core slot ≠ m) →
      (m = .execute core slot ∨ m = .push core slot ∨ m = .pop core slot →
        (queueLive s.me = false → exec m s = .next s) ∧
        (queueLive s.me = true → s.me.vctx.queue.length = 1 → exec m s = .next (bump s))) ∧
      (m = .postAndObserve core slot → exec m s = .next (observeOne s)) ∧
      (m = .hearthServe core slot → portReqs s core = [] → exec m s = .next s) ∧
      (m = .proof core slot → exec m s = .next s)) ∧
    ∀ r rs, portReqs s core = r :: rs →
      (nextPort (hearthOf s core) (core / 4) ≠ some core → exec (.hearthServe core slot) s = .next s) ∧
      (nextPort (hearthOf s core) (core / 4) = some core →
        ∃ t, exec (.hearthServe core slot) s = .next t ∧ portReqs t core = rs ∧ (hearthOf t core).last = core % 4 ∧
          (tileHeight (hearthOf s core) r.slot ≠ 0 → r.scale = false → (hearthOf t core).weights =
            csets zeroWeight (hearthOf s core).weights ((r.slot * 4096 + r.first) * 256) r.bytes) ∧
          (tileHeight (hearthOf s core) r.slot = 0 → (hearthOf t core).weights = (hearthOf s core).weights) ∧
          (hearthOf t core).heights = (hearthOf s core).heights ∧
          t.me = ownEntry r (fun e => { e with prog := e.prog + 1 }) s.me ∧ t.host = s.host ∧ t.spad = s.spad)

/-- R85, R86, R91, R93: in normal mode DRAIN takes a line that waits for no VFENCE from the write-combining buffer into
requests, and the strand sees every byte as before; HOST_PERFORM performs the oldest entry of the host path, a store at memory
and a load at its register, a store that waits for a VFENCE not at all; R99: in deterministic mode neither makes a store
visible. R91: a load of the host path may be performed before the store ahead of it, and the strand then reads that store's
bytes. R36, R86: DELIVER puts the oldest request of a channel into its port queue, or gives its strand the oldest reply; SERVE
makes the oldest request of a port, where it is the port's turn: a write at the scratchpads, a load with a reply that goes
back over the die fabric or, through the crossbar, to its strand at once. An atomic of the host path is one step, and D
receives the old value (R191). -/
def Obligations.StoreMoves : Prop :=
  ∀ (s : State),
    (∀ core slot line, InSlot s core slot →
      (s.me.det = true → exec (.drain core slot line) s = .next s) ∧
      (s.me.det = false → StoresOk s → PortsOnly s →
        ∃ t, exec (.drain core slot line) s = .next t ∧
          (∀ x, x ∈ t.me.wcb ↔ x ∈ s.me.wcb ∧ ¬(x.line = line ∧ x.held = 0)) ∧ (∀ l, seen t l = seen s l) ∧
          { t with net := s.net, me := { t.me with wcb := s.me.wcb } } = s)) ∧
    (∀ src dst a r b, s.net = a ++ r :: b → (∀ x ∈ a, ¬(x.inChannel = true ∧ x.src = src ∧ x.dst = dst)) → r.inChannel = true →
      r.src = src → r.dst = dst →
      (r.reply = none → exec (.deliver src dst) s = .next { s with net := a ++ b ++ [{ r with inChannel := false }] }) ∧
      ∀ bs x d w, r.reply = some bs → r.late = some x → x.kind = .load d w → isStrand x.fn x.seq x.gang x.lsn s.me = true →
        ∃ t, exec (.deliver src dst) s = .next t ∧ t.net = a ++ b ∧ t.me = landReg x.id d (loadValue w bs) s.me ∧
          t.spad = s.spad ∧ t.host = s.host) ∧
    (∀ core bank port a r b, s.net = a ++ r :: b →
      (∀ x ∈ a, ¬(x.inChannel = false ∧ x.dst = core ∧ x.bank = bank ∧ x.port = port)) → r.inChannel = false → r.dst = core →
      r.bank = bank → r.port = port → r.reply = none → port < 3 →
      let rank := fun p => (p + 2 - tget 0 s.turns (core * 64 + bank) % 3) % 3
      let first := ∀ q ∈ s.net, q.inChannel = false → q.dst = core → q.bank = bank → q.port < 3 → rank port ≤ rank q.port
      (¬first → exec (.serve core bank port) s = .next s) ∧
      (first →
        (r.late = none → (r.bytes.map Prod.fst).Nodup →
          ∃ t, exec (.serve core bank port) s = .next t ∧ t.net = a ++ b ∧ tget 0 t.turns (core * 64 + bank) = port ∧
            { t with net := s.net, spad := s.spad, turns := s.turns } = s ∧
            (∀ x ∈ r.bytes, atCoherence t (.spad x.1) = overlay (atCoherence s (.spad x.1)) x.2) ∧
            ∀ k, (∀ x ∈ r.bytes, x.1 ≠ k) → atCoherence t (.spad k) = atCoherence s (.spad k)) ∧
        ∀ x d w, r.late = some x → x.kind = .load d w →
          let bs := lateBytes s.spad x
          ∃ t, exec (.serve core bank port) s = .next t ∧ t.spad = s.spad ∧ t.host = s.host ∧
            tget 0 t.turns (core * 64 + bank) = port ∧
            (port = 1 → t.me = s.me ∧ t.net = a ++ b ++ [{ r with src := r.dst, dst := r.src, inChannel := true, reply := some bs }]) ∧
            (port ≠ 1 → isStrand x.fn x.seq x.gang x.lsn s.me = true →
              t.net = a ++ b ∧ t.me = landReg x.id d (loadValue w bs) s.me))) ∧
    ∀ core slot e rest, InSlot s core slot → s.me.hpath = e :: rest →
      (e.late = none → (∀ y ∈ rest, ∀ l, y.late = some l → isLoad l = false) →
        (0 < e.held ∨ s.me.det = true → exec (.hostPerform core slot) s = .next s) ∧
        (e.held = 0 → s.me.det = false → (e.bytes.map Prod.fst).Nodup →
          ∃ t, exec (.hostPerform core slot) s = .next t ∧ t.me.hpath = rest ∧
            { t with host := s.host, me := { t.me with hpath := s.me.hpath } } = s ∧
            (∀ x ∈ e.bytes, atCoherence t (.host x.1) = overlay (atCoherence s (.host x.1)) x.2) ∧
            ∀ k, (∀ x ∈ e.bytes, x.1 ≠ k) → atCoherence t (.host k) = atCoherence s (.host k))) ∧
      (∀ x d w, e.late = some x → x.kind = .load d w → isStrand x.fn x.seq x.gang x.lsn s.me = true → x.fwd = [] →
        ∃ t, exec (.hostPerform core slot) s = .next t ∧ t.host = s.host ∧
          t.me = landReg x.id d (loadValue w ((List.range x.n).map fun j => atCoherence s (.host (x.key + j))))
            { s.me with hpath := rest }) ∧
      (∀ x d op b, e.late = some x → x.kind = .amo d op b → isStrand x.fn x.seq x.gang x.lsn s.me = true → x.fwd.all (· == ⟨0, 0⟩) →
        e.held = 0 → op < 9 → x.n = 4 ∨ x.n = 8 → b < 2 ^ (8 * x.n) →
        let old := coherent s (.host x.key) x.n
        ∃ t, exec (.hostPerform core slot) s = .next t ∧
          coherent t (.host x.key) x.n = atomicResult (BitVec.ofNat 4 op) x.n old b ∧
          t.me = landReg x.id d (if x.n = 4 then BitVec.ofInt 64 (BitVec.ofNat 32 old).toInt else word old) { s.me with hpath := rest }) ∧
      ∀ y ys x d w, rest = y :: ys → e.late = none → y.late = some x → x.kind = .load d w →
        isStrand x.fn x.seq x.gang x.lsn s.me = true →
        ∃ t, exec (.hostPerform core slot) s = .next t ∧
          ((t.me.hpath = rest ∧ t.me.regs = s.me.regs ∧ t.host = putBytes s.host e.bytes ∧ e.held = 0 ∧ s.me.det = false) ∨
            (t.host = s.host ∧
              t.me = landReg x.id d (loadValue w ((List.range x.n).map fun j =>
                  overlay (atCoherence s (.host (x.key + j))) ((tfind e.bytes (x.key + j)).after ⟨0, 0⟩)))
                { s.me with hpath := e :: ys }))

/-- R215 to R218, R220, R225, R228: a queued command that passes its checks is accepted: a stream into STREAM; an RSORT, and
an RJOIN by a field, whose runs lie over more than one vault into SAMPLE (Table 12.6); any other into PASS. One that fails its
checks completes with its status; a read stream delivers the next record, or completes behind the last; a command in PASS
whose reading meets a page that can be served stalls with a batch outstanding, and so does a stream. The output of an RSORT
that neither combines nor exchanges is its records, each once, with keys that never decrease. The runs here are those of this
package (R334 gives those of peers, log 19), and one batch holds every missing page of the reading (log 24). The model's choices:
PASS reads its sources, writes its whole output and completes in one move (log 53), and what stands behind the output in the extent
of the run, and in the work area, are free bytes (log 4, log 35). -/
def Obligations.KneaderMoves : Prop :=
  ∀ (s : State) (core slot q : Nat) (c : Cmd), InSlot s core slot → headCmd s q = some c → s.me.status ≠ .wfe →
    c.held = none → c.reads = [] → c.writes = [] → (∀ x ∈ c.srcs ++ outputs c, atPeer x = false) →
    let f := fifoOf s.me q
    let tail := f.cmds.drop 1
    let done := fun (t : State) (st n : Nat) => ∃ u, SameButFifos s { t with funcs := s.funcs } ∧ t.me.ev = true ∧
      FifoIs s t q { f with cmds := tail, res := f.res ++ [.done (word (st * 2 ^ 56 + n % 2 ^ 40)) u] }
    let stalled := fun (t : State) (r : Phase) => ∃ c' bs, FifoIs s t q { f with cmds := c' :: tail } ∧ c'.phase = .stall ∧
      c'.resume = r ∧ t.dev.batches = s.dev.batches ++ bs ∧
      (c'.batch.1, c'.batch.2, .command s.me.fn s.me.lseq s.me.gang s.me.lsn q) ∈ bs ∧ t.me.status = s.me.status
    (c.phase = .queued → c.fixed ≠ 10 →
      (checkStatus c = 0 →
        ∃ t p, exec (.acceptAndProduce core slot q) s = .next t ∧ SameButFifos s t ∧
          FifoIs s t q { f with cmds := { c with phase := p } :: tail } ∧
          p = if isReader c || isWriter c then .stream else match c.kind with
            | .rsort _ _ => if overVaults s c then .sample else .pass
            | .rjoin j _ => if j ≠ 0 ∧ overVaults s c = true then .sample else .pass
            | _ => .pass) ∧
      (checkStatus c ≠ 0 → c.count = 0 → ∃ t, exec (.acceptAndProduce core slot q) s = .next t ∧ done t (checkStatus c % 256) 0)) ∧
    (c.phase = .sample → ∃ t, exec (.acceptAndProduce core slot q) s = .next t ∧ SameButFifos s t ∧
      FifoIs s t q { f with cmds := { c with phase := .pass } :: tail }) ∧
    (∀ first x xs, c.phase = .stream → c.fixed = 0 → c.kind = .rdstr first → c.srcs = x :: xs → c.dsts = [] →
      (x.h.len ≤ first + c.count → ∃ t, exec (.commandComplete core slot q) s = .next t ∧ done t 0 c.count) ∧
      (first + c.count < x.h.len → waiting f < 256 →
        (∀ r, recordAt s s.me.fn x.h (first + c.count) = .ok r →
          ∃ t, exec (.streamRecord core slot q) s = .next t ∧ SameButFifos s t ∧ t.me.ev = true ∧
            FifoIs s t q { f with cmds := { c with count := c.count + 1 } :: tail, res := f.res ++ [.record r] }) ∧
        ∀ cause p a, recordAt s s.me.fn x.h (first + c.count) = .error (.page cause p a) →
          ∃ t, exec (.streamPageFault core slot q) s = .next t ∧ stalled t .stream)) ∧
    (c.phase = .pass → ∀ cause p a, readAll s c = .error (.page cause p a) →
      ∃ t, exec (.stall core slot q) s = .next t ∧ stalled t .pass) ∧
    ∀ rs, c.kind = .rsort false 0 → c.fixed = 0 →
      let out := (output c [rs]).map fun x => x.2.1
      out.Perm rs ∧ (out.map (recKey (fmtKw (srcFmt c)))).Pairwise (· ≤ ·) ∧
        (c.phase = .pass → readAll s c = .ok [rs] → workFaults s c = [] → ∀ x, c.dsts = [x] → rs.length ≤ x.h.cap →
          fmtDkey x.h.fmt = false → ∀ u, writeUnits s.me.fn x.h (unitsOf x.h.fmt out) s 0 = (u, rs.length, none) →
          let v := spoilWork c (spoilTail s.me.fn x.h (filled x.h.fmt out rs.length) u)
          ∃ t w, exec (.commandComplete core slot q) s = .next t ∧ (fifoOf t.me q).cmds = tail ∧
            (fifoOf t.me q).res = f.res ++ [.done (word (rs.length % 2 ^ 40)) w] ∧ t.vault = v.vault ∧ t.host = v.host)

/-- R22, R99, R283: the drain of a gang of one strand that stands at a store makes its earlier stores visible and performs the
store; WFE_WAKE ends a wait at WFE; the end of a slice, or of a wait quantum of the active strand, makes the next ready slot
of the core active, which then issues where the core has the focus. -/
def Obligations.GangAndTurnMoves : Prop :=
  ∀ (s : State) (core slot : Nat),
    (∀ g m a b h w l k, myGang s = some g → g.members = [m] → m.ended = false → s.me.lsn = 0 → s.me.det = true → Quiet s → Calm s →
      s.me.status = .run → s.me.stand = some (.st a b h w l) → StoresOk s →
      let e := reg s a + (h ++ l).signExtend 64
      e.toNat % 2 ^ w.toNat = 0 → reach s e.toNat .store = .ok (.spad k) → k % 2 ^ w.toNat = 0 →
      ∃ t, exec (.gangDrain s.me.fn s.me.lseq s.me.gang) s = .next t ∧ t.me.stand = none ∧ t.me.permit = false ∧
        t.me.pc = s.me.pc + 4 ∧ t.me.regs = s.me.regs ∧ t.me.hpath = [] ∧ t.net = [] ∧
        (∀ x, atCoherence t x = seen s x) ∧
        (∀ j < 2 ^ w.toNat, seen t (.spad (k + j)) = BitVec.ofNat 8 ((reg s b).toNat / 256 ^ j)) ∧
        ∀ x, (∀ j < 2 ^ w.toNat, x ≠ .spad (k + j)) → seen t x = seen s x) ∧
    (InSlot s core slot → s.me.status = .wfe →
      exec (.wfeWake core slot) s = .next { s with me := { s.me with status := .run, ev := false, woke := true } }) ∧
    ∀ j st, nextReady s core = some j → strandAt s core j = some st →
      (s.me.core = core ∨ resident s.me = false → ∃ t, exec (.sliceEnd core) s = .next t ∧ activeSlot t core = j ∧ t.me = st ∧
        { t with me := s.me, others := s.others, active := s.active } = s) ∧
      (s.me.core ≠ core → resident s.me = true → ∃ t, exec (.sliceEnd core) s = .next t ∧ activeSlot t core = j ∧
        { t with active := s.active } = s) ∧
      (s.me.core = core → s.me.slot = activeSlot s core → ready s.me = true → s.me.ending = true ∨ s.me.stand.isSome = true →
        ∃ t, exec (.waitQuantumExpiry core) s = .next t ∧ activeSlot t core = j ∧ t.me = st ∧
          { t with me := s.me, others := s.others, active := s.active } = s)

namespace Sys2Proof.Claims

open Sys2Proof Sys2Proof.Machine

/-- The registers of launch queue q of a function. -/
def lq (s : State) (fn q : Nat) : LQueue := queueOf s fn q

/-- The strand of a place of a gang. -/
def member (s : State) (fn seq g lsn : Nat) : Option Strand := (s.me :: s.others).find? (isStrand fn seq g lsn)

/-- A placed gang of a launch, by its number. -/
def gangOf (s : State) (fn seq g : Nat) : Option Gang := gangFind s fn seq g

/-- No instruction of a gang's queues is one for whose completion a stop waits (Table 13.4). -/
def StopsAtOnce (s : State) (x : Gang) : Prop :=
  ∀ st ∈ s.me :: s.others, inGang x st = true → ∀ e ∈ st.vctx.queue, ∀ d a, e.instr ≠ .mattach d a 1 ∧ e.instr ≠ .msave a

/-- A launch of the function ends with a status and its cause byte, and no gang of it remains. -/
def LaunchEnds (t : State) (fn seq status cause : Nat) (l : Launch) : Prop :=
  (∀ x ∈ t.gangs, ¬(x.fn = fn ∧ x.seq = seq)) ∧
    (∃ k, launchFind t fn seq = some k ∧ k.status = some status ∧ k.cause = cause ∧ k.next = recG l ∧ k.record = l.record)

/-- The other functions keep their state. -/
def OtherFns (s t : State) (fn : Nat) : Prop := ∀ f, f ≠ fn → fnOf t f = fnOf s f

end Sys2Proof.Claims

/-! ## Launches, gangs and budgets -/

/-- R301, R302, R18, R19, R305, R309: a doorbell moves TAIL, and sets ERR where more entries are claimed than the ring holds,
but a queue in reset or with ERR accepts none; the fetch of a readable record takes it at HEAD under the next sequence number,
refused at once with LOCK, RECORD or PARTITION where that holds; the placement of a whole gang starts its strands at the
launch's entry, each with its identity, region, options and declared registers; a warm slot is kept for a gang at free places.
A fitting gang is placed where the move says (log 2). -/
def Obligations.LaunchQueueing : Prop :=
  ∀ (s : State) (fn q : Nat), fn < 64 → q < 8 →
    (served s = true → ∀ v : BitVec 32, ∃ t, exec (.doorbell fn q v) s = .next t ∧ OtherFns s t fn ∧
      (∀ k, k ≠ q → lq t fn k = lq s fn k) ∧
      lq t fn q = if (lq s fn q).busy ∨ (lq s fn q).err then lq s fn q else
        { lq s fn q with tail := v, err := decide (2 ^ (lq s fn q).log2n < (v - (lq s fn q).head).toNat) }) ∧
    (∀ bs, mayFetch s fn q = true → hostReadFn s fn (headEntry (lq s fn q)) 64 = some bs →
      let r := (List.range 8).map (wordAt bs)
      ∃ t l, exec (.launchFetch fn q) s = .next t ∧ t.launches = s.launches ++ [l] ∧ l.record = r ∧ l.fn = fn ∧ l.queue = q ∧
        l.seq = (fnOf s fn).nextSeq ∧ l.next = 0 ∧ l.written = false ∧ lq t fn q = { lq s fn q with head := (lq s fn q).head + 1 } ∧
        (fnOf t fn).nextSeq = (if ((fnOf s fn).nextSeq + 1) % 2 ^ 32 = 0 then 1 else ((fnOf s fn).nextSeq + 1) % 2 ^ 32) ∧
        OtherFns s t fn ∧ t.gangs = s.gangs ∧ t.me = s.me ∧ (fnOf s fn).tenant ∉ t.dev.noKey ∧
        l.status = if s.dev.lock then some 6 else if recordOk r = false ∨ dredImage s fn (r.getD 2 0).toNat = none then some 1
          else if unplaceable (fnOf s fn) (field (r.getD 1 0) 30 24) then some 2 else none) ∧
    ∀ (l : Launch) (stack lc : Nat) (ps : List (Nat × Nat × Nat)), launchFind s fn l.seq = some l → l.written = false →
      (mayPlace s l stack ps lc = true →
        ∃ t g, exec (.gangPlacement fn l.seq l.next stack ps lc) s = .next t ∧ t.gangs = s.gangs ++ [g] ∧
          g.fn = fn ∧ g.seq = l.seq ∧ g.gang = l.next ∧ g.stack = stack ∧ g.members.length = recS l ∧ g.phase = 0 ∧
          g.lc = (if recDet l then 8 else lc) ∧ (recDet l = false → lc ≤ s.dev.dispLc) ∧
          (launchFind t fn l.seq).map Launch.next = some (l.next + 1) ∧
          (∀ w ∈ t.dev.warm, ¬(w.fn = fn ∧ w.seq = l.seq ∧ w.gang = l.next)) ∧
          ∀ j p, ps[j]? = some p → ∃ st, strandAt t p.1 p.2.1 = some st ∧ st.status = .run ∧ st.fn = fn ∧ st.lseq = l.seq ∧
            st.gang = l.next ∧ st.lsn = j ∧ st.gcount = recG l ∧ st.gsize = recS l ∧ st.pc = l.record.getD 0 0 ∧
            st.regs = Vector.replicate 32 0 ∧ st.spBase = p.2.2 ∧ st.spSize = recSpad l ∧ st.vlcap = recVlcap l ∧
            st.det = recDet l ∧ st.pref = l.record.getD 3 0 ∧ st.thandler = (fnOf s fn).thandler ∧ st.hm = false ∧
            st.lc = (if recDet l then 8 else lc) ∧ st.issue = 8 ∧ st.vctx.cnt = recNreg l ∧
            (st.vown = true ↔ ownerOf s p.1 = none)) ∧
      (pending' l = true → placesFree s l stack ps = true →
        (∀ p ∈ ps, ∀ st ∈ s.me :: s.others, ¬(st.status = .off ∧ st.core = p.1 ∧ st.slot = p.2.1)) →
        (∀ w ∈ s.dev.warm, ¬(w.fn = fn ∧ w.seq = l.seq ∧ w.gang = l.next)) →
        exec (.warmSlot fn l.seq l.next stack ps) s =
          .next { s with dev := { s.dev with warm := s.dev.warm ++ [⟨fn, l.seq, l.next, ps⟩] } })

/-- R288 to R290, R306 to R308, R117, R343: a gang of higher priority pre-empts one of the lowest, whose strands enter the
handler with cause 0x0E, at once or when the instruction whose unit is the whole has completed (log 68); a gang whose saved
areas hold resumes where no waiting launch of higher priority comes first, under a grant no greater than the interval's and
the one it was lowered to, its strands in the handler with RESUME, TVAL 0 and their rows reserved; a handler that outlasts its
grace fails its launch; a budget window zeroes what is spent, and a function that has spent its allotment loses its gangs, a halted
one as soon as it is released; a
power interval raises no setting where its power was above the LIMIT in force or the junction hot, and lowers none else,
pre-empts the gangs above both the grant that ends and the next, which resume with no more, and brings the new LIMIT into
force. Energy is a sum over activity counters whose steps are free values (log 61). The model's choices: the TBU spent and the size of
each change are the move's (log 18); which launch a resumption waits for, and that a halted gang is pre-empted at its release, are
read from R306 and R323 (log 44). -/
def Obligations.PreemptionAndBudgets : Prop :=
  ∀ (s : State) (fn seq g : Nat) (x : Gang), gangOf s fn seq g = some x →
    (∀ l, launchFind s l.fn l.seq = some l → pending' l = true → preemptable x = true → x.halted = false → samePart s fn l.fn = true →
      gangPrio s x < recPrio l → (∀ y ∈ s.gangs, runsIn s l.fn y = true → gangPrio s x ≤ gangPrio s y) →
      ((∃ st ∈ s.me :: s.others, inGang x st = true ∧ holdsStop s st = true) →
        ∃ t, exec (.priorityPreemption l.fn l.seq l.next fn seq g) s = .next t ∧ t.me = s.me ∧ t.others = s.others ∧
          (gangOf t fn seq g).map Gang.stopping = some true ∧ (gangOf t fn seq g).map Gang.preempting = some false) ∧
      ((∀ r ∈ s.net, r.late = none) → (∀ st ∈ s.me :: s.others, st.out = [] ∧ st.vctx.bufs = [] ∧ st.kept = [] ∧
        (∀ h ∈ st.hpath, h.late = none) ∧ ∀ e ∈ st.vctx.queue, e.prog = 0) → StopsAtOnce s x →
      ∃ t, exec (.priorityPreemption l.fn l.seq l.next fn seq g) s = .next t ∧
        (gangOf t fn seq g).map Gang.preempting = some true ∧
        ∀ j st, j < x.members.length → member s fn seq g j = some st → resident st = true → st.hm = false → st.ending = false →
          ∃ u, member t fn seq g j = some u ∧ u.hm = true ∧ u.pc = st.thandler ∧ u.tepc = st.pc ∧ u.status = .run ∧
            field u.tcause 7 0 = 0x0E ∧ bit u.tcause.toNat 9 = false ∧ u.pre = true ∧ u.regs = st.regs)) ∧
    (let det := ∃ st ∈ strandsOf s x, st.det = true
     (∀ lc, s.dev.dispLc < lc ∨ x.lcCap < lc → ¬det → exec (.resumption fn seq g lc) s = .next s) ∧
     (∀ lc l, l ∈ s.launches → yieldsTo s x l = true → exec (.resumption fn seq g lc) s = .next s) ∧
     ∀ lc, mayResume s x = true → (∀ l ∈ s.launches, yieldsTo s x l = false) → 1 ≤ lc → lc ≤ 8 →
      (det ∨ lc ≤ s.dev.dispLc ∧ lc ≤ x.lcCap) → ((strandsOf s x).map Strand.core).Nodup →
      (∀ st ∈ strandsOf s x, ∃ ls, slotPages s st = some ls ∧ slotHolds s ls st = true) →
      ∃ t, exec (.resumption fn seq g lc) s = .next t ∧ (gangOf t fn seq g).map Gang.placed = some true ∧
        ∀ j st, j < x.members.length → member s fn seq g j = some st →
          ∃ u, member t fn seq g j = some u ∧ u.hm = true ∧ u.pc = st.thandler ∧ u.status = .run ∧
            field u.tcause 7 0 = 0x0E ∧ bit u.tcause.toNat 9 = true ∧ u.tval = 0 ∧ u.pre = false ∧ u.reserved = st.savedRows ∧
            u.savedRows = 0 ∧ u.tepc = st.tepc ∧ u.regs = st.regs ∧ (¬det → u.lc = lc)) ∧
    (∀ l st, launchFind s fn seq = some l → l.written = false → l.status = none → x.preempting = true →
      (strandsOf s x).find? (fun st => st.hm && resident st) = some st →
      ∃ t, exec (.graceExpiry fn seq g) s = .next t ∧ LaunchEnds t fn seq 5 (field st.tcause 7 0) l) ∧
    (∃ t, exec .budgetWindow s = .next t ∧ t.dev.coefs = s.dev.nextCoefs ∧
      (∀ f, (fnOf t f).spentT = 0 ∧ (fnOf t f).spentE = 0 ∧ energyOf t f = 0) ∧
      t.me = { s.me with laneCycles := 0, bitCycles := 0 } ∧
      t.others = s.others.map (fun st => { st with laneCycles := 0, bitCycles := 0 }) ∧
      { t with funcs := s.funcs, me := s.me, others := s.others, dev := { t.dev with coefs := s.dev.coefs } } = s) ∧
    (∀ tb eb,
      (¬((fnOf s fn).spentT ≤ tb ∧ eb = energyOf s fn / 10 ^ 9) → exec (.budgetExhausted fn tb eb) s = .next s) ∧
      ((fnOf s fn).spentT ≤ tb → eb = energyOf s fn / 10 ^ 9 →
        ∃ t, exec (.budgetExhausted fn tb eb) s = .next t ∧ (fnOf t fn).spentT = tb ∧ (fnOf t fn).spentE = eb ∧
          let left := ((fnOf s fn).tbu = 0xFFFFFFFF ∨ tb < (fnOf s fn).tbu) ∧ ((fnOf s fn).ebu = 0xFFFFFFFF ∨ eb < (fnOf s fn).ebu)
          (left → t.gangs = s.gangs ∧ t.me = s.me ∧ t.others = s.others) ∧
          (¬left → preemptable x = true →
            (x.halted = false → StopsAtOnce s x → (gangOf t fn seq g).map Gang.preempting = some true) ∧
            (x.halted = true → (s.gangs.map fun y => (y.fn, y.seq, y.gang)).Nodup →
              (gangOf t fn seq g).map Gang.stopping = some true)))) ∧
    ∀ avg temp lc issue duty, 1 ≤ lc → lc ≤ 8 → 1 ≤ issue → issue ≤ 8 → 1 ≤ duty → duty ≤ 8 →
      let hot := s.dev.pwrInForce < avg ∨ temp ≠ 0
      let holds := if hot then lc ≤ s.dev.dispLc ∧ issue ≤ s.dev.dispIssue ∧ duty ≤ (hearthOf s 0).duty
        else s.dev.dispLc ≤ lc ∧ s.dev.dispIssue ≤ issue ∧ (hearthOf s 0).duty ≤ duty
      (¬holds → exec (.powerInterval avg temp lc issue duty) s = .next s) ∧
      (holds →
        ∃ t, exec (.powerInterval avg temp lc issue duty) s = .next t ∧ t.dev.dispLc = lc ∧ t.dev.dispIssue = issue ∧
          t.dev.pwrReason.getLsbD 0 = decide (s.dev.pwrInForce < avg) ∧
          t.dev.pwrReason.getLsbD 1 = decide (temp ≠ 0) ∧ t.dev.pwrInForce = s.dev.pwrLimit ∧
          (∀ c < 512, (hearthOf t c).duty = duty) ∧ (s.me.det = true → s.me.status ≠ .free → t.me.issue = issue) ∧
          (max s.dev.dispLc lc < x.lc → preemptable x = true → (∀ st ∈ strandsOf s x, st.det = false) →
            (gangOf t fn seq g).map Gang.lcCap = some (max s.dev.dispLc lc) ∧
              (x.halted = false → StopsAtOnce s x → (gangOf t fn seq g).map Gang.preempting = some true)))

/-- R302 to R304, R310 to R314, R300: the completion word is written once its page translates, and the launch then counts as
completed; a queue reset ends each of its launches with RESET, those that failed but are not yet written too, and no other launch;
its end, once they have completed, moves HEAD to TAIL; a function-level reset resets every queue and ends each of its launches so,
and its end clears the function's state and scrubs the groups that it alone was using; PARTMAP and TENANT are written only with no
launch in progress in the groups they name and no overlap of two tenants: a write refused for either leaves the register as it
was; a group that passes to another tenant is set to be scrubbed; the scrub of a group zeroes its scratchpads, Hearth and census
and frees its old tenants' sequences and translations. Which groups a function-level reset scrubs, who holds a group, and whose
sequences and translations a scrub frees are the model's reading (log 47). -/
def Obligations.ResetsAndTenancy : Prop :=
  ∀ (s : State) (fn q : Nat), fn < 64 → q < 8 →
    (∀ l st pa d a b c, launchFind s fn l.seq = some l → l.status = some st → l.written = false → l.cwBatch = 0 → l.recHeld = false →
      (cwAddr l) % 8 = 0 → cwAddr l < hostSize → translate s fn (cwAddr l) .store = .ok pa d a b c →
      ∃ t k, exec (.completionWordWrite fn l.seq) s = .next t ∧ k ∈ t.launches ∧ k.seq = l.seq ∧ k.written = true ∧
        (∀ j < 8, atCoherence t (.host (pa + j)) =
          BitVec.ofNat 8 ((st * 2 ^ 56 + l.cause % 256 * 2 ^ 40 + l.xflags.toNat * 2 ^ 32 + l.seq) / 256 ^ j)) ∧
        (∀ x, (∀ j < 8, x ≠ pa + j) → atCoherence t (.host x) = atCoherence s (.host x)) ∧
        (fnOf t fn).msix = (fnOf s fn).msix ++ (if (lq s fn l.queue).ie then [l.queue] else [])) ∧
    (let met := fun l : Launch => l ∈ s.launches ∧ l.fn = fn ∧ l.queue = q ∧ l.written = false
     (s.launches.map fun l => (l.fn, l.seq)).Nodup → (∀ l, met l → l.cwBatch = 0 ∧ l.recHeld = false) →
      (lq s fn q).busy = false → served s = true →
      ∃ t, exec (.queueLevelReset fn q) s = .next t ∧ (lq t fn q).busy = true ∧
        (∀ l, met l → (l.status = none → LaunchEnds t fn l.seq 4 0 l) ∧
          ∀ st, l.status = some st → (launchFind t fn l.seq).map Launch.status = some (some (if st = 0 then 0 else 4))) ∧
        (∀ l ∈ s.launches, ¬met l → l ∈ t.launches) ∧
        ∀ x ∈ s.gangs, (∀ l, met l → ¬(x.fn = fn ∧ x.seq = l.seq)) → x ∈ t.gangs) ∧
    ((lq s fn q).busy = true → (fnOf s fn).flr = false →
      (unfinished s fn q ≠ [] → exec (.resetCompletion fn q) s = .next s) ∧
      (unfinished s fn q = [] → ∃ t, exec (.resetCompletion fn q) s = .next t ∧
        lq t fn q = { lq s fn q with head := (lq s fn q).tail, err := false, busy := false } ∧
        (fnOf t fn).msix = (fnOf s fn).msix ++ [10] ∧ OtherFns s t fn)) ∧
    (s.launches = [] →
      ∃ t, exec (.functionLevelReset fn) s = .next t ∧ (∀ k < 8, lq t fn k = { lq s fn k with busy := true }) ∧
        (fnOf t fn).flr = true ∧ OtherFns s t fn ∧ { t with funcs := s.funcs } = s) ∧
    (let met := fun l : Launch => l ∈ s.launches ∧ l.fn = fn ∧ l.queue < 8 ∧ l.written = false
     (s.launches.map fun l => (l.fn, l.seq)).Nodup → (∀ l, met l → l.cwBatch = 0 ∧ l.recHeld = false) →
      ∃ t, exec (.functionLevelReset fn) s = .next t ∧ (∀ k < 8, (lq t fn k).busy = true) ∧ (fnOf t fn).flr = true ∧
        (∀ l, met l → (l.status = none → LaunchEnds t fn l.seq 4 0 l) ∧
          ∀ st, l.status = some st → (launchFind t fn l.seq).map Launch.status = some (some (if st = 0 then 0 else 4))) ∧
        (∀ l ∈ s.launches, ¬met l → l ∈ t.launches) ∧
        ∀ x ∈ s.gangs, (∀ l, met l → ¬(x.fn = fn ∧ x.seq = l.seq)) → x ∈ t.gangs) ∧
    ((fnOf s fn).flr = true → (lq s fn q).busy = true →
      ((∃ k < 8, unfinished s fn k ≠ []) → exec (.resetCompletion fn q) s = .next s) ∧
      ((∀ k < 8, unfinished s fn k = []) → ∃ t, exec (.resetCompletion fn q) s = .next t ∧
        (∀ k < 8, lq t fn k = LQueue.reset) ∧ (fnOf t fn).flr = false ∧
        (fnOf t fn).nextSeq = 1 ∧ (fnOf t fn).frtail = 0 ∧ (fnOf t fn).frhead = 0 ∧ (fnOf t fn).debug = Debug.reset ∧
        (∀ x ∈ t.seqs, x.2.owner ≠ fn) ∧ (∀ e ∈ t.dev.tlb, e.fn ≠ fn) ∧ OtherFns s t fn ∧ t.me = s.me ∧
        (fnOf t fn).msix = (fnOf s fn).msix ++ [10] ∧
        ∀ h < 128, mapBit (fnOf s fn) h = true → (∀ f < 64, f ≠ fn → mapBit (fnOf s f) h = true → hasLaunch s f = false) →
          thas t.dev.scrubbing h = true)) ∧
    (∀ v : Word, ∀ half < 2, ∀ i, i = .partmapWrite fn half v ∨ i = .tenantWrite fn v → served s = true →
      let old := fnOf s fn
      let new := if i = .tenantWrite fn v then { old with tenant := v.toNat % 2 ^ 16 }
        else if half = 0 then { old with map0 := v } else { old with map1 := v }
      let shared := ∃ f g h, f < 64 ∧ f ≠ fn ∧ g < 128 ∧ h = fnOf s f ∧ mapBit new g = true ∧ mapBit h g = true ∧
        ¬(new.tenant = h.tenant ∧ new.map0 = h.map0 ∧ new.map1 = h.map1)
      (s.launches = [] → sharingOk s = true →
        ∃ t, exec i s = .next t ∧ OtherFns s t fn ∧
          (¬shared → fnOf t fn = new ∧ t.dev.pferr = s.dev.pferr ∧
            ∀ g < 128, mapBit new g = true →
              (thas s.dev.scrubbed g = true ∧ tget 0 s.dev.scrubbed g ≠ new.tenant) ∨
                (thas s.dev.holders g = true ∧ tget 0 s.dev.holders g ≠ new.tenant) →
              thas t.dev.scrubbing g = true) ∧
          (shared → fnOf t fn = old ∧ t.dev.pferr = s.dev.pferr ||| 1)) ∧
      (∀ f g l, f < 64 → g < 128 → (mapBit old g = true ∨ mapBit new g = true) →
        (mapBit (fnOf s f) g = true ∨ (f = fn ∧ mapBit new g = true)) → l ∈ s.launches → l.fn = f → l.written = false →
        ∃ t, exec i s = .next t ∧ fnOf t fn = old ∧ t.dev.pferr.getLsbD 1 = true ∧
          { t with dev := { t.dev with pferr := s.dev.pferr } } = s)) ∧
    ∀ h ts, tget [] s.dev.scrubbing h = ts → thas s.dev.scrubbing h = true → h < 128 →
      ∃ t, exec (.scrub h) s = .next t ∧ thas t.dev.scrubbing h = false ∧
        (∀ k, k / (4 * spadSize) = h → atCoherence t (.spad k) = 0) ∧
        (∀ k, k / (4 * spadSize) ≠ h → atCoherence t (.spad k) = atCoherence (settle s) (.spad k)) ∧
        (∀ c, c / 4 = h → freeMacros (hearthOf t c) = 16 ∧ ∀ k < 256, cget zeros t.census (c * 256 + k) = 0) ∧
        t.host = s.host ∧ (∀ e ∈ t.dev.tlb, (fnOf s e.fn).tenant ∉ ts) ∧
        ∀ x ∈ t.seqs, ¬(x.1 / 4096 = h / 16 ∧ ∃ n ∈ x.2.tenants, n ∈ ts)

namespace Sys2Proof.Claims

open Sys2Proof Sys2Proof.Machine

/-- A batch's answer as the host writes it: BATCH × 2 + ANS (Table 19.1). -/
def answerWord (n : Nat) (term : Bool) : Word := word (2 * n + if term then 1 else 0)

/-- A ring of the physical function takes the record r at its tail. -/
def TakesRecord (s t : State) (p p' : PRing) (r : FRec) (rest : List FRec) (v : Nat) : Prop :=
  p' = { p with held := rest, tail := p.tail + 1 } ∧ t.dev.msix = s.dev.msix ++ [v] ∧
    (∀ j < 32, some (atCoherence t (.host (p.base.toNat + p.tail.toNat % 2 ^ p.log2n * 32 + j))) = (recordBytes r)[j]?) ∧
    ∀ x, (∀ j < 32, x ≠ p.base.toNat + p.tail.toNat % 2 ^ p.log2n * 32 + j) → atCoherence t (.host x) = atCoherence s (.host x)

/-- Records stand behind HEAD to fewer than the ring holds, and the ring is enabled. -/
def HasRoom (p : PRing) : Prop := p.en = true ∧ (p.tail - p.head).toNat < 2 ^ p.log2n

/-- The arrival of a flit of each kind on a link (Table 19.4). -/
def FlitMove (k link : Nat) (f : Flit) (i : Instr) : Prop :=
  (k = 1 ∧ i = .hjelvorReadRequest link f) ∨ (k = 2 ∧ i = .hjelvorReadRecords link f) ∨ (k = 3 ∧ i = .hjelvorWriteRecords link f) ∨
    (k = 4 ∧ i = .hjelvorCompletionFlit link f) ∨ (k = 5 ∧ i = .hjelvorFenceFlit link f) ∨ (k = 6 ∧ i = .hjelvorFenceAck link f)

/-- A flit of a link that is up, whose CRC-32 holds, of the kind, next in its tag's order. -/
def Arrives (s : State) (link : Nat) (f : Flit) (k : Nat) : Prop :=
  s.dev.linksDown.getLsbD link = false ∧ f.crc = crc32 (flitBytes f) ∧ f.kind = k ∧ f.seq = nextSeqOf s (rxKey f.tag)

/-- It is a kind of ring's turn at the reporting port: its turn goes on, or the turn before it is over, or no other kind has a
record that its ring takes. -/
def HasTurn (s : State) (k : Nat) : Prop :=
  kindReady s k = true ∧ s.dev.port.1 < 3 ∧
    ((s.dev.port.1 = k ∧ s.dev.port.2 ≠ 0) ∨ (s.dev.port.2 = 0 ∧ k = (s.dev.port.1 + 1) % 3) ∨
      ∀ j < 3, j ≠ k → kindReady s j = false)

/-- The tag expects the flit after f next. -/
def Delivered (t : State) (f : Flit) : Prop := nextSeqOf t (rxKey f.tag) = (f.seq + 1) % 2 ^ 32

/-- A value that a register does not take (R7): not aligned or beyond host space, a size or a code outside its limits, or a base or a
size changed while its ring is on (Tables 17.1, 17.2, 18.4 and 19.10, R343). -/
def BreaksLimit (s : State) (fn off : Nat) (v : Word) : Prop :=
  let n := v.toNat % 32
  let bad := fun a => v.toNat % a ≠ 0 ∨ 2 ^ 56 ≤ v.toNat
  let d := (fnOf s fn).debug
  (fn < 64 ∧
    ((∃ q < 8, (lq s fn q).busy = false ∧
        ((off = 0x1000 + 0x20 * q ∧ ((lq s fn q).en = true ∨ bad 4096)) ∨
          (off = 0x1008 + 0x20 * q ∧ v.getLsbD 8 = false ∧
            (v.toNat % 16 < 4 ∨ 12 < v.toNat % 16 ∨ ((lq s fn q).en = true ∧ v.toNat % 16 ≠ (lq s fn q).log2n))))) ∨
      (∃ b < 4, off = 0x3000 + 8 * b ∧ v.toNat % 4 = 3) ∨ (off = 0x3040 ∧ (d.smpen = true ∨ bad 4096)) ∨
      (off = 0x3048 ∧ (v.toNat / 2 ^ 32 = 0 ∨ n < 4 ∨ 16 < n)) ∨ (off = 0x3060 ∧ (d.tren = true ∨ v.toNat % 4096 ≠ 0)) ∨
      (off = 0x3068 ∧ (3 < v.toNat / 2 ^ 28 % 16 ∨ 3 < v.toNat / 2 ^ 24 % 16 ∨ n < 4 ∨ 20 < n)))) ∨
  (fn = 64 ∧
    ((∃ f < 64, (off = 0x100020 + 0x100 * f ∧ bad 4) ∨
        (off = 0x100028 + 0x100 * f ∧ (v.toNat % 2 ^ 16 < 16 ∨ ∃ k, 1 ≤ k ∧ k < 4 ∧ v.toNat / 2 ^ (16 * k) % 2 ^ 16 = 0)) ∨
        (off = 0x100070 + 0x100 * f ∧ bad 4096) ∨
        (off = 0x100078 + 0x100 * f ∧ (v.toNat / 32 % 2 ^ 11 ≠ 0 ∨ (0 < n ∧ n < 4) ∨ 16 < n))) ∨
      (off = 0x200 ∧ (v.toNat % 2 ^ 12 < s.dev.lowLimit ∨ 2200 < v.toNat % 2 ^ 12 ∨ v.toNat % 2 ^ 12 % 25 ≠ 0)) ∨
      (off = 0x400 ∧ (s.dev.retry.en = true ∨ bad 4096)) ∨ (off = 0x420 ∧ (s.dev.term.en = true ∨ bad 4096))))

/-- Mailbox command n begins with BUSY, its STATUS to be st when it completes. -/
def Mailed (t : State) (n st : Nat) : Prop := t.dev.mbcmd = n ∧ t.dev.mbbusy = true ∧ t.dev.mbresult = some st

end Sys2Proof.Claims

/-! ## Faults, peers, the platform and debugging -/

/-- R279, R294 to R298, R302, R304, R329: a ring with room and in its turn takes the oldest record held for it, then its vector
rises, and a record that announces the end of a launch whose word was not written completes it; a ring whose page cannot be
written holds it back; the answer RETRY ends the suspension of a strand, TERMINAL gives it cause 0x07, and one that names no batch
changes nothing; an invalidation, started by its count, completes with the entries that it names gone and the function's host
stores performed, once none of them waits for a VFENCE or a drain; a retired frame's bytes stand at its spare; a snoop finds no
line. That a function's ring whose page cannot be written holds its records is the model's choice (log 13), and so is that the
physical function's rings lie at system physical addresses, untranslated (log 42). An invalidation of stage 2 drops every result
of the function's stage-1 walks (log 11). Where a spare frame lies is the move's (log 25). -/
def Obligations.FaultReporting : Prop :=
  ∀ (s : State) (fn : Nat), fn < 64 →
    (∀ r rest, s.dev.retry.held = r :: rest → HasRoom s.dev.retry → HasTurn s 1 →
      ∃ t, exec (.faultRecordWrite 64) s = .next t ∧ TakesRecord s t s.dev.retry t.dev.retry r rest 2 ∧ t.dev.term = s.dev.term) ∧
    (∀ r rest, s.dev.term.held = r :: rest → HasRoom s.dev.term → HasTurn s 2 →
      ∃ t, exec (.faultRecordWrite 65) s = .next t ∧ TakesRecord s t s.dev.term t.dev.term r rest 3 ∧ t.dev.retry = s.dev.retry) ∧
    (∀ k ring, k < 3 → s.dev.port.1 = k → s.dev.port.2 ≠ 0 → kindReady s k = true → ringKind ring ≠ k →
      exec (.faultRecordWrite ring) s = .next s) ∧
    (∀ r rest, (fnOf s fn).held = r :: rest →
      let a := (fnOf s fn).frbase.toNat + (fnOf s fn).frtail.toNat % 2 ^ (fnOf s fn).frsize * 32
      (ringOpen s fn a = false → exec (.faultRecordWrite fn) s = .next s) ∧
      ((fnOf s fn).frsize ≠ 0 → (fnOf s fn).frbase ≠ 0 →
        ((fnOf s fn).frtail - (fnOf s fn).frhead).toNat < 2 ^ (fnOf s fn).frsize → ringOpen s fn a = true → HasTurn s 0 →
        ∃ t, exec (.faultRecordWrite fn) s = .next t ∧ (fnOf t fn).held = rest ∧ (fnOf t fn).frtail = (fnOf s fn).frtail + 1 ∧
          t.host = (hostWriteFn s fn a (recordBytes r)).host ∧
          (r.launch = 0 → t.launches = s.launches ∧ (fnOf t fn).msix = (fnOf s fn).msix ++ [9]) ∧
          ∀ l, r.launch ≠ 0 → r.vf = fn → launchFind s fn r.launch = some l → l.written = false → l.recHeld = true →
            (∃ k ∈ t.launches, k.fn = fn ∧ k.seq = r.launch ∧ k.written = true) ∧
            (fnOf t fn).msix = (fnOf s fn).msix ++ 9 :: (if (queueOf s fn l.queue).ie then [l.queue] else []))) ∧
    (∀ i ring n term x, n < 2 ^ 63 → served s = true → NothingOut s → s.me.status = .suspended → s.me.susp = some x →
      x.batch = (ring, n) → s.me.hm = false →
      (i = .faultAnswer fn (answerWord n term) ∧ ring = fn) ∨
        (i = .pfFaultAnswer ring (answerWord n term) ∧ (ring = 64 ∨ ring = 65)) →
      s.dev.batches = [(ring, n, .strand s.me.fn s.me.lseq s.me.gang s.me.lsn)] →
      ∃ t, exec i s = .next t ∧ t.dev.batches = [] ∧ t.me.status = .run ∧ t.me.susp = none ∧ t.me.regs = s.me.regs ∧
        (term = false → t.me.pc = s.me.pc ∧ t.me.hm = false ∧ t.me.ev = true) ∧
        (term = true → t.me.hm = true ∧ field t.me.tcause 7 0 = 7 ∧ t.me.pc = s.me.thandler ∧ t.me.tval = word x.addr)) ∧
    (∀ i ring v, (i = .faultAnswer fn v ∧ ring = fn) ∨ (i = .pfFaultAnswer ring v ∧ (ring = 64 ∨ ring = 65)) →
      (∀ b ∈ s.dev.batches, ¬(b.1 = ring ∧ b.2.1 = v.toNat / 2)) → exec i s = .next s) ∧
    (served s = true → ∀ v : Word,
      exec (.inv1 fn v) s =
        .next { s with dev := { s.dev with invals := s.dev.invals ++ [⟨fn, 1, (fnOf s fn).inv1.toNat / 4096, v.toNat⟩] } } ∧
      exec (.inv2 fn v) s =
        .next { s with dev := { s.dev with invals := s.dev.invals ++ [⟨fn, 2, (fnOf s fn).inv2.toNat / 4096, v.toNat⟩] } }) ∧
    (∀ x rest, s.dev.invals = x :: rest →
      let mine := fun (st : Strand) => st.status ≠ .free ∧ st.fn = x.fn
      let waits := fun (st : Strand) => st.hpath ≠ [] ∧ (st.det = true ∨ ∃ y ∈ st.hpath, y.held ≠ 0)
      ((∃ st ∈ s.me :: s.others, mine st ∧ waits st) → exec .invalidationCompletion s = .next s) ∧
      ((∀ st ∈ s.me :: s.others, mine st → ¬waits st) →
        ((s.me :: s.others).map fun st => (st.fn, st.lseq, st.gang, st.lsn)).Nodup →
        ∃ t, exec .invalidationCompletion s = .next t ∧ t.dev.invals = rest ∧
          (∀ e, e ∈ t.dev.tlb ↔ e ∈ s.dev.tlb ∧
            ¬(e.fn = x.fn ∧ ((x.stage ≠ 1 ∧ (fnOf s x.fn).s1.getLsbD 0 = true) ∨
              (x.base ≤ (if x.stage = 1 then e.page else e.gpage) ∧
                (if x.stage = 1 then e.page else e.gpage) < x.base + x.count)))) ∧
          ∀ st ∈ t.me :: t.others, mine st → st.hpath = [])) ∧
    (∀ vault frame spare, vault < 512 → frame < 384 → spare < 384 → frame ≠ spare → tget 0 s.dev.erased vault = 0 →
      cwf (vaultDflt s.dev.erased) s.vault = true → (∀ x ∈ s.dev.retired, x.1 ≠ vault * 384 + spare ∧ x.2 ≠ vault * 384 + spare) →
      (∀ x ∈ s.dev.retired, x.1 ≠ vault * 384 + frame) →
      ∃ t, exec (.pageRetirement vault frame spare []) s = .next t ∧ frameOf t (vault * 384 + frame) = vault * 384 + spare ∧
        (∀ o < 2 ^ 21, rget t (.vault ((vault * 384 + spare) * 2 ^ 21 + o)) = rget s (.vault ((vault * 384 + frame) * 2 ^ 21 + o))) ∧
        (∀ k, k / 2 ^ 21 ≠ vault * 384 + frame → k / 2 ^ 21 ≠ vault * 384 + spare → rget t (.vault k) = rget s (.vault k)) ∧
        t.host = s.host ∧ t.spad = s.spad ∧ t.me = s.me) ∧
    ∀ line, exec (.snoop line) s = .next s

/-- R97, R333, R334: a flit that fails its CRC, is not next in its tag's order or comes over a link that is down has no
effect; a fence flit is acknowledged, and an acknowledgement ends a wait; a completion counts for the command that asked, and
the first status other than 0 stands; read records stand where the command that asked reads them, and any others are dropped;
a read request of an accepted package is answered with its records and a completion, a write record is written whole behind
those of its tag and answered, a page that can be served waits for its answer with a batch of the peer, the flit not yet
delivered, and any other fault, as refused traffic, ends with status TRANSLATION; a link that goes down is marked, and what
was asked over it is answered by none. What a stream's tag stands for is a free value (log 19). -/
def Obligations.PeerTraffic : Prop :=
  ∀ (s : State) (link : Nat) (f : Flit),
    (∀ k i, FlitMove k link f i → ¬Arrives s link f k → exec i s = .next s) ∧
    (Arrives s link f 6 → ∃ t, exec (.hjelvorFenceAck link f) s = .next t ∧ Delivered t f ∧
      (∀ x, x ∈ t.dev.fenceWait ↔ x ∈ s.dev.fenceWait ∧ x ≠ f.tag) ∧ t.host = s.host ∧ t.dev.flitsOut = s.dev.flitsOut) ∧
    (Arrives s link f 5 → f.tag < 2 ^ 32 → ∃ t, exec (.hjelvorFenceFlit link f) s = .next t ∧ Delivered t f ∧
      t.dev.flitsOut = s.dev.flitsOut ++ [(link, mkFlit 6 0 (nextSeqOf s f.tag) f.tag [])] ∧ t.host = s.host) ∧
    (Arrives s link f 4 → ∃ t, exec (.hjelvorCompletionFlit link f) s = .next t ∧ Delivered t f ∧
      t.dev.peerDone = s.dev.peerDone ++ [(f.tag, f)] ∧ t.host = s.host ∧
      askedOf t f.tag = (askedOf s f.tag).map fun a =>
        { a with left := a.left - 1, status := if a.status = 0 then Config.completionStatus f.payload else a.status }) ∧
    (Arrives s link f 2 →
      ∃ t, exec (.hjelvorReadRecords link f) s = .next t ∧ Delivered t f ∧ t.host = s.host ∧ t.vault = s.vault ∧
        (askedOf s f.tag = none → t.dev.peer = s.dev.peer) ∧
        ∀ a, askedOf s f.tag = some a →
          let bs := f.payload.take (f.count * a.width)
          askedOf t f.tag = some { a with key := a.key + bs.length } ∧
            (∀ j b, bs[j]? = some b → rget t (.peer (a.key + j)) = b) ∧
            ∀ k, (∀ j, j < bs.length → k ≠ a.key + j) → rget t (.peer k) = rget s (.peer k)) ∧
    (Arrives s link f 1 → f.tag < 2 ^ 32 →
      let r := remoteOf f.tag f.payload
      ∃ t, exec (.hjelvorReadRequest link f) s = .next t ∧
        let turnedAway := Delivered t f ∧
          ∃ n, t.dev.flitsOut = s.dev.flitsOut ++ [(link, mkFlit 4 0 n f.tag (Config.completionPayload 8))]
        (accepts s r.pkg r.fn = false → turnedAway) ∧
        (accepts s r.pkg r.fn = true → match runRead s r.fn false r.addr (r.count * r.width) with
          | .ok bs => Delivered t f ∧ ∃ xs n,
              t.dev.flitsOut = s.dev.flitsOut ++ xs ++ [(link, mkFlit 4 0 n f.tag (Config.completionPayload 0))] ∧
              (∀ x ∈ xs, x.1 = link ∧ x.2.kind = 2 ∧ x.2.tag = f.tag ∧ x.2.payload.length = x.2.count * r.width) ∧
              xs.flatMap (fun x => x.2.payload) = bs
          | .error (.page _ p _) => t.dev.flitsOut = s.dev.flitsOut ∧ t.dev.tagSeq = s.dev.tagSeq ∧
              (waitsAt s link f.tag = true → t = s) ∧
              (waitsAt s link f.tag = false → ∃ a b, t.dev.batches = s.dev.batches ++ [(a, b, .peer link f.tag r.fn p false)])
          | .error _ => turnedAway)) ∧
    (Arrives s link f 3 → f.tag < 2 ^ 32 → f.count = 1 →
      let r := remoteOf f.tag []
      let turnedAway := fun (t : State) => Delivered t f ∧ t.vault = s.vault ∧ t.host = s.host ∧
        ∃ n, t.dev.flitsOut = s.dev.flitsOut ++ [(link, mkFlit 4 0 n f.tag (Config.completionPayload 8))]
      ∃ t, exec (.hjelvorWriteRecords link f) s = .next t ∧
        (accepts s r.pkg r.fn = false → turnedAway t) ∧
        (accepts s r.pkg r.fn = true →
          match runWrite s r.fn false (r.addr + landedOf s f.tag) (f.payload.take r.width) with
          | .ok u => Delivered t f ∧ t.vault = u.vault ∧ t.host = u.host ∧ landedOf t f.tag = landedOf s f.tag + r.width ∧
              ∃ n, t.dev.flitsOut = s.dev.flitsOut ++ [(link, mkFlit 4 0 n f.tag (Config.completionPayload 0))]
          | .error (.page _ p _) => t.vault = s.vault ∧ t.host = s.host ∧ t.dev.tagSeq = s.dev.tagSeq ∧
              (waitsAt s link f.tag = false → ∃ a b, t.dev.batches = s.dev.batches ++ [(a, b, .peer link f.tag r.fn p true)])
          | .error _ => turnedAway t)) ∧
    (link < 12 → (∀ st ∈ s.me :: s.others, st.fifos = []) →
      ∃ t, exec (.linkDown link) s = .next t ∧ t.dev.linksDown = s.dev.linksDown ||| BitVec.ofNat 12 (2 ^ link) ∧
        t.host = s.host ∧ t.spad = s.spad ∧ t.vault = s.vault ∧
        t.dev.asked = s.dev.asked.map fun a => if a.link = link ∧ a.left ≠ 0 then { a with left := 0, status := 8 } else a)

/-- R7, R335, R337 to R341: power-on leaves the host's memory, the flash and the monotonic counter, gives everything else its
reset value, and starts the image in flash where its three conditions hold; LOAD starts one, COMMIT writes it to flash, CONFIG
takes an accepted block, QUOTE writes its quote to the buffer while the attestation key is held, each while no command is in
progress, and a completion clears BUSY with the STATUS; that of LOAD stands once the resets it began have ended, and the image in
the buffer runs then, or is refused; the sensors that strike at once are logged and raise one alarm at the highest of their
levels: at level 2 the tenants named lose their keys, and at level 3 LOCK is set and every key erased; a write that breaks a limit
of LQBASE, LQCTL, BRK, SMPBASE, SMPCTL, TRBASE, TRCTL, THANDLER, TIMES, FRBASE, FRSIZE, PWRSET or the BASE of a fault ring changes
nothing; while the boot ROM runs, or after an alarm of level 3, the mailbox alone is served (R341). R332, R338: DEVSTAT reads as
ALARM, LOCK and FW, and MBSTAT as STATUS and BUSY. Signatures, versions, fields and quotes are free values (log 5), and an image
or a block is refused as log 22 and 23 say. The model's choices: the buffer lies at the untranslated MBADDR (log 42), and a quote
longer than MBLEN is cut to it (log 46). -/
def Obligations.PlatformMoves : Prop :=
  ∀ (s : State),
    (∃ ok, (ok = true ↔ Config.ecdsaOk s.dev.flash = true ∧ Config.lmsOk s.dev.flash = true ∧
        s.dev.counter ≤ Config.imageVersion s.dev.flash) ∧
      exec .powerOn s = .next { State.reset with
        host := s.host, agenda := s.agenda, tick := s.tick, nextId := s.nextId
        dev := { State.reset.dev with
          flash := s.dev.flash, counter := s.dev.counter, fw := ok, image := if ok then s.dev.flash else [] } }) ∧
    (s.dev.mbbusy = true → ∀ i ∈ [Instr.load, .commit, .config, .quote], exec i s = .next s) ∧
    (s.dev.mbbusy = false →
      (∃ t, exec .commit s = .next t ∧ (s.dev.fw = false → Mailed t 2 2 ∧ t.dev.flash = s.dev.flash) ∧
        (s.dev.fw = true → Mailed t 2 0 ∧ t.dev.flash = s.dev.image ∧
          t.dev.counter = max s.dev.counter (Config.imageVersion s.dev.image))) ∧
      (∃ t st, exec .config s = .next t ∧ Mailed t 3 st ∧
        ∀ bs, mailBuffer s = some bs →
          let good := s.dev.fw = true ∧ Config.blockOk s.dev.image bs = true
          (good → s.dev.cfgSeq < Config.cfgField bs 0 → st = 0 ∧ t.dev.cfgSeq = Config.cfgField bs 0 ∧ t.dev.pferr = s.dev.pferr) ∧
          (good → Config.cfgField bs 0 ≤ s.dev.cfgSeq → st = 2 ∧ t.dev.cfgSeq = s.dev.cfgSeq ∧ t.dev.pferr = s.dev.pferr ||| 4) ∧
          (¬good → st = 1 ∧ t.dev.cfgSeq = s.dev.cfgSeq ∧ t.dev.pferr = s.dev.pferr ||| 4)) ∧
      (s.launches = [] → ∃ t st, exec .load s = .next t ∧ Mailed t 1 st ∧ (∀ f < 64, (fnOf t f).flr = true) ∧
        t.dev.fw = s.dev.fw ∧ t.dev.image = s.dev.image) ∧
      ∃ t st, exec .quote s = .next t ∧ Mailed t 4 st ∧
        (∀ bs l, mailBuffer s = some bs → launchFind s (Config.quoteField bs 0) (Config.quoteField bs 1) = some l → l.hashes ≠ [] →
          (s.dev.attKey = false → st = 2) ∧
          (s.dev.attKey = true → st = 0 ∧ ∀ j b, j < s.dev.mblen.toNat → (quoteOf s l (Config.quoteNonce bs))[j]? = some b →
            atCoherence t (.host (s.dev.mbaddr.toNat + j)) = b)) ∧
        (st ≠ 0 → t.host = s.host)) ∧
    (∀ r, s.dev.mbresult = some r →
      let open' := s.dev.mbcmd = 1 ∧ ∃ f < 64, (fnOf s f).flr = true
      (open' → exec .mailboxCompletion s = .next s) ∧
      (¬open' → ∃ t, exec .mailboxCompletion s = .next t ∧ t.dev.mbbusy = false ∧ t.dev.mbresult = none ∧
        t.dev.msix = s.dev.msix ++ [1] ∧
        (s.dev.mbcmd ≠ 1 → t.dev.mbstatus = r ∧ t.dev.fw = s.dev.fw ∧ t.dev.image = s.dev.image) ∧
        (s.dev.mbcmd = 1 → ∀ bs, mailBuffer s = some bs →
          (imageOk s.dev.counter bs = true → t.dev.mbstatus = 0 ∧ t.dev.fw = true ∧ t.dev.image = bs) ∧
          (imageOk s.dev.counter bs = false → t.dev.mbstatus = 1 ∧ t.dev.fw = s.dev.fw ∧ t.dev.image = s.dev.image)))) ∧
    (∀ sensors ts,
      (sensorsOf sensors = [] → exec (.securityAlarm sensors ts) s = .next s) ∧
      (sensorsOf sensors ≠ [] →
        ∃ t level, exec (.securityAlarm sensors ts) s = .next t ∧ 1 ≤ level ∧
          (∀ k ∈ sensorsOf sensors, s.dev.levels.getD k 1 ≤ level) ∧
          (level = 1 ∨ ∃ k ∈ sensorsOf sensors, s.dev.levels.getD k 1 = level) ∧
          t.dev.alarm = max s.dev.alarm level ∧ t.dev.msix = s.dev.msix ++ [0] ∧
          t.dev.sensorLog = s.dev.sensorLog ++ sensorsOf sensors ∧
          (level = 1 → { t with
            dev := { t.dev with alarm := s.dev.alarm, msix := s.dev.msix, sensorLog := s.dev.sensorLog } } = s) ∧
          (2 ≤ level → ∀ x ∈ ts, x ∈ t.dev.noKey) ∧
          (3 ≤ level → t.dev.lock = true ∧ t.dev.attKey = false ∧ t.dev.checkKey = false))) ∧
    (∀ fn (v : Word), fn < 64 → served s = true →
      (v.toNat % 4 = 0 → v.toNat < 2 ^ 56 →
        ∃ t, exec (.registerWrite 64 (0x100020 + 0x100 * fn) v) s = .next t ∧ (fnOf t fn).thandler = v ∧
          ∀ f, f ≠ fn → fnOf t f = fnOf s f) ∧
      ∃ t, exec (.registerWrite fn 0x2000 v) s = .next t ∧ (fnOf t fn).inv1 = v ∧ (∀ f, f ≠ fn → fnOf t f = fnOf s f) ∧
        { t with funcs := s.funcs } = s) ∧
    (∀ fn off v, BreaksLimit s fn off v → exec (.registerWrite fn off v) s = .next s) ∧
    (s.dev.fw = false ∨ s.dev.lock = true → ∀ (fn q off : Nat) (v : Word),
      (¬(fn = 64 ∧ 0x1000 ≤ off ∧ off < 0x1020) → exec (.registerWrite fn off v) s = .next s ∧ readBar s fn off = none) ∧
      ∀ i ∈ [Instr.doorbell fn q (v.setWidth 32), .queueLevelReset fn q, .partmapWrite fn q v, .tenantWrite fn v, .faultAnswer fn v,
          .pfFaultAnswer fn v, .inv1 fn v, .inv2 fn v, .debugResume fn, .smplostRead fn, .trenClear fn], exec i s = .next s) ∧
    (served s = true → s.dev.alarm < 4 →
      readBar s 64 0 = some (word (2 ^ 6 * s.dev.alarm + (if s.dev.lock then 2 ^ 5 else 0) + if s.dev.fw then 1 else 0))) ∧
    (s.dev.mbstatus < 2 ^ 8 → readBar s 64 0x1008 = some (word (2 ^ 8 * s.dev.mbstatus + if s.dev.mbbusy then 1 else 0)))

/-- R63, R77, R321 to R323, R326, R327: DEBUG_RESUME releases the halted gangs of a function; a read of SMPLOST clears it, and
clearing TREN ends an open session; a write of TRSIG by a traced strand signals START and STOP; an illegal word raises cause 0x01
with the word, and the fetch at a misaligned PC cause 0x03, at an address outside host space cause 0x04. -/
def Obligations.DebugAndFetchMoves : Prop :=
  ∀ (s : State) (fn : Nat), fn < 64 →
    (served s = true →
      (∃ t, exec (.debugResume fn) s = .next t ∧ (debugOf t fn).halted = false ∧ (∀ g ∈ t.gangs, g.fn = fn → g.halted = false) ∧
        ((∀ st ∈ s.me :: s.others, st.susp = none) → t.spad = s.spad ∧ t.host = s.host ∧
          (s.me.fn = fn → s.me.status = .halted ∨ s.me.status = .halting → t.me.status = .run ∧ t.me.pc = s.me.pc ∧ t.me.regs = s.me.regs))) ∧
      (∃ t, exec (.smplostRead fn) s = .next t ∧ (fnOf t fn).debug = { (fnOf s fn).debug with smplost := 0 } ∧
        (∀ f, f ≠ fn → fnOf t f = fnOf s f) ∧ { t with funcs := s.funcs } = s) ∧
      ∃ t, exec (.trenClear fn) s = .next t ∧ (debugOf t fn).tren = false ∧ (debugOf t fn).sessionOpen = false ∧
        t.me = s.me ∧ t.spad = s.spad) ∧
    (∀ v : Word, Running s →
      (traced s = false → exec (.trsigWrite v) s = .next s) ∧
      (traced s = true → ∃ t, exec (.trsigWrite v) s = .next t ∧ { t with trev := s.trev } = s ∧
        t.trev.length = s.trev.length + v.toNat % 2 + v.toNat / 2 % 2)) ∧
    (Running s → s.me.hm = false →
      (∀ w : BitVec 32, exec (.illegalInstruction w) s = .next (takeTrap 1 0 false false s.me.pc (w.setWidth 64) s)) ∧
      (s.me.pc.toNat % 4 ≠ 0 →
        exec .instructionFetchFault s = .next (takeTrap 3 0 false false s.me.pc s.me.pc s)) ∧
      (s.me.pc.toNat % 4 = 0 → 2 ^ 56 ≤ s.me.pc.toNat →
        exec .instructionFetchFault s = .next (takeTrap 4 0 false false s.me.pc s.me.pc s)))

namespace Sys2Proof.Claims

open Sys2Proof Sys2Proof.Machine

/-- Nothing holds the strand that has the turn back: no agenda, no round of the device, no drain point, no END that waits, no
WFE that has just ended, no built-in handler, no fetch breakpoint at its PC (R22, R78, R99, R280, R282, R322). -/
def Issues (s : State) : Prop :=
  s.agenda = [] ∧ roundDue s = false ∧ Running s ∧ s.me.stand = none ∧ s.me.ending = false ∧ s.me.woke = false ∧
    (s.me.hm = true → s.me.thandler ≠ 0) ∧ brkHit s 1 s.me.pc = false

/-- The four bytes at a system physical address. -/
def wordBytes (s : State) (pa : Nat) : List Byte := (List.range 4).map fun j => atCoherence s (.host (pa + j))

/-- The stores that a strand's buffers and its path hold, its region, and the numbers of its entries. -/
def WaitingOk (s : State) (st : Strand) : Prop :=
  StoresInOrder st ∧ (∀ x ∈ st.kept, x.late = none → ((x.bytes.map Prod.fst).headD 0) % 256 + x.bytes.length ≤ 256) ∧
    st.spBase % 4096 = 0 ∧ (∀ b ∈ st.vctx.bufs, b.entry < s.nextId) ∧
    ∀ e ∈ st.vctx.queue ++ st.dumped, e.id < s.nextId

/-- What waits in every strand is in order, and every region begins at a page. -/
def WaitingInv (s : State) : Prop :=
  (∀ st ∈ s.me :: s.others, WaitingOk s st) ∧ ∀ g ∈ s.gangs, ∀ m ∈ g.members, m.base % 4096 = 0

end Sys2Proof.Claims

/-! ## Words, steps and invariants -/

/-- R65 to R77: the decoder reads back the word of every well-formed instruction, whatever follows it, and it accepts no other
word: what it reads from a word is a well-formed instruction whose word that is. -/
def Obligations.DecodeEncodeAgree : Prop :=
  (∀ (i : Instr) (rest : List Byte), i.wellFormed = true →
    decodeNat (encodeNat i) = .ok i ∧ encodeNat i < 2 ^ 32 ∧ encodeNat i ≠ 0 ∧ decodeBytes (encodeBytes i ++ rest) = .ok (i, rest)) ∧
  (∀ (w : Nat) (i : Instr), decodeNat w = .ok i → i.wellFormed = true ∧ encodeNat i = w) ∧
  ∀ i j : Instr, i.wellFormed = true → j.wellFormed = true → encodeNat i = encodeNat j → i = j

/-- Words of the chapters' encoding tables decode to the instructions they stand for, and the words that the tables call
illegal, and the word 0, to none. -/
def Obligations.SpecWordsDecode : Prop :=
  decodeNat 0x00000003 = .ok (.addi 0 0 0) ∧ decodeNat 0x00D8B502 = .ok (.bfx 10 11 12) ∧ decodeNat 0x00010089 = .ok (.jal 1 16) ∧
    decodeNat 0x0022400D = .ok (.syswr 4 2) ∧ decodeNat 0x0066600D = .ok (.sysclr 6 6) ∧ decodeNat 0x0070000E = .ok (.trap 7) ∧
    decodeNat 0x0002000E = .ok .eret ∧ decodeNat 0x000C400E = .ok (.vsave 4) ∧ decodeNat 0x00004290 = .ok (.vsetl 5 4 0) ∧
    decodeNat 0x00823125 = .ok (.vsllVi 2 1 3 ⟨0, 0, 0, 1⟩) ∧ decodeNat 0x00004440 = .ok (.vld 8 4 0) ∧
    decodeNat 0x00B0004D = .ok (.fence 1 3) ∧ decodeNat 0x00815051 = .ok (.rdstr 21 0 2) ∧
    decodeNat 0x0002E162 = .ok (.mxv 2 14 1 0 0 0) ∧ decodeNat 0x001784ED = .ok (.pwchk 9 24 11) ∧
    ∀ w ∈ [0, 0x0010438D, 0x0070008E, 0x0014000E, 0xC0000063, 0x80000060, 0x800002E6, 0x008042E0], (decodeNat w).toOption = none

/-- R63, R66, R78: where nothing holds a strand back, its PC is aligned and in host space and its page may be fetched, a step runs
the instruction that the four bytes there decode to, unless it waits at issue, a word whose vector or system register does not
exist with no event of its issue; that every other word counts as issued is the model's choice (log 87). The step then settles
the turn, a commit breakpoint, the stops that stood over and the trace clock; with none of these armed the step's next state is
that of the instruction, one clock later. An event of the device at the head of the agenda runs as itself, with the trace clock after it (log 2). -/
def Obligations.StepRunsDecoded : Prop :=
  ∀ (s : State) (i : Instr),
    let s0 := { s with defer := false, beat := s.beat + 1 }
    (∀ pa g r w x, Issues s → s.me.pc.toNat % 4 = 0 → s.me.pc.toNat < 2 ^ 56 →
      translate s s.me.fn s.me.pc.toNat .fetch = .ok pa g r w x → decodeBytes (wordBytes s pa) = .ok (i, []) →
      lacksQueue i s0 = false → waits i s0 = false →
      (noInstr i s0 = true → step s = thenMove (afterMove s0) (exec i (noteFetch pa s0))) ∧
      (noInstr i s0 = false →
        step s = thenMove (fun t => afterMove s0 (commitScalar s0 i t)) (exec i (issued pa s0)) ∧
        ∀ t, exec i (issued pa s0) = .next t → brkHit s 2 s.me.pc = false → t.trev = [] → (∀ g ∈ t.gangs, g.stopping = false) →
          (∀ st ∈ t.others, st.status ≠ .halting) → Running t → t.me.core = s.me.core →
          step s = .next { t with traceT := t.traceT + 1 })) ∧
    (∀ rest, s.agenda = .event i :: rest → encodeNat i = 0 → (∀ d a b, i ≠ .add d a b) → (∀ w, i ≠ .illegalInstruction w) →
      i ≠ .instructionFetchFault → step s = thenMove closeMove (exec i { s with agenda := rest, defer := false }))

/-- In the model (log 2) a step always has a next state: it never faults and never refuses. -/
def Obligations.StepNeverStops : Prop := ∀ s : State, ∃ t, step s = .next t

/-- R6, R335, R343, Tables 13.2, 13.3, 17.1, 17.2, 18.4, 19.2, 19.3, 19.5, 19.7 and 19.10: after power-on no image runs, no launch
exists and no strand is placed, every Hearth has its 16 macros and 256 rows free and its duty at 8, and every register of a function's
BAR, of the physical function's and of its configuration reads as its table's Reset value. Each sequence is FREE. Memory that nothing
has written reads as zero, and the registers of a free strand slot hold zero, but for ISSUE, which is 8, the scales, which are 1.0,
and m0, which reads ones: the model's choices (log 1, log 3). -/
def Obligations.ResetState : Prop :=
  let s := State.reset
  s.dev.fw = false ∧ s.dev.lock = false ∧ s.dev.alarm = 0 ∧ s.dev.pferr = 0 ∧ s.launches = [] ∧ s.gangs = [] ∧
    s.me.status = .free ∧ s.others = [] ∧ MemoryOk s ∧ (∀ l, atCoherence s l = 0) ∧
    (∀ c, freeMacros (hearthOf s c) = 16 ∧ (∀ j, height s j = 0) ∧ freeRows s c = 256 ∧ (hearthOf s c).duty = 8) ∧
    (∀ f off, readVf s f off = 0) ∧
    (∀ f r, readConfig s f r = if r = 0x28 then word (200 * 2 ^ 48 + 100 * 2 ^ 32 + 1000 * 2 ^ 16 + 512) else 0) ∧
    (∀ f r, readContext s f r = 0) ∧ (∀ n r, readWindow s n r = 0) ∧ (∀ r, readRing s.dev.retry r = 0 ∧ readRing s.dev.term r = 0) ∧
    (∀ off, off ≠ 0x208 → readPfReg s off = if off = 0x200 then 2200 else 0) ∧ field (readPfReg s 0x208) 63 16 = 0 ∧
    s.dev.dispLc = 8 ∧ s.dev.dispIssue = 8 ∧ s.dev.levels = [2, 2, 1, 1, 2] ∧ s.dev.linksDown = 0 ∧ s.dev.tlb = [] ∧
    s.dev.attKey = true ∧ s.dev.checkKey = true ∧ s.dev.noKey = [] ∧ s.dev.mbbusy = false ∧
    (∀ f, (fnOf s f).nextSeq = 1 ∧ (fnOf s f).flr = false ∧ (fnOf s f).held = []) ∧
    (∀ r, reg s r = 0) ∧ s.me.pc = 0 ∧ s.me.hm = false ∧ s.me.vown = false ∧ s.me.qstop = false ∧ s.me.ev = false ∧ s.me.det = false ∧
    s.me.xflags = 0 ∧ s.me.tcause = 0 ∧ s.me.tepc = 0 ∧ s.me.tval = 0 ∧ s.me.thandler = 0 ∧ s.me.ctxarea = 0 ∧
    (∀ k : Fin 4, s.me.tscr[k] = 0 ∧ s.me.cspec[k] = 0) ∧ s.me.vpsel = 0 ∧ s.me.notify = 0 ∧ s.me.pwstat = 0 ∧ s.me.pwctl = 0 ∧
    s.me.issue = 8 ∧ s.me.handles = [] ∧ s.me.fifos = [] ∧ s.me.accRows = 0 ∧ (∀ r c, acc s r c = 0) ∧
    s.me.vctx.vshape = 0 ∧ s.me.vctx.vl = 0 ∧ s.me.vctx.mvl = 0 ∧ s.me.vctx.mfcr = 0 ∧ s.me.vctx.didx = 0 ∧
    (∀ d k, velem s d k = 0) ∧ (∀ m k, mbit s m k = decide (m = 0)) ∧ (∀ k b, scale s k b = 0x3F800000) ∧
    (∀ k, cget zeros s.census k = 0) ∧ (∀ k, seqAt s k = Seq.reset)

/-- The memories of the device keep their canonical form under every step: host memory and the scratchpads list rising addresses and
no byte that an unlisted address reads as. -/
def Obligations.MemoryStaysCanonical : Prop := ∀ s t : State, MemoryOk s → step s = .next t → MemoryOk t

/-- Under every step each strand's write-combining lines stay one a line, for each number of VFENCEs that they wait for, with
their bytes in ascending order within it (R81, R93), its host stores name each byte once (R91), its region begins at a page
(R32), and its buffers and entries bear numbers already given. -/
def Obligations.WaitingStaysOrdered : Prop := ∀ s t : State, WaitingInv s → step s = .next t → WaitingInv t
end

