-- ==== Sys2Proof/Laws/Cells.lean ====
section
/-! SUPPORT. Sparse storage: every operation keeps the canonical form, and a read after a write gives what was written
there and what was there before elsewhere. -/

namespace Sys2Proof.Machine

variable {w : Nat} {dflt : Nat → BitVec w}

/-! ### The canonical form -/

/-- The canonical form of a list whose indices begin at lo or later. -/
def cwfAt (dflt : Nat → BitVec w) (lo : Nat) : Cells w → Bool
  | [] => true
  | (k, v) :: t => decide (lo ≤ k) && v != dflt k && cwfAt dflt (k + 1) t

theorem cwfFrom_some (l : Nat) (m : Cells w) : cwfFrom dflt (some l) m = cwfAt dflt (l + 1) m := by
  induction m generalizing l with
  | nil => rfl
  | cons c t ih => simp [cwfFrom, cwfAt, ih]

/-- The canonical form, with the bound of every index written out. -/
theorem cwf_eq (m : Cells w) : cwf dflt m = cwfAt dflt 0 m := by
  cases m with
  | nil => rfl
  | cons c t => simp [cwf, cwfFrom, cwfAt, cwfFrom_some]

theorem cwfAt_mono {a b : Nat} (h : a ≤ b) : ∀ {m : Cells w}, cwfAt dflt b m = true → cwfAt dflt a m = true
  | [], _ => rfl
  | (k, v) :: t, hm => by
    simp only [cwfAt, Bool.and_eq_true, decide_eq_true_eq] at hm ⊢
    exact ⟨⟨h.trans hm.1.1, hm.1.2⟩, hm.2⟩

theorem filter_cwfAt (p : Nat × BitVec w → Bool) :
    ∀ {lo : Nat} {m : Cells w}, cwfAt dflt lo m = true → cwfAt dflt lo (m.filter p) = true
  | _, [], _ => rfl
  | lo, (k, v) :: t, hm => by
    simp only [cwfAt, Bool.and_eq_true, decide_eq_true_eq] at hm
    have ih := filter_cwfAt p hm.2
    rw [List.filter_cons]
    split
    · simp_all [cwfAt]
    · exact cwfAt_mono (by omega) ih

theorem cset_cwfAt {lo i : Nat} (hi : lo ≤ i) (x : BitVec w) :
    ∀ {m : Cells w}, cwfAt dflt lo m = true → cwfAt dflt lo (cset dflt m i x) = true
  | [], _ => by
    unfold cset
    split
    · rfl
    · simp_all [cwfAt]
  | (k, v) :: t, hm => by
    simp only [cwfAt, Bool.and_eq_true, decide_eq_true_eq, bne_iff_ne] at hm
    obtain ⟨⟨hk, hv⟩, ht⟩ := hm
    unfold cset
    split
    · rename_i hlt
      split
      · simp [cwfAt, hk, hv, filter_cwfAt, ht, cdel]
      · simp_all [cwfAt]
    · split
      · rename_i he
        subst he
        split
        · exact cwfAt_mono (by omega) (filter_cwfAt _ ht)
        · simp_all [cwfAt]
      · have := cset_cwfAt (lo := k + 1) (i := i) (by omega) x ht
        simp [cwfAt, hk, hv, this]

/-- A write keeps the canonical form. -/
theorem cset_cwf {m : Cells w} (i : Nat) (x : BitVec w) (h : cwf dflt m = true) : cwf dflt (cset dflt m i x) = true := by
  rw [cwf_eq] at h ⊢
  exact cset_cwfAt (Nat.zero_le i) x h

/-- Consecutive writes keep the canonical form. -/
theorem csets_cwf (xs : List (BitVec w)) : ∀ {m : Cells w} (a : Nat), cwf dflt m = true → cwf dflt (csets dflt m a xs) = true := by
  induction xs with
  | nil => intro m a h; exact h
  | cons x t ih => intro m a h; exact ih (a + 1) (cset_cwf a x h)

/-- Part of a canonical list is canonical. -/
theorem filter_cwf (p : Nat × BitVec w → Bool) {m : Cells w} (h : cwf dflt m = true) : cwf dflt (m.filter p) = true := by
  rw [cwf_eq] at h ⊢
  exact filter_cwfAt p h

/-- Clearing a range keeps the canonical form. -/
theorem cclear_cwf (lo n : Nat) {m : Cells w} (h : cwf dflt m = true) : cwf dflt (cclear lo n m) = true := filter_cwf _ h

theorem cnorm_cwfAt : ∀ (lo : Nat) (m : Cells w), cwfAt dflt lo (cnorm dflt lo m) = true
  | _, [] => rfl
  | lo, (k, v) :: t => by
    unfold cnorm
    split
    · rename_i h
      simp [cwfAt, h.1, h.2, cnorm_cwfAt (k + 1) t]
    · exact cnorm_cwfAt lo t

/-- Every index of a list below b. -/
def below (b : Nat) (m : Cells w) : Prop := ∀ c ∈ m, c.1 < b

theorem append_cwfAt {b : Nat} : ∀ {lo : Nat} {m m' : Cells w}, lo ≤ b → cwfAt dflt lo m = true → below b m → cwfAt dflt b m' = true →
    cwfAt dflt lo (m ++ m') = true
  | _, [], _, hl, _, _, h' => cwfAt_mono hl h'
  | lo, (k, v) :: t, m', _, hm, hb, h' => by
    simp only [cwfAt, Bool.and_eq_true, decide_eq_true_eq] at hm
    have hk : k < b := hb (k, v) (by simp)
    have := append_cwfAt (m' := m') (by omega : k + 1 ≤ b) hm.2 (fun c hc => hb c (by simp [hc])) h'
    simp_all [cwfAt]

theorem cnorm_mem : ∀ (lo : Nat) (m : Cells w) {c}, c ∈ cnorm dflt lo m → c ∈ m
  | _, [], c, h => h
  | lo, (k, v) :: t, c, h => by
    unfold cnorm at h
    split at h
    · rcases List.mem_cons.mp h with h | h
      · simp [h]
      · exact List.mem_cons_of_mem _ (cnorm_mem (k + 1) t h)
    · exact List.mem_cons_of_mem _ (cnorm_mem lo t h)

theorem dropBelow_cwfAt (b : Nat) : ∀ {lo : Nat} {m : Cells w}, cwfAt dflt lo m = true →
    cwfAt dflt b (m.filter fun c => decide (b ≤ c.1)) = true
  | _, [], _ => rfl
  | lo, (k, v) :: t, hm => by
    simp only [cwfAt, Bool.and_eq_true, decide_eq_true_eq] at hm
    rw [List.filter_cons]
    split
    · rename_i h
      have h : b ≤ k := by simpa using h
      have := filter_cwfAt (fun c => decide (b ≤ c.1)) hm.2
      simp_all [cwfAt]
    · exact dropBelow_cwfAt b hm.2

/-- Replacing a range by a part of any list keeps the canonical form. -/
theorem csplice_cwf {m : Cells w} (base n : Nat) (src : Cells w) (lo : Nat) (h : cwf dflt m = true) :
    cwf dflt (csplice dflt m base n src lo) = true := by
  rw [cwf_eq] at h ⊢
  unfold csplice
  rw [List.append_assoc]
  refine append_cwfAt (b := base) (Nat.zero_le _) (filter_cwfAt _ h) (fun c hc => by simpa using (List.mem_filter.mp hc).2) ?_
  refine append_cwfAt (b := base + n) (Nat.le_add_right _ _) (cnorm_cwfAt _ _) (fun c hc => ?_) (dropBelow_cwfAt _ h)
  have := cnorm_mem _ _ hc
  simp only [cslice, List.mem_map, List.mem_filter, Bool.and_eq_true, decide_eq_true_eq] at this
  obtain ⟨a, ⟨-, h1, h2⟩, rfl⟩ := this
  simp only
  omega

/-! ### Reads after writes -/

theorem cget_cdel (i j : Nat) : ∀ m : Cells w, cget dflt (cdel i m) j = if j = i then dflt j else cget dflt m j
  | [] => by simp [cdel, cget]
  | (k, v) :: t => by
    have ih := cget_cdel i j t
    unfold cdel at ih ⊢
    rw [List.filter_cons]
    by_cases hk : k = i
    · subst hk
      simp only [bne_self_eq_false, Bool.false_eq_true, if_false, ih]
      by_cases hj : j = k
      · simp [hj]
      · simp [hj, cget, Ne.symm hj]
    · rw [if_pos (by simpa using hk)]
      simp only [cget, ih]
      by_cases hj : k = j
      · subst hj; simp [hk]
      · simp [hj]

/-- A read after a write gives the value written there, and elsewhere what it gave before. -/
theorem cget_cset (i j : Nat) (x : BitVec w) : ∀ m : Cells w,
    cget dflt (cset dflt m i x) j = if j = i then x else cget dflt m j
  | [] => by
    unfold cset
    split
    · rename_i h
      by_cases hj : j = i
      · subst hj; simp [cget, h]
      · simp [cget, hj]
    · by_cases hj : j = i
      · subst hj; simp [cget]
      · simp [cget, hj, Ne.symm hj]
  | (k, v) :: t => by
    have ih := cget_cset i j x t
    unfold cset
    by_cases hj : j = i
    · subst hj
      split
      · split
        · rename_i h1 h2
          simp [cget, cget_cdel, h2, Nat.ne_of_gt h1]
        · simp [cget]
      · split
        · split
          · rename_i h2
            simp [cget_cdel, h2]
          · simp [cget]
        · rename_i h1 h2
          simp [cget, ih, Ne.symm h2]
    · split
      · split
        · simp [cget, cget_cdel, hj]
        · simp [cget, Ne.symm hj]
      · split
        · rename_i he
          subst he
          split
          · simp [cget, cget_cdel, hj, Ne.symm hj]
          · simp [cget, Ne.symm hj]
        · simp [cget, ih, hj]

/-- A read after consecutive writes. -/
theorem cget_csets (xs : List (BitVec w)) : ∀ (m : Cells w) (a j : Nat),
    cget dflt (csets dflt m a xs) j =
      if a ≤ j ∧ j < a + xs.length then xs.getD (j - a) 0 else cget dflt m j := by
  induction xs with
  | nil => intro m a j; simp [csets, show ¬(a ≤ j ∧ j < a) by omega]
  | cons x t ih =>
    intro m a j
    rw [csets, ih, cget_cset]
    simp only [List.length_cons]
    by_cases h1 : j = a
    · subst h1
      simp
    · by_cases h2 : a + 1 ≤ j ∧ j < a + 1 + t.length
      · rw [if_pos h2, if_pos (by omega)]
        have : j - a = (j - (a + 1)) + 1 := by omega
        rw [this]
        simp
      · rw [if_neg h2, if_neg h1, if_neg (by omega)]

/-- Clearing a range leaves its indices unlisted, and every other index as it was. -/
theorem cget_cclear (lo n j : Nat) : ∀ (m : Cells w),
    cget dflt (cclear lo n m) j = if lo ≤ j ∧ j < lo + n then dflt j else cget dflt m j := by
  intro m
  induction m with
  | nil => simp [cclear, cget]
  | cons c t ih =>
    obtain ⟨k, v⟩ := c
    unfold cclear at ih ⊢
    rw [List.filter_cons]
    split
    · rename_i hk
      simp only [Bool.or_eq_true, decide_eq_true_eq] at hk
      simp only [cget]
      rw [ih]
      by_cases hj : k = j
      · subst hj; rw [if_pos rfl, if_neg (by omega), if_pos rfl]
      · rw [if_neg hj, if_neg hj]
    · rename_i hk
      simp only [Bool.or_eq_true, decide_eq_true_eq] at hk
      rw [ih]
      by_cases hj : k = j
      · subst hj
        rw [if_pos (by omega), if_pos (by omega)]
      · simp [cget, hj]

/-! ### Memories -/

/-- The empty memory is canonical. -/
theorem Memory.wf_nil : Memory.wf [] = true := rfl

theorem Memory.wf_cset {m : List Host.Cell} (i : Nat) (x : Byte) (h : Memory.wf m = true) :
    Memory.wf (cset zeros m i x) = true := cset_cwf i x h

theorem Memory.wf_csets {m : List Host.Cell} (a : Nat) (xs : List Byte) (h : Memory.wf m = true) :
    Memory.wf (csets zeros m a xs) = true := csets_cwf xs a h

theorem Memory.wf_cclear {m : List Host.Cell} (a n : Nat) (h : Memory.wf m = true) :
    Memory.wf (cclear a n m) = true := cclear_cwf a n h

theorem Memory.wf_csplice {m : List Host.Cell} (base n : Nat) (src : Cells 8) (lo : Nat) (h : Memory.wf m = true) :
    Memory.wf (csplice zeros m base n src lo) = true := csplice_cwf base n src lo h

/-- Stores that wait keep the canonical form when they are performed. -/
theorem Memory.wf_putBytes (bs : List (Nat × PByte)) : ∀ {m : List Host.Cell}, Memory.wf m = true → Memory.wf (putBytes m bs) = true := by
  induction bs with
  | nil => intro m h; exact h
  | cons b t ih => intro m h; exact ih (Memory.wf_cset _ _ h)

/-- A list of operations that each keep the canonical form keeps it. -/
theorem Memory.wf_foldl {α : Type} (f : List Host.Cell → α → List Host.Cell)
    (hf : ∀ m a, Memory.wf m = true → Memory.wf (f m a) = true) (l : List α) :
    ∀ {m : List Host.Cell}, Memory.wf m = true → Memory.wf (l.foldl f m) = true := by
  induction l with
  | nil => intro m h; exact h
  | cons a t ih => intro m h; exact ih (hf m a h)

/-- An access performed at its point of coherence keeps the canonical form. -/
theorem Memory.wf_lateMem {m : List Host.Cell} (x : Late) (h : Memory.wf m = true) : Memory.wf (lateMem m x) = true := by
  unfold lateMem
  dsimp only
  split
  · exact Memory.wf_csets _ _ h
  · exact Memory.wf_csets _ _ h
  · split
    · exact Memory.wf_csets _ _ h
    · exact h
  · exact h

/-- A request served keeps the canonical form. -/
theorem Memory.wf_reqMem {m : List Host.Cell} (r : NetReq) (h : Memory.wf m = true) : Memory.wf (reqMem m r) = true := by
  unfold reqMem
  split
  · exact h
  · exact Memory.wf_lateMem _ h
  · exact Memory.wf_putBytes _ h

end Sys2Proof.Machine
end

