-- ==== Sys2Proof/Laws/PerInstr.lean ====
section
/-! SUPPORT. The family WordRoundTrip: the word of every instruction, its fields at every value, names its major and
sub-code and gives back each of its fields (Tables 3.1, 3.4 and 3.5). -/


namespace Sys2Proof.Laws

set_option Elab.async false

/-- The word of a well-formed instruction is a nonzero word of 32 bits from which the decoder's tables read that
instruction. -/
def WordRoundTrip.Statement (i : Instr) : Prop :=
  i.wellFormed = true → rawDecode (encodeNat i) = some i ∧ encodeNat i ≠ 0 ∧ encodeNat i < 2 ^ 32

/-- A field whose bits are those of x is x. -/
theorem fld_lit {n : Nat} (w lo : Nat) (x : BitVec n) (p q : Nat) (hp : p = 2 ^ lo) (hq : q = 2 ^ n)
    (h : w / p % q = x.toNat) : fld w lo n = x := by
  subst hp hq
  exact BitVec.eq_of_toNat_eq (by simpa [fld] using h)

/-- A fixed part of a word, with the powers of two written out. -/
theorem bits_lit (w lo n v p q : Nat) (hp : p = 2 ^ lo) (hq : q = 2 ^ n) (h : w / p % q = v) : bitsOf w lo n = v := by
  subst hp hq
  exact h

theorem raw_00 (w : Nat) (h : bitsOf w 0 7 = 0x00) : rawDecode w = rawMajor00 w := by simp only [rawDecode, h]

theorem raw_01 (w : Nat) (h : bitsOf w 0 7 = 0x01) : rawDecode w = rawMajor01 w := by simp only [rawDecode, h]

theorem raw_02 (w : Nat) (h : bitsOf w 0 7 = 0x02) : rawDecode w = rawMajor02 w := by simp only [rawDecode, h]

theorem raw_03 (w : Nat) (h : bitsOf w 0 7 = 0x03) : rawDecode w = rawMajor03 w := by simp only [rawDecode, h]

theorem raw_04 (w : Nat) (h : bitsOf w 0 7 = 0x04) : rawDecode w = some (.lui (fld w 7 5) (fld w 12 20)) := by simp only [rawDecode, h]

theorem raw_05 (w : Nat) (h : bitsOf w 0 7 = 0x05) : rawDecode w = some (.auipc (fld w 7 5) (fld w 12 20)) := by simp only [rawDecode, h]

theorem raw_06 (w : Nat) (h : bitsOf w 0 7 = 0x06) : rawDecode w = some (.ld (fld w 7 5) (fld w 12 5) (fld w 20 12) (fld w 17 3)) := by simp only [rawDecode, h]

theorem raw_07 (w : Nat) (h : bitsOf w 0 7 = 0x07) : rawDecode w = some (.st (fld w 12 5) (fld w 17 5) (fld w 25 7) (fld w 22 2) (fld w 7 5)) := by simp only [rawDecode, h]

theorem raw_08 (w : Nat) (h : bitsOf w 0 7 = 0x08) : rawDecode w = rawMajor08 w := by simp only [rawDecode, h]

theorem raw_09 (w : Nat) (h : bitsOf w 0 7 = 0x09) : rawDecode w = some (.jal (fld w 7 5) (fld w 12 20)) := by simp only [rawDecode, h]

theorem raw_0A (w : Nat) (h : bitsOf w 0 7 = 0x0A) : rawDecode w = some (.jalr (fld w 7 5) (fld w 12 5) (fld w 20 12)) := by simp only [rawDecode, h]

theorem raw_0B (w : Nat) (h : bitsOf w 0 7 = 0x0B) : rawDecode w = some (.amo (fld w 7 5) (fld w 12 5) (fld w 17 5) (fld w 29 3) (fld w 25 4) (fld w 23 2) (fld w 22 1)) := by simp only [rawDecode, h]

theorem raw_0C (w : Nat) (h : bitsOf w 0 7 = 0x0C) : rawDecode w = some (.cas (fld w 7 5) (fld w 12 5) (fld w 17 5) (fld w 29 3) (fld w 23 2) (fld w 22 1)) := by simp only [rawDecode, h]

theorem raw_0D (w : Nat) (h : bitsOf w 0 7 = 0x0D) : rawDecode w = rawMajor0D w := by simp only [rawDecode, h]

theorem raw_0E (w : Nat) (h : bitsOf w 0 7 = 0x0E) : rawDecode w = rawMajor0E w := by simp only [rawDecode, h]

theorem raw_10 (w : Nat) (h : bitsOf w 0 7 = 0x10) : rawDecode w = some (.vsetl (fld w 7 5) (fld w 12 5) (fld w 20 12)) := by simp only [rawDecode, h]

theorem raw_11 (w : Nat) (h : bitsOf w 0 7 = 0x11) : rawDecode w = some (.vcfg (fld w 7 5) (fld w 12 5)) := by simp only [rawDecode, h]

theorem raw_12 (w : Nat) (h : bitsOf w 0 7 = 0x12) : rawDecode w = some (.vregs (fld w 20 12)) := by simp only [rawDecode, h]

theorem raw_13 (w : Nat) (h : bitsOf w 0 7 = 0x13) : rawDecode w = rawMajor13 w := by simp only [rawDecode, h]

theorem raw_20 (w : Nat) (h : bitsOf w 0 7 = 0x20) : rawDecode w = rawMajor20 w := by simp only [rawDecode, h]

theorem raw_21 (w : Nat) (h : bitsOf w 0 7 = 0x21) : rawDecode w = rawMajor21 w := by simp only [rawDecode, h]

theorem raw_22 (w : Nat) (h : bitsOf w 0 7 = 0x22) : rawDecode w = rawMajor22 w := by simp only [rawDecode, h]

theorem raw_23 (w : Nat) (h : bitsOf w 0 7 = 0x23) : rawDecode w = rawMajor23 w := by simp only [rawDecode, h]

theorem raw_24 (w : Nat) (h : bitsOf w 0 7 = 0x24) : rawDecode w = rawMajor24 w := by simp only [rawDecode, h]

theorem raw_25 (w : Nat) (h : bitsOf w 0 7 = 0x25) : rawDecode w = rawMajor25 w := by simp only [rawDecode, h]

theorem raw_26 (w : Nat) (h : bitsOf w 0 7 = 0x26) : rawDecode w = rawMajor26 w := by simp only [rawDecode, h]

theorem raw_27 (w : Nat) (h : bitsOf w 0 7 = 0x27) : rawDecode w = rawMajor27 w := by simp only [rawDecode, h]

theorem raw_28 (w : Nat) (h : bitsOf w 0 7 = 0x28) : rawDecode w = some (.vcmp (fld w 7 5) (fld w 12 5) (fld w 17 5) (fld w 29 3) (vmodOf w)) := by simp only [rawDecode, h]

theorem raw_29 (w : Nat) (h : bitsOf w 0 7 = 0x29) : rawDecode w = some (.vcmpVs (fld w 7 5) (fld w 12 5) (fld w 17 5) (fld w 29 3) (smodOf w)) := by simp only [rawDecode, h]

theorem raw_2A (w : Nat) (h : bitsOf w 0 7 = 0x2A) : rawDecode w = some (.vcmpVi (fld w 7 5) (fld w 17 5) (fld w 29 3) (fld w 12 5) (smodOf w)) := by simp only [rawDecode, h]

theorem raw_2B (w : Nat) (h : bitsOf w 0 7 = 0x2B) : rawDecode w = rawMajor2B w := by simp only [rawDecode, h]

theorem raw_2C (w : Nat) (h : bitsOf w 0 7 = 0x2C) : rawDecode w = rawMajor2C w := by simp only [rawDecode, h]

theorem raw_2D (w : Nat) (h : bitsOf w 0 7 = 0x2D) : rawDecode w = rawMajor2D w := by simp only [rawDecode, h]

theorem raw_30 (w : Nat) (h : bitsOf w 0 7 = 0x30) : rawDecode w = some (.vcvtw (fld w 7 5) (fld w 17 5) (fld w 29 3) (smodOf w)) := by simp only [rawDecode, h]

theorem raw_31 (w : Nat) (h : bitsOf w 0 7 = 0x31) : rawDecode w = some (.vcvtn (fld w 7 5) (fld w 17 5) (fld w 29 3) (smodOf w)) := by simp only [rawDecode, h]

theorem raw_32 (w : Nat) (h : bitsOf w 0 7 = 0x32) : rawDecode w = some (.vcvti (fld w 7 5) (fld w 17 5) (fld w 29 3) (smodOf w)) := by simp only [rawDecode, h]

theorem raw_33 (w : Nat) (h : bitsOf w 0 7 = 0x33) : rawDecode w = some (.vcvtf4 (fld w 7 5) (fld w 17 5) (fld w 29 3) (smodOf w)) := by simp only [rawDecode, h]

theorem raw_34 (w : Nat) (h : bitsOf w 0 7 = 0x34) : rawDecode w = some (.vcvtdy (fld w 7 5) (fld w 17 5) (fld w 29 3) (smodOf w)) := by simp only [rawDecode, h]

theorem raw_35 (w : Nat) (h : bitsOf w 0 7 = 0x35) : rawDecode w = rawMajor35 w := by simp only [rawDecode, h]

theorem raw_38 (w : Nat) (h : bitsOf w 0 7 = 0x38) : rawDecode w = some (.vslup (fld w 7 5) (fld w 12 5) (fld w 17 5) (fld w 29 3) (fld w 24 2) (fld w 23 1)) := by simp only [rawDecode, h]

theorem raw_39 (w : Nat) (h : bitsOf w 0 7 = 0x39) : rawDecode w = some (.vsldn (fld w 7 5) (fld w 12 5) (fld w 17 5) (fld w 29 3) (fld w 24 2) (fld w 23 1)) := by simp only [rawDecode, h]

theorem raw_3A (w : Nat) (h : bitsOf w 0 7 = 0x3A) : rawDecode w = some (.vperm (fld w 7 5) (fld w 12 5) (fld w 17 5) (fld w 24 2) (fld w 23 1) (fld w 22 1)) := by simp only [rawDecode, h]

theorem raw_3B (w : Nat) (h : bitsOf w 0 7 = 0x3B) : rawDecode w = rawMajor3B w := by simp only [rawDecode, h]

theorem raw_3C (w : Nat) (h : bitsOf w 0 7 = 0x3C) : rawDecode w = some (.vred (fld w 7 5) (fld w 12 5) (fld w 17 5) (fld w 29 3) (fld w 24 2) (fld w 23 1) (fld w 22 1)) := by simp only [rawDecode, h]

theorem raw_3D (w : Nat) (h : bitsOf w 0 7 = 0x3D) : rawDecode w = some (.vscan (fld w 7 5) (fld w 12 5) (fld w 17 5) (fld w 29 3) (fld w 24 2) (fld w 23 1) (fld w 22 1)) := by simp only [rawDecode, h]

theorem raw_3E (w : Nat) (h : bitsOf w 0 7 = 0x3E) : rawDecode w = some (.vhist (fld w 7 5) (fld w 17 5) (fld w 30 1) (fld w 29 1) (fld w 24 2) (fld w 23 1)) := by simp only [rawDecode, h]

theorem raw_3F (w : Nat) (h : bitsOf w 0 7 = 0x3F) : rawDecode w = rawMajor3F w := by simp only [rawDecode, h]

theorem raw_40 (w : Nat) (h : bitsOf w 0 7 = 0x40) : rawDecode w = some (.vld (fld w 7 5) (fld w 12 5) (fld w 24 2)) := by simp only [rawDecode, h]

theorem raw_41 (w : Nat) (h : bitsOf w 0 7 = 0x41) : rawDecode w = some (.vlds (fld w 7 5) (fld w 12 5) (fld w 17 5) (fld w 24 2)) := by simp only [rawDecode, h]

theorem raw_42 (w : Nat) (h : bitsOf w 0 7 = 0x42) : rawDecode w = rawMajor42 w := by simp only [rawDecode, h]

theorem raw_43 (w : Nat) (h : bitsOf w 0 7 = 0x43) : rawDecode w = some (.vldff (fld w 7 5) (fld w 12 5) (fld w 24 2)) := by simp only [rawDecode, h]

theorem raw_44 (w : Nat) (h : bitsOf w 0 7 = 0x44) : rawDecode w = some (.vldseg (fld w 7 5) (fld w 12 5) (fld w 26 3) (fld w 24 2)) := by simp only [rawDecode, h]

theorem raw_45 (w : Nat) (h : bitsOf w 0 7 = 0x45) : rawDecode w = some (.vst (fld w 7 5) (fld w 12 5) (fld w 24 2)) := by simp only [rawDecode, h]

theorem raw_46 (w : Nat) (h : bitsOf w 0 7 = 0x46) : rawDecode w = some (.vsts (fld w 7 5) (fld w 12 5) (fld w 17 5) (fld w 24 2)) := by simp only [rawDecode, h]

theorem raw_47 (w : Nat) (h : bitsOf w 0 7 = 0x47) : rawDecode w = rawMajor47 w := by simp only [rawDecode, h]

theorem raw_48 (w : Nat) (h : bitsOf w 0 7 = 0x48) : rawDecode w = some (.vstseg (fld w 7 5) (fld w 12 5) (fld w 26 3) (fld w 24 2)) := by simp only [rawDecode, h]

theorem raw_49 (w : Nat) (h : bitsOf w 0 7 = 0x49) : rawDecode w = some (.mfset (fld w 12 5)) := by simp only [rawDecode, h]

theorem raw_4C (w : Nat) (h : bitsOf w 0 7 = 0x4C) : rawDecode w = some (.vamo (fld w 7 5) (fld w 12 5) (fld w 17 5) (fld w 30 2) (fld w 26 4) (fld w 24 2) (fld w 22 1)) := by simp only [rawDecode, h]

theorem raw_4D (w : Nat) (h : bitsOf w 0 7 = 0x4D) : rawDecode w = rawMajor4D w := by simp only [rawDecode, h]

theorem raw_4E (w : Nat) (h : bitsOf w 0 7 = 0x4E) : rawDecode w = rawMajor4E w := by simp only [rawDecode, h]

theorem raw_4F (w : Nat) (h : bitsOf w 0 7 = 0x4F) : rawDecode w = rawMajor4F w := by simp only [rawDecode, h]

theorem raw_50 (w : Nat) (h : bitsOf w 0 7 = 0x50) : rawDecode w = rawMajor50 w := by simp only [rawDecode, h]

theorem raw_51 (w : Nat) (h : bitsOf w 0 7 = 0x51) : rawDecode w = rawMajor51 w := by simp only [rawDecode, h]

theorem raw_52 (w : Nat) (h : bitsOf w 0 7 = 0x52) : rawDecode w = some (.qpush (fld w 7 5) (fld w 31 1) (fld w 29 2) (fld w 22 4)) := by simp only [rawDecode, h]

theorem raw_53 (w : Nat) (h : bitsOf w 0 7 = 0x53) : rawDecode w = some (.qpop (fld w 7 5) (fld w 12 5) (fld w 29 2) (fld w 22 4)) := by simp only [rawDecode, h]

theorem raw_54 (w : Nat) (h : bitsOf w 0 7 = 0x54) : rawDecode w = some (.rsort (fld w 7 5) (fld w 12 5) (fld w 30 2) (fld w 29 1) (fld w 22 4)) := by simp only [rawDecode, h]

theorem raw_55 (w : Nat) (h : bitsOf w 0 7 = 0x55) : rawDecode w = some (.rmerge (fld w 7 5) (fld w 12 5) (fld w 17 5) (fld w 31 1) (fld w 30 1) (fld w 29 1) (fld w 22 4)) := by simp only [rawDecode, h]

theorem raw_56 (w : Nat) (h : bitsOf w 0 7 = 0x56) : rawDecode w = some (.rjoin (fld w 7 5) (fld w 12 5) (fld w 17 5) (fld w 31 1) (fld w 29 2) (fld w 22 4)) := by simp only [rawDecode, h]

theorem raw_57 (w : Nat) (h : bitsOf w 0 7 = 0x57) : rawDecode w = some (.rpart (fld w 7 5) (fld w 12 5) (fld w 22 4)) := by simp only [rawDecode, h]

theorem raw_58 (w : Nat) (h : bitsOf w 0 7 = 0x58) : rawDecode w = some (.rwait (fld w 7 5) (fld w 22 4)) := by simp only [rawDecode, h]

theorem raw_59 (w : Nat) (h : bitsOf w 0 7 = 0x59) : rawDecode w = some (.cspec (fld w 12 5)) := by simp only [rawDecode, h]

theorem raw_60 (w : Nat) (h : bitsOf w 0 7 = 0x60) : rawDecode w = rawMajor60 w := by simp only [rawDecode, h]

theorem raw_61 (w : Nat) (h : bitsOf w 0 7 = 0x61) : rawDecode w = rawMajor61 w := by simp only [rawDecode, h]

theorem raw_62 (w : Nat) (h : bitsOf w 0 7 = 0x62) : rawDecode w = some (.mxv (fld w 7 5) (fld w 12 5) (fld w 17 5) (fld w 31 1) (fld w 30 1) (fld w 22 8)) := by simp only [rawDecode, h]

theorem raw_63 (w : Nat) (h : bitsOf w 0 7 = 0x63) : rawDecode w = some (.mop (fld w 12 5) (fld w 17 5) (fld w 30 2) (fld w 22 8)) := by simp only [rawDecode, h]

theorem raw_64 (w : Nat) (h : bitsOf w 0 7 = 0x64) : rawDecode w = rawMajor64 w := by simp only [rawDecode, h]

theorem raw_65 (w : Nat) (h : bitsOf w 0 7 = 0x65) : rawDecode w = rawMajor65 w := by simp only [rawDecode, h]

theorem raw_66 (w : Nat) (h : bitsOf w 0 7 = 0x66) : rawDecode w = rawMajor66 w := by simp only [rawDecode, h]

theorem raw_68 (w : Nat) (h : bitsOf w 0 7 = 0x68) : rawDecode w = rawMajor68 w := by simp only [rawDecode, h]

theorem raw_69 (w : Nat) (h : bitsOf w 0 7 = 0x69) : rawDecode w = rawMajor69 w := by simp only [rawDecode, h]

theorem raw_6C (w : Nat) (h : bitsOf w 0 7 = 0x6C) : rawDecode w = rawMajor6C w := by simp only [rawDecode, h]

theorem raw_6D (w : Nat) (h : bitsOf w 0 7 = 0x6D) : rawDecode w = rawMajor6D w := by simp only [rawDecode, h]

/-- The fixed parts and the fields of the words of one layout. -/
theorem layout0 (k0 k22 : Nat) (x17 : BitVec 5) (x12 : BitVec 5) (x7 : BitVec 5) (h0 : k0 < 128) (h22 : k22 < 1024) (w : Nat)
    (hw : w = k0 + k22 * 4194304 + x17.toNat * 131072 + x12.toNat * 4096 + x7.toNat * 128) :
    bitsOf w 0 7 = k0 ∧ bitsOf w 22 10 = k22 ∧ fld w 17 5 = x17 ∧ fld w 12 5 = x12 ∧ fld w 7 5 = x7 ∧ w < 4294967296 := by
  have l17 : x17.toNat < 32 := x17.isLt
  have l12 : x12.toNat < 32 := x12.isLt
  have l7 : x7.toNat < 32 := x7.isLt
  exact ⟨bits_lit w 0 7 k0 1 128 rfl rfl (by omega),
    bits_lit w 22 10 k22 4194304 1024 rfl rfl (by omega),
    fld_lit w 17 x17 131072 32 rfl rfl (by omega),
    fld_lit w 12 x12 4096 32 rfl rfl (by omega),
    fld_lit w 7 x7 128 32 rfl rfl (by omega),
    by omega⟩

/-- The fixed parts and the fields of the words of one layout. -/
theorem layout1 (k0 k17 : Nat) (x12 : BitVec 5) (x7 : BitVec 5) (h0 : k0 < 128) (h17 : k17 < 32768) (w : Nat)
    (hw : w = k0 + k17 * 131072 + x12.toNat * 4096 + x7.toNat * 128) :
    bitsOf w 0 7 = k0 ∧ bitsOf w 17 15 = k17 ∧ fld w 12 5 = x12 ∧ fld w 7 5 = x7 ∧ w < 4294967296 := by
  have l12 : x12.toNat < 32 := x12.isLt
  have l7 : x7.toNat < 32 := x7.isLt
  exact ⟨bits_lit w 0 7 k0 1 128 rfl rfl (by omega),
    bits_lit w 17 15 k17 131072 32768 rfl rfl (by omega),
    fld_lit w 12 x12 4096 32 rfl rfl (by omega),
    fld_lit w 7 x7 128 32 rfl rfl (by omega),
    by omega⟩

/-- The fixed parts and the fields of the words of one layout. -/
theorem layout2 (k0 k22 k31 : Nat) (x25 : BitVec 6) (x17 : BitVec 5) (x12 : BitVec 5) (x7 : BitVec 5) (h0 : k0 < 128) (h22 : k22 < 8) (h31 : k31 < 2) (w : Nat)
    (hw : w = k0 + k22 * 4194304 + k31 * 2147483648 + x25.toNat * 33554432 + x17.toNat * 131072 + x12.toNat * 4096 + x7.toNat * 128) :
    bitsOf w 0 7 = k0 ∧ bitsOf w 22 3 = k22 ∧ bitsOf w 31 1 = k31 ∧ fld w 25 6 = x25 ∧ fld w 17 5 = x17 ∧ fld w 12 5 = x12 ∧ fld w 7 5 = x7 ∧ w < 4294967296 := by
  have l25 : x25.toNat < 64 := x25.isLt
  have l17 : x17.toNat < 32 := x17.isLt
  have l12 : x12.toNat < 32 := x12.isLt
  have l7 : x7.toNat < 32 := x7.isLt
  exact ⟨bits_lit w 0 7 k0 1 128 rfl rfl (by omega),
    bits_lit w 22 3 k22 4194304 8 rfl rfl (by omega),
    bits_lit w 31 1 k31 2147483648 2 rfl rfl (by omega),
    fld_lit w 25 x25 33554432 64 rfl rfl (by omega),
    fld_lit w 17 x17 131072 32 rfl rfl (by omega),
    fld_lit w 12 x12 4096 32 rfl rfl (by omega),
    fld_lit w 7 x7 128 32 rfl rfl (by omega),
    by omega⟩

/-- The fixed parts and the fields of the words of one layout. -/
theorem layout3 (k0 k17 : Nat) (x20 : BitVec 12) (x12 : BitVec 5) (x7 : BitVec 5) (h0 : k0 < 128) (h17 : k17 < 8) (w : Nat)
    (hw : w = k0 + k17 * 131072 + x20.toNat * 1048576 + x12.toNat * 4096 + x7.toNat * 128) :
    bitsOf w 0 7 = k0 ∧ bitsOf w 17 3 = k17 ∧ fld w 20 12 = x20 ∧ fld w 12 5 = x12 ∧ fld w 7 5 = x7 ∧ w < 4294967296 := by
  have l20 : x20.toNat < 4096 := x20.isLt
  have l12 : x12.toNat < 32 := x12.isLt
  have l7 : x7.toNat < 32 := x7.isLt
  exact ⟨bits_lit w 0 7 k0 1 128 rfl rfl (by omega),
    bits_lit w 17 3 k17 131072 8 rfl rfl (by omega),
    fld_lit w 20 x20 1048576 4096 rfl rfl (by omega),
    fld_lit w 12 x12 4096 32 rfl rfl (by omega),
    fld_lit w 7 x7 128 32 rfl rfl (by omega),
    by omega⟩

/-- The fixed parts and the fields of the words of one layout. -/
theorem layout4 (k0 k17 k26 : Nat) (x20 : BitVec 6) (x12 : BitVec 5) (x7 : BitVec 5) (h0 : k0 < 128) (h17 : k17 < 8) (h26 : k26 < 64) (w : Nat)
    (hw : w = k0 + k17 * 131072 + k26 * 67108864 + x20.toNat * 1048576 + x12.toNat * 4096 + x7.toNat * 128) :
    bitsOf w 0 7 = k0 ∧ bitsOf w 17 3 = k17 ∧ bitsOf w 26 6 = k26 ∧ fld w 20 6 = x20 ∧ fld w 12 5 = x12 ∧ fld w 7 5 = x7 ∧ w < 4294967296 := by
  have l20 : x20.toNat < 64 := x20.isLt
  have l12 : x12.toNat < 32 := x12.isLt
  have l7 : x7.toNat < 32 := x7.isLt
  exact ⟨bits_lit w 0 7 k0 1 128 rfl rfl (by omega),
    bits_lit w 17 3 k17 131072 8 rfl rfl (by omega),
    bits_lit w 26 6 k26 67108864 64 rfl rfl (by omega),
    fld_lit w 20 x20 1048576 64 rfl rfl (by omega),
    fld_lit w 12 x12 4096 32 rfl rfl (by omega),
    fld_lit w 7 x7 128 32 rfl rfl (by omega),
    by omega⟩

/-- The fixed parts and the fields of the words of one layout. -/
theorem layout5 (k0 : Nat) (x12 : BitVec 20) (x7 : BitVec 5) (h0 : k0 < 128) (w : Nat)
    (hw : w = k0 + x12.toNat * 4096 + x7.toNat * 128) :
    bitsOf w 0 7 = k0 ∧ fld w 12 20 = x12 ∧ fld w 7 5 = x7 ∧ w < 4294967296 := by
  have l12 : x12.toNat < 1048576 := x12.isLt
  have l7 : x7.toNat < 32 := x7.isLt
  exact ⟨bits_lit w 0 7 k0 1 128 rfl rfl (by omega),
    fld_lit w 12 x12 4096 1048576 rfl rfl (by omega),
    fld_lit w 7 x7 128 32 rfl rfl (by omega),
    by omega⟩

/-- The fixed parts and the fields of the words of one layout. -/
theorem layout6 (k0 : Nat) (x17 : BitVec 3) (x20 : BitVec 12) (x12 : BitVec 5) (x7 : BitVec 5) (h0 : k0 < 128) (w : Nat)
    (hw : w = k0 + x17.toNat * 131072 + x20.toNat * 1048576 + x12.toNat * 4096 + x7.toNat * 128) :
    bitsOf w 0 7 = k0 ∧ fld w 17 3 = x17 ∧ fld w 20 12 = x20 ∧ fld w 12 5 = x12 ∧ fld w 7 5 = x7 ∧ w < 4294967296 := by
  have l17 : x17.toNat < 8 := x17.isLt
  have l20 : x20.toNat < 4096 := x20.isLt
  have l12 : x12.toNat < 32 := x12.isLt
  have l7 : x7.toNat < 32 := x7.isLt
  exact ⟨bits_lit w 0 7 k0 1 128 rfl rfl (by omega),
    fld_lit w 17 x17 131072 8 rfl rfl (by omega),
    fld_lit w 20 x20 1048576 4096 rfl rfl (by omega),
    fld_lit w 12 x12 4096 32 rfl rfl (by omega),
    fld_lit w 7 x7 128 32 rfl rfl (by omega),
    by omega⟩

/-- The fixed parts and the fields of the words of one layout. -/
theorem layout7 (k0 k24 : Nat) (x7 : BitVec 5) (x22 : BitVec 2) (x25 : BitVec 7) (x17 : BitVec 5) (x12 : BitVec 5) (h0 : k0 < 128) (h24 : k24 < 2) (w : Nat)
    (hw : w = k0 + k24 * 16777216 + x7.toNat * 128 + x22.toNat * 4194304 + x25.toNat * 33554432 + x17.toNat * 131072 + x12.toNat * 4096) :
    bitsOf w 0 7 = k0 ∧ bitsOf w 24 1 = k24 ∧ fld w 7 5 = x7 ∧ fld w 22 2 = x22 ∧ fld w 25 7 = x25 ∧ fld w 17 5 = x17 ∧ fld w 12 5 = x12 ∧ w < 4294967296 := by
  have l7 : x7.toNat < 32 := x7.isLt
  have l22 : x22.toNat < 4 := x22.isLt
  have l25 : x25.toNat < 128 := x25.isLt
  have l17 : x17.toNat < 32 := x17.isLt
  have l12 : x12.toNat < 32 := x12.isLt
  exact ⟨bits_lit w 0 7 k0 1 128 rfl rfl (by omega),
    bits_lit w 24 1 k24 16777216 2 rfl rfl (by omega),
    fld_lit w 7 x7 128 32 rfl rfl (by omega),
    fld_lit w 22 x22 4194304 4 rfl rfl (by omega),
    fld_lit w 25 x25 33554432 128 rfl rfl (by omega),
    fld_lit w 17 x17 131072 32 rfl rfl (by omega),
    fld_lit w 12 x12 4096 32 rfl rfl (by omega),
    by omega⟩

/-- The fixed parts and the fields of the words of one layout. -/
theorem layout8 (k0 : Nat) (x22 : BitVec 1) (x23 : BitVec 2) (x25 : BitVec 4) (x29 : BitVec 3) (x17 : BitVec 5) (x12 : BitVec 5) (x7 : BitVec 5) (h0 : k0 < 128) (w : Nat)
    (hw : w = k0 + x22.toNat * 4194304 + x23.toNat * 8388608 + x25.toNat * 33554432 + x29.toNat * 536870912 + x17.toNat * 131072 + x12.toNat * 4096 + x7.toNat * 128) :
    bitsOf w 0 7 = k0 ∧ fld w 22 1 = x22 ∧ fld w 23 2 = x23 ∧ fld w 25 4 = x25 ∧ fld w 29 3 = x29 ∧ fld w 17 5 = x17 ∧ fld w 12 5 = x12 ∧ fld w 7 5 = x7 ∧ w < 4294967296 := by
  have l22 : x22.toNat < 2 := x22.isLt
  have l23 : x23.toNat < 4 := x23.isLt
  have l25 : x25.toNat < 16 := x25.isLt
  have l29 : x29.toNat < 8 := x29.isLt
  have l17 : x17.toNat < 32 := x17.isLt
  have l12 : x12.toNat < 32 := x12.isLt
  have l7 : x7.toNat < 32 := x7.isLt
  exact ⟨bits_lit w 0 7 k0 1 128 rfl rfl (by omega),
    fld_lit w 22 x22 4194304 2 rfl rfl (by omega),
    fld_lit w 23 x23 8388608 4 rfl rfl (by omega),
    fld_lit w 25 x25 33554432 16 rfl rfl (by omega),
    fld_lit w 29 x29 536870912 8 rfl rfl (by omega),
    fld_lit w 17 x17 131072 32 rfl rfl (by omega),
    fld_lit w 12 x12 4096 32 rfl rfl (by omega),
    fld_lit w 7 x7 128 32 rfl rfl (by omega),
    by omega⟩

/-- The fixed parts and the fields of the words of one layout. -/
theorem layout9 (k0 k25 : Nat) (x22 : BitVec 1) (x23 : BitVec 2) (x29 : BitVec 3) (x17 : BitVec 5) (x12 : BitVec 5) (x7 : BitVec 5) (h0 : k0 < 128) (h25 : k25 < 16) (w : Nat)
    (hw : w = k0 + k25 * 33554432 + x22.toNat * 4194304 + x23.toNat * 8388608 + x29.toNat * 536870912 + x17.toNat * 131072 + x12.toNat * 4096 + x7.toNat * 128) :
    bitsOf w 0 7 = k0 ∧ bitsOf w 25 4 = k25 ∧ fld w 22 1 = x22 ∧ fld w 23 2 = x23 ∧ fld w 29 3 = x29 ∧ fld w 17 5 = x17 ∧ fld w 12 5 = x12 ∧ fld w 7 5 = x7 ∧ w < 4294967296 := by
  have l22 : x22.toNat < 2 := x22.isLt
  have l23 : x23.toNat < 4 := x23.isLt
  have l29 : x29.toNat < 8 := x29.isLt
  have l17 : x17.toNat < 32 := x17.isLt
  have l12 : x12.toNat < 32 := x12.isLt
  have l7 : x7.toNat < 32 := x7.isLt
  exact ⟨bits_lit w 0 7 k0 1 128 rfl rfl (by omega),
    bits_lit w 25 4 k25 33554432 16 rfl rfl (by omega),
    fld_lit w 22 x22 4194304 2 rfl rfl (by omega),
    fld_lit w 23 x23 8388608 4 rfl rfl (by omega),
    fld_lit w 29 x29 536870912 8 rfl rfl (by omega),
    fld_lit w 17 x17 131072 32 rfl rfl (by omega),
    fld_lit w 12 x12 4096 32 rfl rfl (by omega),
    fld_lit w 7 x7 128 32 rfl rfl (by omega),
    by omega⟩

/-- The fixed parts and the fields of the words of one layout. -/
theorem layout10 (k0 k12 : Nat) (x20 : BitVec 12) (x7 : BitVec 5) (h0 : k0 < 128) (h12 : k12 < 256) (w : Nat)
    (hw : w = k0 + k12 * 4096 + x20.toNat * 1048576 + x7.toNat * 128) :
    bitsOf w 0 7 = k0 ∧ bitsOf w 12 8 = k12 ∧ fld w 20 12 = x20 ∧ fld w 7 5 = x7 ∧ w < 4294967296 := by
  have l20 : x20.toNat < 4096 := x20.isLt
  have l7 : x7.toNat < 32 := x7.isLt
  exact ⟨bits_lit w 0 7 k0 1 128 rfl rfl (by omega),
    bits_lit w 12 8 k12 4096 256 rfl rfl (by omega),
    fld_lit w 20 x20 1048576 4096 rfl rfl (by omega),
    fld_lit w 7 x7 128 32 rfl rfl (by omega),
    by omega⟩

/-- The fixed parts and the fields of the words of one layout. -/
theorem layout11 (k0 k7 k17 : Nat) (x20 : BitVec 12) (x12 : BitVec 5) (h0 : k0 < 128) (h7 : k7 < 32) (h17 : k17 < 8) (w : Nat)
    (hw : w = k0 + k7 * 128 + k17 * 131072 + x20.toNat * 1048576 + x12.toNat * 4096) :
    bitsOf w 0 7 = k0 ∧ bitsOf w 7 5 = k7 ∧ bitsOf w 17 3 = k17 ∧ fld w 20 12 = x20 ∧ fld w 12 5 = x12 ∧ w < 4294967296 := by
  have l20 : x20.toNat < 4096 := x20.isLt
  have l12 : x12.toNat < 32 := x12.isLt
  exact ⟨bits_lit w 0 7 k0 1 128 rfl rfl (by omega),
    bits_lit w 7 5 k7 128 32 rfl rfl (by omega),
    bits_lit w 17 3 k17 131072 8 rfl rfl (by omega),
    fld_lit w 20 x20 1048576 4096 rfl rfl (by omega),
    fld_lit w 12 x12 4096 32 rfl rfl (by omega),
    by omega⟩

/-- The fixed parts and the fields of the words of one layout. -/
theorem layout12 (k0 k7 : Nat) (x20 : BitVec 12) (h0 : k0 < 128) (h7 : k7 < 8192) (w : Nat)
    (hw : w = k0 + k7 * 128 + x20.toNat * 1048576) :
    bitsOf w 0 7 = k0 ∧ bitsOf w 7 13 = k7 ∧ fld w 20 12 = x20 ∧ w < 4294967296 := by
  have l20 : x20.toNat < 4096 := x20.isLt
  exact ⟨bits_lit w 0 7 k0 1 128 rfl rfl (by omega),
    bits_lit w 7 13 k7 128 8192 rfl rfl (by omega),
    fld_lit w 20 x20 1048576 4096 rfl rfl (by omega),
    by omega⟩

/-- The fixed parts and the fields of the words of one layout. -/
theorem layout13 (k0 k7 : Nat) (h0 : k0 < 128) (h7 : k7 < 33554432) (w : Nat)
    (hw : w = k0 + k7 * 128) :
    bitsOf w 0 7 = k0 ∧ bitsOf w 7 25 = k7 ∧ w < 4294967296 := by
  exact ⟨bits_lit w 0 7 k0 1 128 rfl rfl (by omega),
    bits_lit w 7 25 k7 128 33554432 rfl rfl (by omega),
    by omega⟩

/-- The fixed parts and the fields of the words of one layout. -/
theorem layout14 (k0 k7 k17 : Nat) (x12 : BitVec 5) (h0 : k0 < 128) (h7 : k7 < 32) (h17 : k17 < 32768) (w : Nat)
    (hw : w = k0 + k7 * 128 + k17 * 131072 + x12.toNat * 4096) :
    bitsOf w 0 7 = k0 ∧ bitsOf w 7 5 = k7 ∧ bitsOf w 17 15 = k17 ∧ fld w 12 5 = x12 ∧ w < 4294967296 := by
  have l12 : x12.toNat < 32 := x12.isLt
  exact ⟨bits_lit w 0 7 k0 1 128 rfl rfl (by omega),
    bits_lit w 7 5 k7 128 32 rfl rfl (by omega),
    bits_lit w 17 15 k17 131072 32768 rfl rfl (by omega),
    fld_lit w 12 x12 4096 32 rfl rfl (by omega),
    by omega⟩

/-- The fixed parts and the fields of the words of one layout. -/
theorem layout15 (k0 k17 k21 : Nat) (x20 : BitVec 1) (x12 : BitVec 5) (x7 : BitVec 5) (h0 : k0 < 128) (h17 : k17 < 8) (h21 : k21 < 2048) (w : Nat)
    (hw : w = k0 + k17 * 131072 + k21 * 2097152 + x20.toNat * 1048576 + x12.toNat * 4096 + x7.toNat * 128) :
    bitsOf w 0 7 = k0 ∧ bitsOf w 17 3 = k17 ∧ bitsOf w 21 11 = k21 ∧ fld w 20 1 = x20 ∧ fld w 12 5 = x12 ∧ fld w 7 5 = x7 ∧ w < 4294967296 := by
  have l20 : x20.toNat < 2 := x20.isLt
  have l12 : x12.toNat < 32 := x12.isLt
  have l7 : x7.toNat < 32 := x7.isLt
  exact ⟨bits_lit w 0 7 k0 1 128 rfl rfl (by omega),
    bits_lit w 17 3 k17 131072 8 rfl rfl (by omega),
    bits_lit w 21 11 k21 2097152 2048 rfl rfl (by omega),
    fld_lit w 20 x20 1048576 2 rfl rfl (by omega),
    fld_lit w 12 x12 4096 32 rfl rfl (by omega),
    fld_lit w 7 x7 128 32 rfl rfl (by omega),
    by omega⟩

/-- The fixed parts and the fields of the words of one layout. -/
theorem layout16 (k0 k29 : Nat) (x27 : BitVec 2) (x26 : BitVec 1) (x24 : BitVec 2) (x23 : BitVec 1) (x22 : BitVec 1) (x17 : BitVec 5) (x12 : BitVec 5) (x7 : BitVec 5) (h0 : k0 < 128) (h29 : k29 < 8) (w : Nat)
    (hw : w = k0 + k29 * 536870912 + x27.toNat * 134217728 + x26.toNat * 67108864 + x24.toNat * 16777216 + x23.toNat * 8388608 + x22.toNat * 4194304 + x17.toNat * 131072 + x12.toNat * 4096 + x7.toNat * 128) :
    bitsOf w 0 7 = k0 ∧ bitsOf w 29 3 = k29 ∧ fld w 27 2 = x27 ∧ fld w 26 1 = x26 ∧ fld w 24 2 = x24 ∧ fld w 23 1 = x23 ∧ fld w 22 1 = x22 ∧ fld w 17 5 = x17 ∧ fld w 12 5 = x12 ∧ fld w 7 5 = x7 ∧ w < 4294967296 := by
  have l27 : x27.toNat < 4 := x27.isLt
  have l26 : x26.toNat < 2 := x26.isLt
  have l24 : x24.toNat < 4 := x24.isLt
  have l23 : x23.toNat < 2 := x23.isLt
  have l22 : x22.toNat < 2 := x22.isLt
  have l17 : x17.toNat < 32 := x17.isLt
  have l12 : x12.toNat < 32 := x12.isLt
  have l7 : x7.toNat < 32 := x7.isLt
  exact ⟨bits_lit w 0 7 k0 1 128 rfl rfl (by omega),
    bits_lit w 29 3 k29 536870912 8 rfl rfl (by omega),
    fld_lit w 27 x27 134217728 4 rfl rfl (by omega),
    fld_lit w 26 x26 67108864 2 rfl rfl (by omega),
    fld_lit w 24 x24 16777216 4 rfl rfl (by omega),
    fld_lit w 23 x23 8388608 2 rfl rfl (by omega),
    fld_lit w 22 x22 4194304 2 rfl rfl (by omega),
    fld_lit w 17 x17 131072 32 rfl rfl (by omega),
    fld_lit w 12 x12 4096 32 rfl rfl (by omega),
    fld_lit w 7 x7 128 32 rfl rfl (by omega),
    by omega⟩

/-- The fixed parts and the fields of the words of one layout. -/
theorem layout17 (k0 k22 k29 : Nat) (x27 : BitVec 2) (x26 : BitVec 1) (x24 : BitVec 2) (x23 : BitVec 1) (x17 : BitVec 5) (x12 : BitVec 5) (x7 : BitVec 5) (h0 : k0 < 128) (h22 : k22 < 2) (h29 : k29 < 8) (w : Nat)
    (hw : w = k0 + k22 * 4194304 + k29 * 536870912 + x27.toNat * 134217728 + x26.toNat * 67108864 + x24.toNat * 16777216 + x23.toNat * 8388608 + x17.toNat * 131072 + x12.toNat * 4096 + x7.toNat * 128) :
    bitsOf w 0 7 = k0 ∧ bitsOf w 22 1 = k22 ∧ bitsOf w 29 3 = k29 ∧ fld w 27 2 = x27 ∧ fld w 26 1 = x26 ∧ fld w 24 2 = x24 ∧ fld w 23 1 = x23 ∧ fld w 17 5 = x17 ∧ fld w 12 5 = x12 ∧ fld w 7 5 = x7 ∧ w < 4294967296 := by
  have l27 : x27.toNat < 4 := x27.isLt
  have l26 : x26.toNat < 2 := x26.isLt
  have l24 : x24.toNat < 4 := x24.isLt
  have l23 : x23.toNat < 2 := x23.isLt
  have l17 : x17.toNat < 32 := x17.isLt
  have l12 : x12.toNat < 32 := x12.isLt
  have l7 : x7.toNat < 32 := x7.isLt
  exact ⟨bits_lit w 0 7 k0 1 128 rfl rfl (by omega),
    bits_lit w 22 1 k22 4194304 2 rfl rfl (by omega),
    bits_lit w 29 3 k29 536870912 8 rfl rfl (by omega),
    fld_lit w 27 x27 134217728 4 rfl rfl (by omega),
    fld_lit w 26 x26 67108864 2 rfl rfl (by omega),
    fld_lit w 24 x24 16777216 4 rfl rfl (by omega),
    fld_lit w 23 x23 8388608 2 rfl rfl (by omega),
    fld_lit w 17 x17 131072 32 rfl rfl (by omega),
    fld_lit w 12 x12 4096 32 rfl rfl (by omega),
    fld_lit w 7 x7 128 32 rfl rfl (by omega),
    by omega⟩

/-- The fixed parts and the fields of the words of one layout. -/
theorem layout18 (k0 k22 k29 : Nat) (x27 : BitVec 2) (x26 : BitVec 1) (x24 : BitVec 2) (x23 : BitVec 1) (x12 : BitVec 5) (x17 : BitVec 5) (x7 : BitVec 5) (h0 : k0 < 128) (h22 : k22 < 2) (h29 : k29 < 8) (w : Nat)
    (hw : w = k0 + k22 * 4194304 + k29 * 536870912 + x27.toNat * 134217728 + x26.toNat * 67108864 + x24.toNat * 16777216 + x23.toNat * 8388608 + x12.toNat * 4096 + x17.toNat * 131072 + x7.toNat * 128) :
    bitsOf w 0 7 = k0 ∧ bitsOf w 22 1 = k22 ∧ bitsOf w 29 3 = k29 ∧ fld w 27 2 = x27 ∧ fld w 26 1 = x26 ∧ fld w 24 2 = x24 ∧ fld w 23 1 = x23 ∧ fld w 12 5 = x12 ∧ fld w 17 5 = x17 ∧ fld w 7 5 = x7 ∧ w < 4294967296 := by
  have l27 : x27.toNat < 4 := x27.isLt
  have l26 : x26.toNat < 2 := x26.isLt
  have l24 : x24.toNat < 4 := x24.isLt
  have l23 : x23.toNat < 2 := x23.isLt
  have l12 : x12.toNat < 32 := x12.isLt
  have l17 : x17.toNat < 32 := x17.isLt
  have l7 : x7.toNat < 32 := x7.isLt
  exact ⟨bits_lit w 0 7 k0 1 128 rfl rfl (by omega),
    bits_lit w 22 1 k22 4194304 2 rfl rfl (by omega),
    bits_lit w 29 3 k29 536870912 8 rfl rfl (by omega),
    fld_lit w 27 x27 134217728 4 rfl rfl (by omega),
    fld_lit w 26 x26 67108864 2 rfl rfl (by omega),
    fld_lit w 24 x24 16777216 4 rfl rfl (by omega),
    fld_lit w 23 x23 8388608 2 rfl rfl (by omega),
    fld_lit w 12 x12 4096 32 rfl rfl (by omega),
    fld_lit w 17 x17 131072 32 rfl rfl (by omega),
    fld_lit w 7 x7 128 32 rfl rfl (by omega),
    by omega⟩

/-- The fixed parts and the fields of the words of one layout. -/
theorem layout19 (k0 k12 k22 k29 : Nat) (x27 : BitVec 2) (x26 : BitVec 1) (x24 : BitVec 2) (x23 : BitVec 1) (x17 : BitVec 5) (x7 : BitVec 5) (h0 : k0 < 128) (h12 : k12 < 32) (h22 : k22 < 2) (h29 : k29 < 8) (w : Nat)
    (hw : w = k0 + k12 * 4096 + k22 * 4194304 + k29 * 536870912 + x27.toNat * 134217728 + x26.toNat * 67108864 + x24.toNat * 16777216 + x23.toNat * 8388608 + x17.toNat * 131072 + x7.toNat * 128) :
    bitsOf w 0 7 = k0 ∧ bitsOf w 12 5 = k12 ∧ bitsOf w 22 1 = k22 ∧ bitsOf w 29 3 = k29 ∧ fld w 27 2 = x27 ∧ fld w 26 1 = x26 ∧ fld w 24 2 = x24 ∧ fld w 23 1 = x23 ∧ fld w 17 5 = x17 ∧ fld w 7 5 = x7 ∧ w < 4294967296 := by
  have l27 : x27.toNat < 4 := x27.isLt
  have l26 : x26.toNat < 2 := x26.isLt
  have l24 : x24.toNat < 4 := x24.isLt
  have l23 : x23.toNat < 2 := x23.isLt
  have l17 : x17.toNat < 32 := x17.isLt
  have l7 : x7.toNat < 32 := x7.isLt
  exact ⟨bits_lit w 0 7 k0 1 128 rfl rfl (by omega),
    bits_lit w 12 5 k12 4096 32 rfl rfl (by omega),
    bits_lit w 22 1 k22 4194304 2 rfl rfl (by omega),
    bits_lit w 29 3 k29 536870912 8 rfl rfl (by omega),
    fld_lit w 27 x27 134217728 4 rfl rfl (by omega),
    fld_lit w 26 x26 67108864 2 rfl rfl (by omega),
    fld_lit w 24 x24 16777216 4 rfl rfl (by omega),
    fld_lit w 23 x23 8388608 2 rfl rfl (by omega),
    fld_lit w 17 x17 131072 32 rfl rfl (by omega),
    fld_lit w 7 x7 128 32 rfl rfl (by omega),
    by omega⟩

/-- The fixed parts and the fields of the words of one layout. -/
theorem layout20 (k0 : Nat) (x27 : BitVec 2) (x26 : BitVec 1) (x24 : BitVec 2) (x23 : BitVec 1) (x22 : BitVec 1) (x29 : BitVec 3) (x17 : BitVec 5) (x12 : BitVec 5) (x7 : BitVec 5) (h0 : k0 < 128) (w : Nat)
    (hw : w = k0 + x27.toNat * 134217728 + x26.toNat * 67108864 + x24.toNat * 16777216 + x23.toNat * 8388608 + x22.toNat * 4194304 + x29.toNat * 536870912 + x17.toNat * 131072 + x12.toNat * 4096 + x7.toNat * 128) :
    bitsOf w 0 7 = k0 ∧ fld w 27 2 = x27 ∧ fld w 26 1 = x26 ∧ fld w 24 2 = x24 ∧ fld w 23 1 = x23 ∧ fld w 22 1 = x22 ∧ fld w 29 3 = x29 ∧ fld w 17 5 = x17 ∧ fld w 12 5 = x12 ∧ fld w 7 5 = x7 ∧ w < 4294967296 := by
  have l27 : x27.toNat < 4 := x27.isLt
  have l26 : x26.toNat < 2 := x26.isLt
  have l24 : x24.toNat < 4 := x24.isLt
  have l23 : x23.toNat < 2 := x23.isLt
  have l22 : x22.toNat < 2 := x22.isLt
  have l29 : x29.toNat < 8 := x29.isLt
  have l17 : x17.toNat < 32 := x17.isLt
  have l12 : x12.toNat < 32 := x12.isLt
  have l7 : x7.toNat < 32 := x7.isLt
  exact ⟨bits_lit w 0 7 k0 1 128 rfl rfl (by omega),
    fld_lit w 27 x27 134217728 4 rfl rfl (by omega),
    fld_lit w 26 x26 67108864 2 rfl rfl (by omega),
    fld_lit w 24 x24 16777216 4 rfl rfl (by omega),
    fld_lit w 23 x23 8388608 2 rfl rfl (by omega),
    fld_lit w 22 x22 4194304 2 rfl rfl (by omega),
    fld_lit w 29 x29 536870912 8 rfl rfl (by omega),
    fld_lit w 17 x17 131072 32 rfl rfl (by omega),
    fld_lit w 12 x12 4096 32 rfl rfl (by omega),
    fld_lit w 7 x7 128 32 rfl rfl (by omega),
    by omega⟩

/-- The fixed parts and the fields of the words of one layout. -/
theorem layout21 (k0 k22 : Nat) (x27 : BitVec 2) (x26 : BitVec 1) (x24 : BitVec 2) (x23 : BitVec 1) (x29 : BitVec 3) (x17 : BitVec 5) (x12 : BitVec 5) (x7 : BitVec 5) (h0 : k0 < 128) (h22 : k22 < 2) (w : Nat)
    (hw : w = k0 + k22 * 4194304 + x27.toNat * 134217728 + x26.toNat * 67108864 + x24.toNat * 16777216 + x23.toNat * 8388608 + x29.toNat * 536870912 + x17.toNat * 131072 + x12.toNat * 4096 + x7.toNat * 128) :
    bitsOf w 0 7 = k0 ∧ bitsOf w 22 1 = k22 ∧ fld w 27 2 = x27 ∧ fld w 26 1 = x26 ∧ fld w 24 2 = x24 ∧ fld w 23 1 = x23 ∧ fld w 29 3 = x29 ∧ fld w 17 5 = x17 ∧ fld w 12 5 = x12 ∧ fld w 7 5 = x7 ∧ w < 4294967296 := by
  have l27 : x27.toNat < 4 := x27.isLt
  have l26 : x26.toNat < 2 := x26.isLt
  have l24 : x24.toNat < 4 := x24.isLt
  have l23 : x23.toNat < 2 := x23.isLt
  have l29 : x29.toNat < 8 := x29.isLt
  have l17 : x17.toNat < 32 := x17.isLt
  have l12 : x12.toNat < 32 := x12.isLt
  have l7 : x7.toNat < 32 := x7.isLt
  exact ⟨bits_lit w 0 7 k0 1 128 rfl rfl (by omega),
    bits_lit w 22 1 k22 4194304 2 rfl rfl (by omega),
    fld_lit w 27 x27 134217728 4 rfl rfl (by omega),
    fld_lit w 26 x26 67108864 2 rfl rfl (by omega),
    fld_lit w 24 x24 16777216 4 rfl rfl (by omega),
    fld_lit w 23 x23 8388608 2 rfl rfl (by omega),
    fld_lit w 29 x29 536870912 8 rfl rfl (by omega),
    fld_lit w 17 x17 131072 32 rfl rfl (by omega),
    fld_lit w 12 x12 4096 32 rfl rfl (by omega),
    fld_lit w 7 x7 128 32 rfl rfl (by omega),
    by omega⟩

/-- The fixed parts and the fields of the words of one layout. -/
theorem layout22 (k0 k22 : Nat) (x27 : BitVec 2) (x26 : BitVec 1) (x24 : BitVec 2) (x23 : BitVec 1) (x12 : BitVec 5) (x29 : BitVec 3) (x17 : BitVec 5) (x7 : BitVec 5) (h0 : k0 < 128) (h22 : k22 < 2) (w : Nat)
    (hw : w = k0 + k22 * 4194304 + x27.toNat * 134217728 + x26.toNat * 67108864 + x24.toNat * 16777216 + x23.toNat * 8388608 + x12.toNat * 4096 + x29.toNat * 536870912 + x17.toNat * 131072 + x7.toNat * 128) :
    bitsOf w 0 7 = k0 ∧ bitsOf w 22 1 = k22 ∧ fld w 27 2 = x27 ∧ fld w 26 1 = x26 ∧ fld w 24 2 = x24 ∧ fld w 23 1 = x23 ∧ fld w 12 5 = x12 ∧ fld w 29 3 = x29 ∧ fld w 17 5 = x17 ∧ fld w 7 5 = x7 ∧ w < 4294967296 := by
  have l27 : x27.toNat < 4 := x27.isLt
  have l26 : x26.toNat < 2 := x26.isLt
  have l24 : x24.toNat < 4 := x24.isLt
  have l23 : x23.toNat < 2 := x23.isLt
  have l12 : x12.toNat < 32 := x12.isLt
  have l29 : x29.toNat < 8 := x29.isLt
  have l17 : x17.toNat < 32 := x17.isLt
  have l7 : x7.toNat < 32 := x7.isLt
  exact ⟨bits_lit w 0 7 k0 1 128 rfl rfl (by omega),
    bits_lit w 22 1 k22 4194304 2 rfl rfl (by omega),
    fld_lit w 27 x27 134217728 4 rfl rfl (by omega),
    fld_lit w 26 x26 67108864 2 rfl rfl (by omega),
    fld_lit w 24 x24 16777216 4 rfl rfl (by omega),
    fld_lit w 23 x23 8388608 2 rfl rfl (by omega),
    fld_lit w 12 x12 4096 32 rfl rfl (by omega),
    fld_lit w 29 x29 536870912 8 rfl rfl (by omega),
    fld_lit w 17 x17 131072 32 rfl rfl (by omega),
    fld_lit w 7 x7 128 32 rfl rfl (by omega),
    by omega⟩

/-- The fixed parts and the fields of the words of one layout. -/
theorem layout23 (k0 k12 k26 : Nat) (x24 : BitVec 2) (x7 : BitVec 5) (h0 : k0 < 128) (h12 : k12 < 4096) (h26 : k26 < 64) (w : Nat)
    (hw : w = k0 + k12 * 4096 + k26 * 67108864 + x24.toNat * 16777216 + x7.toNat * 128) :
    bitsOf w 0 7 = k0 ∧ bitsOf w 12 12 = k12 ∧ bitsOf w 26 6 = k26 ∧ fld w 24 2 = x24 ∧ fld w 7 5 = x7 ∧ w < 4294967296 := by
  have l24 : x24.toNat < 4 := x24.isLt
  have l7 : x7.toNat < 32 := x7.isLt
  exact ⟨bits_lit w 0 7 k0 1 128 rfl rfl (by omega),
    bits_lit w 12 12 k12 4096 4096 rfl rfl (by omega),
    bits_lit w 26 6 k26 67108864 64 rfl rfl (by omega),
    fld_lit w 24 x24 16777216 4 rfl rfl (by omega),
    fld_lit w 7 x7 128 32 rfl rfl (by omega),
    by omega⟩

/-- The fixed parts and the fields of the words of one layout. -/
theorem layout24 (k0 k17 k26 : Nat) (x24 : BitVec 2) (x12 : BitVec 5) (x7 : BitVec 5) (h0 : k0 < 128) (h17 : k17 < 128) (h26 : k26 < 64) (w : Nat)
    (hw : w = k0 + k17 * 131072 + k26 * 67108864 + x24.toNat * 16777216 + x12.toNat * 4096 + x7.toNat * 128) :
    bitsOf w 0 7 = k0 ∧ bitsOf w 17 7 = k17 ∧ bitsOf w 26 6 = k26 ∧ fld w 24 2 = x24 ∧ fld w 12 5 = x12 ∧ fld w 7 5 = x7 ∧ w < 4294967296 := by
  have l24 : x24.toNat < 4 := x24.isLt
  have l12 : x12.toNat < 32 := x12.isLt
  have l7 : x7.toNat < 32 := x7.isLt
  exact ⟨bits_lit w 0 7 k0 1 128 rfl rfl (by omega),
    bits_lit w 17 7 k17 131072 128 rfl rfl (by omega),
    bits_lit w 26 6 k26 67108864 64 rfl rfl (by omega),
    fld_lit w 24 x24 16777216 4 rfl rfl (by omega),
    fld_lit w 12 x12 4096 32 rfl rfl (by omega),
    fld_lit w 7 x7 128 32 rfl rfl (by omega),
    by omega⟩

/-- The fixed parts and the fields of the words of one layout. -/
theorem layout25 (k0 k12 k22 : Nat) (x27 : BitVec 2) (x26 : BitVec 1) (x24 : BitVec 2) (x23 : BitVec 1) (x29 : BitVec 3) (x17 : BitVec 5) (x7 : BitVec 5) (h0 : k0 < 128) (h12 : k12 < 32) (h22 : k22 < 2) (w : Nat)
    (hw : w = k0 + k12 * 4096 + k22 * 4194304 + x27.toNat * 134217728 + x26.toNat * 67108864 + x24.toNat * 16777216 + x23.toNat * 8388608 + x29.toNat * 536870912 + x17.toNat * 131072 + x7.toNat * 128) :
    bitsOf w 0 7 = k0 ∧ bitsOf w 12 5 = k12 ∧ bitsOf w 22 1 = k22 ∧ fld w 27 2 = x27 ∧ fld w 26 1 = x26 ∧ fld w 24 2 = x24 ∧ fld w 23 1 = x23 ∧ fld w 29 3 = x29 ∧ fld w 17 5 = x17 ∧ fld w 7 5 = x7 ∧ w < 4294967296 := by
  have l27 : x27.toNat < 4 := x27.isLt
  have l26 : x26.toNat < 2 := x26.isLt
  have l24 : x24.toNat < 4 := x24.isLt
  have l23 : x23.toNat < 2 := x23.isLt
  have l29 : x29.toNat < 8 := x29.isLt
  have l17 : x17.toNat < 32 := x17.isLt
  have l7 : x7.toNat < 32 := x7.isLt
  exact ⟨bits_lit w 0 7 k0 1 128 rfl rfl (by omega),
    bits_lit w 12 5 k12 4096 32 rfl rfl (by omega),
    bits_lit w 22 1 k22 4194304 2 rfl rfl (by omega),
    fld_lit w 27 x27 134217728 4 rfl rfl (by omega),
    fld_lit w 26 x26 67108864 2 rfl rfl (by omega),
    fld_lit w 24 x24 16777216 4 rfl rfl (by omega),
    fld_lit w 23 x23 8388608 2 rfl rfl (by omega),
    fld_lit w 29 x29 536870912 8 rfl rfl (by omega),
    fld_lit w 17 x17 131072 32 rfl rfl (by omega),
    fld_lit w 7 x7 128 32 rfl rfl (by omega),
    by omega⟩

/-- The fixed parts and the fields of the words of one layout. -/
theorem layout26 (k0 k12 k22 k24 : Nat) (x23 : BitVec 1) (x17 : BitVec 5) (x7 : BitVec 5) (h0 : k0 < 128) (h12 : k12 < 32) (h22 : k22 < 2) (h24 : k24 < 256) (w : Nat)
    (hw : w = k0 + k12 * 4096 + k22 * 4194304 + k24 * 16777216 + x23.toNat * 8388608 + x17.toNat * 131072 + x7.toNat * 128) :
    bitsOf w 0 7 = k0 ∧ bitsOf w 12 5 = k12 ∧ bitsOf w 22 1 = k22 ∧ bitsOf w 24 8 = k24 ∧ fld w 23 1 = x23 ∧ fld w 17 5 = x17 ∧ fld w 7 5 = x7 ∧ w < 4294967296 := by
  have l23 : x23.toNat < 2 := x23.isLt
  have l17 : x17.toNat < 32 := x17.isLt
  have l7 : x7.toNat < 32 := x7.isLt
  exact ⟨bits_lit w 0 7 k0 1 128 rfl rfl (by omega),
    bits_lit w 12 5 k12 4096 32 rfl rfl (by omega),
    bits_lit w 22 1 k22 4194304 2 rfl rfl (by omega),
    bits_lit w 24 8 k24 16777216 256 rfl rfl (by omega),
    fld_lit w 23 x23 8388608 2 rfl rfl (by omega),
    fld_lit w 17 x17 131072 32 rfl rfl (by omega),
    fld_lit w 7 x7 128 32 rfl rfl (by omega),
    by omega⟩

/-- The fixed parts and the fields of the words of one layout. -/
theorem layout27 (k0 k22 k26 : Nat) (x24 : BitVec 2) (x17 : BitVec 5) (x12 : BitVec 5) (x7 : BitVec 5) (h0 : k0 < 128) (h22 : k22 < 4) (h26 : k26 < 64) (w : Nat)
    (hw : w = k0 + k22 * 4194304 + k26 * 67108864 + x24.toNat * 16777216 + x17.toNat * 131072 + x12.toNat * 4096 + x7.toNat * 128) :
    bitsOf w 0 7 = k0 ∧ bitsOf w 22 2 = k22 ∧ bitsOf w 26 6 = k26 ∧ fld w 24 2 = x24 ∧ fld w 17 5 = x17 ∧ fld w 12 5 = x12 ∧ fld w 7 5 = x7 ∧ w < 4294967296 := by
  have l24 : x24.toNat < 4 := x24.isLt
  have l17 : x17.toNat < 32 := x17.isLt
  have l12 : x12.toNat < 32 := x12.isLt
  have l7 : x7.toNat < 32 := x7.isLt
  exact ⟨bits_lit w 0 7 k0 1 128 rfl rfl (by omega),
    bits_lit w 22 2 k22 4194304 4 rfl rfl (by omega),
    bits_lit w 26 6 k26 67108864 64 rfl rfl (by omega),
    fld_lit w 24 x24 16777216 4 rfl rfl (by omega),
    fld_lit w 17 x17 131072 32 rfl rfl (by omega),
    fld_lit w 12 x12 4096 32 rfl rfl (by omega),
    fld_lit w 7 x7 128 32 rfl rfl (by omega),
    by omega⟩

/-- The fixed parts and the fields of the words of one layout. -/
theorem layout28 (k0 k22 k26 : Nat) (x23 : BitVec 1) (x24 : BitVec 2) (x17 : BitVec 5) (x12 : BitVec 5) (x7 : BitVec 5) (h0 : k0 < 128) (h22 : k22 < 2) (h26 : k26 < 64) (w : Nat)
    (hw : w = k0 + k22 * 4194304 + k26 * 67108864 + x23.toNat * 8388608 + x24.toNat * 16777216 + x17.toNat * 131072 + x12.toNat * 4096 + x7.toNat * 128) :
    bitsOf w 0 7 = k0 ∧ bitsOf w 22 1 = k22 ∧ bitsOf w 26 6 = k26 ∧ fld w 23 1 = x23 ∧ fld w 24 2 = x24 ∧ fld w 17 5 = x17 ∧ fld w 12 5 = x12 ∧ fld w 7 5 = x7 ∧ w < 4294967296 := by
  have l23 : x23.toNat < 2 := x23.isLt
  have l24 : x24.toNat < 4 := x24.isLt
  have l17 : x17.toNat < 32 := x17.isLt
  have l12 : x12.toNat < 32 := x12.isLt
  have l7 : x7.toNat < 32 := x7.isLt
  exact ⟨bits_lit w 0 7 k0 1 128 rfl rfl (by omega),
    bits_lit w 22 1 k22 4194304 2 rfl rfl (by omega),
    bits_lit w 26 6 k26 67108864 64 rfl rfl (by omega),
    fld_lit w 23 x23 8388608 2 rfl rfl (by omega),
    fld_lit w 24 x24 16777216 4 rfl rfl (by omega),
    fld_lit w 17 x17 131072 32 rfl rfl (by omega),
    fld_lit w 12 x12 4096 32 rfl rfl (by omega),
    fld_lit w 7 x7 128 32 rfl rfl (by omega),
    by omega⟩

/-- The fixed parts and the fields of the words of one layout. -/
theorem layout29 (k0 k22 k26 : Nat) (x23 : BitVec 1) (x24 : BitVec 2) (x29 : BitVec 3) (x17 : BitVec 5) (x12 : BitVec 5) (x7 : BitVec 5) (h0 : k0 < 128) (h22 : k22 < 2) (h26 : k26 < 8) (w : Nat)
    (hw : w = k0 + k22 * 4194304 + k26 * 67108864 + x23.toNat * 8388608 + x24.toNat * 16777216 + x29.toNat * 536870912 + x17.toNat * 131072 + x12.toNat * 4096 + x7.toNat * 128) :
    bitsOf w 0 7 = k0 ∧ bitsOf w 22 1 = k22 ∧ bitsOf w 26 3 = k26 ∧ fld w 23 1 = x23 ∧ fld w 24 2 = x24 ∧ fld w 29 3 = x29 ∧ fld w 17 5 = x17 ∧ fld w 12 5 = x12 ∧ fld w 7 5 = x7 ∧ w < 4294967296 := by
  have l23 : x23.toNat < 2 := x23.isLt
  have l24 : x24.toNat < 4 := x24.isLt
  have l29 : x29.toNat < 8 := x29.isLt
  have l17 : x17.toNat < 32 := x17.isLt
  have l12 : x12.toNat < 32 := x12.isLt
  have l7 : x7.toNat < 32 := x7.isLt
  exact ⟨bits_lit w 0 7 k0 1 128 rfl rfl (by omega),
    bits_lit w 22 1 k22 4194304 2 rfl rfl (by omega),
    bits_lit w 26 3 k26 67108864 8 rfl rfl (by omega),
    fld_lit w 23 x23 8388608 2 rfl rfl (by omega),
    fld_lit w 24 x24 16777216 4 rfl rfl (by omega),
    fld_lit w 29 x29 536870912 8 rfl rfl (by omega),
    fld_lit w 17 x17 131072 32 rfl rfl (by omega),
    fld_lit w 12 x12 4096 32 rfl rfl (by omega),
    fld_lit w 7 x7 128 32 rfl rfl (by omega),
    by omega⟩

/-- The fixed parts and the fields of the words of one layout. -/
theorem layout30 (k0 k26 : Nat) (x22 : BitVec 1) (x23 : BitVec 1) (x24 : BitVec 2) (x17 : BitVec 5) (x12 : BitVec 5) (x7 : BitVec 5) (h0 : k0 < 128) (h26 : k26 < 64) (w : Nat)
    (hw : w = k0 + k26 * 67108864 + x22.toNat * 4194304 + x23.toNat * 8388608 + x24.toNat * 16777216 + x17.toNat * 131072 + x12.toNat * 4096 + x7.toNat * 128) :
    bitsOf w 0 7 = k0 ∧ bitsOf w 26 6 = k26 ∧ fld w 22 1 = x22 ∧ fld w 23 1 = x23 ∧ fld w 24 2 = x24 ∧ fld w 17 5 = x17 ∧ fld w 12 5 = x12 ∧ fld w 7 5 = x7 ∧ w < 4294967296 := by
  have l22 : x22.toNat < 2 := x22.isLt
  have l23 : x23.toNat < 2 := x23.isLt
  have l24 : x24.toNat < 4 := x24.isLt
  have l17 : x17.toNat < 32 := x17.isLt
  have l12 : x12.toNat < 32 := x12.isLt
  have l7 : x7.toNat < 32 := x7.isLt
  exact ⟨bits_lit w 0 7 k0 1 128 rfl rfl (by omega),
    bits_lit w 26 6 k26 67108864 64 rfl rfl (by omega),
    fld_lit w 22 x22 4194304 2 rfl rfl (by omega),
    fld_lit w 23 x23 8388608 2 rfl rfl (by omega),
    fld_lit w 24 x24 16777216 4 rfl rfl (by omega),
    fld_lit w 17 x17 131072 32 rfl rfl (by omega),
    fld_lit w 12 x12 4096 32 rfl rfl (by omega),
    fld_lit w 7 x7 128 32 rfl rfl (by omega),
    by omega⟩

/-- The fixed parts and the fields of the words of one layout. -/
theorem layout31 (k0 k12 k22 k26 : Nat) (x23 : BitVec 1) (x24 : BitVec 2) (x17 : BitVec 5) (x7 : BitVec 5) (h0 : k0 < 128) (h12 : k12 < 32) (h22 : k22 < 2) (h26 : k26 < 64) (w : Nat)
    (hw : w = k0 + k12 * 4096 + k22 * 4194304 + k26 * 67108864 + x23.toNat * 8388608 + x24.toNat * 16777216 + x17.toNat * 131072 + x7.toNat * 128) :
    bitsOf w 0 7 = k0 ∧ bitsOf w 12 5 = k12 ∧ bitsOf w 22 1 = k22 ∧ bitsOf w 26 6 = k26 ∧ fld w 23 1 = x23 ∧ fld w 24 2 = x24 ∧ fld w 17 5 = x17 ∧ fld w 7 5 = x7 ∧ w < 4294967296 := by
  have l23 : x23.toNat < 2 := x23.isLt
  have l24 : x24.toNat < 4 := x24.isLt
  have l17 : x17.toNat < 32 := x17.isLt
  have l7 : x7.toNat < 32 := x7.isLt
  exact ⟨bits_lit w 0 7 k0 1 128 rfl rfl (by omega),
    bits_lit w 12 5 k12 4096 32 rfl rfl (by omega),
    bits_lit w 22 1 k22 4194304 2 rfl rfl (by omega),
    bits_lit w 26 6 k26 67108864 64 rfl rfl (by omega),
    fld_lit w 23 x23 8388608 2 rfl rfl (by omega),
    fld_lit w 24 x24 16777216 4 rfl rfl (by omega),
    fld_lit w 17 x17 131072 32 rfl rfl (by omega),
    fld_lit w 7 x7 128 32 rfl rfl (by omega),
    by omega⟩

/-- The fixed parts and the fields of the words of one layout. -/
theorem layout32 (k0 k12 k22 k26 : Nat) (x24 : BitVec 2) (x17 : BitVec 5) (x7 : BitVec 5) (h0 : k0 < 128) (h12 : k12 < 32) (h22 : k22 < 4) (h26 : k26 < 64) (w : Nat)
    (hw : w = k0 + k12 * 4096 + k22 * 4194304 + k26 * 67108864 + x24.toNat * 16777216 + x17.toNat * 131072 + x7.toNat * 128) :
    bitsOf w 0 7 = k0 ∧ bitsOf w 12 5 = k12 ∧ bitsOf w 22 2 = k22 ∧ bitsOf w 26 6 = k26 ∧ fld w 24 2 = x24 ∧ fld w 17 5 = x17 ∧ fld w 7 5 = x7 ∧ w < 4294967296 := by
  have l24 : x24.toNat < 4 := x24.isLt
  have l17 : x17.toNat < 32 := x17.isLt
  have l7 : x7.toNat < 32 := x7.isLt
  exact ⟨bits_lit w 0 7 k0 1 128 rfl rfl (by omega),
    bits_lit w 12 5 k12 4096 32 rfl rfl (by omega),
    bits_lit w 22 2 k22 4194304 4 rfl rfl (by omega),
    bits_lit w 26 6 k26 67108864 64 rfl rfl (by omega),
    fld_lit w 24 x24 16777216 4 rfl rfl (by omega),
    fld_lit w 17 x17 131072 32 rfl rfl (by omega),
    fld_lit w 7 x7 128 32 rfl rfl (by omega),
    by omega⟩

/-- The fixed parts and the fields of the words of one layout. -/
theorem layout33 (k0 k26 : Nat) (x22 : BitVec 1) (x23 : BitVec 1) (x24 : BitVec 2) (x29 : BitVec 3) (x17 : BitVec 5) (x12 : BitVec 5) (x7 : BitVec 5) (h0 : k0 < 128) (h26 : k26 < 8) (w : Nat)
    (hw : w = k0 + k26 * 67108864 + x22.toNat * 4194304 + x23.toNat * 8388608 + x24.toNat * 16777216 + x29.toNat * 536870912 + x17.toNat * 131072 + x12.toNat * 4096 + x7.toNat * 128) :
    bitsOf w 0 7 = k0 ∧ bitsOf w 26 3 = k26 ∧ fld w 22 1 = x22 ∧ fld w 23 1 = x23 ∧ fld w 24 2 = x24 ∧ fld w 29 3 = x29 ∧ fld w 17 5 = x17 ∧ fld w 12 5 = x12 ∧ fld w 7 5 = x7 ∧ w < 4294967296 := by
  have l22 : x22.toNat < 2 := x22.isLt
  have l23 : x23.toNat < 2 := x23.isLt
  have l24 : x24.toNat < 4 := x24.isLt
  have l29 : x29.toNat < 8 := x29.isLt
  have l17 : x17.toNat < 32 := x17.isLt
  have l12 : x12.toNat < 32 := x12.isLt
  have l7 : x7.toNat < 32 := x7.isLt
  exact ⟨bits_lit w 0 7 k0 1 128 rfl rfl (by omega),
    bits_lit w 26 3 k26 67108864 8 rfl rfl (by omega),
    fld_lit w 22 x22 4194304 2 rfl rfl (by omega),
    fld_lit w 23 x23 8388608 2 rfl rfl (by omega),
    fld_lit w 24 x24 16777216 4 rfl rfl (by omega),
    fld_lit w 29 x29 536870912 8 rfl rfl (by omega),
    fld_lit w 17 x17 131072 32 rfl rfl (by omega),
    fld_lit w 12 x12 4096 32 rfl rfl (by omega),
    fld_lit w 7 x7 128 32 rfl rfl (by omega),
    by omega⟩

/-- The fixed parts and the fields of the words of one layout. -/
theorem layout34 (k0 k12 k22 k26 k31 : Nat) (x23 : BitVec 1) (x24 : BitVec 2) (x29 : BitVec 1) (x30 : BitVec 1) (x17 : BitVec 5) (x7 : BitVec 5) (h0 : k0 < 128) (h12 : k12 < 32) (h22 : k22 < 2) (h26 : k26 < 8) (h31 : k31 < 2) (w : Nat)
    (hw : w = k0 + k12 * 4096 + k22 * 4194304 + k26 * 67108864 + k31 * 2147483648 + x23.toNat * 8388608 + x24.toNat * 16777216 + x29.toNat * 536870912 + x30.toNat * 1073741824 + x17.toNat * 131072 + x7.toNat * 128) :
    bitsOf w 0 7 = k0 ∧ bitsOf w 12 5 = k12 ∧ bitsOf w 22 1 = k22 ∧ bitsOf w 26 3 = k26 ∧ bitsOf w 31 1 = k31 ∧ fld w 23 1 = x23 ∧ fld w 24 2 = x24 ∧ fld w 29 1 = x29 ∧ fld w 30 1 = x30 ∧ fld w 17 5 = x17 ∧ fld w 7 5 = x7 ∧ w < 4294967296 := by
  have l23 : x23.toNat < 2 := x23.isLt
  have l24 : x24.toNat < 4 := x24.isLt
  have l29 : x29.toNat < 2 := x29.isLt
  have l30 : x30.toNat < 2 := x30.isLt
  have l17 : x17.toNat < 32 := x17.isLt
  have l7 : x7.toNat < 32 := x7.isLt
  exact ⟨bits_lit w 0 7 k0 1 128 rfl rfl (by omega),
    bits_lit w 12 5 k12 4096 32 rfl rfl (by omega),
    bits_lit w 22 1 k22 4194304 2 rfl rfl (by omega),
    bits_lit w 26 3 k26 67108864 8 rfl rfl (by omega),
    bits_lit w 31 1 k31 2147483648 2 rfl rfl (by omega),
    fld_lit w 23 x23 8388608 2 rfl rfl (by omega),
    fld_lit w 24 x24 16777216 4 rfl rfl (by omega),
    fld_lit w 29 x29 536870912 2 rfl rfl (by omega),
    fld_lit w 30 x30 1073741824 2 rfl rfl (by omega),
    fld_lit w 17 x17 131072 32 rfl rfl (by omega),
    fld_lit w 7 x7 128 32 rfl rfl (by omega),
    by omega⟩

/-- The fixed parts and the fields of the words of one layout. -/
theorem layout35 (k0 k24 : Nat) (x22 : BitVec 1) (x23 : BitVec 1) (x17 : BitVec 5) (x12 : BitVec 5) (x7 : BitVec 5) (h0 : k0 < 128) (h24 : k24 < 256) (w : Nat)
    (hw : w = k0 + k24 * 16777216 + x22.toNat * 4194304 + x23.toNat * 8388608 + x17.toNat * 131072 + x12.toNat * 4096 + x7.toNat * 128) :
    bitsOf w 0 7 = k0 ∧ bitsOf w 24 8 = k24 ∧ fld w 22 1 = x22 ∧ fld w 23 1 = x23 ∧ fld w 17 5 = x17 ∧ fld w 12 5 = x12 ∧ fld w 7 5 = x7 ∧ w < 4294967296 := by
  have l22 : x22.toNat < 2 := x22.isLt
  have l23 : x23.toNat < 2 := x23.isLt
  have l17 : x17.toNat < 32 := x17.isLt
  have l12 : x12.toNat < 32 := x12.isLt
  have l7 : x7.toNat < 32 := x7.isLt
  exact ⟨bits_lit w 0 7 k0 1 128 rfl rfl (by omega),
    bits_lit w 24 8 k24 16777216 256 rfl rfl (by omega),
    fld_lit w 22 x22 4194304 2 rfl rfl (by omega),
    fld_lit w 23 x23 8388608 2 rfl rfl (by omega),
    fld_lit w 17 x17 131072 32 rfl rfl (by omega),
    fld_lit w 12 x12 4096 32 rfl rfl (by omega),
    fld_lit w 7 x7 128 32 rfl rfl (by omega),
    by omega⟩

/-- The fixed parts and the fields of the words of one layout. -/
theorem layout36 (k0 k23 k26 : Nat) (x22 : BitVec 1) (x24 : BitVec 2) (x17 : BitVec 5) (x12 : BitVec 5) (x7 : BitVec 5) (h0 : k0 < 128) (h23 : k23 < 2) (h26 : k26 < 64) (w : Nat)
    (hw : w = k0 + k23 * 8388608 + k26 * 67108864 + x22.toNat * 4194304 + x24.toNat * 16777216 + x17.toNat * 131072 + x12.toNat * 4096 + x7.toNat * 128) :
    bitsOf w 0 7 = k0 ∧ bitsOf w 23 1 = k23 ∧ bitsOf w 26 6 = k26 ∧ fld w 22 1 = x22 ∧ fld w 24 2 = x24 ∧ fld w 17 5 = x17 ∧ fld w 12 5 = x12 ∧ fld w 7 5 = x7 ∧ w < 4294967296 := by
  have l22 : x22.toNat < 2 := x22.isLt
  have l24 : x24.toNat < 4 := x24.isLt
  have l17 : x17.toNat < 32 := x17.isLt
  have l12 : x12.toNat < 32 := x12.isLt
  have l7 : x7.toNat < 32 := x7.isLt
  exact ⟨bits_lit w 0 7 k0 1 128 rfl rfl (by omega),
    bits_lit w 23 1 k23 8388608 2 rfl rfl (by omega),
    bits_lit w 26 6 k26 67108864 64 rfl rfl (by omega),
    fld_lit w 22 x22 4194304 2 rfl rfl (by omega),
    fld_lit w 24 x24 16777216 4 rfl rfl (by omega),
    fld_lit w 17 x17 131072 32 rfl rfl (by omega),
    fld_lit w 12 x12 4096 32 rfl rfl (by omega),
    fld_lit w 7 x7 128 32 rfl rfl (by omega),
    by omega⟩

/-- The fixed parts and the fields of the words of one layout. -/
theorem layout37 (k0 k17 k29 : Nat) (x24 : BitVec 2) (x26 : BitVec 3) (x12 : BitVec 5) (x7 : BitVec 5) (h0 : k0 < 128) (h17 : k17 < 128) (h29 : k29 < 8) (w : Nat)
    (hw : w = k0 + k17 * 131072 + k29 * 536870912 + x24.toNat * 16777216 + x26.toNat * 67108864 + x12.toNat * 4096 + x7.toNat * 128) :
    bitsOf w 0 7 = k0 ∧ bitsOf w 17 7 = k17 ∧ bitsOf w 29 3 = k29 ∧ fld w 24 2 = x24 ∧ fld w 26 3 = x26 ∧ fld w 12 5 = x12 ∧ fld w 7 5 = x7 ∧ w < 4294967296 := by
  have l24 : x24.toNat < 4 := x24.isLt
  have l26 : x26.toNat < 8 := x26.isLt
  have l12 : x12.toNat < 32 := x12.isLt
  have l7 : x7.toNat < 32 := x7.isLt
  exact ⟨bits_lit w 0 7 k0 1 128 rfl rfl (by omega),
    bits_lit w 17 7 k17 131072 128 rfl rfl (by omega),
    bits_lit w 29 3 k29 536870912 8 rfl rfl (by omega),
    fld_lit w 24 x24 16777216 4 rfl rfl (by omega),
    fld_lit w 26 x26 67108864 8 rfl rfl (by omega),
    fld_lit w 12 x12 4096 32 rfl rfl (by omega),
    fld_lit w 7 x7 128 32 rfl rfl (by omega),
    by omega⟩

/-- The fixed parts and the fields of the words of one layout. -/
theorem layout38 (k0 k23 : Nat) (x22 : BitVec 1) (x24 : BitVec 2) (x26 : BitVec 4) (x30 : BitVec 2) (x17 : BitVec 5) (x12 : BitVec 5) (x7 : BitVec 5) (h0 : k0 < 128) (h23 : k23 < 2) (w : Nat)
    (hw : w = k0 + k23 * 8388608 + x22.toNat * 4194304 + x24.toNat * 16777216 + x26.toNat * 67108864 + x30.toNat * 1073741824 + x17.toNat * 131072 + x12.toNat * 4096 + x7.toNat * 128) :
    bitsOf w 0 7 = k0 ∧ bitsOf w 23 1 = k23 ∧ fld w 22 1 = x22 ∧ fld w 24 2 = x24 ∧ fld w 26 4 = x26 ∧ fld w 30 2 = x30 ∧ fld w 17 5 = x17 ∧ fld w 12 5 = x12 ∧ fld w 7 5 = x7 ∧ w < 4294967296 := by
  have l22 : x22.toNat < 2 := x22.isLt
  have l24 : x24.toNat < 4 := x24.isLt
  have l26 : x26.toNat < 16 := x26.isLt
  have l30 : x30.toNat < 4 := x30.isLt
  have l17 : x17.toNat < 32 := x17.isLt
  have l12 : x12.toNat < 32 := x12.isLt
  have l7 : x7.toNat < 32 := x7.isLt
  exact ⟨bits_lit w 0 7 k0 1 128 rfl rfl (by omega),
    bits_lit w 23 1 k23 8388608 2 rfl rfl (by omega),
    fld_lit w 22 x22 4194304 2 rfl rfl (by omega),
    fld_lit w 24 x24 16777216 4 rfl rfl (by omega),
    fld_lit w 26 x26 67108864 16 rfl rfl (by omega),
    fld_lit w 30 x30 1073741824 4 rfl rfl (by omega),
    fld_lit w 17 x17 131072 32 rfl rfl (by omega),
    fld_lit w 12 x12 4096 32 rfl rfl (by omega),
    fld_lit w 7 x7 128 32 rfl rfl (by omega),
    by omega⟩

/-- The fixed parts and the fields of the words of one layout. -/
theorem layout39 (k0 k7 k25 : Nat) (x20 : BitVec 3) (x23 : BitVec 2) (h0 : k0 < 128) (h7 : k7 < 8192) (h25 : k25 < 128) (w : Nat)
    (hw : w = k0 + k7 * 128 + k25 * 33554432 + x20.toNat * 1048576 + x23.toNat * 8388608) :
    bitsOf w 0 7 = k0 ∧ bitsOf w 7 13 = k7 ∧ bitsOf w 25 7 = k25 ∧ fld w 20 3 = x20 ∧ fld w 23 2 = x23 ∧ w < 4294967296 := by
  have l20 : x20.toNat < 8 := x20.isLt
  have l23 : x23.toNat < 4 := x23.isLt
  exact ⟨bits_lit w 0 7 k0 1 128 rfl rfl (by omega),
    bits_lit w 7 13 k7 128 8192 rfl rfl (by omega),
    bits_lit w 25 7 k25 33554432 128 rfl rfl (by omega),
    fld_lit w 20 x20 1048576 8 rfl rfl (by omega),
    fld_lit w 23 x23 8388608 4 rfl rfl (by omega),
    by omega⟩

/-- The fixed parts and the fields of the words of one layout. -/
theorem layout40 (k0 k7 k23 : Nat) (x20 : BitVec 3) (h0 : k0 < 128) (h7 : k7 < 8192) (h23 : k23 < 512) (w : Nat)
    (hw : w = k0 + k7 * 128 + k23 * 8388608 + x20.toNat * 1048576) :
    bitsOf w 0 7 = k0 ∧ bitsOf w 7 13 = k7 ∧ bitsOf w 23 9 = k23 ∧ fld w 20 3 = x20 ∧ w < 4294967296 := by
  have l20 : x20.toNat < 8 := x20.isLt
  exact ⟨bits_lit w 0 7 k0 1 128 rfl rfl (by omega),
    bits_lit w 7 13 k7 128 8192 rfl rfl (by omega),
    bits_lit w 23 9 k23 8388608 512 rfl rfl (by omega),
    fld_lit w 20 x20 1048576 8 rfl rfl (by omega),
    by omega⟩

/-- The fixed parts and the fields of the words of one layout. -/
theorem layout41 (k0 k7 k17 k22 : Nat) (x20 : BitVec 2) (x12 : BitVec 5) (h0 : k0 < 128) (h7 : k7 < 32) (h17 : k17 < 8) (h22 : k22 < 1024) (w : Nat)
    (hw : w = k0 + k7 * 128 + k17 * 131072 + k22 * 4194304 + x20.toNat * 1048576 + x12.toNat * 4096) :
    bitsOf w 0 7 = k0 ∧ bitsOf w 7 5 = k7 ∧ bitsOf w 17 3 = k17 ∧ bitsOf w 22 10 = k22 ∧ fld w 20 2 = x20 ∧ fld w 12 5 = x12 ∧ w < 4294967296 := by
  have l20 : x20.toNat < 4 := x20.isLt
  have l12 : x12.toNat < 32 := x12.isLt
  exact ⟨bits_lit w 0 7 k0 1 128 rfl rfl (by omega),
    bits_lit w 7 5 k7 128 32 rfl rfl (by omega),
    bits_lit w 17 3 k17 131072 8 rfl rfl (by omega),
    bits_lit w 22 10 k22 4194304 1024 rfl rfl (by omega),
    fld_lit w 20 x20 1048576 4 rfl rfl (by omega),
    fld_lit w 12 x12 4096 32 rfl rfl (by omega),
    by omega⟩

/-- The fixed parts and the fields of the words of one layout. -/
theorem layout42 (k0 k17 : Nat) (x29 : BitVec 3) (x12 : BitVec 5) (x7 : BitVec 5) (h0 : k0 < 128) (h17 : k17 < 4096) (w : Nat)
    (hw : w = k0 + k17 * 131072 + x29.toNat * 536870912 + x12.toNat * 4096 + x7.toNat * 128) :
    bitsOf w 0 7 = k0 ∧ bitsOf w 17 12 = k17 ∧ fld w 29 3 = x29 ∧ fld w 12 5 = x12 ∧ fld w 7 5 = x7 ∧ w < 4294967296 := by
  have l29 : x29.toNat < 8 := x29.isLt
  have l12 : x12.toNat < 32 := x12.isLt
  have l7 : x7.toNat < 32 := x7.isLt
  exact ⟨bits_lit w 0 7 k0 1 128 rfl rfl (by omega),
    bits_lit w 17 12 k17 131072 4096 rfl rfl (by omega),
    fld_lit w 29 x29 536870912 8 rfl rfl (by omega),
    fld_lit w 12 x12 4096 32 rfl rfl (by omega),
    fld_lit w 7 x7 128 32 rfl rfl (by omega),
    by omega⟩

/-- The fixed parts and the fields of the words of one layout. -/
theorem layout43 (k0 k7 k26 : Nat) (x22 : BitVec 4) (x17 : BitVec 5) (x12 : BitVec 5) (h0 : k0 < 128) (h7 : k7 < 32) (h26 : k26 < 64) (w : Nat)
    (hw : w = k0 + k7 * 128 + k26 * 67108864 + x22.toNat * 4194304 + x17.toNat * 131072 + x12.toNat * 4096) :
    bitsOf w 0 7 = k0 ∧ bitsOf w 7 5 = k7 ∧ bitsOf w 26 6 = k26 ∧ fld w 22 4 = x22 ∧ fld w 17 5 = x17 ∧ fld w 12 5 = x12 ∧ w < 4294967296 := by
  have l22 : x22.toNat < 16 := x22.isLt
  have l17 : x17.toNat < 32 := x17.isLt
  have l12 : x12.toNat < 32 := x12.isLt
  exact ⟨bits_lit w 0 7 k0 1 128 rfl rfl (by omega),
    bits_lit w 7 5 k7 128 32 rfl rfl (by omega),
    bits_lit w 26 6 k26 67108864 64 rfl rfl (by omega),
    fld_lit w 22 x22 4194304 16 rfl rfl (by omega),
    fld_lit w 17 x17 131072 32 rfl rfl (by omega),
    fld_lit w 12 x12 4096 32 rfl rfl (by omega),
    by omega⟩

/-- The fixed parts and the fields of the words of one layout. -/
theorem layout44 (k0 k7 k17 k26 : Nat) (x22 : BitVec 4) (x12 : BitVec 5) (h0 : k0 < 128) (h7 : k7 < 32) (h17 : k17 < 32) (h26 : k26 < 64) (w : Nat)
    (hw : w = k0 + k7 * 128 + k17 * 131072 + k26 * 67108864 + x22.toNat * 4194304 + x12.toNat * 4096) :
    bitsOf w 0 7 = k0 ∧ bitsOf w 7 5 = k7 ∧ bitsOf w 17 5 = k17 ∧ bitsOf w 26 6 = k26 ∧ fld w 22 4 = x22 ∧ fld w 12 5 = x12 ∧ w < 4294967296 := by
  have l22 : x22.toNat < 16 := x22.isLt
  have l12 : x12.toNat < 32 := x12.isLt
  exact ⟨bits_lit w 0 7 k0 1 128 rfl rfl (by omega),
    bits_lit w 7 5 k7 128 32 rfl rfl (by omega),
    bits_lit w 17 5 k17 131072 32 rfl rfl (by omega),
    bits_lit w 26 6 k26 67108864 64 rfl rfl (by omega),
    fld_lit w 22 x22 4194304 16 rfl rfl (by omega),
    fld_lit w 12 x12 4096 32 rfl rfl (by omega),
    by omega⟩

/-- The fixed parts and the fields of the words of one layout. -/
theorem layout45 (k0 k12 k26 : Nat) (x22 : BitVec 4) (x29 : BitVec 2) (x31 : BitVec 1) (x7 : BitVec 5) (h0 : k0 < 128) (h12 : k12 < 1024) (h26 : k26 < 8) (w : Nat)
    (hw : w = k0 + k12 * 4096 + k26 * 67108864 + x22.toNat * 4194304 + x29.toNat * 536870912 + x31.toNat * 2147483648 + x7.toNat * 128) :
    bitsOf w 0 7 = k0 ∧ bitsOf w 12 10 = k12 ∧ bitsOf w 26 3 = k26 ∧ fld w 22 4 = x22 ∧ fld w 29 2 = x29 ∧ fld w 31 1 = x31 ∧ fld w 7 5 = x7 ∧ w < 4294967296 := by
  have l22 : x22.toNat < 16 := x22.isLt
  have l29 : x29.toNat < 4 := x29.isLt
  have l31 : x31.toNat < 2 := x31.isLt
  have l7 : x7.toNat < 32 := x7.isLt
  exact ⟨bits_lit w 0 7 k0 1 128 rfl rfl (by omega),
    bits_lit w 12 10 k12 4096 1024 rfl rfl (by omega),
    bits_lit w 26 3 k26 67108864 8 rfl rfl (by omega),
    fld_lit w 22 x22 4194304 16 rfl rfl (by omega),
    fld_lit w 29 x29 536870912 4 rfl rfl (by omega),
    fld_lit w 31 x31 2147483648 2 rfl rfl (by omega),
    fld_lit w 7 x7 128 32 rfl rfl (by omega),
    by omega⟩

/-- The fixed parts and the fields of the words of one layout. -/
theorem layout46 (k0 k17 k26 k31 : Nat) (x22 : BitVec 4) (x29 : BitVec 2) (x12 : BitVec 5) (x7 : BitVec 5) (h0 : k0 < 128) (h17 : k17 < 32) (h26 : k26 < 8) (h31 : k31 < 2) (w : Nat)
    (hw : w = k0 + k17 * 131072 + k26 * 67108864 + k31 * 2147483648 + x22.toNat * 4194304 + x29.toNat * 536870912 + x12.toNat * 4096 + x7.toNat * 128) :
    bitsOf w 0 7 = k0 ∧ bitsOf w 17 5 = k17 ∧ bitsOf w 26 3 = k26 ∧ bitsOf w 31 1 = k31 ∧ fld w 22 4 = x22 ∧ fld w 29 2 = x29 ∧ fld w 12 5 = x12 ∧ fld w 7 5 = x7 ∧ w < 4294967296 := by
  have l22 : x22.toNat < 16 := x22.isLt
  have l29 : x29.toNat < 4 := x29.isLt
  have l12 : x12.toNat < 32 := x12.isLt
  have l7 : x7.toNat < 32 := x7.isLt
  exact ⟨bits_lit w 0 7 k0 1 128 rfl rfl (by omega),
    bits_lit w 17 5 k17 131072 32 rfl rfl (by omega),
    bits_lit w 26 3 k26 67108864 8 rfl rfl (by omega),
    bits_lit w 31 1 k31 2147483648 2 rfl rfl (by omega),
    fld_lit w 22 x22 4194304 16 rfl rfl (by omega),
    fld_lit w 29 x29 536870912 4 rfl rfl (by omega),
    fld_lit w 12 x12 4096 32 rfl rfl (by omega),
    fld_lit w 7 x7 128 32 rfl rfl (by omega),
    by omega⟩

/-- The fixed parts and the fields of the words of one layout. -/
theorem layout47 (k0 k17 k26 : Nat) (x22 : BitVec 4) (x29 : BitVec 1) (x30 : BitVec 2) (x12 : BitVec 5) (x7 : BitVec 5) (h0 : k0 < 128) (h17 : k17 < 32) (h26 : k26 < 8) (w : Nat)
    (hw : w = k0 + k17 * 131072 + k26 * 67108864 + x22.toNat * 4194304 + x29.toNat * 536870912 + x30.toNat * 1073741824 + x12.toNat * 4096 + x7.toNat * 128) :
    bitsOf w 0 7 = k0 ∧ bitsOf w 17 5 = k17 ∧ bitsOf w 26 3 = k26 ∧ fld w 22 4 = x22 ∧ fld w 29 1 = x29 ∧ fld w 30 2 = x30 ∧ fld w 12 5 = x12 ∧ fld w 7 5 = x7 ∧ w < 4294967296 := by
  have l22 : x22.toNat < 16 := x22.isLt
  have l29 : x29.toNat < 2 := x29.isLt
  have l30 : x30.toNat < 4 := x30.isLt
  have l12 : x12.toNat < 32 := x12.isLt
  have l7 : x7.toNat < 32 := x7.isLt
  exact ⟨bits_lit w 0 7 k0 1 128 rfl rfl (by omega),
    bits_lit w 17 5 k17 131072 32 rfl rfl (by omega),
    bits_lit w 26 3 k26 67108864 8 rfl rfl (by omega),
    fld_lit w 22 x22 4194304 16 rfl rfl (by omega),
    fld_lit w 29 x29 536870912 2 rfl rfl (by omega),
    fld_lit w 30 x30 1073741824 4 rfl rfl (by omega),
    fld_lit w 12 x12 4096 32 rfl rfl (by omega),
    fld_lit w 7 x7 128 32 rfl rfl (by omega),
    by omega⟩

/-- The fixed parts and the fields of the words of one layout. -/
theorem layout48 (k0 k26 : Nat) (x22 : BitVec 4) (x29 : BitVec 1) (x30 : BitVec 1) (x31 : BitVec 1) (x17 : BitVec 5) (x12 : BitVec 5) (x7 : BitVec 5) (h0 : k0 < 128) (h26 : k26 < 8) (w : Nat)
    (hw : w = k0 + k26 * 67108864 + x22.toNat * 4194304 + x29.toNat * 536870912 + x30.toNat * 1073741824 + x31.toNat * 2147483648 + x17.toNat * 131072 + x12.toNat * 4096 + x7.toNat * 128) :
    bitsOf w 0 7 = k0 ∧ bitsOf w 26 3 = k26 ∧ fld w 22 4 = x22 ∧ fld w 29 1 = x29 ∧ fld w 30 1 = x30 ∧ fld w 31 1 = x31 ∧ fld w 17 5 = x17 ∧ fld w 12 5 = x12 ∧ fld w 7 5 = x7 ∧ w < 4294967296 := by
  have l22 : x22.toNat < 16 := x22.isLt
  have l29 : x29.toNat < 2 := x29.isLt
  have l30 : x30.toNat < 2 := x30.isLt
  have l31 : x31.toNat < 2 := x31.isLt
  have l17 : x17.toNat < 32 := x17.isLt
  have l12 : x12.toNat < 32 := x12.isLt
  have l7 : x7.toNat < 32 := x7.isLt
  exact ⟨bits_lit w 0 7 k0 1 128 rfl rfl (by omega),
    bits_lit w 26 3 k26 67108864 8 rfl rfl (by omega),
    fld_lit w 22 x22 4194304 16 rfl rfl (by omega),
    fld_lit w 29 x29 536870912 2 rfl rfl (by omega),
    fld_lit w 30 x30 1073741824 2 rfl rfl (by omega),
    fld_lit w 31 x31 2147483648 2 rfl rfl (by omega),
    fld_lit w 17 x17 131072 32 rfl rfl (by omega),
    fld_lit w 12 x12 4096 32 rfl rfl (by omega),
    fld_lit w 7 x7 128 32 rfl rfl (by omega),
    by omega⟩

/-- The fixed parts and the fields of the words of one layout. -/
theorem layout49 (k0 k26 : Nat) (x22 : BitVec 4) (x29 : BitVec 2) (x31 : BitVec 1) (x17 : BitVec 5) (x12 : BitVec 5) (x7 : BitVec 5) (h0 : k0 < 128) (h26 : k26 < 8) (w : Nat)
    (hw : w = k0 + k26 * 67108864 + x22.toNat * 4194304 + x29.toNat * 536870912 + x31.toNat * 2147483648 + x17.toNat * 131072 + x12.toNat * 4096 + x7.toNat * 128) :
    bitsOf w 0 7 = k0 ∧ bitsOf w 26 3 = k26 ∧ fld w 22 4 = x22 ∧ fld w 29 2 = x29 ∧ fld w 31 1 = x31 ∧ fld w 17 5 = x17 ∧ fld w 12 5 = x12 ∧ fld w 7 5 = x7 ∧ w < 4294967296 := by
  have l22 : x22.toNat < 16 := x22.isLt
  have l29 : x29.toNat < 4 := x29.isLt
  have l31 : x31.toNat < 2 := x31.isLt
  have l17 : x17.toNat < 32 := x17.isLt
  have l12 : x12.toNat < 32 := x12.isLt
  have l7 : x7.toNat < 32 := x7.isLt
  exact ⟨bits_lit w 0 7 k0 1 128 rfl rfl (by omega),
    bits_lit w 26 3 k26 67108864 8 rfl rfl (by omega),
    fld_lit w 22 x22 4194304 16 rfl rfl (by omega),
    fld_lit w 29 x29 536870912 4 rfl rfl (by omega),
    fld_lit w 31 x31 2147483648 2 rfl rfl (by omega),
    fld_lit w 17 x17 131072 32 rfl rfl (by omega),
    fld_lit w 12 x12 4096 32 rfl rfl (by omega),
    fld_lit w 7 x7 128 32 rfl rfl (by omega),
    by omega⟩

/-- The fixed parts and the fields of the words of one layout. -/
theorem layout50 (k0 k17 k26 : Nat) (x22 : BitVec 4) (x12 : BitVec 5) (x7 : BitVec 5) (h0 : k0 < 128) (h17 : k17 < 32) (h26 : k26 < 64) (w : Nat)
    (hw : w = k0 + k17 * 131072 + k26 * 67108864 + x22.toNat * 4194304 + x12.toNat * 4096 + x7.toNat * 128) :
    bitsOf w 0 7 = k0 ∧ bitsOf w 17 5 = k17 ∧ bitsOf w 26 6 = k26 ∧ fld w 22 4 = x22 ∧ fld w 12 5 = x12 ∧ fld w 7 5 = x7 ∧ w < 4294967296 := by
  have l22 : x22.toNat < 16 := x22.isLt
  have l12 : x12.toNat < 32 := x12.isLt
  have l7 : x7.toNat < 32 := x7.isLt
  exact ⟨bits_lit w 0 7 k0 1 128 rfl rfl (by omega),
    bits_lit w 17 5 k17 131072 32 rfl rfl (by omega),
    bits_lit w 26 6 k26 67108864 64 rfl rfl (by omega),
    fld_lit w 22 x22 4194304 16 rfl rfl (by omega),
    fld_lit w 12 x12 4096 32 rfl rfl (by omega),
    fld_lit w 7 x7 128 32 rfl rfl (by omega),
    by omega⟩

/-- The fixed parts and the fields of the words of one layout. -/
theorem layout51 (k0 k12 k26 : Nat) (x22 : BitVec 4) (x7 : BitVec 5) (h0 : k0 < 128) (h12 : k12 < 1024) (h26 : k26 < 64) (w : Nat)
    (hw : w = k0 + k12 * 4096 + k26 * 67108864 + x22.toNat * 4194304 + x7.toNat * 128) :
    bitsOf w 0 7 = k0 ∧ bitsOf w 12 10 = k12 ∧ bitsOf w 26 6 = k26 ∧ fld w 22 4 = x22 ∧ fld w 7 5 = x7 ∧ w < 4294967296 := by
  have l22 : x22.toNat < 16 := x22.isLt
  have l7 : x7.toNat < 32 := x7.isLt
  exact ⟨bits_lit w 0 7 k0 1 128 rfl rfl (by omega),
    bits_lit w 12 10 k12 4096 1024 rfl rfl (by omega),
    bits_lit w 26 6 k26 67108864 64 rfl rfl (by omega),
    fld_lit w 22 x22 4194304 16 rfl rfl (by omega),
    fld_lit w 7 x7 128 32 rfl rfl (by omega),
    by omega⟩

/-- The fixed parts and the fields of the words of one layout. -/
theorem layout52 (k0 k17 k23 : Nat) (x22 : BitVec 1) (x12 : BitVec 5) (x7 : BitVec 5) (h0 : k0 < 128) (h17 : k17 < 32) (h23 : k23 < 512) (w : Nat)
    (hw : w = k0 + k17 * 131072 + k23 * 8388608 + x22.toNat * 4194304 + x12.toNat * 4096 + x7.toNat * 128) :
    bitsOf w 0 7 = k0 ∧ bitsOf w 17 5 = k17 ∧ bitsOf w 23 9 = k23 ∧ fld w 22 1 = x22 ∧ fld w 12 5 = x12 ∧ fld w 7 5 = x7 ∧ w < 4294967296 := by
  have l22 : x22.toNat < 2 := x22.isLt
  have l12 : x12.toNat < 32 := x12.isLt
  have l7 : x7.toNat < 32 := x7.isLt
  exact ⟨bits_lit w 0 7 k0 1 128 rfl rfl (by omega),
    bits_lit w 17 5 k17 131072 32 rfl rfl (by omega),
    bits_lit w 23 9 k23 8388608 512 rfl rfl (by omega),
    fld_lit w 22 x22 4194304 2 rfl rfl (by omega),
    fld_lit w 12 x12 4096 32 rfl rfl (by omega),
    fld_lit w 7 x7 128 32 rfl rfl (by omega),
    by omega⟩

/-- The fixed parts and the fields of the words of one layout. -/
theorem layout53 (k0 k17 k30 : Nat) (x22 : BitVec 8) (x12 : BitVec 5) (x7 : BitVec 5) (h0 : k0 < 128) (h17 : k17 < 32) (h30 : k30 < 4) (w : Nat)
    (hw : w = k0 + k17 * 131072 + k30 * 1073741824 + x22.toNat * 4194304 + x12.toNat * 4096 + x7.toNat * 128) :
    bitsOf w 0 7 = k0 ∧ bitsOf w 17 5 = k17 ∧ bitsOf w 30 2 = k30 ∧ fld w 22 8 = x22 ∧ fld w 12 5 = x12 ∧ fld w 7 5 = x7 ∧ w < 4294967296 := by
  have l22 : x22.toNat < 256 := x22.isLt
  have l12 : x12.toNat < 32 := x12.isLt
  have l7 : x7.toNat < 32 := x7.isLt
  exact ⟨bits_lit w 0 7 k0 1 128 rfl rfl (by omega),
    bits_lit w 17 5 k17 131072 32 rfl rfl (by omega),
    bits_lit w 30 2 k30 1073741824 4 rfl rfl (by omega),
    fld_lit w 22 x22 4194304 256 rfl rfl (by omega),
    fld_lit w 12 x12 4096 32 rfl rfl (by omega),
    fld_lit w 7 x7 128 32 rfl rfl (by omega),
    by omega⟩

/-- The fixed parts and the fields of the words of one layout. -/
theorem layout54 (k0 k7 k30 : Nat) (x22 : BitVec 8) (x17 : BitVec 5) (x12 : BitVec 5) (h0 : k0 < 128) (h7 : k7 < 32) (h30 : k30 < 4) (w : Nat)
    (hw : w = k0 + k7 * 128 + k30 * 1073741824 + x22.toNat * 4194304 + x17.toNat * 131072 + x12.toNat * 4096) :
    bitsOf w 0 7 = k0 ∧ bitsOf w 7 5 = k7 ∧ bitsOf w 30 2 = k30 ∧ fld w 22 8 = x22 ∧ fld w 17 5 = x17 ∧ fld w 12 5 = x12 ∧ w < 4294967296 := by
  have l22 : x22.toNat < 256 := x22.isLt
  have l17 : x17.toNat < 32 := x17.isLt
  have l12 : x12.toNat < 32 := x12.isLt
  exact ⟨bits_lit w 0 7 k0 1 128 rfl rfl (by omega),
    bits_lit w 7 5 k7 128 32 rfl rfl (by omega),
    bits_lit w 30 2 k30 1073741824 4 rfl rfl (by omega),
    fld_lit w 22 x22 4194304 256 rfl rfl (by omega),
    fld_lit w 17 x17 131072 32 rfl rfl (by omega),
    fld_lit w 12 x12 4096 32 rfl rfl (by omega),
    by omega⟩

/-- The fixed parts and the fields of the words of one layout. -/
theorem layout55 (k0 k16 k30 : Nat) (x22 : BitVec 8) (x17 : BitVec 5) (x12 : BitVec 4) (x7 : BitVec 5) (h0 : k0 < 128) (h16 : k16 < 2) (h30 : k30 < 4) (w : Nat)
    (hw : w = k0 + k16 * 65536 + k30 * 1073741824 + x22.toNat * 4194304 + x17.toNat * 131072 + x12.toNat * 4096 + x7.toNat * 128) :
    bitsOf w 0 7 = k0 ∧ bitsOf w 16 1 = k16 ∧ bitsOf w 30 2 = k30 ∧ fld w 22 8 = x22 ∧ fld w 17 5 = x17 ∧ fld w 12 4 = x12 ∧ fld w 7 5 = x7 ∧ w < 4294967296 := by
  have l22 : x22.toNat < 256 := x22.isLt
  have l17 : x17.toNat < 32 := x17.isLt
  have l12 : x12.toNat < 16 := x12.isLt
  have l7 : x7.toNat < 32 := x7.isLt
  exact ⟨bits_lit w 0 7 k0 1 128 rfl rfl (by omega),
    bits_lit w 16 1 k16 65536 2 rfl rfl (by omega),
    bits_lit w 30 2 k30 1073741824 4 rfl rfl (by omega),
    fld_lit w 22 x22 4194304 256 rfl rfl (by omega),
    fld_lit w 17 x17 131072 32 rfl rfl (by omega),
    fld_lit w 12 x12 4096 16 rfl rfl (by omega),
    fld_lit w 7 x7 128 32 rfl rfl (by omega),
    by omega⟩

/-- The fixed parts and the fields of the words of one layout. -/
theorem layout56 (k0 : Nat) (x22 : BitVec 8) (x30 : BitVec 1) (x31 : BitVec 1) (x17 : BitVec 5) (x12 : BitVec 5) (x7 : BitVec 5) (h0 : k0 < 128) (w : Nat)
    (hw : w = k0 + x22.toNat * 4194304 + x30.toNat * 1073741824 + x31.toNat * 2147483648 + x17.toNat * 131072 + x12.toNat * 4096 + x7.toNat * 128) :
    bitsOf w 0 7 = k0 ∧ fld w 22 8 = x22 ∧ fld w 30 1 = x30 ∧ fld w 31 1 = x31 ∧ fld w 17 5 = x17 ∧ fld w 12 5 = x12 ∧ fld w 7 5 = x7 ∧ w < 4294967296 := by
  have l22 : x22.toNat < 256 := x22.isLt
  have l30 : x30.toNat < 2 := x30.isLt
  have l31 : x31.toNat < 2 := x31.isLt
  have l17 : x17.toNat < 32 := x17.isLt
  have l12 : x12.toNat < 32 := x12.isLt
  have l7 : x7.toNat < 32 := x7.isLt
  exact ⟨bits_lit w 0 7 k0 1 128 rfl rfl (by omega),
    fld_lit w 22 x22 4194304 256 rfl rfl (by omega),
    fld_lit w 30 x30 1073741824 2 rfl rfl (by omega),
    fld_lit w 31 x31 2147483648 2 rfl rfl (by omega),
    fld_lit w 17 x17 131072 32 rfl rfl (by omega),
    fld_lit w 12 x12 4096 32 rfl rfl (by omega),
    fld_lit w 7 x7 128 32 rfl rfl (by omega),
    by omega⟩

/-- The fixed parts and the fields of the words of one layout. -/
theorem layout57 (k0 k7 : Nat) (x22 : BitVec 8) (x30 : BitVec 2) (x17 : BitVec 5) (x12 : BitVec 5) (h0 : k0 < 128) (h7 : k7 < 32) (w : Nat)
    (hw : w = k0 + k7 * 128 + x22.toNat * 4194304 + x30.toNat * 1073741824 + x17.toNat * 131072 + x12.toNat * 4096) :
    bitsOf w 0 7 = k0 ∧ bitsOf w 7 5 = k7 ∧ fld w 22 8 = x22 ∧ fld w 30 2 = x30 ∧ fld w 17 5 = x17 ∧ fld w 12 5 = x12 ∧ w < 4294967296 := by
  have l22 : x22.toNat < 256 := x22.isLt
  have l30 : x30.toNat < 4 := x30.isLt
  have l17 : x17.toNat < 32 := x17.isLt
  have l12 : x12.toNat < 32 := x12.isLt
  exact ⟨bits_lit w 0 7 k0 1 128 rfl rfl (by omega),
    bits_lit w 7 5 k7 128 32 rfl rfl (by omega),
    fld_lit w 22 x22 4194304 256 rfl rfl (by omega),
    fld_lit w 30 x30 1073741824 4 rfl rfl (by omega),
    fld_lit w 17 x17 131072 32 rfl rfl (by omega),
    fld_lit w 12 x12 4096 32 rfl rfl (by omega),
    by omega⟩

/-- The fixed parts and the fields of the words of one layout. -/
theorem layout58 (k0 k7 k17 k30 : Nat) (x22 : BitVec 8) (x12 : BitVec 5) (h0 : k0 < 128) (h7 : k7 < 32) (h17 : k17 < 32) (h30 : k30 < 4) (w : Nat)
    (hw : w = k0 + k7 * 128 + k17 * 131072 + k30 * 1073741824 + x22.toNat * 4194304 + x12.toNat * 4096) :
    bitsOf w 0 7 = k0 ∧ bitsOf w 7 5 = k7 ∧ bitsOf w 17 5 = k17 ∧ bitsOf w 30 2 = k30 ∧ fld w 22 8 = x22 ∧ fld w 12 5 = x12 ∧ w < 4294967296 := by
  have l22 : x22.toNat < 256 := x22.isLt
  have l12 : x12.toNat < 32 := x12.isLt
  exact ⟨bits_lit w 0 7 k0 1 128 rfl rfl (by omega),
    bits_lit w 7 5 k7 128 32 rfl rfl (by omega),
    bits_lit w 17 5 k17 131072 32 rfl rfl (by omega),
    bits_lit w 30 2 k30 1073741824 4 rfl rfl (by omega),
    fld_lit w 22 x22 4194304 256 rfl rfl (by omega),
    fld_lit w 12 x12 4096 32 rfl rfl (by omega),
    by omega⟩

/-- The fixed parts and the fields of the words of one layout. -/
theorem layout59 (k0 k7 k17 : Nat) (x20 : BitVec 6) (x26 : BitVec 6) (x12 : BitVec 5) (h0 : k0 < 128) (h7 : k7 < 32) (h17 : k17 < 8) (w : Nat)
    (hw : w = k0 + k7 * 128 + k17 * 131072 + x20.toNat * 1048576 + x26.toNat * 67108864 + x12.toNat * 4096) :
    bitsOf w 0 7 = k0 ∧ bitsOf w 7 5 = k7 ∧ bitsOf w 17 3 = k17 ∧ fld w 20 6 = x20 ∧ fld w 26 6 = x26 ∧ fld w 12 5 = x12 ∧ w < 4294967296 := by
  have l20 : x20.toNat < 64 := x20.isLt
  have l26 : x26.toNat < 64 := x26.isLt
  have l12 : x12.toNat < 32 := x12.isLt
  exact ⟨bits_lit w 0 7 k0 1 128 rfl rfl (by omega),
    bits_lit w 7 5 k7 128 32 rfl rfl (by omega),
    bits_lit w 17 3 k17 131072 8 rfl rfl (by omega),
    fld_lit w 20 x20 1048576 64 rfl rfl (by omega),
    fld_lit w 26 x26 67108864 64 rfl rfl (by omega),
    fld_lit w 12 x12 4096 32 rfl rfl (by omega),
    by omega⟩

/-- The fixed parts and the fields of the words of one layout. -/
theorem layout60 (k0 k17 k28 : Nat) (x20 : BitVec 6) (x26 : BitVec 2) (x12 : BitVec 5) (x7 : BitVec 5) (h0 : k0 < 128) (h17 : k17 < 8) (h28 : k28 < 16) (w : Nat)
    (hw : w = k0 + k17 * 131072 + k28 * 268435456 + x20.toNat * 1048576 + x26.toNat * 67108864 + x12.toNat * 4096 + x7.toNat * 128) :
    bitsOf w 0 7 = k0 ∧ bitsOf w 17 3 = k17 ∧ bitsOf w 28 4 = k28 ∧ fld w 20 6 = x20 ∧ fld w 26 2 = x26 ∧ fld w 12 5 = x12 ∧ fld w 7 5 = x7 ∧ w < 4294967296 := by
  have l20 : x20.toNat < 64 := x20.isLt
  have l26 : x26.toNat < 4 := x26.isLt
  have l12 : x12.toNat < 32 := x12.isLt
  have l7 : x7.toNat < 32 := x7.isLt
  exact ⟨bits_lit w 0 7 k0 1 128 rfl rfl (by omega),
    bits_lit w 17 3 k17 131072 8 rfl rfl (by omega),
    bits_lit w 28 4 k28 268435456 16 rfl rfl (by omega),
    fld_lit w 20 x20 1048576 64 rfl rfl (by omega),
    fld_lit w 26 x26 67108864 4 rfl rfl (by omega),
    fld_lit w 12 x12 4096 32 rfl rfl (by omega),
    fld_lit w 7 x7 128 32 rfl rfl (by omega),
    by omega⟩

/-- The fixed parts and the fields of the words of one layout. -/
theorem layout61 (k0 k25 k30 : Nat) (x22 : BitVec 3) (x29 : BitVec 1) (x17 : BitVec 5) (x12 : BitVec 5) (x7 : BitVec 5) (h0 : k0 < 128) (h25 : k25 < 16) (h30 : k30 < 4) (w : Nat)
    (hw : w = k0 + k25 * 33554432 + k30 * 1073741824 + x22.toNat * 4194304 + x29.toNat * 536870912 + x17.toNat * 131072 + x12.toNat * 4096 + x7.toNat * 128) :
    bitsOf w 0 7 = k0 ∧ bitsOf w 25 4 = k25 ∧ bitsOf w 30 2 = k30 ∧ fld w 22 3 = x22 ∧ fld w 29 1 = x29 ∧ fld w 17 5 = x17 ∧ fld w 12 5 = x12 ∧ fld w 7 5 = x7 ∧ w < 4294967296 := by
  have l22 : x22.toNat < 8 := x22.isLt
  have l29 : x29.toNat < 2 := x29.isLt
  have l17 : x17.toNat < 32 := x17.isLt
  have l12 : x12.toNat < 32 := x12.isLt
  have l7 : x7.toNat < 32 := x7.isLt
  exact ⟨bits_lit w 0 7 k0 1 128 rfl rfl (by omega),
    bits_lit w 25 4 k25 33554432 16 rfl rfl (by omega),
    bits_lit w 30 2 k30 1073741824 4 rfl rfl (by omega),
    fld_lit w 22 x22 4194304 8 rfl rfl (by omega),
    fld_lit w 29 x29 536870912 2 rfl rfl (by omega),
    fld_lit w 17 x17 131072 32 rfl rfl (by omega),
    fld_lit w 12 x12 4096 32 rfl rfl (by omega),
    fld_lit w 7 x7 128 32 rfl rfl (by omega),
    by omega⟩

theorem WordRoundTrip.add (d : BitVec 5) (a : BitVec 5) (b : BitVec 5) : WordRoundTrip.Statement (.add d a b) := by
  intro hw
  have hv : encodeNat (.add d a b) =
    0 + 0 * 4194304 + b.toNat * 131072 + a.toNat * 4096 + d.toNat * 128 := rfl
  generalize encodeNat (.add d a b) = w' at hv ⊢
  obtain ⟨r0, r22, f0, f1, f2, lt⟩ := layout0 0 0 b a d (by decide) (by decide) w' hv
  refine ⟨?_, ?_, lt⟩
  · rw [raw_00 w' r0]
    simp only [rawMajor00, r22, f2, f1, f0]
  · rintro rfl
    have z0 : d = 0 := BitVec.eq_of_toNat_eq (by simp; omega)
    have z1 : a = 0 := BitVec.eq_of_toNat_eq (by simp; omega)
    have z2 : b = 0 := BitVec.eq_of_toNat_eq (by simp; omega)
    simp [Instr.wellFormed, z0, z1, z2] at hw

theorem WordRoundTrip.sub (d : BitVec 5) (a : BitVec 5) (b : BitVec 5) : WordRoundTrip.Statement (.sub d a b) := by
  intro _
  have hv : encodeNat (.sub d a b) =
    0 + 1 * 4194304 + b.toNat * 131072 + a.toNat * 4096 + d.toNat * 128 := rfl
  generalize encodeNat (.sub d a b) = w' at hv ⊢
  obtain ⟨r0, r22, f0, f1, f2, lt⟩ := layout0 0 1 b a d (by decide) (by decide) w' hv
  refine ⟨?_, ?_, lt⟩
  · rw [raw_00 w' r0]
    simp only [rawMajor00, r22, f2, f1, f0]
  · omega

theorem WordRoundTrip.and (d : BitVec 5) (a : BitVec 5) (b : BitVec 5) : WordRoundTrip.Statement (.and d a b) := by
  intro _
  have hv : encodeNat (.and d a b) =
    0 + 2 * 4194304 + b.toNat * 131072 + a.toNat * 4096 + d.toNat * 128 := rfl
  generalize encodeNat (.and d a b) = w' at hv ⊢
  obtain ⟨r0, r22, f0, f1, f2, lt⟩ := layout0 0 2 b a d (by decide) (by decide) w' hv
  refine ⟨?_, ?_, lt⟩
  · rw [raw_00 w' r0]
    simp only [rawMajor00, r22, f2, f1, f0]
  · omega

theorem WordRoundTrip.or (d : BitVec 5) (a : BitVec 5) (b : BitVec 5) : WordRoundTrip.Statement (.or d a b) := by
  intro _
  have hv : encodeNat (.or d a b) =
    0 + 3 * 4194304 + b.toNat * 131072 + a.toNat * 4096 + d.toNat * 128 := rfl
  generalize encodeNat (.or d a b) = w' at hv ⊢
  obtain ⟨r0, r22, f0, f1, f2, lt⟩ := layout0 0 3 b a d (by decide) (by decide) w' hv
  refine ⟨?_, ?_, lt⟩
  · rw [raw_00 w' r0]
    simp only [rawMajor00, r22, f2, f1, f0]
  · omega

theorem WordRoundTrip.xor (d : BitVec 5) (a : BitVec 5) (b : BitVec 5) : WordRoundTrip.Statement (.xor d a b) := by
  intro _
  have hv : encodeNat (.xor d a b) =
    0 + 4 * 4194304 + b.toNat * 131072 + a.toNat * 4096 + d.toNat * 128 := rfl
  generalize encodeNat (.xor d a b) = w' at hv ⊢
  obtain ⟨r0, r22, f0, f1, f2, lt⟩ := layout0 0 4 b a d (by decide) (by decide) w' hv
  refine ⟨?_, ?_, lt⟩
  · rw [raw_00 w' r0]
    simp only [rawMajor00, r22, f2, f1, f0]
  · omega

theorem WordRoundTrip.sll (d : BitVec 5) (a : BitVec 5) (b : BitVec 5) : WordRoundTrip.Statement (.sll d a b) := by
  intro _
  have hv : encodeNat (.sll d a b) =
    0 + 5 * 4194304 + b.toNat * 131072 + a.toNat * 4096 + d.toNat * 128 := rfl
  generalize encodeNat (.sll d a b) = w' at hv ⊢
  obtain ⟨r0, r22, f0, f1, f2, lt⟩ := layout0 0 5 b a d (by decide) (by decide) w' hv
  refine ⟨?_, ?_, lt⟩
  · rw [raw_00 w' r0]
    simp only [rawMajor00, r22, f2, f1, f0]
  · omega

theorem WordRoundTrip.srl (d : BitVec 5) (a : BitVec 5) (b : BitVec 5) : WordRoundTrip.Statement (.srl d a b) := by
  intro _
  have hv : encodeNat (.srl d a b) =
    0 + 6 * 4194304 + b.toNat * 131072 + a.toNat * 4096 + d.toNat * 128 := rfl
  generalize encodeNat (.srl d a b) = w' at hv ⊢
  obtain ⟨r0, r22, f0, f1, f2, lt⟩ := layout0 0 6 b a d (by decide) (by decide) w' hv
  refine ⟨?_, ?_, lt⟩
  · rw [raw_00 w' r0]
    simp only [rawMajor00, r22, f2, f1, f0]
  · omega

theorem WordRoundTrip.sra (d : BitVec 5) (a : BitVec 5) (b : BitVec 5) : WordRoundTrip.Statement (.sra d a b) := by
  intro _
  have hv : encodeNat (.sra d a b) =
    0 + 7 * 4194304 + b.toNat * 131072 + a.toNat * 4096 + d.toNat * 128 := rfl
  generalize encodeNat (.sra d a b) = w' at hv ⊢
  obtain ⟨r0, r22, f0, f1, f2, lt⟩ := layout0 0 7 b a d (by decide) (by decide) w' hv
  refine ⟨?_, ?_, lt⟩
  · rw [raw_00 w' r0]
    simp only [rawMajor00, r22, f2, f1, f0]
  · omega

theorem WordRoundTrip.slt (d : BitVec 5) (a : BitVec 5) (b : BitVec 5) : WordRoundTrip.Statement (.slt d a b) := by
  intro _
  have hv : encodeNat (.slt d a b) =
    0 + 8 * 4194304 + b.toNat * 131072 + a.toNat * 4096 + d.toNat * 128 := rfl
  generalize encodeNat (.slt d a b) = w' at hv ⊢
  obtain ⟨r0, r22, f0, f1, f2, lt⟩ := layout0 0 8 b a d (by decide) (by decide) w' hv
  refine ⟨?_, ?_, lt⟩
  · rw [raw_00 w' r0]
    simp only [rawMajor00, r22, f2, f1, f0]
  · omega

theorem WordRoundTrip.sltu (d : BitVec 5) (a : BitVec 5) (b : BitVec 5) : WordRoundTrip.Statement (.sltu d a b) := by
  intro _
  have hv : encodeNat (.sltu d a b) =
    0 + 9 * 4194304 + b.toNat * 131072 + a.toNat * 4096 + d.toNat * 128 := rfl
  generalize encodeNat (.sltu d a b) = w' at hv ⊢
  obtain ⟨r0, r22, f0, f1, f2, lt⟩ := layout0 0 9 b a d (by decide) (by decide) w' hv
  refine ⟨?_, ?_, lt⟩
  · rw [raw_00 w' r0]
    simp only [rawMajor00, r22, f2, f1, f0]
  · omega

theorem WordRoundTrip.min (d : BitVec 5) (a : BitVec 5) (b : BitVec 5) : WordRoundTrip.Statement (.min d a b) := by
  intro _
  have hv : encodeNat (.min d a b) =
    0 + 10 * 4194304 + b.toNat * 131072 + a.toNat * 4096 + d.toNat * 128 := rfl
  generalize encodeNat (.min d a b) = w' at hv ⊢
  obtain ⟨r0, r22, f0, f1, f2, lt⟩ := layout0 0 10 b a d (by decide) (by decide) w' hv
  refine ⟨?_, ?_, lt⟩
  · rw [raw_00 w' r0]
    simp only [rawMajor00, r22, f2, f1, f0]
  · omega

theorem WordRoundTrip.max (d : BitVec 5) (a : BitVec 5) (b : BitVec 5) : WordRoundTrip.Statement (.max d a b) := by
  intro _
  have hv : encodeNat (.max d a b) =
    0 + 11 * 4194304 + b.toNat * 131072 + a.toNat * 4096 + d.toNat * 128 := rfl
  generalize encodeNat (.max d a b) = w' at hv ⊢
  obtain ⟨r0, r22, f0, f1, f2, lt⟩ := layout0 0 11 b a d (by decide) (by decide) w' hv
  refine ⟨?_, ?_, lt⟩
  · rw [raw_00 w' r0]
    simp only [rawMajor00, r22, f2, f1, f0]
  · omega

theorem WordRoundTrip.minu (d : BitVec 5) (a : BitVec 5) (b : BitVec 5) : WordRoundTrip.Statement (.minu d a b) := by
  intro _
  have hv : encodeNat (.minu d a b) =
    0 + 12 * 4194304 + b.toNat * 131072 + a.toNat * 4096 + d.toNat * 128 := rfl
  generalize encodeNat (.minu d a b) = w' at hv ⊢
  obtain ⟨r0, r22, f0, f1, f2, lt⟩ := layout0 0 12 b a d (by decide) (by decide) w' hv
  refine ⟨?_, ?_, lt⟩
  · rw [raw_00 w' r0]
    simp only [rawMajor00, r22, f2, f1, f0]
  · omega

theorem WordRoundTrip.maxu (d : BitVec 5) (a : BitVec 5) (b : BitVec 5) : WordRoundTrip.Statement (.maxu d a b) := by
  intro _
  have hv : encodeNat (.maxu d a b) =
    0 + 13 * 4194304 + b.toNat * 131072 + a.toNat * 4096 + d.toNat * 128 := rfl
  generalize encodeNat (.maxu d a b) = w' at hv ⊢
  obtain ⟨r0, r22, f0, f1, f2, lt⟩ := layout0 0 13 b a d (by decide) (by decide) w' hv
  refine ⟨?_, ?_, lt⟩
  · rw [raw_00 w' r0]
    simp only [rawMajor00, r22, f2, f1, f0]
  · omega

theorem WordRoundTrip.mul (d : BitVec 5) (a : BitVec 5) (b : BitVec 5) : WordRoundTrip.Statement (.mul d a b) := by
  intro _
  have hv : encodeNat (.mul d a b) =
    1 + 0 * 4194304 + b.toNat * 131072 + a.toNat * 4096 + d.toNat * 128 := rfl
  generalize encodeNat (.mul d a b) = w' at hv ⊢
  obtain ⟨r0, r22, f0, f1, f2, lt⟩ := layout0 1 0 b a d (by decide) (by decide) w' hv
  refine ⟨?_, ?_, lt⟩
  · rw [raw_01 w' r0]
    simp only [rawMajor01, r22, f2, f1, f0]
  · rintro rfl
    exact absurd r0 (by decide)

theorem WordRoundTrip.mulh (d : BitVec 5) (a : BitVec 5) (b : BitVec 5) : WordRoundTrip.Statement (.mulh d a b) := by
  intro _
  have hv : encodeNat (.mulh d a b) =
    1 + 1 * 4194304 + b.toNat * 131072 + a.toNat * 4096 + d.toNat * 128 := rfl
  generalize encodeNat (.mulh d a b) = w' at hv ⊢
  obtain ⟨r0, r22, f0, f1, f2, lt⟩ := layout0 1 1 b a d (by decide) (by decide) w' hv
  refine ⟨?_, ?_, lt⟩
  · rw [raw_01 w' r0]
    simp only [rawMajor01, r22, f2, f1, f0]
  · rintro rfl
    exact absurd r0 (by decide)

theorem WordRoundTrip.mulhu (d : BitVec 5) (a : BitVec 5) (b : BitVec 5) : WordRoundTrip.Statement (.mulhu d a b) := by
  intro _
  have hv : encodeNat (.mulhu d a b) =
    1 + 2 * 4194304 + b.toNat * 131072 + a.toNat * 4096 + d.toNat * 128 := rfl
  generalize encodeNat (.mulhu d a b) = w' at hv ⊢
  obtain ⟨r0, r22, f0, f1, f2, lt⟩ := layout0 1 2 b a d (by decide) (by decide) w' hv
  refine ⟨?_, ?_, lt⟩
  · rw [raw_01 w' r0]
    simp only [rawMajor01, r22, f2, f1, f0]
  · rintro rfl
    exact absurd r0 (by decide)

theorem WordRoundTrip.div (d : BitVec 5) (a : BitVec 5) (b : BitVec 5) : WordRoundTrip.Statement (.div d a b) := by
  intro _
  have hv : encodeNat (.div d a b) =
    1 + 3 * 4194304 + b.toNat * 131072 + a.toNat * 4096 + d.toNat * 128 := rfl
  generalize encodeNat (.div d a b) = w' at hv ⊢
  obtain ⟨r0, r22, f0, f1, f2, lt⟩ := layout0 1 3 b a d (by decide) (by decide) w' hv
  refine ⟨?_, ?_, lt⟩
  · rw [raw_01 w' r0]
    simp only [rawMajor01, r22, f2, f1, f0]
  · rintro rfl
    exact absurd r0 (by decide)

theorem WordRoundTrip.divu (d : BitVec 5) (a : BitVec 5) (b : BitVec 5) : WordRoundTrip.Statement (.divu d a b) := by
  intro _
  have hv : encodeNat (.divu d a b) =
    1 + 4 * 4194304 + b.toNat * 131072 + a.toNat * 4096 + d.toNat * 128 := rfl
  generalize encodeNat (.divu d a b) = w' at hv ⊢
  obtain ⟨r0, r22, f0, f1, f2, lt⟩ := layout0 1 4 b a d (by decide) (by decide) w' hv
  refine ⟨?_, ?_, lt⟩
  · rw [raw_01 w' r0]
    simp only [rawMajor01, r22, f2, f1, f0]
  · rintro rfl
    exact absurd r0 (by decide)

theorem WordRoundTrip.rem (d : BitVec 5) (a : BitVec 5) (b : BitVec 5) : WordRoundTrip.Statement (.rem d a b) := by
  intro _
  have hv : encodeNat (.rem d a b) =
    1 + 5 * 4194304 + b.toNat * 131072 + a.toNat * 4096 + d.toNat * 128 := rfl
  generalize encodeNat (.rem d a b) = w' at hv ⊢
  obtain ⟨r0, r22, f0, f1, f2, lt⟩ := layout0 1 5 b a d (by decide) (by decide) w' hv
  refine ⟨?_, ?_, lt⟩
  · rw [raw_01 w' r0]
    simp only [rawMajor01, r22, f2, f1, f0]
  · rintro rfl
    exact absurd r0 (by decide)

theorem WordRoundTrip.remu (d : BitVec 5) (a : BitVec 5) (b : BitVec 5) : WordRoundTrip.Statement (.remu d a b) := by
  intro _
  have hv : encodeNat (.remu d a b) =
    1 + 6 * 4194304 + b.toNat * 131072 + a.toNat * 4096 + d.toNat * 128 := rfl
  generalize encodeNat (.remu d a b) = w' at hv ⊢
  obtain ⟨r0, r22, f0, f1, f2, lt⟩ := layout0 1 6 b a d (by decide) (by decide) w' hv
  refine ⟨?_, ?_, lt⟩
  · rw [raw_01 w' r0]
    simp only [rawMajor01, r22, f2, f1, f0]
  · rintro rfl
    exact absurd r0 (by decide)

theorem WordRoundTrip.clz (d : BitVec 5) (a : BitVec 5) : WordRoundTrip.Statement (.clz d a) := by
  intro _
  have hv : encodeNat (.clz d a) =
    2 + 0 * 131072 + a.toNat * 4096 + d.toNat * 128 := rfl
  generalize encodeNat (.clz d a) = w' at hv ⊢
  obtain ⟨r0, r17, f0, f1, lt⟩ := layout1 2 0 a d (by decide) (by decide) w' hv
  have c1 : bitsOf w' 22 3 = 0 := bits_lit w' 22 3 0 4194304 8 rfl rfl (by
    have := (d).isLt
    have := (a).isLt
    omega)
  refine ⟨?_, ?_, lt⟩
  · rw [raw_02 w' r0]
    simp only [rawMajor02, c1, f1, f0]
  · rintro rfl
    exact absurd r0 (by decide)

theorem WordRoundTrip.ctz (d : BitVec 5) (a : BitVec 5) : WordRoundTrip.Statement (.ctz d a) := by
  intro _
  have hv : encodeNat (.ctz d a) =
    2 + 32 * 131072 + a.toNat * 4096 + d.toNat * 128 := rfl
  generalize encodeNat (.ctz d a) = w' at hv ⊢
  obtain ⟨r0, r17, f0, f1, lt⟩ := layout1 2 32 a d (by decide) (by decide) w' hv
  have c1 : bitsOf w' 22 3 = 1 := bits_lit w' 22 3 1 4194304 8 rfl rfl (by
    have := (d).isLt
    have := (a).isLt
    omega)
  refine ⟨?_, ?_, lt⟩
  · rw [raw_02 w' r0]
    simp only [rawMajor02, c1, f1, f0]
  · rintro rfl
    exact absurd r0 (by decide)

theorem WordRoundTrip.popc (d : BitVec 5) (a : BitVec 5) : WordRoundTrip.Statement (.popc d a) := by
  intro _
  have hv : encodeNat (.popc d a) =
    2 + 64 * 131072 + a.toNat * 4096 + d.toNat * 128 := rfl
  generalize encodeNat (.popc d a) = w' at hv ⊢
  obtain ⟨r0, r17, f0, f1, lt⟩ := layout1 2 64 a d (by decide) (by decide) w' hv
  have c1 : bitsOf w' 22 3 = 2 := bits_lit w' 22 3 2 4194304 8 rfl rfl (by
    have := (d).isLt
    have := (a).isLt
    omega)
  refine ⟨?_, ?_, lt⟩
  · rw [raw_02 w' r0]
    simp only [rawMajor02, c1, f1, f0]
  · rintro rfl
    exact absurd r0 (by decide)

theorem WordRoundTrip.bfx (d : BitVec 5) (a : BitVec 5) (b : BitVec 5) : WordRoundTrip.Statement (.bfx d a b) := by
  intro _
  have hv : encodeNat (.bfx d a b) =
    2 + 3 * 4194304 + b.toNat * 131072 + a.toNat * 4096 + d.toNat * 128 := rfl
  generalize encodeNat (.bfx d a b) = w' at hv ⊢
  obtain ⟨r0, r22, f0, f1, f2, lt⟩ := layout0 2 3 b a d (by decide) (by decide) w' hv
  have c1 : bitsOf w' 22 3 = 3 := bits_lit w' 22 3 3 4194304 8 rfl rfl (by
    have := (d).isLt
    have := (a).isLt
    have := (b).isLt
    omega)
  refine ⟨?_, ?_, lt⟩
  · rw [raw_02 w' r0]
    simp only [rawMajor02, c1, f2, f1, f0]
  · rintro rfl
    exact absurd r0 (by decide)

theorem WordRoundTrip.bfi (d : BitVec 5) (a : BitVec 5) (b : BitVec 5) : WordRoundTrip.Statement (.bfi d a b) := by
  intro _
  have hv : encodeNat (.bfi d a b) =
    2 + 4 * 4194304 + b.toNat * 131072 + a.toNat * 4096 + d.toNat * 128 := rfl
  generalize encodeNat (.bfi d a b) = w' at hv ⊢
  obtain ⟨r0, r22, f0, f1, f2, lt⟩ := layout0 2 4 b a d (by decide) (by decide) w' hv
  have c1 : bitsOf w' 22 3 = 4 := bits_lit w' 22 3 4 4194304 8 rfl rfl (by
    have := (d).isLt
    have := (a).isLt
    have := (b).isLt
    omega)
  refine ⟨?_, ?_, lt⟩
  · rw [raw_02 w' r0]
    simp only [rawMajor02, c1, f2, f1, f0]
  · rintro rfl
    exact absurd r0 (by decide)

theorem WordRoundTrip.fshr (d : BitVec 5) (a : BitVec 5) (b : BitVec 5) (s : BitVec 6) : WordRoundTrip.Statement (.fshr d a b s) := by
  intro _
  have hv : encodeNat (.fshr d a b s) =
    2 + 5 * 4194304 + 0 * 2147483648 + s.toNat * 33554432 + b.toNat * 131072 + a.toNat * 4096 + d.toNat * 128 := rfl
  generalize encodeNat (.fshr d a b s) = w' at hv ⊢
  obtain ⟨r0, r22, r31, f0, f1, f2, f3, lt⟩ := layout2 2 5 0 s b a d (by decide) (by decide) (by decide) w' hv
  refine ⟨?_, ?_, lt⟩
  · rw [raw_02 w' r0]
    simp only [rawMajor02, r22, f3, f2, f1, f0]
  · rintro rfl
    exact absurd r0 (by decide)

theorem WordRoundTrip.addi (d : BitVec 5) (a : BitVec 5) (i : BitVec 12) : WordRoundTrip.Statement (.addi d a i) := by
  intro _
  have hv : encodeNat (.addi d a i) =
    3 + 0 * 131072 + i.toNat * 1048576 + a.toNat * 4096 + d.toNat * 128 := rfl
  generalize encodeNat (.addi d a i) = w' at hv ⊢
  obtain ⟨r0, r17, f0, f1, f2, lt⟩ := layout3 3 0 i a d (by decide) (by decide) w' hv
  refine ⟨?_, ?_, lt⟩
  · rw [raw_03 w' r0]
    simp only [rawMajor03, r17, f2, f1, f0]
  · rintro rfl
    exact absurd r0 (by decide)

theorem WordRoundTrip.andi (d : BitVec 5) (a : BitVec 5) (i : BitVec 12) : WordRoundTrip.Statement (.andi d a i) := by
  intro _
  have hv : encodeNat (.andi d a i) =
    3 + 1 * 131072 + i.toNat * 1048576 + a.toNat * 4096 + d.toNat * 128 := rfl
  generalize encodeNat (.andi d a i) = w' at hv ⊢
  obtain ⟨r0, r17, f0, f1, f2, lt⟩ := layout3 3 1 i a d (by decide) (by decide) w' hv
  refine ⟨?_, ?_, lt⟩
  · rw [raw_03 w' r0]
    simp only [rawMajor03, r17, f2, f1, f0]
  · rintro rfl
    exact absurd r0 (by decide)

theorem WordRoundTrip.ori (d : BitVec 5) (a : BitVec 5) (i : BitVec 12) : WordRoundTrip.Statement (.ori d a i) := by
  intro _
  have hv : encodeNat (.ori d a i) =
    3 + 2 * 131072 + i.toNat * 1048576 + a.toNat * 4096 + d.toNat * 128 := rfl
  generalize encodeNat (.ori d a i) = w' at hv ⊢
  obtain ⟨r0, r17, f0, f1, f2, lt⟩ := layout3 3 2 i a d (by decide) (by decide) w' hv
  refine ⟨?_, ?_, lt⟩
  · rw [raw_03 w' r0]
    simp only [rawMajor03, r17, f2, f1, f0]
  · rintro rfl
    exact absurd r0 (by decide)

theorem WordRoundTrip.xori (d : BitVec 5) (a : BitVec 5) (i : BitVec 12) : WordRoundTrip.Statement (.xori d a i) := by
  intro _
  have hv : encodeNat (.xori d a i) =
    3 + 3 * 131072 + i.toNat * 1048576 + a.toNat * 4096 + d.toNat * 128 := rfl
  generalize encodeNat (.xori d a i) = w' at hv ⊢
  obtain ⟨r0, r17, f0, f1, f2, lt⟩ := layout3 3 3 i a d (by decide) (by decide) w' hv
  refine ⟨?_, ?_, lt⟩
  · rw [raw_03 w' r0]
    simp only [rawMajor03, r17, f2, f1, f0]
  · rintro rfl
    exact absurd r0 (by decide)

theorem WordRoundTrip.slli (d : BitVec 5) (a : BitVec 5) (s : BitVec 6) : WordRoundTrip.Statement (.slli d a s) := by
  intro _
  have hv : encodeNat (.slli d a s) =
    3 + 4 * 131072 + 0 * 67108864 + s.toNat * 1048576 + a.toNat * 4096 + d.toNat * 128 := rfl
  generalize encodeNat (.slli d a s) = w' at hv ⊢
  obtain ⟨r0, r17, r26, f0, f1, f2, lt⟩ := layout4 3 4 0 s a d (by decide) (by decide) (by decide) w' hv
  refine ⟨?_, ?_, lt⟩
  · rw [raw_03 w' r0]
    simp only [rawMajor03, r17, f2, f1, f0]
  · rintro rfl
    exact absurd r0 (by decide)

theorem WordRoundTrip.srli (d : BitVec 5) (a : BitVec 5) (s : BitVec 6) : WordRoundTrip.Statement (.srli d a s) := by
  intro _
  have hv : encodeNat (.srli d a s) =
    3 + 5 * 131072 + 0 * 67108864 + s.toNat * 1048576 + a.toNat * 4096 + d.toNat * 128 := rfl
  generalize encodeNat (.srli d a s) = w' at hv ⊢
  obtain ⟨r0, r17, r26, f0, f1, f2, lt⟩ := layout4 3 5 0 s a d (by decide) (by decide) (by decide) w' hv
  refine ⟨?_, ?_, lt⟩
  · rw [raw_03 w' r0]
    simp only [rawMajor03, r17, f2, f1, f0]
  · rintro rfl
    exact absurd r0 (by decide)

theorem WordRoundTrip.srai (d : BitVec 5) (a : BitVec 5) (s : BitVec 6) : WordRoundTrip.Statement (.srai d a s) := by
  intro _
  have hv : encodeNat (.srai d a s) =
    3 + 6 * 131072 + 0 * 67108864 + s.toNat * 1048576 + a.toNat * 4096 + d.toNat * 128 := rfl
  generalize encodeNat (.srai d a s) = w' at hv ⊢
  obtain ⟨r0, r17, r26, f0, f1, f2, lt⟩ := layout4 3 6 0 s a d (by decide) (by decide) (by decide) w' hv
  refine ⟨?_, ?_, lt⟩
  · rw [raw_03 w' r0]
    simp only [rawMajor03, r17, f2, f1, f0]
  · rintro rfl
    exact absurd r0 (by decide)

theorem WordRoundTrip.slti (d : BitVec 5) (a : BitVec 5) (i : BitVec 12) : WordRoundTrip.Statement (.slti d a i) := by
  intro _
  have hv : encodeNat (.slti d a i) =
    3 + 7 * 131072 + i.toNat * 1048576 + a.toNat * 4096 + d.toNat * 128 := rfl
  generalize encodeNat (.slti d a i) = w' at hv ⊢
  obtain ⟨r0, r17, f0, f1, f2, lt⟩ := layout3 3 7 i a d (by decide) (by decide) w' hv
  refine ⟨?_, ?_, lt⟩
  · rw [raw_03 w' r0]
    simp only [rawMajor03, r17, f2, f1, f0]
  · rintro rfl
    exact absurd r0 (by decide)

theorem WordRoundTrip.lui (d : BitVec 5) (i : BitVec 20) : WordRoundTrip.Statement (.lui d i) := by
  intro _
  have hv : encodeNat (.lui d i) =
    4 + i.toNat * 4096 + d.toNat * 128 := rfl
  generalize encodeNat (.lui d i) = w' at hv ⊢
  obtain ⟨r0, f0, f1, lt⟩ := layout5 4 i d (by decide) w' hv
  refine ⟨?_, ?_, lt⟩
  · rw [raw_04 w' r0, f1, f0]
  · rintro rfl
    exact absurd r0 (by decide)

theorem WordRoundTrip.auipc (d : BitVec 5) (i : BitVec 20) : WordRoundTrip.Statement (.auipc d i) := by
  intro _
  have hv : encodeNat (.auipc d i) =
    5 + i.toNat * 4096 + d.toNat * 128 := rfl
  generalize encodeNat (.auipc d i) = w' at hv ⊢
  obtain ⟨r0, f0, f1, lt⟩ := layout5 5 i d (by decide) w' hv
  refine ⟨?_, ?_, lt⟩
  · rw [raw_05 w' r0, f1, f0]
  · rintro rfl
    exact absurd r0 (by decide)

theorem WordRoundTrip.ld (d : BitVec 5) (a : BitVec 5) (i : BitVec 12) (w : BitVec 3) : WordRoundTrip.Statement (.ld d a i w) := by
  intro _
  have hv : encodeNat (.ld d a i w) =
    6 + w.toNat * 131072 + i.toNat * 1048576 + a.toNat * 4096 + d.toNat * 128 := rfl
  generalize encodeNat (.ld d a i w) = w' at hv ⊢
  obtain ⟨r0, f0, f1, f2, f3, lt⟩ := layout6 6 w i a d (by decide) w' hv
  refine ⟨?_, ?_, lt⟩
  · rw [raw_06 w' r0, f3, f2, f1, f0]
  · rintro rfl
    exact absurd r0 (by decide)

theorem WordRoundTrip.st (a : BitVec 5) (b : BitVec 5) (h : BitVec 7) (w : BitVec 2) (l : BitVec 5) : WordRoundTrip.Statement (.st a b h w l) := by
  intro _
  have hv : encodeNat (.st a b h w l) =
    7 + 0 * 16777216 + l.toNat * 128 + w.toNat * 4194304 + h.toNat * 33554432 + b.toNat * 131072 + a.toNat * 4096 := rfl
  generalize encodeNat (.st a b h w l) = w' at hv ⊢
  obtain ⟨r0, r24, f0, f1, f2, f3, f4, lt⟩ := layout7 7 0 l w h b a (by decide) (by decide) w' hv
  refine ⟨?_, ?_, lt⟩
  · rw [raw_07 w' r0, f4, f3, f2, f1, f0]
  · rintro rfl
    exact absurd r0 (by decide)

theorem WordRoundTrip.beq (a : BitVec 5) (b : BitVec 5) (o : BitVec 12) : WordRoundTrip.Statement (.beq a b o) := by
  intro _
  have hv : encodeNat (.beq a b o) =
    8 + 0 * 131072 + o.toNat * 1048576 + b.toNat * 4096 + a.toNat * 128 := rfl
  generalize encodeNat (.beq a b o) = w' at hv ⊢
  obtain ⟨r0, r17, f0, f1, f2, lt⟩ := layout3 8 0 o b a (by decide) (by decide) w' hv
  refine ⟨?_, ?_, lt⟩
  · rw [raw_08 w' r0]
    simp only [rawMajor08, r17, f2, f1, f0]
  · rintro rfl
    exact absurd r0 (by decide)

theorem WordRoundTrip.bne (a : BitVec 5) (b : BitVec 5) (o : BitVec 12) : WordRoundTrip.Statement (.bne a b o) := by
  intro _
  have hv : encodeNat (.bne a b o) =
    8 + 1 * 131072 + o.toNat * 1048576 + b.toNat * 4096 + a.toNat * 128 := rfl
  generalize encodeNat (.bne a b o) = w' at hv ⊢
  obtain ⟨r0, r17, f0, f1, f2, lt⟩ := layout3 8 1 o b a (by decide) (by decide) w' hv
  refine ⟨?_, ?_, lt⟩
  · rw [raw_08 w' r0]
    simp only [rawMajor08, r17, f2, f1, f0]
  · rintro rfl
    exact absurd r0 (by decide)

theorem WordRoundTrip.blt (a : BitVec 5) (b : BitVec 5) (o : BitVec 12) : WordRoundTrip.Statement (.blt a b o) := by
  intro _
  have hv : encodeNat (.blt a b o) =
    8 + 2 * 131072 + o.toNat * 1048576 + b.toNat * 4096 + a.toNat * 128 := rfl
  generalize encodeNat (.blt a b o) = w' at hv ⊢
  obtain ⟨r0, r17, f0, f1, f2, lt⟩ := layout3 8 2 o b a (by decide) (by decide) w' hv
  refine ⟨?_, ?_, lt⟩
  · rw [raw_08 w' r0]
    simp only [rawMajor08, r17, f2, f1, f0]
  · rintro rfl
    exact absurd r0 (by decide)

theorem WordRoundTrip.bge (a : BitVec 5) (b : BitVec 5) (o : BitVec 12) : WordRoundTrip.Statement (.bge a b o) := by
  intro _
  have hv : encodeNat (.bge a b o) =
    8 + 3 * 131072 + o.toNat * 1048576 + b.toNat * 4096 + a.toNat * 128 := rfl
  generalize encodeNat (.bge a b o) = w' at hv ⊢
  obtain ⟨r0, r17, f0, f1, f2, lt⟩ := layout3 8 3 o b a (by decide) (by decide) w' hv
  refine ⟨?_, ?_, lt⟩
  · rw [raw_08 w' r0]
    simp only [rawMajor08, r17, f2, f1, f0]
  · rintro rfl
    exact absurd r0 (by decide)

theorem WordRoundTrip.bltu (a : BitVec 5) (b : BitVec 5) (o : BitVec 12) : WordRoundTrip.Statement (.bltu a b o) := by
  intro _
  have hv : encodeNat (.bltu a b o) =
    8 + 4 * 131072 + o.toNat * 1048576 + b.toNat * 4096 + a.toNat * 128 := rfl
  generalize encodeNat (.bltu a b o) = w' at hv ⊢
  obtain ⟨r0, r17, f0, f1, f2, lt⟩ := layout3 8 4 o b a (by decide) (by decide) w' hv
  refine ⟨?_, ?_, lt⟩
  · rw [raw_08 w' r0]
    simp only [rawMajor08, r17, f2, f1, f0]
  · rintro rfl
    exact absurd r0 (by decide)

theorem WordRoundTrip.bgeu (a : BitVec 5) (b : BitVec 5) (o : BitVec 12) : WordRoundTrip.Statement (.bgeu a b o) := by
  intro _
  have hv : encodeNat (.bgeu a b o) =
    8 + 5 * 131072 + o.toNat * 1048576 + b.toNat * 4096 + a.toNat * 128 := rfl
  generalize encodeNat (.bgeu a b o) = w' at hv ⊢
  obtain ⟨r0, r17, f0, f1, f2, lt⟩ := layout3 8 5 o b a (by decide) (by decide) w' hv
  refine ⟨?_, ?_, lt⟩
  · rw [raw_08 w' r0]
    simp only [rawMajor08, r17, f2, f1, f0]
  · rintro rfl
    exact absurd r0 (by decide)

theorem WordRoundTrip.jal (d : BitVec 5) (o : BitVec 20) : WordRoundTrip.Statement (.jal d o) := by
  intro _
  have hv : encodeNat (.jal d o) =
    9 + o.toNat * 4096 + d.toNat * 128 := rfl
  generalize encodeNat (.jal d o) = w' at hv ⊢
  obtain ⟨r0, f0, f1, lt⟩ := layout5 9 o d (by decide) w' hv
  refine ⟨?_, ?_, lt⟩
  · rw [raw_09 w' r0, f1, f0]
  · rintro rfl
    exact absurd r0 (by decide)

theorem WordRoundTrip.jalr (d : BitVec 5) (a : BitVec 5) (i : BitVec 12) : WordRoundTrip.Statement (.jalr d a i) := by
  intro _
  have hv : encodeNat (.jalr d a i) =
    10 + 0 * 131072 + i.toNat * 1048576 + a.toNat * 4096 + d.toNat * 128 := rfl
  generalize encodeNat (.jalr d a i) = w' at hv ⊢
  obtain ⟨r0, r17, f0, f1, f2, lt⟩ := layout3 10 0 i a d (by decide) (by decide) w' hv
  refine ⟨?_, ?_, lt⟩
  · rw [raw_0A w' r0, f2, f1, f0]
  · rintro rfl
    exact absurd r0 (by decide)

theorem WordRoundTrip.amo (d : BitVec 5) (a : BitVec 5) (b : BitVec 5) (s : BitVec 3) (o : BitVec 4) (r : BitVec 2) (z : BitVec 1) : WordRoundTrip.Statement (.amo d a b s o r z) := by
  intro _
  have hv : encodeNat (.amo d a b s o r z) =
    11 + z.toNat * 4194304 + r.toNat * 8388608 + o.toNat * 33554432 + s.toNat * 536870912 + b.toNat * 131072 + a.toNat * 4096 + d.toNat * 128 := rfl
  generalize encodeNat (.amo d a b s o r z) = w' at hv ⊢
  obtain ⟨r0, f0, f1, f2, f3, f4, f5, f6, lt⟩ := layout8 11 z r o s b a d (by decide) w' hv
  refine ⟨?_, ?_, lt⟩
  · rw [raw_0B w' r0, f6, f5, f4, f3, f2, f1, f0]
  · rintro rfl
    exact absurd r0 (by decide)

theorem WordRoundTrip.cas (d : BitVec 5) (a : BitVec 5) (b : BitVec 5) (s : BitVec 3) (r : BitVec 2) (z : BitVec 1) : WordRoundTrip.Statement (.cas d a b s r z) := by
  intro _
  have hv : encodeNat (.cas d a b s r z) =
    12 + 0 * 33554432 + z.toNat * 4194304 + r.toNat * 8388608 + s.toNat * 536870912 + b.toNat * 131072 + a.toNat * 4096 + d.toNat * 128 := rfl
  generalize encodeNat (.cas d a b s r z) = w' at hv ⊢
  obtain ⟨r0, r25, f0, f1, f2, f3, f4, f5, lt⟩ := layout9 12 0 z r s b a d (by decide) (by decide) w' hv
  refine ⟨?_, ?_, lt⟩
  · rw [raw_0C w' r0, f5, f4, f3, f2, f1, f0]
  · rintro rfl
    exact absurd r0 (by decide)

theorem WordRoundTrip.sysrd (d : BitVec 5) (n : BitVec 12) : WordRoundTrip.Statement (.sysrd d n) := by
  intro _
  have hv : encodeNat (.sysrd d n) =
    13 + 0 * 4096 + n.toNat * 1048576 + d.toNat * 128 := rfl
  generalize encodeNat (.sysrd d n) = w' at hv ⊢
  obtain ⟨r0, r12, f0, f1, lt⟩ := layout10 13 0 n d (by decide) (by decide) w' hv
  have c1 : bitsOf w' 17 3 = 0 := bits_lit w' 17 3 0 131072 8 rfl rfl (by
    have := (d).isLt
    have := (n).isLt
    omega)
  refine ⟨?_, ?_, lt⟩
  · rw [raw_0D w' r0]
    simp only [rawMajor0D, c1, f1, f0]
  · rintro rfl
    exact absurd r0 (by decide)

theorem WordRoundTrip.syswr (a : BitVec 5) (n : BitVec 12) : WordRoundTrip.Statement (.syswr a n) := by
  intro _
  have hv : encodeNat (.syswr a n) =
    13 + 0 * 128 + 1 * 131072 + n.toNat * 1048576 + a.toNat * 4096 := rfl
  generalize encodeNat (.syswr a n) = w' at hv ⊢
  obtain ⟨r0, r7, r17, f0, f1, lt⟩ := layout11 13 0 1 n a (by decide) (by decide) (by decide) w' hv
  refine ⟨?_, ?_, lt⟩
  · rw [raw_0D w' r0]
    simp only [rawMajor0D, r17, f1, f0]
  · rintro rfl
    exact absurd r0 (by decide)

theorem WordRoundTrip.sysset (a : BitVec 5) (n : BitVec 12) : WordRoundTrip.Statement (.sysset a n) := by
  intro _
  have hv : encodeNat (.sysset a n) =
    13 + 0 * 128 + 2 * 131072 + n.toNat * 1048576 + a.toNat * 4096 := rfl
  generalize encodeNat (.sysset a n) = w' at hv ⊢
  obtain ⟨r0, r7, r17, f0, f1, lt⟩ := layout11 13 0 2 n a (by decide) (by decide) (by decide) w' hv
  refine ⟨?_, ?_, lt⟩
  · rw [raw_0D w' r0]
    simp only [rawMajor0D, r17, f1, f0]
  · rintro rfl
    exact absurd r0 (by decide)

theorem WordRoundTrip.sysclr (a : BitVec 5) (n : BitVec 12) : WordRoundTrip.Statement (.sysclr a n) := by
  intro _
  have hv : encodeNat (.sysclr a n) =
    13 + 0 * 128 + 3 * 131072 + n.toNat * 1048576 + a.toNat * 4096 := rfl
  generalize encodeNat (.sysclr a n) = w' at hv ⊢
  obtain ⟨r0, r7, r17, f0, f1, lt⟩ := layout11 13 0 3 n a (by decide) (by decide) (by decide) w' hv
  refine ⟨?_, ?_, lt⟩
  · rw [raw_0D w' r0]
    simp only [rawMajor0D, r17, f1, f0]
  · rintro rfl
    exact absurd r0 (by decide)

theorem WordRoundTrip.trap (t : BitVec 12) : WordRoundTrip.Statement (.trap t) := by
  intro _
  have hv : encodeNat (.trap t) =
    14 + 0 * 128 + t.toNat * 1048576 := rfl
  generalize encodeNat (.trap t) = w' at hv ⊢
  obtain ⟨r0, r7, f0, lt⟩ := layout12 14 0 t (by decide) (by decide) w' hv
  have c1 : bitsOf w' 17 3 = 0 := bits_lit w' 17 3 0 131072 8 rfl rfl (by
    have := (t).isLt
    omega)
  refine ⟨?_, ?_, lt⟩
  · rw [raw_0E w' r0]
    simp only [rawMajor0E, c1, f0]
  · rintro rfl
    exact absurd r0 (by decide)

theorem WordRoundTrip.eret : WordRoundTrip.Statement .eret := by
  intro _
  have hv : encodeNat .eret =
    14 + 1024 * 128 := rfl
  generalize encodeNat .eret = w' at hv ⊢
  obtain ⟨r0, r7, lt⟩ := layout13 14 1024  (by decide) (by decide) w' hv
  have c1 : bitsOf w' 17 3 = 1 := bits_lit w' 17 3 1 131072 8 rfl rfl (by
    omega)
  refine ⟨?_, ?_, lt⟩
  · rw [raw_0E w' r0]
    simp only [rawMajor0E, c1]
  · rintro rfl
    exact absurd r0 (by decide)

theorem WordRoundTrip.endStrand : WordRoundTrip.Statement .endStrand := by
  intro _
  have hv : encodeNat .endStrand =
    14 + 2048 * 128 := rfl
  generalize encodeNat .endStrand = w' at hv ⊢
  obtain ⟨r0, r7, lt⟩ := layout13 14 2048  (by decide) (by decide) w' hv
  have c1 : bitsOf w' 17 3 = 2 := bits_lit w' 17 3 2 131072 8 rfl rfl (by
    omega)
  refine ⟨?_, ?_, lt⟩
  · rw [raw_0E w' r0]
    simp only [rawMajor0E, c1]
  · rintro rfl
    exact absurd r0 (by decide)

theorem WordRoundTrip.yield : WordRoundTrip.Statement .yield := by
  intro _
  have hv : encodeNat .yield =
    14 + 3072 * 128 := rfl
  generalize encodeNat .yield = w' at hv ⊢
  obtain ⟨r0, r7, lt⟩ := layout13 14 3072  (by decide) (by decide) w' hv
  have c1 : bitsOf w' 17 3 = 3 := bits_lit w' 17 3 3 131072 8 rfl rfl (by
    omega)
  refine ⟨?_, ?_, lt⟩
  · rw [raw_0E w' r0]
    simp only [rawMajor0E, c1]
  · rintro rfl
    exact absurd r0 (by decide)

theorem WordRoundTrip.bkpt (t : BitVec 12) : WordRoundTrip.Statement (.bkpt t) := by
  intro _
  have hv : encodeNat (.bkpt t) =
    14 + 4096 * 128 + t.toNat * 1048576 := rfl
  generalize encodeNat (.bkpt t) = w' at hv ⊢
  obtain ⟨r0, r7, f0, lt⟩ := layout12 14 4096 t (by decide) (by decide) w' hv
  have c1 : bitsOf w' 17 3 = 4 := bits_lit w' 17 3 4 131072 8 rfl rfl (by
    have := (t).isLt
    omega)
  refine ⟨?_, ?_, lt⟩
  · rw [raw_0E w' r0]
    simp only [rawMajor0E, c1, f0]
  · rintro rfl
    exact absurd r0 (by decide)

theorem WordRoundTrip.wfe : WordRoundTrip.Statement .wfe := by
  intro _
  have hv : encodeNat .wfe =
    14 + 5120 * 128 := rfl
  generalize encodeNat .wfe = w' at hv ⊢
  obtain ⟨r0, r7, lt⟩ := layout13 14 5120  (by decide) (by decide) w' hv
  have c1 : bitsOf w' 17 3 = 5 := bits_lit w' 17 3 5 131072 8 rfl rfl (by
    omega)
  refine ⟨?_, ?_, lt⟩
  · rw [raw_0E w' r0]
    simp only [rawMajor0E, c1]
  · rintro rfl
    exact absurd r0 (by decide)

theorem WordRoundTrip.vsave (a : BitVec 5) : WordRoundTrip.Statement (.vsave a) := by
  intro _
  have hv : encodeNat (.vsave a) =
    14 + 0 * 128 + 6 * 131072 + a.toNat * 4096 := rfl
  generalize encodeNat (.vsave a) = w' at hv ⊢
  obtain ⟨r0, r7, r17, f0, lt⟩ := layout14 14 0 6 a (by decide) (by decide) (by decide) w' hv
  have c1 : bitsOf w' 17 3 = 6 := bits_lit w' 17 3 6 131072 8 rfl rfl (by
    have := (a).isLt
    omega)
  refine ⟨?_, ?_, lt⟩
  · rw [raw_0E w' r0]
    simp only [rawMajor0E, c1, f0]
  · rintro rfl
    exact absurd r0 (by decide)

theorem WordRoundTrip.vrest (a : BitVec 5) : WordRoundTrip.Statement (.vrest a) := by
  intro _
  have hv : encodeNat (.vrest a) =
    14 + 0 * 128 + 7 * 131072 + a.toNat * 4096 := rfl
  generalize encodeNat (.vrest a) = w' at hv ⊢
  obtain ⟨r0, r7, r17, f0, lt⟩ := layout14 14 0 7 a (by decide) (by decide) (by decide) w' hv
  have c1 : bitsOf w' 17 3 = 7 := bits_lit w' 17 3 7 131072 8 rfl rfl (by
    have := (a).isLt
    omega)
  refine ⟨?_, ?_, lt⟩
  · rw [raw_0E w' r0]
    simp only [rawMajor0E, c1, f0]
  · rintro rfl
    exact absurd r0 (by decide)

theorem WordRoundTrip.vsetl (d : BitVec 5) (a : BitVec 5) (i : BitVec 12) : WordRoundTrip.Statement (.vsetl d a i) := by
  intro _
  have hv : encodeNat (.vsetl d a i) =
    16 + 0 * 131072 + i.toNat * 1048576 + a.toNat * 4096 + d.toNat * 128 := rfl
  generalize encodeNat (.vsetl d a i) = w' at hv ⊢
  obtain ⟨r0, r17, f0, f1, f2, lt⟩ := layout3 16 0 i a d (by decide) (by decide) w' hv
  refine ⟨?_, ?_, lt⟩
  · rw [raw_10 w' r0, f2, f1, f0]
  · rintro rfl
    exact absurd r0 (by decide)

theorem WordRoundTrip.vcfg (d : BitVec 5) (a : BitVec 5) : WordRoundTrip.Statement (.vcfg d a) := by
  intro _
  have hv : encodeNat (.vcfg d a) =
    17 + 0 * 131072 + a.toNat * 4096 + d.toNat * 128 := rfl
  generalize encodeNat (.vcfg d a) = w' at hv ⊢
  obtain ⟨r0, r17, f0, f1, lt⟩ := layout1 17 0 a d (by decide) (by decide) w' hv
  refine ⟨?_, ?_, lt⟩
  · rw [raw_11 w' r0, f1, f0]
  · rintro rfl
    exact absurd r0 (by decide)

theorem WordRoundTrip.vregs (n : BitVec 12) : WordRoundTrip.Statement (.vregs n) := by
  intro _
  have hv : encodeNat (.vregs n) =
    18 + 0 * 128 + n.toNat * 1048576 := rfl
  generalize encodeNat (.vregs n) = w' at hv ⊢
  obtain ⟨r0, r7, f0, lt⟩ := layout12 18 0 n (by decide) (by decide) w' hv
  refine ⟨?_, ?_, lt⟩
  · rw [raw_12 w' r0, f0]
  · rintro rfl
    exact absurd r0 (by decide)

theorem WordRoundTrip.mstart (d : BitVec 5) (a : BitVec 5) (p : BitVec 1) : WordRoundTrip.Statement (.mstart d a p) := by
  intro _
  have hv : encodeNat (.mstart d a p) =
    19 + 0 * 131072 + 0 * 2097152 + p.toNat * 1048576 + a.toNat * 4096 + d.toNat * 128 := rfl
  generalize encodeNat (.mstart d a p) = w' at hv ⊢
  obtain ⟨r0, r17, r21, f0, f1, f2, lt⟩ := layout15 19 0 0 p a d (by decide) (by decide) (by decide) w' hv
  refine ⟨?_, ?_, lt⟩
  · rw [raw_13 w' r0]
    simp only [rawMajor13, r17, f2, f1, f0]
  · rintro rfl
    exact absurd r0 (by decide)

theorem WordRoundTrip.mstop : WordRoundTrip.Statement .mstop := by
  intro _
  have hv : encodeNat .mstop =
    19 + 1024 * 128 := rfl
  generalize encodeNat .mstop = w' at hv ⊢
  obtain ⟨r0, r7, lt⟩ := layout13 19 1024  (by decide) (by decide) w' hv
  have c1 : bitsOf w' 17 3 = 1 := bits_lit w' 17 3 1 131072 8 rfl rfl (by
    omega)
  refine ⟨?_, ?_, lt⟩
  · rw [raw_13 w' r0]
    simp only [rawMajor13, c1]
  · rintro rfl
    exact absurd r0 (by decide)

theorem WordRoundTrip.vadd (d : BitVec 5) (a : BitVec 5) (b : BitVec 5) (o : VMod) : WordRoundTrip.Statement (.vadd d a b o) := by
  intro _
  have hv : encodeNat (.vadd d a b o) =
    32 + 0 * 536870912 + o.z.toNat * 134217728 + o.c.toNat * 67108864 + o.m.toNat * 16777216 + o.k.toNat * 8388608 + o.j.toNat * 4194304 + b.toNat * 131072 + a.toNat * 4096 + d.toNat * 128 := rfl
  generalize encodeNat (.vadd d a b o) = w' at hv ⊢
  obtain ⟨r0, r29, f0, f1, f2, f3, f4, f5, f6, f7, lt⟩ := layout16 32 0 o.z o.c o.m o.k o.j b a d (by decide) (by decide) w' hv
  have g3 : vmodOf w' = o := by simp only [vmodOf, f0, f1, f2, f3, f4]
  refine ⟨?_, ?_, lt⟩
  · rw [raw_20 w' r0]
    simp only [rawMajor20, r29, f7, f6, f5, g3]
  · rintro rfl
    exact absurd r0 (by decide)

theorem WordRoundTrip.vsub (d : BitVec 5) (a : BitVec 5) (b : BitVec 5) (o : VMod) : WordRoundTrip.Statement (.vsub d a b o) := by
  intro _
  have hv : encodeNat (.vsub d a b o) =
    32 + 1 * 536870912 + o.z.toNat * 134217728 + o.c.toNat * 67108864 + o.m.toNat * 16777216 + o.k.toNat * 8388608 + o.j.toNat * 4194304 + b.toNat * 131072 + a.toNat * 4096 + d.toNat * 128 := rfl
  generalize encodeNat (.vsub d a b o) = w' at hv ⊢
  obtain ⟨r0, r29, f0, f1, f2, f3, f4, f5, f6, f7, lt⟩ := layout16 32 1 o.z o.c o.m o.k o.j b a d (by decide) (by decide) w' hv
  have g3 : vmodOf w' = o := by simp only [vmodOf, f0, f1, f2, f3, f4]
  refine ⟨?_, ?_, lt⟩
  · rw [raw_20 w' r0]
    simp only [rawMajor20, r29, f7, f6, f5, g3]
  · rintro rfl
    exact absurd r0 (by decide)

theorem WordRoundTrip.vrsub (d : BitVec 5) (a : BitVec 5) (b : BitVec 5) (o : VMod) : WordRoundTrip.Statement (.vrsub d a b o) := by
  intro _
  have hv : encodeNat (.vrsub d a b o) =
    32 + 2 * 536870912 + o.z.toNat * 134217728 + o.c.toNat * 67108864 + o.m.toNat * 16777216 + o.k.toNat * 8388608 + o.j.toNat * 4194304 + b.toNat * 131072 + a.toNat * 4096 + d.toNat * 128 := rfl
  generalize encodeNat (.vrsub d a b o) = w' at hv ⊢
  obtain ⟨r0, r29, f0, f1, f2, f3, f4, f5, f6, f7, lt⟩ := layout16 32 2 o.z o.c o.m o.k o.j b a d (by decide) (by decide) w' hv
  have g3 : vmodOf w' = o := by simp only [vmodOf, f0, f1, f2, f3, f4]
  refine ⟨?_, ?_, lt⟩
  · rw [raw_20 w' r0]
    simp only [rawMajor20, r29, f7, f6, f5, g3]
  · rintro rfl
    exact absurd r0 (by decide)

theorem WordRoundTrip.vmin (d : BitVec 5) (a : BitVec 5) (b : BitVec 5) (o : VMod) : WordRoundTrip.Statement (.vmin d a b o) := by
  intro _
  have hv : encodeNat (.vmin d a b o) =
    32 + 3 * 536870912 + o.z.toNat * 134217728 + o.c.toNat * 67108864 + o.m.toNat * 16777216 + o.k.toNat * 8388608 + o.j.toNat * 4194304 + b.toNat * 131072 + a.toNat * 4096 + d.toNat * 128 := rfl
  generalize encodeNat (.vmin d a b o) = w' at hv ⊢
  obtain ⟨r0, r29, f0, f1, f2, f3, f4, f5, f6, f7, lt⟩ := layout16 32 3 o.z o.c o.m o.k o.j b a d (by decide) (by decide) w' hv
  have g3 : vmodOf w' = o := by simp only [vmodOf, f0, f1, f2, f3, f4]
  refine ⟨?_, ?_, lt⟩
  · rw [raw_20 w' r0]
    simp only [rawMajor20, r29, f7, f6, f5, g3]
  · rintro rfl
    exact absurd r0 (by decide)

theorem WordRoundTrip.vmax (d : BitVec 5) (a : BitVec 5) (b : BitVec 5) (o : VMod) : WordRoundTrip.Statement (.vmax d a b o) := by
  intro _
  have hv : encodeNat (.vmax d a b o) =
    32 + 4 * 536870912 + o.z.toNat * 134217728 + o.c.toNat * 67108864 + o.m.toNat * 16777216 + o.k.toNat * 8388608 + o.j.toNat * 4194304 + b.toNat * 131072 + a.toNat * 4096 + d.toNat * 128 := rfl
  generalize encodeNat (.vmax d a b o) = w' at hv ⊢
  obtain ⟨r0, r29, f0, f1, f2, f3, f4, f5, f6, f7, lt⟩ := layout16 32 4 o.z o.c o.m o.k o.j b a d (by decide) (by decide) w' hv
  have g3 : vmodOf w' = o := by simp only [vmodOf, f0, f1, f2, f3, f4]
  refine ⟨?_, ?_, lt⟩
  · rw [raw_20 w' r0]
    simp only [rawMajor20, r29, f7, f6, f5, g3]
  · rintro rfl
    exact absurd r0 (by decide)

theorem WordRoundTrip.vand (d : BitVec 5) (a : BitVec 5) (b : BitVec 5) (o : VMod) : WordRoundTrip.Statement (.vand d a b o) := by
  intro _
  have hv : encodeNat (.vand d a b o) =
    32 + 5 * 536870912 + o.z.toNat * 134217728 + o.c.toNat * 67108864 + o.m.toNat * 16777216 + o.k.toNat * 8388608 + o.j.toNat * 4194304 + b.toNat * 131072 + a.toNat * 4096 + d.toNat * 128 := rfl
  generalize encodeNat (.vand d a b o) = w' at hv ⊢
  obtain ⟨r0, r29, f0, f1, f2, f3, f4, f5, f6, f7, lt⟩ := layout16 32 5 o.z o.c o.m o.k o.j b a d (by decide) (by decide) w' hv
  have g3 : vmodOf w' = o := by simp only [vmodOf, f0, f1, f2, f3, f4]
  refine ⟨?_, ?_, lt⟩
  · rw [raw_20 w' r0]
    simp only [rawMajor20, r29, f7, f6, f5, g3]
  · rintro rfl
    exact absurd r0 (by decide)

theorem WordRoundTrip.vor (d : BitVec 5) (a : BitVec 5) (b : BitVec 5) (o : VMod) : WordRoundTrip.Statement (.vor d a b o) := by
  intro _
  have hv : encodeNat (.vor d a b o) =
    32 + 6 * 536870912 + o.z.toNat * 134217728 + o.c.toNat * 67108864 + o.m.toNat * 16777216 + o.k.toNat * 8388608 + o.j.toNat * 4194304 + b.toNat * 131072 + a.toNat * 4096 + d.toNat * 128 := rfl
  generalize encodeNat (.vor d a b o) = w' at hv ⊢
  obtain ⟨r0, r29, f0, f1, f2, f3, f4, f5, f6, f7, lt⟩ := layout16 32 6 o.z o.c o.m o.k o.j b a d (by decide) (by decide) w' hv
  have g3 : vmodOf w' = o := by simp only [vmodOf, f0, f1, f2, f3, f4]
  refine ⟨?_, ?_, lt⟩
  · rw [raw_20 w' r0]
    simp only [rawMajor20, r29, f7, f6, f5, g3]
  · rintro rfl
    exact absurd r0 (by decide)

theorem WordRoundTrip.vxor (d : BitVec 5) (a : BitVec 5) (b : BitVec 5) (o : VMod) : WordRoundTrip.Statement (.vxor d a b o) := by
  intro _
  have hv : encodeNat (.vxor d a b o) =
    32 + 7 * 536870912 + o.z.toNat * 134217728 + o.c.toNat * 67108864 + o.m.toNat * 16777216 + o.k.toNat * 8388608 + o.j.toNat * 4194304 + b.toNat * 131072 + a.toNat * 4096 + d.toNat * 128 := rfl
  generalize encodeNat (.vxor d a b o) = w' at hv ⊢
  obtain ⟨r0, r29, f0, f1, f2, f3, f4, f5, f6, f7, lt⟩ := layout16 32 7 o.z o.c o.m o.k o.j b a d (by decide) (by decide) w' hv
  have g3 : vmodOf w' = o := by simp only [vmodOf, f0, f1, f2, f3, f4]
  refine ⟨?_, ?_, lt⟩
  · rw [raw_20 w' r0]
    simp only [rawMajor20, r29, f7, f6, f5, g3]
  · rintro rfl
    exact absurd r0 (by decide)

theorem WordRoundTrip.vaddVs (d : BitVec 5) (a : BitVec 5) (b : BitVec 5) (o : SMod) : WordRoundTrip.Statement (.vaddVs d a b o) := by
  intro _
  have hv : encodeNat (.vaddVs d a b o) =
    33 + 0 * 4194304 + 0 * 536870912 + o.z.toNat * 134217728 + o.c.toNat * 67108864 + o.m.toNat * 16777216 + o.k.toNat * 8388608 + b.toNat * 131072 + a.toNat * 4096 + d.toNat * 128 := rfl
  generalize encodeNat (.vaddVs d a b o) = w' at hv ⊢
  obtain ⟨r0, r22, r29, f0, f1, f2, f3, f4, f5, f6, lt⟩ := layout17 33 0 0 o.z o.c o.m o.k b a d (by decide) (by decide) (by decide) w' hv
  have g3 : smodOf w' = o := by simp only [smodOf, f0, f1, f2, f3]
  refine ⟨?_, ?_, lt⟩
  · rw [raw_21 w' r0]
    simp only [rawMajor21, r29, f6, f5, f4, g3]
  · rintro rfl
    exact absurd r0 (by decide)

theorem WordRoundTrip.vsubVs (d : BitVec 5) (a : BitVec 5) (b : BitVec 5) (o : SMod) : WordRoundTrip.Statement (.vsubVs d a b o) := by
  intro _
  have hv : encodeNat (.vsubVs d a b o) =
    33 + 0 * 4194304 + 1 * 536870912 + o.z.toNat * 134217728 + o.c.toNat * 67108864 + o.m.toNat * 16777216 + o.k.toNat * 8388608 + b.toNat * 131072 + a.toNat * 4096 + d.toNat * 128 := rfl
  generalize encodeNat (.vsubVs d a b o) = w' at hv ⊢
  obtain ⟨r0, r22, r29, f0, f1, f2, f3, f4, f5, f6, lt⟩ := layout17 33 0 1 o.z o.c o.m o.k b a d (by decide) (by decide) (by decide) w' hv
  have g3 : smodOf w' = o := by simp only [smodOf, f0, f1, f2, f3]
  refine ⟨?_, ?_, lt⟩
  · rw [raw_21 w' r0]
    simp only [rawMajor21, r29, f6, f5, f4, g3]
  · rintro rfl
    exact absurd r0 (by decide)

theorem WordRoundTrip.vrsubVs (d : BitVec 5) (a : BitVec 5) (b : BitVec 5) (o : SMod) : WordRoundTrip.Statement (.vrsubVs d a b o) := by
  intro _
  have hv : encodeNat (.vrsubVs d a b o) =
    33 + 0 * 4194304 + 2 * 536870912 + o.z.toNat * 134217728 + o.c.toNat * 67108864 + o.m.toNat * 16777216 + o.k.toNat * 8388608 + b.toNat * 131072 + a.toNat * 4096 + d.toNat * 128 := rfl
  generalize encodeNat (.vrsubVs d a b o) = w' at hv ⊢
  obtain ⟨r0, r22, r29, f0, f1, f2, f3, f4, f5, f6, lt⟩ := layout17 33 0 2 o.z o.c o.m o.k b a d (by decide) (by decide) (by decide) w' hv
  have g3 : smodOf w' = o := by simp only [smodOf, f0, f1, f2, f3]
  refine ⟨?_, ?_, lt⟩
  · rw [raw_21 w' r0]
    simp only [rawMajor21, r29, f6, f5, f4, g3]
  · rintro rfl
    exact absurd r0 (by decide)

theorem WordRoundTrip.vminVs (d : BitVec 5) (a : BitVec 5) (b : BitVec 5) (o : SMod) : WordRoundTrip.Statement (.vminVs d a b o) := by
  intro _
  have hv : encodeNat (.vminVs d a b o) =
    33 + 0 * 4194304 + 3 * 536870912 + o.z.toNat * 134217728 + o.c.toNat * 67108864 + o.m.toNat * 16777216 + o.k.toNat * 8388608 + b.toNat * 131072 + a.toNat * 4096 + d.toNat * 128 := rfl
  generalize encodeNat (.vminVs d a b o) = w' at hv ⊢
  obtain ⟨r0, r22, r29, f0, f1, f2, f3, f4, f5, f6, lt⟩ := layout17 33 0 3 o.z o.c o.m o.k b a d (by decide) (by decide) (by decide) w' hv
  have g3 : smodOf w' = o := by simp only [smodOf, f0, f1, f2, f3]
  refine ⟨?_, ?_, lt⟩
  · rw [raw_21 w' r0]
    simp only [rawMajor21, r29, f6, f5, f4, g3]
  · rintro rfl
    exact absurd r0 (by decide)

theorem WordRoundTrip.vmaxVs (d : BitVec 5) (a : BitVec 5) (b : BitVec 5) (o : SMod) : WordRoundTrip.Statement (.vmaxVs d a b o) := by
  intro _
  have hv : encodeNat (.vmaxVs d a b o) =
    33 + 0 * 4194304 + 4 * 536870912 + o.z.toNat * 134217728 + o.c.toNat * 67108864 + o.m.toNat * 16777216 + o.k.toNat * 8388608 + b.toNat * 131072 + a.toNat * 4096 + d.toNat * 128 := rfl
  generalize encodeNat (.vmaxVs d a b o) = w' at hv ⊢
  obtain ⟨r0, r22, r29, f0, f1, f2, f3, f4, f5, f6, lt⟩ := layout17 33 0 4 o.z o.c o.m o.k b a d (by decide) (by decide) (by decide) w' hv
  have g3 : smodOf w' = o := by simp only [smodOf, f0, f1, f2, f3]
  refine ⟨?_, ?_, lt⟩
  · rw [raw_21 w' r0]
    simp only [rawMajor21, r29, f6, f5, f4, g3]
  · rintro rfl
    exact absurd r0 (by decide)

theorem WordRoundTrip.vandVs (d : BitVec 5) (a : BitVec 5) (b : BitVec 5) (o : SMod) : WordRoundTrip.Statement (.vandVs d a b o) := by
  intro _
  have hv : encodeNat (.vandVs d a b o) =
    33 + 0 * 4194304 + 5 * 536870912 + o.z.toNat * 134217728 + o.c.toNat * 67108864 + o.m.toNat * 16777216 + o.k.toNat * 8388608 + b.toNat * 131072 + a.toNat * 4096 + d.toNat * 128 := rfl
  generalize encodeNat (.vandVs d a b o) = w' at hv ⊢
  obtain ⟨r0, r22, r29, f0, f1, f2, f3, f4, f5, f6, lt⟩ := layout17 33 0 5 o.z o.c o.m o.k b a d (by decide) (by decide) (by decide) w' hv
  have g3 : smodOf w' = o := by simp only [smodOf, f0, f1, f2, f3]
  refine ⟨?_, ?_, lt⟩
  · rw [raw_21 w' r0]
    simp only [rawMajor21, r29, f6, f5, f4, g3]
  · rintro rfl
    exact absurd r0 (by decide)

theorem WordRoundTrip.vorVs (d : BitVec 5) (a : BitVec 5) (b : BitVec 5) (o : SMod) : WordRoundTrip.Statement (.vorVs d a b o) := by
  intro _
  have hv : encodeNat (.vorVs d a b o) =
    33 + 0 * 4194304 + 6 * 536870912 + o.z.toNat * 134217728 + o.c.toNat * 67108864 + o.m.toNat * 16777216 + o.k.toNat * 8388608 + b.toNat * 131072 + a.toNat * 4096 + d.toNat * 128 := rfl
  generalize encodeNat (.vorVs d a b o) = w' at hv ⊢
  obtain ⟨r0, r22, r29, f0, f1, f2, f3, f4, f5, f6, lt⟩ := layout17 33 0 6 o.z o.c o.m o.k b a d (by decide) (by decide) (by decide) w' hv
  have g3 : smodOf w' = o := by simp only [smodOf, f0, f1, f2, f3]
  refine ⟨?_, ?_, lt⟩
  · rw [raw_21 w' r0]
    simp only [rawMajor21, r29, f6, f5, f4, g3]
  · rintro rfl
    exact absurd r0 (by decide)

theorem WordRoundTrip.vxorVs (d : BitVec 5) (a : BitVec 5) (b : BitVec 5) (o : SMod) : WordRoundTrip.Statement (.vxorVs d a b o) := by
  intro _
  have hv : encodeNat (.vxorVs d a b o) =
    33 + 0 * 4194304 + 7 * 536870912 + o.z.toNat * 134217728 + o.c.toNat * 67108864 + o.m.toNat * 16777216 + o.k.toNat * 8388608 + b.toNat * 131072 + a.toNat * 4096 + d.toNat * 128 := rfl
  generalize encodeNat (.vxorVs d a b o) = w' at hv ⊢
  obtain ⟨r0, r22, r29, f0, f1, f2, f3, f4, f5, f6, lt⟩ := layout17 33 0 7 o.z o.c o.m o.k b a d (by decide) (by decide) (by decide) w' hv
  have g3 : smodOf w' = o := by simp only [smodOf, f0, f1, f2, f3]
  refine ⟨?_, ?_, lt⟩
  · rw [raw_21 w' r0]
    simp only [rawMajor21, r29, f6, f5, f4, g3]
  · rintro rfl
    exact absurd r0 (by decide)

theorem WordRoundTrip.vaddVi (d : BitVec 5) (b : BitVec 5) (i : BitVec 5) (o : SMod) : WordRoundTrip.Statement (.vaddVi d b i o) := by
  intro _
  have hv : encodeNat (.vaddVi d b i o) =
    34 + 0 * 4194304 + 0 * 536870912 + o.z.toNat * 134217728 + o.c.toNat * 67108864 + o.m.toNat * 16777216 + o.k.toNat * 8388608 + i.toNat * 4096 + b.toNat * 131072 + d.toNat * 128 := rfl
  generalize encodeNat (.vaddVi d b i o) = w' at hv ⊢
  obtain ⟨r0, r22, r29, f0, f1, f2, f3, f4, f5, f6, lt⟩ := layout18 34 0 0 o.z o.c o.m o.k i b d (by decide) (by decide) (by decide) w' hv
  have g3 : smodOf w' = o := by simp only [smodOf, f0, f1, f2, f3]
  refine ⟨?_, ?_, lt⟩
  · rw [raw_22 w' r0]
    simp only [rawMajor22, r29, f6, f5, f4, g3]
  · rintro rfl
    exact absurd r0 (by decide)

theorem WordRoundTrip.vsubVi (d : BitVec 5) (b : BitVec 5) (i : BitVec 5) (o : SMod) : WordRoundTrip.Statement (.vsubVi d b i o) := by
  intro _
  have hv : encodeNat (.vsubVi d b i o) =
    34 + 0 * 4194304 + 1 * 536870912 + o.z.toNat * 134217728 + o.c.toNat * 67108864 + o.m.toNat * 16777216 + o.k.toNat * 8388608 + i.toNat * 4096 + b.toNat * 131072 + d.toNat * 128 := rfl
  generalize encodeNat (.vsubVi d b i o) = w' at hv ⊢
  obtain ⟨r0, r22, r29, f0, f1, f2, f3, f4, f5, f6, lt⟩ := layout18 34 0 1 o.z o.c o.m o.k i b d (by decide) (by decide) (by decide) w' hv
  have g3 : smodOf w' = o := by simp only [smodOf, f0, f1, f2, f3]
  refine ⟨?_, ?_, lt⟩
  · rw [raw_22 w' r0]
    simp only [rawMajor22, r29, f6, f5, f4, g3]
  · rintro rfl
    exact absurd r0 (by decide)

theorem WordRoundTrip.vrsubVi (d : BitVec 5) (b : BitVec 5) (i : BitVec 5) (o : SMod) : WordRoundTrip.Statement (.vrsubVi d b i o) := by
  intro _
  have hv : encodeNat (.vrsubVi d b i o) =
    34 + 0 * 4194304 + 2 * 536870912 + o.z.toNat * 134217728 + o.c.toNat * 67108864 + o.m.toNat * 16777216 + o.k.toNat * 8388608 + i.toNat * 4096 + b.toNat * 131072 + d.toNat * 128 := rfl
  generalize encodeNat (.vrsubVi d b i o) = w' at hv ⊢
  obtain ⟨r0, r22, r29, f0, f1, f2, f3, f4, f5, f6, lt⟩ := layout18 34 0 2 o.z o.c o.m o.k i b d (by decide) (by decide) (by decide) w' hv
  have g3 : smodOf w' = o := by simp only [smodOf, f0, f1, f2, f3]
  refine ⟨?_, ?_, lt⟩
  · rw [raw_22 w' r0]
    simp only [rawMajor22, r29, f6, f5, f4, g3]
  · rintro rfl
    exact absurd r0 (by decide)

theorem WordRoundTrip.vminVi (d : BitVec 5) (b : BitVec 5) (i : BitVec 5) (o : SMod) : WordRoundTrip.Statement (.vminVi d b i o) := by
  intro _
  have hv : encodeNat (.vminVi d b i o) =
    34 + 0 * 4194304 + 3 * 536870912 + o.z.toNat * 134217728 + o.c.toNat * 67108864 + o.m.toNat * 16777216 + o.k.toNat * 8388608 + i.toNat * 4096 + b.toNat * 131072 + d.toNat * 128 := rfl
  generalize encodeNat (.vminVi d b i o) = w' at hv ⊢
  obtain ⟨r0, r22, r29, f0, f1, f2, f3, f4, f5, f6, lt⟩ := layout18 34 0 3 o.z o.c o.m o.k i b d (by decide) (by decide) (by decide) w' hv
  have g3 : smodOf w' = o := by simp only [smodOf, f0, f1, f2, f3]
  refine ⟨?_, ?_, lt⟩
  · rw [raw_22 w' r0]
    simp only [rawMajor22, r29, f6, f5, f4, g3]
  · rintro rfl
    exact absurd r0 (by decide)

theorem WordRoundTrip.vmaxVi (d : BitVec 5) (b : BitVec 5) (i : BitVec 5) (o : SMod) : WordRoundTrip.Statement (.vmaxVi d b i o) := by
  intro _
  have hv : encodeNat (.vmaxVi d b i o) =
    34 + 0 * 4194304 + 4 * 536870912 + o.z.toNat * 134217728 + o.c.toNat * 67108864 + o.m.toNat * 16777216 + o.k.toNat * 8388608 + i.toNat * 4096 + b.toNat * 131072 + d.toNat * 128 := rfl
  generalize encodeNat (.vmaxVi d b i o) = w' at hv ⊢
  obtain ⟨r0, r22, r29, f0, f1, f2, f3, f4, f5, f6, lt⟩ := layout18 34 0 4 o.z o.c o.m o.k i b d (by decide) (by decide) (by decide) w' hv
  have g3 : smodOf w' = o := by simp only [smodOf, f0, f1, f2, f3]
  refine ⟨?_, ?_, lt⟩
  · rw [raw_22 w' r0]
    simp only [rawMajor22, r29, f6, f5, f4, g3]
  · rintro rfl
    exact absurd r0 (by decide)

theorem WordRoundTrip.vandVi (d : BitVec 5) (b : BitVec 5) (i : BitVec 5) (o : SMod) : WordRoundTrip.Statement (.vandVi d b i o) := by
  intro _
  have hv : encodeNat (.vandVi d b i o) =
    34 + 0 * 4194304 + 5 * 536870912 + o.z.toNat * 134217728 + o.c.toNat * 67108864 + o.m.toNat * 16777216 + o.k.toNat * 8388608 + i.toNat * 4096 + b.toNat * 131072 + d.toNat * 128 := rfl
  generalize encodeNat (.vandVi d b i o) = w' at hv ⊢
  obtain ⟨r0, r22, r29, f0, f1, f2, f3, f4, f5, f6, lt⟩ := layout18 34 0 5 o.z o.c o.m o.k i b d (by decide) (by decide) (by decide) w' hv
  have g3 : smodOf w' = o := by simp only [smodOf, f0, f1, f2, f3]
  refine ⟨?_, ?_, lt⟩
  · rw [raw_22 w' r0]
    simp only [rawMajor22, r29, f6, f5, f4, g3]
  · rintro rfl
    exact absurd r0 (by decide)

theorem WordRoundTrip.vorVi (d : BitVec 5) (b : BitVec 5) (i : BitVec 5) (o : SMod) : WordRoundTrip.Statement (.vorVi d b i o) := by
  intro _
  have hv : encodeNat (.vorVi d b i o) =
    34 + 0 * 4194304 + 6 * 536870912 + o.z.toNat * 134217728 + o.c.toNat * 67108864 + o.m.toNat * 16777216 + o.k.toNat * 8388608 + i.toNat * 4096 + b.toNat * 131072 + d.toNat * 128 := rfl
  generalize encodeNat (.vorVi d b i o) = w' at hv ⊢
  obtain ⟨r0, r22, r29, f0, f1, f2, f3, f4, f5, f6, lt⟩ := layout18 34 0 6 o.z o.c o.m o.k i b d (by decide) (by decide) (by decide) w' hv
  have g3 : smodOf w' = o := by simp only [smodOf, f0, f1, f2, f3]
  refine ⟨?_, ?_, lt⟩
  · rw [raw_22 w' r0]
    simp only [rawMajor22, r29, f6, f5, f4, g3]
  · rintro rfl
    exact absurd r0 (by decide)

theorem WordRoundTrip.vxorVi (d : BitVec 5) (b : BitVec 5) (i : BitVec 5) (o : SMod) : WordRoundTrip.Statement (.vxorVi d b i o) := by
  intro _
  have hv : encodeNat (.vxorVi d b i o) =
    34 + 0 * 4194304 + 7 * 536870912 + o.z.toNat * 134217728 + o.c.toNat * 67108864 + o.m.toNat * 16777216 + o.k.toNat * 8388608 + i.toNat * 4096 + b.toNat * 131072 + d.toNat * 128 := rfl
  generalize encodeNat (.vxorVi d b i o) = w' at hv ⊢
  obtain ⟨r0, r22, r29, f0, f1, f2, f3, f4, f5, f6, lt⟩ := layout18 34 0 7 o.z o.c o.m o.k i b d (by decide) (by decide) (by decide) w' hv
  have g3 : smodOf w' = o := by simp only [smodOf, f0, f1, f2, f3]
  refine ⟨?_, ?_, lt⟩
  · rw [raw_22 w' r0]
    simp only [rawMajor22, r29, f6, f5, f4, g3]
  · rintro rfl
    exact absurd r0 (by decide)

theorem WordRoundTrip.vmul (d : BitVec 5) (a : BitVec 5) (b : BitVec 5) (o : VMod) : WordRoundTrip.Statement (.vmul d a b o) := by
  intro _
  have hv : encodeNat (.vmul d a b o) =
    35 + 0 * 536870912 + o.z.toNat * 134217728 + o.c.toNat * 67108864 + o.m.toNat * 16777216 + o.k.toNat * 8388608 + o.j.toNat * 4194304 + b.toNat * 131072 + a.toNat * 4096 + d.toNat * 128 := rfl
  generalize encodeNat (.vmul d a b o) = w' at hv ⊢
  obtain ⟨r0, r29, f0, f1, f2, f3, f4, f5, f6, f7, lt⟩ := layout16 35 0 o.z o.c o.m o.k o.j b a d (by decide) (by decide) w' hv
  have g3 : vmodOf w' = o := by simp only [vmodOf, f0, f1, f2, f3, f4]
  refine ⟨?_, ?_, lt⟩
  · rw [raw_23 w' r0]
    simp only [rawMajor23, r29, f7, f6, f5, g3]
  · rintro rfl
    exact absurd r0 (by decide)

theorem WordRoundTrip.vmulh (d : BitVec 5) (a : BitVec 5) (b : BitVec 5) (o : VMod) : WordRoundTrip.Statement (.vmulh d a b o) := by
  intro _
  have hv : encodeNat (.vmulh d a b o) =
    35 + 1 * 536870912 + o.z.toNat * 134217728 + o.c.toNat * 67108864 + o.m.toNat * 16777216 + o.k.toNat * 8388608 + o.j.toNat * 4194304 + b.toNat * 131072 + a.toNat * 4096 + d.toNat * 128 := rfl
  generalize encodeNat (.vmulh d a b o) = w' at hv ⊢
  obtain ⟨r0, r29, f0, f1, f2, f3, f4, f5, f6, f7, lt⟩ := layout16 35 1 o.z o.c o.m o.k o.j b a d (by decide) (by decide) w' hv
  have g3 : vmodOf w' = o := by simp only [vmodOf, f0, f1, f2, f3, f4]
  refine ⟨?_, ?_, lt⟩
  · rw [raw_23 w' r0]
    simp only [rawMajor23, r29, f7, f6, f5, g3]
  · rintro rfl
    exact absurd r0 (by decide)

theorem WordRoundTrip.vmacc (d : BitVec 5) (a : BitVec 5) (b : BitVec 5) (o : VMod) : WordRoundTrip.Statement (.vmacc d a b o) := by
  intro _
  have hv : encodeNat (.vmacc d a b o) =
    35 + 2 * 536870912 + o.z.toNat * 134217728 + o.c.toNat * 67108864 + o.m.toNat * 16777216 + o.k.toNat * 8388608 + o.j.toNat * 4194304 + b.toNat * 131072 + a.toNat * 4096 + d.toNat * 128 := rfl
  generalize encodeNat (.vmacc d a b o) = w' at hv ⊢
  obtain ⟨r0, r29, f0, f1, f2, f3, f4, f5, f6, f7, lt⟩ := layout16 35 2 o.z o.c o.m o.k o.j b a d (by decide) (by decide) w' hv
  have g3 : vmodOf w' = o := by simp only [vmodOf, f0, f1, f2, f3, f4]
  refine ⟨?_, ?_, lt⟩
  · rw [raw_23 w' r0]
    simp only [rawMajor23, r29, f7, f6, f5, g3]
  · rintro rfl
    exact absurd r0 (by decide)

theorem WordRoundTrip.vnmacc (d : BitVec 5) (a : BitVec 5) (b : BitVec 5) (o : VMod) : WordRoundTrip.Statement (.vnmacc d a b o) := by
  intro _
  have hv : encodeNat (.vnmacc d a b o) =
    35 + 3 * 536870912 + o.z.toNat * 134217728 + o.c.toNat * 67108864 + o.m.toNat * 16777216 + o.k.toNat * 8388608 + o.j.toNat * 4194304 + b.toNat * 131072 + a.toNat * 4096 + d.toNat * 128 := rfl
  generalize encodeNat (.vnmacc d a b o) = w' at hv ⊢
  obtain ⟨r0, r29, f0, f1, f2, f3, f4, f5, f6, f7, lt⟩ := layout16 35 3 o.z o.c o.m o.k o.j b a d (by decide) (by decide) w' hv
  have g3 : vmodOf w' = o := by simp only [vmodOf, f0, f1, f2, f3, f4]
  refine ⟨?_, ?_, lt⟩
  · rw [raw_23 w' r0]
    simp only [rawMajor23, r29, f7, f6, f5, g3]
  · rintro rfl
    exact absurd r0 (by decide)

theorem WordRoundTrip.vdiv (d : BitVec 5) (a : BitVec 5) (b : BitVec 5) (o : VMod) : WordRoundTrip.Statement (.vdiv d a b o) := by
  intro _
  have hv : encodeNat (.vdiv d a b o) =
    35 + 4 * 536870912 + o.z.toNat * 134217728 + o.c.toNat * 67108864 + o.m.toNat * 16777216 + o.k.toNat * 8388608 + o.j.toNat * 4194304 + b.toNat * 131072 + a.toNat * 4096 + d.toNat * 128 := rfl
  generalize encodeNat (.vdiv d a b o) = w' at hv ⊢
  obtain ⟨r0, r29, f0, f1, f2, f3, f4, f5, f6, f7, lt⟩ := layout16 35 4 o.z o.c o.m o.k o.j b a d (by decide) (by decide) w' hv
  have g3 : vmodOf w' = o := by simp only [vmodOf, f0, f1, f2, f3, f4]
  refine ⟨?_, ?_, lt⟩
  · rw [raw_23 w' r0]
    simp only [rawMajor23, r29, f7, f6, f5, g3]
  · rintro rfl
    exact absurd r0 (by decide)

theorem WordRoundTrip.vrem (d : BitVec 5) (a : BitVec 5) (b : BitVec 5) (o : VMod) : WordRoundTrip.Statement (.vrem d a b o) := by
  intro _
  have hv : encodeNat (.vrem d a b o) =
    35 + 5 * 536870912 + o.z.toNat * 134217728 + o.c.toNat * 67108864 + o.m.toNat * 16777216 + o.k.toNat * 8388608 + o.j.toNat * 4194304 + b.toNat * 131072 + a.toNat * 4096 + d.toNat * 128 := rfl
  generalize encodeNat (.vrem d a b o) = w' at hv ⊢
  obtain ⟨r0, r29, f0, f1, f2, f3, f4, f5, f6, f7, lt⟩ := layout16 35 5 o.z o.c o.m o.k o.j b a d (by decide) (by decide) w' hv
  have g3 : vmodOf w' = o := by simp only [vmodOf, f0, f1, f2, f3, f4]
  refine ⟨?_, ?_, lt⟩
  · rw [raw_23 w' r0]
    simp only [rawMajor23, r29, f7, f6, f5, g3]
  · rintro rfl
    exact absurd r0 (by decide)

theorem WordRoundTrip.vsll (d : BitVec 5) (a : BitVec 5) (b : BitVec 5) (o : VMod) : WordRoundTrip.Statement (.vsll d a b o) := by
  intro _
  have hv : encodeNat (.vsll d a b o) =
    35 + 6 * 536870912 + o.z.toNat * 134217728 + o.c.toNat * 67108864 + o.m.toNat * 16777216 + o.k.toNat * 8388608 + o.j.toNat * 4194304 + b.toNat * 131072 + a.toNat * 4096 + d.toNat * 128 := rfl
  generalize encodeNat (.vsll d a b o) = w' at hv ⊢
  obtain ⟨r0, r29, f0, f1, f2, f3, f4, f5, f6, f7, lt⟩ := layout16 35 6 o.z o.c o.m o.k o.j b a d (by decide) (by decide) w' hv
  have g3 : vmodOf w' = o := by simp only [vmodOf, f0, f1, f2, f3, f4]
  refine ⟨?_, ?_, lt⟩
  · rw [raw_23 w' r0]
    simp only [rawMajor23, r29, f7, f6, f5, g3]
  · rintro rfl
    exact absurd r0 (by decide)

theorem WordRoundTrip.vsrl (d : BitVec 5) (a : BitVec 5) (b : BitVec 5) (o : VMod) : WordRoundTrip.Statement (.vsrl d a b o) := by
  intro _
  have hv : encodeNat (.vsrl d a b o) =
    35 + 7 * 536870912 + o.z.toNat * 134217728 + o.c.toNat * 67108864 + o.m.toNat * 16777216 + o.k.toNat * 8388608 + o.j.toNat * 4194304 + b.toNat * 131072 + a.toNat * 4096 + d.toNat * 128 := rfl
  generalize encodeNat (.vsrl d a b o) = w' at hv ⊢
  obtain ⟨r0, r29, f0, f1, f2, f3, f4, f5, f6, f7, lt⟩ := layout16 35 7 o.z o.c o.m o.k o.j b a d (by decide) (by decide) w' hv
  have g3 : vmodOf w' = o := by simp only [vmodOf, f0, f1, f2, f3, f4]
  refine ⟨?_, ?_, lt⟩
  · rw [raw_23 w' r0]
    simp only [rawMajor23, r29, f7, f6, f5, g3]
  · rintro rfl
    exact absurd r0 (by decide)

theorem WordRoundTrip.vmulVs (d : BitVec 5) (a : BitVec 5) (b : BitVec 5) (o : SMod) : WordRoundTrip.Statement (.vmulVs d a b o) := by
  intro _
  have hv : encodeNat (.vmulVs d a b o) =
    36 + 0 * 4194304 + 0 * 536870912 + o.z.toNat * 134217728 + o.c.toNat * 67108864 + o.m.toNat * 16777216 + o.k.toNat * 8388608 + b.toNat * 131072 + a.toNat * 4096 + d.toNat * 128 := rfl
  generalize encodeNat (.vmulVs d a b o) = w' at hv ⊢
  obtain ⟨r0, r22, r29, f0, f1, f2, f3, f4, f5, f6, lt⟩ := layout17 36 0 0 o.z o.c o.m o.k b a d (by decide) (by decide) (by decide) w' hv
  have g3 : smodOf w' = o := by simp only [smodOf, f0, f1, f2, f3]
  refine ⟨?_, ?_, lt⟩
  · rw [raw_24 w' r0]
    simp only [rawMajor24, r29, f6, f5, f4, g3]
  · rintro rfl
    exact absurd r0 (by decide)

theorem WordRoundTrip.vmulhVs (d : BitVec 5) (a : BitVec 5) (b : BitVec 5) (o : SMod) : WordRoundTrip.Statement (.vmulhVs d a b o) := by
  intro _
  have hv : encodeNat (.vmulhVs d a b o) =
    36 + 0 * 4194304 + 1 * 536870912 + o.z.toNat * 134217728 + o.c.toNat * 67108864 + o.m.toNat * 16777216 + o.k.toNat * 8388608 + b.toNat * 131072 + a.toNat * 4096 + d.toNat * 128 := rfl
  generalize encodeNat (.vmulhVs d a b o) = w' at hv ⊢
  obtain ⟨r0, r22, r29, f0, f1, f2, f3, f4, f5, f6, lt⟩ := layout17 36 0 1 o.z o.c o.m o.k b a d (by decide) (by decide) (by decide) w' hv
  have g3 : smodOf w' = o := by simp only [smodOf, f0, f1, f2, f3]
  refine ⟨?_, ?_, lt⟩
  · rw [raw_24 w' r0]
    simp only [rawMajor24, r29, f6, f5, f4, g3]
  · rintro rfl
    exact absurd r0 (by decide)

theorem WordRoundTrip.vmaccVs (d : BitVec 5) (a : BitVec 5) (b : BitVec 5) (o : SMod) : WordRoundTrip.Statement (.vmaccVs d a b o) := by
  intro _
  have hv : encodeNat (.vmaccVs d a b o) =
    36 + 0 * 4194304 + 2 * 536870912 + o.z.toNat * 134217728 + o.c.toNat * 67108864 + o.m.toNat * 16777216 + o.k.toNat * 8388608 + b.toNat * 131072 + a.toNat * 4096 + d.toNat * 128 := rfl
  generalize encodeNat (.vmaccVs d a b o) = w' at hv ⊢
  obtain ⟨r0, r22, r29, f0, f1, f2, f3, f4, f5, f6, lt⟩ := layout17 36 0 2 o.z o.c o.m o.k b a d (by decide) (by decide) (by decide) w' hv
  have g3 : smodOf w' = o := by simp only [smodOf, f0, f1, f2, f3]
  refine ⟨?_, ?_, lt⟩
  · rw [raw_24 w' r0]
    simp only [rawMajor24, r29, f6, f5, f4, g3]
  · rintro rfl
    exact absurd r0 (by decide)

theorem WordRoundTrip.vnmaccVs (d : BitVec 5) (a : BitVec 5) (b : BitVec 5) (o : SMod) : WordRoundTrip.Statement (.vnmaccVs d a b o) := by
  intro _
  have hv : encodeNat (.vnmaccVs d a b o) =
    36 + 0 * 4194304 + 3 * 536870912 + o.z.toNat * 134217728 + o.c.toNat * 67108864 + o.m.toNat * 16777216 + o.k.toNat * 8388608 + b.toNat * 131072 + a.toNat * 4096 + d.toNat * 128 := rfl
  generalize encodeNat (.vnmaccVs d a b o) = w' at hv ⊢
  obtain ⟨r0, r22, r29, f0, f1, f2, f3, f4, f5, f6, lt⟩ := layout17 36 0 3 o.z o.c o.m o.k b a d (by decide) (by decide) (by decide) w' hv
  have g3 : smodOf w' = o := by simp only [smodOf, f0, f1, f2, f3]
  refine ⟨?_, ?_, lt⟩
  · rw [raw_24 w' r0]
    simp only [rawMajor24, r29, f6, f5, f4, g3]
  · rintro rfl
    exact absurd r0 (by decide)

theorem WordRoundTrip.vdivVs (d : BitVec 5) (a : BitVec 5) (b : BitVec 5) (o : SMod) : WordRoundTrip.Statement (.vdivVs d a b o) := by
  intro _
  have hv : encodeNat (.vdivVs d a b o) =
    36 + 0 * 4194304 + 4 * 536870912 + o.z.toNat * 134217728 + o.c.toNat * 67108864 + o.m.toNat * 16777216 + o.k.toNat * 8388608 + b.toNat * 131072 + a.toNat * 4096 + d.toNat * 128 := rfl
  generalize encodeNat (.vdivVs d a b o) = w' at hv ⊢
  obtain ⟨r0, r22, r29, f0, f1, f2, f3, f4, f5, f6, lt⟩ := layout17 36 0 4 o.z o.c o.m o.k b a d (by decide) (by decide) (by decide) w' hv
  have g3 : smodOf w' = o := by simp only [smodOf, f0, f1, f2, f3]
  refine ⟨?_, ?_, lt⟩
  · rw [raw_24 w' r0]
    simp only [rawMajor24, r29, f6, f5, f4, g3]
  · rintro rfl
    exact absurd r0 (by decide)

theorem WordRoundTrip.vremVs (d : BitVec 5) (a : BitVec 5) (b : BitVec 5) (o : SMod) : WordRoundTrip.Statement (.vremVs d a b o) := by
  intro _
  have hv : encodeNat (.vremVs d a b o) =
    36 + 0 * 4194304 + 5 * 536870912 + o.z.toNat * 134217728 + o.c.toNat * 67108864 + o.m.toNat * 16777216 + o.k.toNat * 8388608 + b.toNat * 131072 + a.toNat * 4096 + d.toNat * 128 := rfl
  generalize encodeNat (.vremVs d a b o) = w' at hv ⊢
  obtain ⟨r0, r22, r29, f0, f1, f2, f3, f4, f5, f6, lt⟩ := layout17 36 0 5 o.z o.c o.m o.k b a d (by decide) (by decide) (by decide) w' hv
  have g3 : smodOf w' = o := by simp only [smodOf, f0, f1, f2, f3]
  refine ⟨?_, ?_, lt⟩
  · rw [raw_24 w' r0]
    simp only [rawMajor24, r29, f6, f5, f4, g3]
  · rintro rfl
    exact absurd r0 (by decide)

theorem WordRoundTrip.vsllVs (d : BitVec 5) (a : BitVec 5) (b : BitVec 5) (o : SMod) : WordRoundTrip.Statement (.vsllVs d a b o) := by
  intro _
  have hv : encodeNat (.vsllVs d a b o) =
    36 + 0 * 4194304 + 6 * 536870912 + o.z.toNat * 134217728 + o.c.toNat * 67108864 + o.m.toNat * 16777216 + o.k.toNat * 8388608 + b.toNat * 131072 + a.toNat * 4096 + d.toNat * 128 := rfl
  generalize encodeNat (.vsllVs d a b o) = w' at hv ⊢
  obtain ⟨r0, r22, r29, f0, f1, f2, f3, f4, f5, f6, lt⟩ := layout17 36 0 6 o.z o.c o.m o.k b a d (by decide) (by decide) (by decide) w' hv
  have g3 : smodOf w' = o := by simp only [smodOf, f0, f1, f2, f3]
  refine ⟨?_, ?_, lt⟩
  · rw [raw_24 w' r0]
    simp only [rawMajor24, r29, f6, f5, f4, g3]
  · rintro rfl
    exact absurd r0 (by decide)

theorem WordRoundTrip.vsrlVs (d : BitVec 5) (a : BitVec 5) (b : BitVec 5) (o : SMod) : WordRoundTrip.Statement (.vsrlVs d a b o) := by
  intro _
  have hv : encodeNat (.vsrlVs d a b o) =
    36 + 0 * 4194304 + 7 * 536870912 + o.z.toNat * 134217728 + o.c.toNat * 67108864 + o.m.toNat * 16777216 + o.k.toNat * 8388608 + b.toNat * 131072 + a.toNat * 4096 + d.toNat * 128 := rfl
  generalize encodeNat (.vsrlVs d a b o) = w' at hv ⊢
  obtain ⟨r0, r22, r29, f0, f1, f2, f3, f4, f5, f6, lt⟩ := layout17 36 0 7 o.z o.c o.m o.k b a d (by decide) (by decide) (by decide) w' hv
  have g3 : smodOf w' = o := by simp only [smodOf, f0, f1, f2, f3]
  refine ⟨?_, ?_, lt⟩
  · rw [raw_24 w' r0]
    simp only [rawMajor24, r29, f6, f5, f4, g3]
  · rintro rfl
    exact absurd r0 (by decide)

theorem WordRoundTrip.vsllVi (d : BitVec 5) (b : BitVec 5) (i : BitVec 5) (o : SMod) : WordRoundTrip.Statement (.vsllVi d b i o) := by
  intro _
  have hv : encodeNat (.vsllVi d b i o) =
    37 + 0 * 4194304 + 0 * 536870912 + o.z.toNat * 134217728 + o.c.toNat * 67108864 + o.m.toNat * 16777216 + o.k.toNat * 8388608 + i.toNat * 4096 + b.toNat * 131072 + d.toNat * 128 := rfl
  generalize encodeNat (.vsllVi d b i o) = w' at hv ⊢
  obtain ⟨r0, r22, r29, f0, f1, f2, f3, f4, f5, f6, lt⟩ := layout18 37 0 0 o.z o.c o.m o.k i b d (by decide) (by decide) (by decide) w' hv
  have g3 : smodOf w' = o := by simp only [smodOf, f0, f1, f2, f3]
  refine ⟨?_, ?_, lt⟩
  · rw [raw_25 w' r0]
    simp only [rawMajor25, r29, f6, f5, f4, g3]
  · rintro rfl
    exact absurd r0 (by decide)

theorem WordRoundTrip.vsrlVi (d : BitVec 5) (b : BitVec 5) (i : BitVec 5) (o : SMod) : WordRoundTrip.Statement (.vsrlVi d b i o) := by
  intro _
  have hv : encodeNat (.vsrlVi d b i o) =
    37 + 0 * 4194304 + 1 * 536870912 + o.z.toNat * 134217728 + o.c.toNat * 67108864 + o.m.toNat * 16777216 + o.k.toNat * 8388608 + i.toNat * 4096 + b.toNat * 131072 + d.toNat * 128 := rfl
  generalize encodeNat (.vsrlVi d b i o) = w' at hv ⊢
  obtain ⟨r0, r22, r29, f0, f1, f2, f3, f4, f5, f6, lt⟩ := layout18 37 0 1 o.z o.c o.m o.k i b d (by decide) (by decide) (by decide) w' hv
  have g3 : smodOf w' = o := by simp only [smodOf, f0, f1, f2, f3]
  refine ⟨?_, ?_, lt⟩
  · rw [raw_25 w' r0]
    simp only [rawMajor25, r29, f6, f5, f4, g3]
  · rintro rfl
    exact absurd r0 (by decide)

theorem WordRoundTrip.vsraVi (d : BitVec 5) (b : BitVec 5) (i : BitVec 5) (o : SMod) : WordRoundTrip.Statement (.vsraVi d b i o) := by
  intro _
  have hv : encodeNat (.vsraVi d b i o) =
    37 + 0 * 4194304 + 2 * 536870912 + o.z.toNat * 134217728 + o.c.toNat * 67108864 + o.m.toNat * 16777216 + o.k.toNat * 8388608 + i.toNat * 4096 + b.toNat * 131072 + d.toNat * 128 := rfl
  generalize encodeNat (.vsraVi d b i o) = w' at hv ⊢
  obtain ⟨r0, r22, r29, f0, f1, f2, f3, f4, f5, f6, lt⟩ := layout18 37 0 2 o.z o.c o.m o.k i b d (by decide) (by decide) (by decide) w' hv
  have g3 : smodOf w' = o := by simp only [smodOf, f0, f1, f2, f3]
  refine ⟨?_, ?_, lt⟩
  · rw [raw_25 w' r0]
    simp only [rawMajor25, r29, f6, f5, f4, g3]
  · rintro rfl
    exact absurd r0 (by decide)

theorem WordRoundTrip.vsra (d : BitVec 5) (a : BitVec 5) (b : BitVec 5) (o : VMod) : WordRoundTrip.Statement (.vsra d a b o) := by
  intro _
  have hv : encodeNat (.vsra d a b o) =
    38 + 0 * 536870912 + o.z.toNat * 134217728 + o.c.toNat * 67108864 + o.m.toNat * 16777216 + o.k.toNat * 8388608 + o.j.toNat * 4194304 + b.toNat * 131072 + a.toNat * 4096 + d.toNat * 128 := rfl
  generalize encodeNat (.vsra d a b o) = w' at hv ⊢
  obtain ⟨r0, r29, f0, f1, f2, f3, f4, f5, f6, f7, lt⟩ := layout16 38 0 o.z o.c o.m o.k o.j b a d (by decide) (by decide) w' hv
  have g3 : vmodOf w' = o := by simp only [vmodOf, f0, f1, f2, f3, f4]
  refine ⟨?_, ?_, lt⟩
  · rw [raw_26 w' r0]
    simp only [rawMajor26, r29, f7, f6, f5, g3]
  · rintro rfl
    exact absurd r0 (by decide)

theorem WordRoundTrip.vclz (d : BitVec 5) (b : BitVec 5) (o : SMod) : WordRoundTrip.Statement (.vclz d b o) := by
  intro _
  have hv : encodeNat (.vclz d b o) =
    38 + 0 * 4096 + 0 * 4194304 + 1 * 536870912 + o.z.toNat * 134217728 + o.c.toNat * 67108864 + o.m.toNat * 16777216 + o.k.toNat * 8388608 + b.toNat * 131072 + d.toNat * 128 := rfl
  generalize encodeNat (.vclz d b o) = w' at hv ⊢
  obtain ⟨r0, r12, r22, r29, f0, f1, f2, f3, f4, f5, lt⟩ := layout19 38 0 0 1 o.z o.c o.m o.k b d (by decide) (by decide) (by decide) (by decide) w' hv
  have g2 : smodOf w' = o := by simp only [smodOf, f0, f1, f2, f3]
  refine ⟨?_, ?_, lt⟩
  · rw [raw_26 w' r0]
    simp only [rawMajor26, r29, f5, f4, g2]
  · rintro rfl
    exact absurd r0 (by decide)

theorem WordRoundTrip.vpopc (d : BitVec 5) (b : BitVec 5) (o : SMod) : WordRoundTrip.Statement (.vpopc d b o) := by
  intro _
  have hv : encodeNat (.vpopc d b o) =
    38 + 0 * 4096 + 0 * 4194304 + 2 * 536870912 + o.z.toNat * 134217728 + o.c.toNat * 67108864 + o.m.toNat * 16777216 + o.k.toNat * 8388608 + b.toNat * 131072 + d.toNat * 128 := rfl
  generalize encodeNat (.vpopc d b o) = w' at hv ⊢
  obtain ⟨r0, r12, r22, r29, f0, f1, f2, f3, f4, f5, lt⟩ := layout19 38 0 0 2 o.z o.c o.m o.k b d (by decide) (by decide) (by decide) (by decide) w' hv
  have g2 : smodOf w' = o := by simp only [smodOf, f0, f1, f2, f3]
  refine ⟨?_, ?_, lt⟩
  · rw [raw_26 w' r0]
    simp only [rawMajor26, r29, f5, f4, g2]
  · rintro rfl
    exact absurd r0 (by decide)

theorem WordRoundTrip.vbfx (d : BitVec 5) (a : BitVec 5) (b : BitVec 5) (o : VMod) : WordRoundTrip.Statement (.vbfx d a b o) := by
  intro _
  have hv : encodeNat (.vbfx d a b o) =
    38 + 3 * 536870912 + o.z.toNat * 134217728 + o.c.toNat * 67108864 + o.m.toNat * 16777216 + o.k.toNat * 8388608 + o.j.toNat * 4194304 + b.toNat * 131072 + a.toNat * 4096 + d.toNat * 128 := rfl
  generalize encodeNat (.vbfx d a b o) = w' at hv ⊢
  obtain ⟨r0, r29, f0, f1, f2, f3, f4, f5, f6, f7, lt⟩ := layout16 38 3 o.z o.c o.m o.k o.j b a d (by decide) (by decide) w' hv
  have g3 : vmodOf w' = o := by simp only [vmodOf, f0, f1, f2, f3, f4]
  refine ⟨?_, ?_, lt⟩
  · rw [raw_26 w' r0]
    simp only [rawMajor26, r29, f7, f6, f5, g3]
  · rintro rfl
    exact absurd r0 (by decide)

theorem WordRoundTrip.vfshr (d : BitVec 5) (a : BitVec 5) (b : BitVec 5) (o : VMod) : WordRoundTrip.Statement (.vfshr d a b o) := by
  intro _
  have hv : encodeNat (.vfshr d a b o) =
    38 + 4 * 536870912 + o.z.toNat * 134217728 + o.c.toNat * 67108864 + o.m.toNat * 16777216 + o.k.toNat * 8388608 + o.j.toNat * 4194304 + b.toNat * 131072 + a.toNat * 4096 + d.toNat * 128 := rfl
  generalize encodeNat (.vfshr d a b o) = w' at hv ⊢
  obtain ⟨r0, r29, f0, f1, f2, f3, f4, f5, f6, f7, lt⟩ := layout16 38 4 o.z o.c o.m o.k o.j b a d (by decide) (by decide) w' hv
  have g3 : vmodOf w' = o := by simp only [vmodOf, f0, f1, f2, f3, f4]
  refine ⟨?_, ?_, lt⟩
  · rw [raw_26 w' r0]
    simp only [rawMajor26, r29, f7, f6, f5, g3]
  · rintro rfl
    exact absurd r0 (by decide)

theorem WordRoundTrip.vsqrt (d : BitVec 5) (b : BitVec 5) (o : SMod) : WordRoundTrip.Statement (.vsqrt d b o) := by
  intro _
  have hv : encodeNat (.vsqrt d b o) =
    38 + 0 * 4096 + 0 * 4194304 + 5 * 536870912 + o.z.toNat * 134217728 + o.c.toNat * 67108864 + o.m.toNat * 16777216 + o.k.toNat * 8388608 + b.toNat * 131072 + d.toNat * 128 := rfl
  generalize encodeNat (.vsqrt d b o) = w' at hv ⊢
  obtain ⟨r0, r12, r22, r29, f0, f1, f2, f3, f4, f5, lt⟩ := layout19 38 0 0 5 o.z o.c o.m o.k b d (by decide) (by decide) (by decide) (by decide) w' hv
  have g2 : smodOf w' = o := by simp only [smodOf, f0, f1, f2, f3]
  refine ⟨?_, ?_, lt⟩
  · rw [raw_26 w' r0]
    simp only [rawMajor26, r29, f5, f4, g2]
  · rintro rfl
    exact absurd r0 (by decide)

theorem WordRoundTrip.vabs (d : BitVec 5) (b : BitVec 5) (o : SMod) : WordRoundTrip.Statement (.vabs d b o) := by
  intro _
  have hv : encodeNat (.vabs d b o) =
    38 + 0 * 4096 + 0 * 4194304 + 6 * 536870912 + o.z.toNat * 134217728 + o.c.toNat * 67108864 + o.m.toNat * 16777216 + o.k.toNat * 8388608 + b.toNat * 131072 + d.toNat * 128 := rfl
  generalize encodeNat (.vabs d b o) = w' at hv ⊢
  obtain ⟨r0, r12, r22, r29, f0, f1, f2, f3, f4, f5, lt⟩ := layout19 38 0 0 6 o.z o.c o.m o.k b d (by decide) (by decide) (by decide) (by decide) w' hv
  have g2 : smodOf w' = o := by simp only [smodOf, f0, f1, f2, f3]
  refine ⟨?_, ?_, lt⟩
  · rw [raw_26 w' r0]
    simp only [rawMajor26, r29, f5, f4, g2]
  · rintro rfl
    exact absurd r0 (by decide)

theorem WordRoundTrip.vneg (d : BitVec 5) (b : BitVec 5) (o : SMod) : WordRoundTrip.Statement (.vneg d b o) := by
  intro _
  have hv : encodeNat (.vneg d b o) =
    38 + 0 * 4096 + 0 * 4194304 + 7 * 536870912 + o.z.toNat * 134217728 + o.c.toNat * 67108864 + o.m.toNat * 16777216 + o.k.toNat * 8388608 + b.toNat * 131072 + d.toNat * 128 := rfl
  generalize encodeNat (.vneg d b o) = w' at hv ⊢
  obtain ⟨r0, r12, r22, r29, f0, f1, f2, f3, f4, f5, lt⟩ := layout19 38 0 0 7 o.z o.c o.m o.k b d (by decide) (by decide) (by decide) (by decide) w' hv
  have g2 : smodOf w' = o := by simp only [smodOf, f0, f1, f2, f3]
  refine ⟨?_, ?_, lt⟩
  · rw [raw_26 w' r0]
    simp only [rawMajor26, r29, f5, f4, g2]
  · rintro rfl
    exact absurd r0 (by decide)

theorem WordRoundTrip.vsraVs (d : BitVec 5) (a : BitVec 5) (b : BitVec 5) (o : SMod) : WordRoundTrip.Statement (.vsraVs d a b o) := by
  intro _
  have hv : encodeNat (.vsraVs d a b o) =
    39 + 0 * 4194304 + 0 * 536870912 + o.z.toNat * 134217728 + o.c.toNat * 67108864 + o.m.toNat * 16777216 + o.k.toNat * 8388608 + b.toNat * 131072 + a.toNat * 4096 + d.toNat * 128 := rfl
  generalize encodeNat (.vsraVs d a b o) = w' at hv ⊢
  obtain ⟨r0, r22, r29, f0, f1, f2, f3, f4, f5, f6, lt⟩ := layout17 39 0 0 o.z o.c o.m o.k b a d (by decide) (by decide) (by decide) w' hv
  have g3 : smodOf w' = o := by simp only [smodOf, f0, f1, f2, f3]
  refine ⟨?_, ?_, lt⟩
  · rw [raw_27 w' r0]
    simp only [rawMajor27, r29, f6, f5, f4, g3]
  · rintro rfl
    exact absurd r0 (by decide)

theorem WordRoundTrip.vbfxVs (d : BitVec 5) (a : BitVec 5) (b : BitVec 5) (o : SMod) : WordRoundTrip.Statement (.vbfxVs d a b o) := by
  intro _
  have hv : encodeNat (.vbfxVs d a b o) =
    39 + 0 * 4194304 + 3 * 536870912 + o.z.toNat * 134217728 + o.c.toNat * 67108864 + o.m.toNat * 16777216 + o.k.toNat * 8388608 + b.toNat * 131072 + a.toNat * 4096 + d.toNat * 128 := rfl
  generalize encodeNat (.vbfxVs d a b o) = w' at hv ⊢
  obtain ⟨r0, r22, r29, f0, f1, f2, f3, f4, f5, f6, lt⟩ := layout17 39 0 3 o.z o.c o.m o.k b a d (by decide) (by decide) (by decide) w' hv
  have g3 : smodOf w' = o := by simp only [smodOf, f0, f1, f2, f3]
  refine ⟨?_, ?_, lt⟩
  · rw [raw_27 w' r0]
    simp only [rawMajor27, r29, f6, f5, f4, g3]
  · rintro rfl
    exact absurd r0 (by decide)

theorem WordRoundTrip.vfshrVs (d : BitVec 5) (a : BitVec 5) (b : BitVec 5) (o : SMod) : WordRoundTrip.Statement (.vfshrVs d a b o) := by
  intro _
  have hv : encodeNat (.vfshrVs d a b o) =
    39 + 0 * 4194304 + 4 * 536870912 + o.z.toNat * 134217728 + o.c.toNat * 67108864 + o.m.toNat * 16777216 + o.k.toNat * 8388608 + b.toNat * 131072 + a.toNat * 4096 + d.toNat * 128 := rfl
  generalize encodeNat (.vfshrVs d a b o) = w' at hv ⊢
  obtain ⟨r0, r22, r29, f0, f1, f2, f3, f4, f5, f6, lt⟩ := layout17 39 0 4 o.z o.c o.m o.k b a d (by decide) (by decide) (by decide) w' hv
  have g3 : smodOf w' = o := by simp only [smodOf, f0, f1, f2, f3]
  refine ⟨?_, ?_, lt⟩
  · rw [raw_27 w' r0]
    simp only [rawMajor27, r29, f6, f5, f4, g3]
  · rintro rfl
    exact absurd r0 (by decide)

theorem WordRoundTrip.vcmp (d : BitVec 5) (a : BitVec 5) (b : BitVec 5) (q : BitVec 3) (o : VMod) : WordRoundTrip.Statement (.vcmp d a b q o) := by
  intro _
  have hv : encodeNat (.vcmp d a b q o) =
    40 + o.z.toNat * 134217728 + o.c.toNat * 67108864 + o.m.toNat * 16777216 + o.k.toNat * 8388608 + o.j.toNat * 4194304 + q.toNat * 536870912 + b.toNat * 131072 + a.toNat * 4096 + d.toNat * 128 := rfl
  generalize encodeNat (.vcmp d a b q o) = w' at hv ⊢
  obtain ⟨r0, f0, f1, f2, f3, f4, f5, f6, f7, f8, lt⟩ := layout20 40 o.z o.c o.m o.k o.j q b a d (by decide) w' hv
  have g4 : vmodOf w' = o := by simp only [vmodOf, f0, f1, f2, f3, f4]
  refine ⟨?_, ?_, lt⟩
  · rw [raw_28 w' r0, f8, f7, f6, f5, g4]
  · rintro rfl
    exact absurd r0 (by decide)

theorem WordRoundTrip.vcmpVs (d : BitVec 5) (a : BitVec 5) (b : BitVec 5) (q : BitVec 3) (o : SMod) : WordRoundTrip.Statement (.vcmpVs d a b q o) := by
  intro _
  have hv : encodeNat (.vcmpVs d a b q o) =
    41 + 0 * 4194304 + o.z.toNat * 134217728 + o.c.toNat * 67108864 + o.m.toNat * 16777216 + o.k.toNat * 8388608 + q.toNat * 536870912 + b.toNat * 131072 + a.toNat * 4096 + d.toNat * 128 := rfl
  generalize encodeNat (.vcmpVs d a b q o) = w' at hv ⊢
  obtain ⟨r0, r22, f0, f1, f2, f3, f4, f5, f6, f7, lt⟩ := layout21 41 0 o.z o.c o.m o.k q b a d (by decide) (by decide) w' hv
  have g4 : smodOf w' = o := by simp only [smodOf, f0, f1, f2, f3]
  refine ⟨?_, ?_, lt⟩
  · rw [raw_29 w' r0, f7, f6, f5, f4, g4]
  · rintro rfl
    exact absurd r0 (by decide)

theorem WordRoundTrip.vcmpVi (d : BitVec 5) (b : BitVec 5) (q : BitVec 3) (i : BitVec 5) (o : SMod) : WordRoundTrip.Statement (.vcmpVi d b q i o) := by
  intro _
  have hv : encodeNat (.vcmpVi d b q i o) =
    42 + 0 * 4194304 + o.z.toNat * 134217728 + o.c.toNat * 67108864 + o.m.toNat * 16777216 + o.k.toNat * 8388608 + i.toNat * 4096 + q.toNat * 536870912 + b.toNat * 131072 + d.toNat * 128 := rfl
  generalize encodeNat (.vcmpVi d b q i o) = w' at hv ⊢
  obtain ⟨r0, r22, f0, f1, f2, f3, f4, f5, f6, f7, lt⟩ := layout22 42 0 o.z o.c o.m o.k i q b d (by decide) (by decide) w' hv
  have g4 : smodOf w' = o := by simp only [smodOf, f0, f1, f2, f3]
  refine ⟨?_, ?_, lt⟩
  · rw [raw_2A w' r0, f7, f6, f5, f4, g4]
  · rintro rfl
    exact absurd r0 (by decide)

theorem WordRoundTrip.vsel (d : BitVec 5) (a : BitVec 5) (b : BitVec 5) (o : VMod) : WordRoundTrip.Statement (.vsel d a b o) := by
  intro _
  have hv : encodeNat (.vsel d a b o) =
    43 + 0 * 536870912 + o.z.toNat * 134217728 + o.c.toNat * 67108864 + o.m.toNat * 16777216 + o.k.toNat * 8388608 + o.j.toNat * 4194304 + b.toNat * 131072 + a.toNat * 4096 + d.toNat * 128 := rfl
  generalize encodeNat (.vsel d a b o) = w' at hv ⊢
  obtain ⟨r0, r29, f0, f1, f2, f3, f4, f5, f6, f7, lt⟩ := layout16 43 0 o.z o.c o.m o.k o.j b a d (by decide) (by decide) w' hv
  have g3 : vmodOf w' = o := by simp only [vmodOf, f0, f1, f2, f3, f4]
  refine ⟨?_, ?_, lt⟩
  · rw [raw_2B w' r0]
    simp only [rawMajor2B, r29, f7, f6, f5, g3]
  · rintro rfl
    exact absurd r0 (by decide)

theorem WordRoundTrip.vmv (d : BitVec 5) (b : BitVec 5) (o : SMod) : WordRoundTrip.Statement (.vmv d b o) := by
  intro _
  have hv : encodeNat (.vmv d b o) =
    43 + 0 * 4096 + 0 * 4194304 + 1 * 536870912 + o.z.toNat * 134217728 + o.c.toNat * 67108864 + o.m.toNat * 16777216 + o.k.toNat * 8388608 + b.toNat * 131072 + d.toNat * 128 := rfl
  generalize encodeNat (.vmv d b o) = w' at hv ⊢
  obtain ⟨r0, r12, r22, r29, f0, f1, f2, f3, f4, f5, lt⟩ := layout19 43 0 0 1 o.z o.c o.m o.k b d (by decide) (by decide) (by decide) (by decide) w' hv
  have g2 : smodOf w' = o := by simp only [smodOf, f0, f1, f2, f3]
  refine ⟨?_, ?_, lt⟩
  · rw [raw_2B w' r0]
    simp only [rawMajor2B, r29, f5, f4, g2]
  · rintro rfl
    exact absurd r0 (by decide)

theorem WordRoundTrip.vclass (d : BitVec 5) (b : BitVec 5) (o : SMod) : WordRoundTrip.Statement (.vclass d b o) := by
  intro _
  have hv : encodeNat (.vclass d b o) =
    43 + 0 * 4096 + 0 * 4194304 + 2 * 536870912 + o.z.toNat * 134217728 + o.c.toNat * 67108864 + o.m.toNat * 16777216 + o.k.toNat * 8388608 + b.toNat * 131072 + d.toNat * 128 := rfl
  generalize encodeNat (.vclass d b o) = w' at hv ⊢
  obtain ⟨r0, r12, r22, r29, f0, f1, f2, f3, f4, f5, lt⟩ := layout19 43 0 0 2 o.z o.c o.m o.k b d (by decide) (by decide) (by decide) (by decide) w' hv
  have g2 : smodOf w' = o := by simp only [smodOf, f0, f1, f2, f3]
  refine ⟨?_, ?_, lt⟩
  · rw [raw_2B w' r0]
    simp only [rawMajor2B, r29, f5, f4, g2]
  · rintro rfl
    exact absurd r0 (by decide)

theorem WordRoundTrip.vrecip (d : BitVec 5) (b : BitVec 5) (o : SMod) : WordRoundTrip.Statement (.vrecip d b o) := by
  intro _
  have hv : encodeNat (.vrecip d b o) =
    43 + 0 * 4096 + 0 * 4194304 + 3 * 536870912 + o.z.toNat * 134217728 + o.c.toNat * 67108864 + o.m.toNat * 16777216 + o.k.toNat * 8388608 + b.toNat * 131072 + d.toNat * 128 := rfl
  generalize encodeNat (.vrecip d b o) = w' at hv ⊢
  obtain ⟨r0, r12, r22, r29, f0, f1, f2, f3, f4, f5, lt⟩ := layout19 43 0 0 3 o.z o.c o.m o.k b d (by decide) (by decide) (by decide) (by decide) w' hv
  have g2 : smodOf w' = o := by simp only [smodOf, f0, f1, f2, f3]
  refine ⟨?_, ?_, lt⟩
  · rw [raw_2B w' r0]
    simp only [rawMajor2B, r29, f5, f4, g2]
  · rintro rfl
    exact absurd r0 (by decide)

theorem WordRoundTrip.vidx (d : BitVec 5) (m : BitVec 2) : WordRoundTrip.Statement (.vidx d m) := by
  intro _
  have hv : encodeNat (.vidx d m) =
    43 + 0 * 4096 + 32 * 67108864 + m.toNat * 16777216 + d.toNat * 128 := rfl
  generalize encodeNat (.vidx d m) = w' at hv ⊢
  obtain ⟨r0, r12, r26, f0, f1, lt⟩ := layout23 43 0 32 m d (by decide) (by decide) (by decide) w' hv
  have c1 : bitsOf w' 29 3 = 4 := bits_lit w' 29 3 4 536870912 8 rfl rfl (by
    have := (d).isLt
    have := (m).isLt
    omega)
  refine ⟨?_, ?_, lt⟩
  · rw [raw_2B w' r0]
    simp only [rawMajor2B, c1, f1, f0]
  · rintro rfl
    exact absurd r0 (by decide)

theorem WordRoundTrip.vselVs (d : BitVec 5) (a : BitVec 5) (b : BitVec 5) (o : SMod) : WordRoundTrip.Statement (.vselVs d a b o) := by
  intro _
  have hv : encodeNat (.vselVs d a b o) =
    44 + 0 * 4194304 + 0 * 536870912 + o.z.toNat * 134217728 + o.c.toNat * 67108864 + o.m.toNat * 16777216 + o.k.toNat * 8388608 + b.toNat * 131072 + a.toNat * 4096 + d.toNat * 128 := rfl
  generalize encodeNat (.vselVs d a b o) = w' at hv ⊢
  obtain ⟨r0, r22, r29, f0, f1, f2, f3, f4, f5, f6, lt⟩ := layout17 44 0 0 o.z o.c o.m o.k b a d (by decide) (by decide) (by decide) w' hv
  have g3 : smodOf w' = o := by simp only [smodOf, f0, f1, f2, f3]
  refine ⟨?_, ?_, lt⟩
  · rw [raw_2C w' r0]
    simp only [rawMajor2C, r29, f6, f5, f4, g3]
  · rintro rfl
    exact absurd r0 (by decide)

theorem WordRoundTrip.vmvVs (d : BitVec 5) (a : BitVec 5) (m : BitVec 2) : WordRoundTrip.Statement (.vmvVs d a m) := by
  intro _
  have hv : encodeNat (.vmvVs d a m) =
    44 + 0 * 131072 + 8 * 67108864 + m.toNat * 16777216 + a.toNat * 4096 + d.toNat * 128 := rfl
  generalize encodeNat (.vmvVs d a m) = w' at hv ⊢
  obtain ⟨r0, r17, r26, f0, f1, f2, lt⟩ := layout24 44 0 8 m a d (by decide) (by decide) (by decide) w' hv
  have c1 : bitsOf w' 29 3 = 1 := bits_lit w' 29 3 1 536870912 8 rfl rfl (by
    have := (d).isLt
    have := (a).isLt
    have := (m).isLt
    omega)
  refine ⟨?_, ?_, lt⟩
  · rw [raw_2C w' r0]
    simp only [rawMajor2C, c1, f2, f1, f0]
  · rintro rfl
    exact absurd r0 (by decide)

theorem WordRoundTrip.mand (d : BitVec 5) (a : BitVec 5) (b : BitVec 5) : WordRoundTrip.Statement (.mand d a b) := by
  intro _
  have hv : encodeNat (.mand d a b) =
    45 + 0 * 4194304 + b.toNat * 131072 + a.toNat * 4096 + d.toNat * 128 := rfl
  generalize encodeNat (.mand d a b) = w' at hv ⊢
  obtain ⟨r0, r22, f0, f1, f2, lt⟩ := layout0 45 0 b a d (by decide) (by decide) w' hv
  have c1 : bitsOf w' 29 3 = 0 := bits_lit w' 29 3 0 536870912 8 rfl rfl (by
    have := (d).isLt
    have := (a).isLt
    have := (b).isLt
    omega)
  refine ⟨?_, ?_, lt⟩
  · rw [raw_2D w' r0]
    simp only [rawMajor2D, c1, f2, f1, f0]
  · rintro rfl
    exact absurd r0 (by decide)

theorem WordRoundTrip.mor (d : BitVec 5) (a : BitVec 5) (b : BitVec 5) : WordRoundTrip.Statement (.mor d a b) := by
  intro _
  have hv : encodeNat (.mor d a b) =
    45 + 128 * 4194304 + b.toNat * 131072 + a.toNat * 4096 + d.toNat * 128 := rfl
  generalize encodeNat (.mor d a b) = w' at hv ⊢
  obtain ⟨r0, r22, f0, f1, f2, lt⟩ := layout0 45 128 b a d (by decide) (by decide) w' hv
  have c1 : bitsOf w' 29 3 = 1 := bits_lit w' 29 3 1 536870912 8 rfl rfl (by
    have := (d).isLt
    have := (a).isLt
    have := (b).isLt
    omega)
  refine ⟨?_, ?_, lt⟩
  · rw [raw_2D w' r0]
    simp only [rawMajor2D, c1, f2, f1, f0]
  · rintro rfl
    exact absurd r0 (by decide)

theorem WordRoundTrip.mxor (d : BitVec 5) (a : BitVec 5) (b : BitVec 5) : WordRoundTrip.Statement (.mxor d a b) := by
  intro _
  have hv : encodeNat (.mxor d a b) =
    45 + 256 * 4194304 + b.toNat * 131072 + a.toNat * 4096 + d.toNat * 128 := rfl
  generalize encodeNat (.mxor d a b) = w' at hv ⊢
  obtain ⟨r0, r22, f0, f1, f2, lt⟩ := layout0 45 256 b a d (by decide) (by decide) w' hv
  have c1 : bitsOf w' 29 3 = 2 := bits_lit w' 29 3 2 536870912 8 rfl rfl (by
    have := (d).isLt
    have := (a).isLt
    have := (b).isLt
    omega)
  refine ⟨?_, ?_, lt⟩
  · rw [raw_2D w' r0]
    simp only [rawMajor2D, c1, f2, f1, f0]
  · rintro rfl
    exact absurd r0 (by decide)

theorem WordRoundTrip.mandn (d : BitVec 5) (a : BitVec 5) (b : BitVec 5) : WordRoundTrip.Statement (.mandn d a b) := by
  intro _
  have hv : encodeNat (.mandn d a b) =
    45 + 384 * 4194304 + b.toNat * 131072 + a.toNat * 4096 + d.toNat * 128 := rfl
  generalize encodeNat (.mandn d a b) = w' at hv ⊢
  obtain ⟨r0, r22, f0, f1, f2, lt⟩ := layout0 45 384 b a d (by decide) (by decide) w' hv
  have c1 : bitsOf w' 29 3 = 3 := bits_lit w' 29 3 3 536870912 8 rfl rfl (by
    have := (d).isLt
    have := (a).isLt
    have := (b).isLt
    omega)
  refine ⟨?_, ?_, lt⟩
  · rw [raw_2D w' r0]
    simp only [rawMajor2D, c1, f2, f1, f0]
  · rintro rfl
    exact absurd r0 (by decide)

theorem WordRoundTrip.mnot (d : BitVec 5) (a : BitVec 5) : WordRoundTrip.Statement (.mnot d a) := by
  intro _
  have hv : encodeNat (.mnot d a) =
    45 + 16384 * 131072 + a.toNat * 4096 + d.toNat * 128 := rfl
  generalize encodeNat (.mnot d a) = w' at hv ⊢
  obtain ⟨r0, r17, f0, f1, lt⟩ := layout1 45 16384 a d (by decide) (by decide) w' hv
  have c1 : bitsOf w' 29 3 = 4 := bits_lit w' 29 3 4 536870912 8 rfl rfl (by
    have := (d).isLt
    have := (a).isLt
    omega)
  refine ⟨?_, ?_, lt⟩
  · rw [raw_2D w' r0]
    simp only [rawMajor2D, c1, f1, f0]
  · rintro rfl
    exact absurd r0 (by decide)

theorem WordRoundTrip.mffs (d : BitVec 5) (a : BitVec 5) : WordRoundTrip.Statement (.mffs d a) := by
  intro _
  have hv : encodeNat (.mffs d a) =
    45 + 20480 * 131072 + a.toNat * 4096 + d.toNat * 128 := rfl
  generalize encodeNat (.mffs d a) = w' at hv ⊢
  obtain ⟨r0, r17, f0, f1, lt⟩ := layout1 45 20480 a d (by decide) (by decide) w' hv
  have c1 : bitsOf w' 29 3 = 5 := bits_lit w' 29 3 5 536870912 8 rfl rfl (by
    have := (d).isLt
    have := (a).isLt
    omega)
  refine ⟨?_, ?_, lt⟩
  · rw [raw_2D w' r0]
    simp only [rawMajor2D, c1, f1, f0]
  · rintro rfl
    exact absurd r0 (by decide)

theorem WordRoundTrip.mpopc (d : BitVec 5) (a : BitVec 5) : WordRoundTrip.Statement (.mpopc d a) := by
  intro _
  have hv : encodeNat (.mpopc d a) =
    45 + 24576 * 131072 + a.toNat * 4096 + d.toNat * 128 := rfl
  generalize encodeNat (.mpopc d a) = w' at hv ⊢
  obtain ⟨r0, r17, f0, f1, lt⟩ := layout1 45 24576 a d (by decide) (by decide) w' hv
  have c1 : bitsOf w' 29 3 = 6 := bits_lit w' 29 3 6 536870912 8 rfl rfl (by
    have := (d).isLt
    have := (a).isLt
    omega)
  refine ⟨?_, ?_, lt⟩
  · rw [raw_2D w' r0]
    simp only [rawMajor2D, c1, f1, f0]
  · rintro rfl
    exact absurd r0 (by decide)

theorem WordRoundTrip.vcvtw (d : BitVec 5) (b : BitVec 5) (v : BitVec 3) (o : SMod) : WordRoundTrip.Statement (.vcvtw d b v o) := by
  intro _
  have hv : encodeNat (.vcvtw d b v o) =
    48 + 0 * 4096 + 0 * 4194304 + o.z.toNat * 134217728 + o.c.toNat * 67108864 + o.m.toNat * 16777216 + o.k.toNat * 8388608 + v.toNat * 536870912 + b.toNat * 131072 + d.toNat * 128 := rfl
  generalize encodeNat (.vcvtw d b v o) = w' at hv ⊢
  obtain ⟨r0, r12, r22, f0, f1, f2, f3, f4, f5, f6, lt⟩ := layout25 48 0 0 o.z o.c o.m o.k v b d (by decide) (by decide) (by decide) w' hv
  have g3 : smodOf w' = o := by simp only [smodOf, f0, f1, f2, f3]
  refine ⟨?_, ?_, lt⟩
  · rw [raw_30 w' r0, f6, f5, f4, g3]
  · rintro rfl
    exact absurd r0 (by decide)

theorem WordRoundTrip.vcvtn (d : BitVec 5) (b : BitVec 5) (v : BitVec 3) (o : SMod) : WordRoundTrip.Statement (.vcvtn d b v o) := by
  intro _
  have hv : encodeNat (.vcvtn d b v o) =
    49 + 0 * 4096 + 0 * 4194304 + o.z.toNat * 134217728 + o.c.toNat * 67108864 + o.m.toNat * 16777216 + o.k.toNat * 8388608 + v.toNat * 536870912 + b.toNat * 131072 + d.toNat * 128 := rfl
  generalize encodeNat (.vcvtn d b v o) = w' at hv ⊢
  obtain ⟨r0, r12, r22, f0, f1, f2, f3, f4, f5, f6, lt⟩ := layout25 49 0 0 o.z o.c o.m o.k v b d (by decide) (by decide) (by decide) w' hv
  have g3 : smodOf w' = o := by simp only [smodOf, f0, f1, f2, f3]
  refine ⟨?_, ?_, lt⟩
  · rw [raw_31 w' r0, f6, f5, f4, g3]
  · rintro rfl
    exact absurd r0 (by decide)

theorem WordRoundTrip.vcvti (d : BitVec 5) (b : BitVec 5) (v : BitVec 3) (o : SMod) : WordRoundTrip.Statement (.vcvti d b v o) := by
  intro _
  have hv : encodeNat (.vcvti d b v o) =
    50 + 0 * 4096 + 0 * 4194304 + o.z.toNat * 134217728 + o.c.toNat * 67108864 + o.m.toNat * 16777216 + o.k.toNat * 8388608 + v.toNat * 536870912 + b.toNat * 131072 + d.toNat * 128 := rfl
  generalize encodeNat (.vcvti d b v o) = w' at hv ⊢
  obtain ⟨r0, r12, r22, f0, f1, f2, f3, f4, f5, f6, lt⟩ := layout25 50 0 0 o.z o.c o.m o.k v b d (by decide) (by decide) (by decide) w' hv
  have g3 : smodOf w' = o := by simp only [smodOf, f0, f1, f2, f3]
  refine ⟨?_, ?_, lt⟩
  · rw [raw_32 w' r0, f6, f5, f4, g3]
  · rintro rfl
    exact absurd r0 (by decide)

theorem WordRoundTrip.vcvtf4 (d : BitVec 5) (b : BitVec 5) (v : BitVec 3) (o : SMod) : WordRoundTrip.Statement (.vcvtf4 d b v o) := by
  intro _
  have hv : encodeNat (.vcvtf4 d b v o) =
    51 + 0 * 4096 + 0 * 4194304 + o.z.toNat * 134217728 + o.c.toNat * 67108864 + o.m.toNat * 16777216 + o.k.toNat * 8388608 + v.toNat * 536870912 + b.toNat * 131072 + d.toNat * 128 := rfl
  generalize encodeNat (.vcvtf4 d b v o) = w' at hv ⊢
  obtain ⟨r0, r12, r22, f0, f1, f2, f3, f4, f5, f6, lt⟩ := layout25 51 0 0 o.z o.c o.m o.k v b d (by decide) (by decide) (by decide) w' hv
  have g3 : smodOf w' = o := by simp only [smodOf, f0, f1, f2, f3]
  refine ⟨?_, ?_, lt⟩
  · rw [raw_33 w' r0, f6, f5, f4, g3]
  · rintro rfl
    exact absurd r0 (by decide)

theorem WordRoundTrip.vcvtdy (d : BitVec 5) (b : BitVec 5) (v : BitVec 3) (o : SMod) : WordRoundTrip.Statement (.vcvtdy d b v o) := by
  intro _
  have hv : encodeNat (.vcvtdy d b v o) =
    52 + 0 * 4096 + 0 * 4194304 + o.z.toNat * 134217728 + o.c.toNat * 67108864 + o.m.toNat * 16777216 + o.k.toNat * 8388608 + v.toNat * 536870912 + b.toNat * 131072 + d.toNat * 128 := rfl
  generalize encodeNat (.vcvtdy d b v o) = w' at hv ⊢
  obtain ⟨r0, r12, r22, f0, f1, f2, f3, f4, f5, f6, lt⟩ := layout25 52 0 0 o.z o.c o.m o.k v b d (by decide) (by decide) (by decide) w' hv
  have g3 : smodOf w' = o := by simp only [smodOf, f0, f1, f2, f3]
  refine ⟨?_, ?_, lt⟩
  · rw [raw_34 w' r0, f6, f5, f4, g3]
  · rintro rfl
    exact absurd r0 (by decide)

theorem WordRoundTrip.kset (d : BitVec 5) (b : BitVec 5) (k : BitVec 1) : WordRoundTrip.Statement (.kset d b k) := by
  intro _
  have hv : encodeNat (.kset d b k) =
    53 + 0 * 4096 + 0 * 4194304 + 0 * 16777216 + k.toNat * 8388608 + b.toNat * 131072 + d.toNat * 128 := rfl
  generalize encodeNat (.kset d b k) = w' at hv ⊢
  obtain ⟨r0, r12, r22, r24, f0, f1, f2, lt⟩ := layout26 53 0 0 0 k b d (by decide) (by decide) (by decide) (by decide) w' hv
  have c1 : bitsOf w' 29 3 = 0 := bits_lit w' 29 3 0 536870912 8 rfl rfl (by
    have := (d).isLt
    have := (b).isLt
    have := (k).isLt
    omega)
  refine ⟨?_, ?_, lt⟩
  · rw [raw_35 w' r0]
    simp only [rawMajor35, c1, f2, f1, f0]
  · rintro rfl
    exact absurd r0 (by decide)

theorem WordRoundTrip.kmv (d : BitVec 5) (a : BitVec 5) (b : BitVec 5) (m : BitVec 2) : WordRoundTrip.Statement (.kmv d a b m) := by
  intro _
  have hv : encodeNat (.kmv d a b m) =
    53 + 0 * 4194304 + 8 * 67108864 + m.toNat * 16777216 + b.toNat * 131072 + a.toNat * 4096 + d.toNat * 128 := rfl
  generalize encodeNat (.kmv d a b m) = w' at hv ⊢
  obtain ⟨r0, r22, r26, f0, f1, f2, f3, lt⟩ := layout27 53 0 8 m b a d (by decide) (by decide) (by decide) w' hv
  have c1 : bitsOf w' 29 3 = 1 := bits_lit w' 29 3 1 536870912 8 rfl rfl (by
    have := (d).isLt
    have := (a).isLt
    have := (b).isLt
    have := (m).isLt
    omega)
  refine ⟨?_, ?_, lt⟩
  · rw [raw_35 w' r0]
    simp only [rawMajor35, c1, f3, f2, f1, f0]
  · rintro rfl
    exact absurd r0 (by decide)

theorem WordRoundTrip.kcalc (d : BitVec 5) (a : BitVec 5) (b : BitVec 5) (m : BitVec 2) (k : BitVec 1) : WordRoundTrip.Statement (.kcalc d a b m k) := by
  intro _
  have hv : encodeNat (.kcalc d a b m k) =
    53 + 0 * 4194304 + 16 * 67108864 + k.toNat * 8388608 + m.toNat * 16777216 + b.toNat * 131072 + a.toNat * 4096 + d.toNat * 128 := rfl
  generalize encodeNat (.kcalc d a b m k) = w' at hv ⊢
  obtain ⟨r0, r22, r26, f0, f1, f2, f3, f4, lt⟩ := layout28 53 0 16 k m b a d (by decide) (by decide) (by decide) w' hv
  have c1 : bitsOf w' 29 3 = 2 := bits_lit w' 29 3 2 536870912 8 rfl rfl (by
    have := (d).isLt
    have := (a).isLt
    have := (b).isLt
    have := (m).isLt
    have := (k).isLt
    omega)
  refine ⟨?_, ?_, lt⟩
  · rw [raw_35 w' r0]
    simp only [rawMajor35, c1, f4, f3, f2, f1, f0]
  · rintro rfl
    exact absurd r0 (by decide)

theorem WordRoundTrip.vslup (d : BitVec 5) (a : BitVec 5) (b : BitVec 5) (f : BitVec 3) (m : BitVec 2) (k : BitVec 1) : WordRoundTrip.Statement (.vslup d a b f m k) := by
  intro _
  have hv : encodeNat (.vslup d a b f m k) =
    56 + 0 * 4194304 + 0 * 67108864 + k.toNat * 8388608 + m.toNat * 16777216 + f.toNat * 536870912 + b.toNat * 131072 + a.toNat * 4096 + d.toNat * 128 := rfl
  generalize encodeNat (.vslup d a b f m k) = w' at hv ⊢
  obtain ⟨r0, r22, r26, f0, f1, f2, f3, f4, f5, lt⟩ := layout29 56 0 0 k m f b a d (by decide) (by decide) (by decide) w' hv
  refine ⟨?_, ?_, lt⟩
  · rw [raw_38 w' r0, f5, f4, f3, f2, f1, f0]
  · rintro rfl
    exact absurd r0 (by decide)

theorem WordRoundTrip.vsldn (d : BitVec 5) (a : BitVec 5) (b : BitVec 5) (f : BitVec 3) (m : BitVec 2) (k : BitVec 1) : WordRoundTrip.Statement (.vsldn d a b f m k) := by
  intro _
  have hv : encodeNat (.vsldn d a b f m k) =
    57 + 0 * 4194304 + 0 * 67108864 + k.toNat * 8388608 + m.toNat * 16777216 + f.toNat * 536870912 + b.toNat * 131072 + a.toNat * 4096 + d.toNat * 128 := rfl
  generalize encodeNat (.vsldn d a b f m k) = w' at hv ⊢
  obtain ⟨r0, r22, r26, f0, f1, f2, f3, f4, f5, lt⟩ := layout29 57 0 0 k m f b a d (by decide) (by decide) (by decide) w' hv
  refine ⟨?_, ?_, lt⟩
  · rw [raw_39 w' r0, f5, f4, f3, f2, f1, f0]
  · rintro rfl
    exact absurd r0 (by decide)

theorem WordRoundTrip.vperm (d : BitVec 5) (a : BitVec 5) (b : BitVec 5) (m : BitVec 2) (k : BitVec 1) (j : BitVec 1) : WordRoundTrip.Statement (.vperm d a b m k j) := by
  intro _
  have hv : encodeNat (.vperm d a b m k j) =
    58 + 0 * 67108864 + j.toNat * 4194304 + k.toNat * 8388608 + m.toNat * 16777216 + b.toNat * 131072 + a.toNat * 4096 + d.toNat * 128 := rfl
  generalize encodeNat (.vperm d a b m k j) = w' at hv ⊢
  obtain ⟨r0, r26, f0, f1, f2, f3, f4, f5, lt⟩ := layout30 58 0 j k m b a d (by decide) (by decide) w' hv
  refine ⟨?_, ?_, lt⟩
  · rw [raw_3A w' r0, f5, f4, f3, f2, f1, f0]
  · rintro rfl
    exact absurd r0 (by decide)

theorem WordRoundTrip.vcmpr (d : BitVec 5) (b : BitVec 5) (m : BitVec 2) (k : BitVec 1) : WordRoundTrip.Statement (.vcmpr d b m k) := by
  intro _
  have hv : encodeNat (.vcmpr d b m k) =
    59 + 0 * 4096 + 0 * 4194304 + 0 * 67108864 + k.toNat * 8388608 + m.toNat * 16777216 + b.toNat * 131072 + d.toNat * 128 := rfl
  generalize encodeNat (.vcmpr d b m k) = w' at hv ⊢
  obtain ⟨r0, r12, r22, r26, f0, f1, f2, f3, lt⟩ := layout31 59 0 0 0 k m b d (by decide) (by decide) (by decide) (by decide) w' hv
  have c1 : bitsOf w' 29 3 = 0 := bits_lit w' 29 3 0 536870912 8 rfl rfl (by
    have := (d).isLt
    have := (b).isLt
    have := (m).isLt
    have := (k).isLt
    omega)
  refine ⟨?_, ?_, lt⟩
  · rw [raw_3B w' r0]
    simp only [rawMajor3B, c1, f3, f2, f1, f0]
  · rintro rfl
    exact absurd r0 (by decide)

theorem WordRoundTrip.vexpd (d : BitVec 5) (b : BitVec 5) (m : BitVec 2) (k : BitVec 1) : WordRoundTrip.Statement (.vexpd d b m k) := by
  intro _
  have hv : encodeNat (.vexpd d b m k) =
    59 + 0 * 4096 + 0 * 4194304 + 8 * 67108864 + k.toNat * 8388608 + m.toNat * 16777216 + b.toNat * 131072 + d.toNat * 128 := rfl
  generalize encodeNat (.vexpd d b m k) = w' at hv ⊢
  obtain ⟨r0, r12, r22, r26, f0, f1, f2, f3, lt⟩ := layout31 59 0 0 8 k m b d (by decide) (by decide) (by decide) (by decide) w' hv
  have c1 : bitsOf w' 29 3 = 1 := bits_lit w' 29 3 1 536870912 8 rfl rfl (by
    have := (d).isLt
    have := (b).isLt
    have := (m).isLt
    have := (k).isLt
    omega)
  refine ⟨?_, ?_, lt⟩
  · rw [raw_3B w' r0]
    simp only [rawMajor3B, c1, f3, f2, f1, f0]
  · rintro rfl
    exact absurd r0 (by decide)

theorem WordRoundTrip.viota (d : BitVec 5) (b : BitVec 5) (m : BitVec 2) : WordRoundTrip.Statement (.viota d b m) := by
  intro _
  have hv : encodeNat (.viota d b m) =
    59 + 0 * 4096 + 0 * 4194304 + 16 * 67108864 + m.toNat * 16777216 + b.toNat * 131072 + d.toNat * 128 := rfl
  generalize encodeNat (.viota d b m) = w' at hv ⊢
  obtain ⟨r0, r12, r22, r26, f0, f1, f2, lt⟩ := layout32 59 0 0 16 m b d (by decide) (by decide) (by decide) (by decide) w' hv
  have c1 : bitsOf w' 29 3 = 2 := bits_lit w' 29 3 2 536870912 8 rfl rfl (by
    have := (d).isLt
    have := (b).isLt
    have := (m).isLt
    omega)
  refine ⟨?_, ?_, lt⟩
  · rw [raw_3B w' r0]
    simp only [rawMajor3B, c1, f2, f1, f0]
  · rintro rfl
    exact absurd r0 (by decide)

theorem WordRoundTrip.vred (d : BitVec 5) (a : BitVec 5) (b : BitVec 5) (o : BitVec 3) (m : BitVec 2) (k : BitVec 1) (j : BitVec 1) : WordRoundTrip.Statement (.vred d a b o m k j) := by
  intro _
  have hv : encodeNat (.vred d a b o m k j) =
    60 + 0 * 67108864 + j.toNat * 4194304 + k.toNat * 8388608 + m.toNat * 16777216 + o.toNat * 536870912 + b.toNat * 131072 + a.toNat * 4096 + d.toNat * 128 := rfl
  generalize encodeNat (.vred d a b o m k j) = w' at hv ⊢
  obtain ⟨r0, r26, f0, f1, f2, f3, f4, f5, f6, lt⟩ := layout33 60 0 j k m o b a d (by decide) (by decide) w' hv
  refine ⟨?_, ?_, lt⟩
  · rw [raw_3C w' r0, f6, f5, f4, f3, f2, f1, f0]
  · rintro rfl
    exact absurd r0 (by decide)

theorem WordRoundTrip.vscan (d : BitVec 5) (a : BitVec 5) (b : BitVec 5) (o : BitVec 3) (m : BitVec 2) (k : BitVec 1) (j : BitVec 1) : WordRoundTrip.Statement (.vscan d a b o m k j) := by
  intro _
  have hv : encodeNat (.vscan d a b o m k j) =
    61 + 0 * 67108864 + j.toNat * 4194304 + k.toNat * 8388608 + m.toNat * 16777216 + o.toNat * 536870912 + b.toNat * 131072 + a.toNat * 4096 + d.toNat * 128 := rfl
  generalize encodeNat (.vscan d a b o m k j) = w' at hv ⊢
  obtain ⟨r0, r26, f0, f1, f2, f3, f4, f5, f6, lt⟩ := layout33 61 0 j k m o b a d (by decide) (by decide) w' hv
  refine ⟨?_, ?_, lt⟩
  · rw [raw_3D w' r0, f6, f5, f4, f3, f2, f1, f0]
  · rintro rfl
    exact absurd r0 (by decide)

theorem WordRoundTrip.vhist (d : BitVec 5) (b : BitVec 5) (l : BitVec 1) (w : BitVec 1) (m : BitVec 2) (k : BitVec 1) : WordRoundTrip.Statement (.vhist d b l w m k) := by
  intro _
  have hv : encodeNat (.vhist d b l w m k) =
    62 + 0 * 4096 + 0 * 4194304 + 0 * 67108864 + 0 * 2147483648 + k.toNat * 8388608 + m.toNat * 16777216 + w.toNat * 536870912 + l.toNat * 1073741824 + b.toNat * 131072 + d.toNat * 128 := rfl
  generalize encodeNat (.vhist d b l w m k) = w' at hv ⊢
  obtain ⟨r0, r12, r22, r26, r31, f0, f1, f2, f3, f4, f5, lt⟩ := layout34 62 0 0 0 0 k m w l b d (by decide) (by decide) (by decide) (by decide) (by decide) w' hv
  refine ⟨?_, ?_, lt⟩
  · rw [raw_3E w' r0, f5, f4, f3, f2, f1, f0]
  · rintro rfl
    exact absurd r0 (by decide)

theorem WordRoundTrip.vtopk (d : BitVec 5) (a : BitVec 5) (b : BitVec 5) (m : BitVec 2) (k : BitVec 1) : WordRoundTrip.Statement (.vtopk d a b m k) := by
  intro _
  have hv : encodeNat (.vtopk d a b m k) =
    63 + 0 * 4194304 + 0 * 67108864 + k.toNat * 8388608 + m.toNat * 16777216 + b.toNat * 131072 + a.toNat * 4096 + d.toNat * 128 := rfl
  generalize encodeNat (.vtopk d a b m k) = w' at hv ⊢
  obtain ⟨r0, r22, r26, f0, f1, f2, f3, f4, lt⟩ := layout28 63 0 0 k m b a d (by decide) (by decide) (by decide) w' hv
  have c1 : bitsOf w' 29 3 = 0 := bits_lit w' 29 3 0 536870912 8 rfl rfl (by
    have := (d).isLt
    have := (a).isLt
    have := (b).isLt
    have := (m).isLt
    have := (k).isLt
    omega)
  refine ⟨?_, ?_, lt⟩
  · rw [raw_3F w' r0]
    simp only [rawMajor3F, c1, f4, f3, f2, f1, f0]
  · rintro rfl
    exact absurd r0 (by decide)

theorem WordRoundTrip.vtkmrg (d : BitVec 5) (a : BitVec 5) (b : BitVec 5) (k : BitVec 1) (j : BitVec 1) : WordRoundTrip.Statement (.vtkmrg d a b k j) := by
  intro _
  have hv : encodeNat (.vtkmrg d a b k j) =
    63 + 32 * 16777216 + j.toNat * 4194304 + k.toNat * 8388608 + b.toNat * 131072 + a.toNat * 4096 + d.toNat * 128 := rfl
  generalize encodeNat (.vtkmrg d a b k j) = w' at hv ⊢
  obtain ⟨r0, r24, f0, f1, f2, f3, f4, lt⟩ := layout35 63 32 j k b a d (by decide) (by decide) w' hv
  have c1 : bitsOf w' 29 3 = 1 := bits_lit w' 29 3 1 536870912 8 rfl rfl (by
    have := (d).isLt
    have := (a).isLt
    have := (b).isLt
    have := (k).isLt
    have := (j).isLt
    omega)
  refine ⟨?_, ?_, lt⟩
  · rw [raw_3F w' r0]
    simp only [rawMajor3F, c1, f4, f3, f2, f1, f0]
  · rintro rfl
    exact absurd r0 (by decide)

theorem WordRoundTrip.vld (d : BitVec 5) (a : BitVec 5) (m : BitVec 2) : WordRoundTrip.Statement (.vld d a m) := by
  intro _
  have hv : encodeNat (.vld d a m) =
    64 + 0 * 131072 + 0 * 67108864 + m.toNat * 16777216 + a.toNat * 4096 + d.toNat * 128 := rfl
  generalize encodeNat (.vld d a m) = w' at hv ⊢
  obtain ⟨r0, r17, r26, f0, f1, f2, lt⟩ := layout24 64 0 0 m a d (by decide) (by decide) (by decide) w' hv
  refine ⟨?_, ?_, lt⟩
  · rw [raw_40 w' r0, f2, f1, f0]
  · rintro rfl
    exact absurd r0 (by decide)

theorem WordRoundTrip.vlds (d : BitVec 5) (a : BitVec 5) (b : BitVec 5) (m : BitVec 2) : WordRoundTrip.Statement (.vlds d a b m) := by
  intro _
  have hv : encodeNat (.vlds d a b m) =
    65 + 0 * 4194304 + 0 * 67108864 + m.toNat * 16777216 + b.toNat * 131072 + a.toNat * 4096 + d.toNat * 128 := rfl
  generalize encodeNat (.vlds d a b m) = w' at hv ⊢
  obtain ⟨r0, r22, r26, f0, f1, f2, f3, lt⟩ := layout27 65 0 0 m b a d (by decide) (by decide) (by decide) w' hv
  refine ⟨?_, ?_, lt⟩
  · rw [raw_41 w' r0, f3, f2, f1, f0]
  · rintro rfl
    exact absurd r0 (by decide)

theorem WordRoundTrip.vldx (d : BitVec 5) (a : BitVec 5) (b : BitVec 5) (m : BitVec 2) (k : BitVec 1) : WordRoundTrip.Statement (.vldx d a b m k) := by
  intro _
  have hv : encodeNat (.vldx d a b m k) =
    66 + 0 * 8388608 + 0 * 67108864 + k.toNat * 4194304 + m.toNat * 16777216 + b.toNat * 131072 + a.toNat * 4096 + d.toNat * 128 := rfl
  generalize encodeNat (.vldx d a b m k) = w' at hv ⊢
  obtain ⟨r0, r23, r26, f0, f1, f2, f3, f4, lt⟩ := layout36 66 0 0 k m b a d (by decide) (by decide) (by decide) w' hv
  have c1 : bitsOf w' 29 3 = 0 := bits_lit w' 29 3 0 536870912 8 rfl rfl (by
    have := (d).isLt
    have := (a).isLt
    have := (b).isLt
    have := (m).isLt
    have := (k).isLt
    omega)
  refine ⟨?_, ?_, lt⟩
  · rw [raw_42 w' r0]
    simp only [rawMajor42, c1, f4, f3, f2, f1, f0]
  · rintro rfl
    exact absurd r0 (by decide)

theorem WordRoundTrip.vldxo (d : BitVec 5) (a : BitVec 5) (b : BitVec 5) (m : BitVec 2) (k : BitVec 1) : WordRoundTrip.Statement (.vldxo d a b m k) := by
  intro _
  have hv : encodeNat (.vldxo d a b m k) =
    66 + 0 * 8388608 + 8 * 67108864 + k.toNat * 4194304 + m.toNat * 16777216 + b.toNat * 131072 + a.toNat * 4096 + d.toNat * 128 := rfl
  generalize encodeNat (.vldxo d a b m k) = w' at hv ⊢
  obtain ⟨r0, r23, r26, f0, f1, f2, f3, f4, lt⟩ := layout36 66 0 8 k m b a d (by decide) (by decide) (by decide) w' hv
  have c1 : bitsOf w' 29 3 = 1 := bits_lit w' 29 3 1 536870912 8 rfl rfl (by
    have := (d).isLt
    have := (a).isLt
    have := (b).isLt
    have := (m).isLt
    have := (k).isLt
    omega)
  refine ⟨?_, ?_, lt⟩
  · rw [raw_42 w' r0]
    simp only [rawMajor42, c1, f4, f3, f2, f1, f0]
  · rintro rfl
    exact absurd r0 (by decide)

theorem WordRoundTrip.vldff (d : BitVec 5) (a : BitVec 5) (m : BitVec 2) : WordRoundTrip.Statement (.vldff d a m) := by
  intro _
  have hv : encodeNat (.vldff d a m) =
    67 + 0 * 131072 + 0 * 67108864 + m.toNat * 16777216 + a.toNat * 4096 + d.toNat * 128 := rfl
  generalize encodeNat (.vldff d a m) = w' at hv ⊢
  obtain ⟨r0, r17, r26, f0, f1, f2, lt⟩ := layout24 67 0 0 m a d (by decide) (by decide) (by decide) w' hv
  refine ⟨?_, ?_, lt⟩
  · rw [raw_43 w' r0, f2, f1, f0]
  · rintro rfl
    exact absurd r0 (by decide)

theorem WordRoundTrip.vldseg (d : BitVec 5) (a : BitVec 5) (n : BitVec 3) (m : BitVec 2) : WordRoundTrip.Statement (.vldseg d a n m) := by
  intro _
  have hv : encodeNat (.vldseg d a n m) =
    68 + 0 * 131072 + 0 * 536870912 + m.toNat * 16777216 + n.toNat * 67108864 + a.toNat * 4096 + d.toNat * 128 := rfl
  generalize encodeNat (.vldseg d a n m) = w' at hv ⊢
  obtain ⟨r0, r17, r29, f0, f1, f2, f3, lt⟩ := layout37 68 0 0 m n a d (by decide) (by decide) (by decide) w' hv
  refine ⟨?_, ?_, lt⟩
  · rw [raw_44 w' r0, f3, f2, f1, f0]
  · rintro rfl
    exact absurd r0 (by decide)

theorem WordRoundTrip.vst (d : BitVec 5) (a : BitVec 5) (m : BitVec 2) : WordRoundTrip.Statement (.vst d a m) := by
  intro _
  have hv : encodeNat (.vst d a m) =
    69 + 0 * 131072 + 0 * 67108864 + m.toNat * 16777216 + a.toNat * 4096 + d.toNat * 128 := rfl
  generalize encodeNat (.vst d a m) = w' at hv ⊢
  obtain ⟨r0, r17, r26, f0, f1, f2, lt⟩ := layout24 69 0 0 m a d (by decide) (by decide) (by decide) w' hv
  refine ⟨?_, ?_, lt⟩
  · rw [raw_45 w' r0, f2, f1, f0]
  · rintro rfl
    exact absurd r0 (by decide)

theorem WordRoundTrip.vsts (d : BitVec 5) (a : BitVec 5) (b : BitVec 5) (m : BitVec 2) : WordRoundTrip.Statement (.vsts d a b m) := by
  intro _
  have hv : encodeNat (.vsts d a b m) =
    70 + 0 * 4194304 + 0 * 67108864 + m.toNat * 16777216 + b.toNat * 131072 + a.toNat * 4096 + d.toNat * 128 := rfl
  generalize encodeNat (.vsts d a b m) = w' at hv ⊢
  obtain ⟨r0, r22, r26, f0, f1, f2, f3, lt⟩ := layout27 70 0 0 m b a d (by decide) (by decide) (by decide) w' hv
  refine ⟨?_, ?_, lt⟩
  · rw [raw_46 w' r0, f3, f2, f1, f0]
  · rintro rfl
    exact absurd r0 (by decide)

theorem WordRoundTrip.vstx (d : BitVec 5) (a : BitVec 5) (b : BitVec 5) (m : BitVec 2) (k : BitVec 1) : WordRoundTrip.Statement (.vstx d a b m k) := by
  intro _
  have hv : encodeNat (.vstx d a b m k) =
    71 + 0 * 8388608 + 0 * 67108864 + k.toNat * 4194304 + m.toNat * 16777216 + b.toNat * 131072 + a.toNat * 4096 + d.toNat * 128 := rfl
  generalize encodeNat (.vstx d a b m k) = w' at hv ⊢
  obtain ⟨r0, r23, r26, f0, f1, f2, f3, f4, lt⟩ := layout36 71 0 0 k m b a d (by decide) (by decide) (by decide) w' hv
  have c1 : bitsOf w' 29 3 = 0 := bits_lit w' 29 3 0 536870912 8 rfl rfl (by
    have := (d).isLt
    have := (a).isLt
    have := (b).isLt
    have := (m).isLt
    have := (k).isLt
    omega)
  refine ⟨?_, ?_, lt⟩
  · rw [raw_47 w' r0]
    simp only [rawMajor47, c1, f4, f3, f2, f1, f0]
  · rintro rfl
    exact absurd r0 (by decide)

theorem WordRoundTrip.vstxo (d : BitVec 5) (a : BitVec 5) (b : BitVec 5) (m : BitVec 2) (k : BitVec 1) : WordRoundTrip.Statement (.vstxo d a b m k) := by
  intro _
  have hv : encodeNat (.vstxo d a b m k) =
    71 + 0 * 8388608 + 8 * 67108864 + k.toNat * 4194304 + m.toNat * 16777216 + b.toNat * 131072 + a.toNat * 4096 + d.toNat * 128 := rfl
  generalize encodeNat (.vstxo d a b m k) = w' at hv ⊢
  obtain ⟨r0, r23, r26, f0, f1, f2, f3, f4, lt⟩ := layout36 71 0 8 k m b a d (by decide) (by decide) (by decide) w' hv
  have c1 : bitsOf w' 29 3 = 1 := bits_lit w' 29 3 1 536870912 8 rfl rfl (by
    have := (d).isLt
    have := (a).isLt
    have := (b).isLt
    have := (m).isLt
    have := (k).isLt
    omega)
  refine ⟨?_, ?_, lt⟩
  · rw [raw_47 w' r0]
    simp only [rawMajor47, c1, f4, f3, f2, f1, f0]
  · rintro rfl
    exact absurd r0 (by decide)

theorem WordRoundTrip.vstseg (d : BitVec 5) (a : BitVec 5) (n : BitVec 3) (m : BitVec 2) : WordRoundTrip.Statement (.vstseg d a n m) := by
  intro _
  have hv : encodeNat (.vstseg d a n m) =
    72 + 0 * 131072 + 0 * 536870912 + m.toNat * 16777216 + n.toNat * 67108864 + a.toNat * 4096 + d.toNat * 128 := rfl
  generalize encodeNat (.vstseg d a n m) = w' at hv ⊢
  obtain ⟨r0, r17, r29, f0, f1, f2, f3, lt⟩ := layout37 72 0 0 m n a d (by decide) (by decide) (by decide) w' hv
  refine ⟨?_, ?_, lt⟩
  · rw [raw_48 w' r0, f3, f2, f1, f0]
  · rintro rfl
    exact absurd r0 (by decide)

theorem WordRoundTrip.mfset (a : BitVec 5) : WordRoundTrip.Statement (.mfset a) := by
  intro _
  have hv : encodeNat (.mfset a) =
    73 + 0 * 128 + 0 * 131072 + a.toNat * 4096 := rfl
  generalize encodeNat (.mfset a) = w' at hv ⊢
  obtain ⟨r0, r7, r17, f0, lt⟩ := layout14 73 0 0 a (by decide) (by decide) (by decide) w' hv
  refine ⟨?_, ?_, lt⟩
  · rw [raw_49 w' r0, f0]
  · rintro rfl
    exact absurd r0 (by decide)

theorem WordRoundTrip.vamo (d : BitVec 5) (a : BitVec 5) (b : BitVec 5) (r : BitVec 2) (o : BitVec 4) (m : BitVec 2) (k : BitVec 1) : WordRoundTrip.Statement (.vamo d a b r o m k) := by
  intro _
  have hv : encodeNat (.vamo d a b r o m k) =
    76 + 0 * 8388608 + k.toNat * 4194304 + m.toNat * 16777216 + o.toNat * 67108864 + r.toNat * 1073741824 + b.toNat * 131072 + a.toNat * 4096 + d.toNat * 128 := rfl
  generalize encodeNat (.vamo d a b r o m k) = w' at hv ⊢
  obtain ⟨r0, r23, f0, f1, f2, f3, f4, f5, f6, lt⟩ := layout38 76 0 k m o r b a d (by decide) (by decide) w' hv
  refine ⟨?_, ?_, lt⟩
  · rw [raw_4C w' r0, f6, f5, f4, f3, f2, f1, f0]
  · rintro rfl
    exact absurd r0 (by decide)

theorem WordRoundTrip.fence (r : BitVec 2) (s : BitVec 3) : WordRoundTrip.Statement (.fence r s) := by
  intro _
  have hv : encodeNat (.fence r s) =
    77 + 0 * 128 + 0 * 33554432 + s.toNat * 1048576 + r.toNat * 8388608 := rfl
  generalize encodeNat (.fence r s) = w' at hv ⊢
  obtain ⟨r0, r7, r25, f0, f1, lt⟩ := layout39 77 0 0 s r (by decide) (by decide) (by decide) w' hv
  have c1 : bitsOf w' 17 3 = 0 := bits_lit w' 17 3 0 131072 8 rfl rfl (by
    have := (r).isLt
    have := (s).isLt
    omega)
  refine ⟨?_, ?_, lt⟩
  · rw [raw_4D w' r0]
    simp only [rawMajor4D, c1, f1, f0]
  · rintro rfl
    exact absurd r0 (by decide)

theorem WordRoundTrip.vfence (s : BitVec 3) : WordRoundTrip.Statement (.vfence s) := by
  intro _
  have hv : encodeNat (.vfence s) =
    77 + 1024 * 128 + 0 * 8388608 + s.toNat * 1048576 := rfl
  generalize encodeNat (.vfence s) = w' at hv ⊢
  obtain ⟨r0, r7, r23, f0, lt⟩ := layout40 77 1024 0 s (by decide) (by decide) (by decide) w' hv
  have c1 : bitsOf w' 17 3 = 1 := bits_lit w' 17 3 1 131072 8 rfl rfl (by
    have := (s).isLt
    omega)
  refine ⟨?_, ?_, lt⟩
  · rw [raw_4D w' r0]
    simp only [rawMajor4D, c1, f0]
  · rintro rfl
    exact absurd r0 (by decide)

theorem WordRoundTrip.iterset (a : BitVec 5) (l : BitVec 2) : WordRoundTrip.Statement (.iterset a l) := by
  intro _
  have hv : encodeNat (.iterset a l) =
    78 + 0 * 128 + 0 * 131072 + 0 * 4194304 + l.toNat * 1048576 + a.toNat * 4096 := rfl
  generalize encodeNat (.iterset a l) = w' at hv ⊢
  obtain ⟨r0, r7, r17, r22, f0, f1, lt⟩ := layout41 78 0 0 0 l a (by decide) (by decide) (by decide) (by decide) w' hv
  refine ⟨?_, ?_, lt⟩
  · rw [raw_4E w' r0]
    simp only [rawMajor4E, r17, f1, f0]
  · rintro rfl
    exact absurd r0 (by decide)

theorem WordRoundTrip.post (a : BitVec 5) (l : BitVec 2) : WordRoundTrip.Statement (.post a l) := by
  intro _
  have hv : encodeNat (.post a l) =
    78 + 0 * 128 + 1 * 131072 + 0 * 4194304 + l.toNat * 1048576 + a.toNat * 4096 := rfl
  generalize encodeNat (.post a l) = w' at hv ⊢
  obtain ⟨r0, r7, r17, r22, f0, f1, lt⟩ := layout41 78 0 1 0 l a (by decide) (by decide) (by decide) (by decide) w' hv
  refine ⟨?_, ?_, lt⟩
  · rw [raw_4E w' r0]
    simp only [rawMajor4E, r17, f1, f0]
  · rintro rfl
    exact absurd r0 (by decide)

theorem WordRoundTrip.waiti (a : BitVec 5) (l : BitVec 2) : WordRoundTrip.Statement (.waiti a l) := by
  intro _
  have hv : encodeNat (.waiti a l) =
    78 + 0 * 128 + 2 * 131072 + 0 * 4194304 + l.toNat * 1048576 + a.toNat * 4096 := rfl
  generalize encodeNat (.waiti a l) = w' at hv ⊢
  obtain ⟨r0, r7, r17, r22, f0, f1, lt⟩ := layout41 78 0 2 0 l a (by decide) (by decide) (by decide) (by decide) w' hv
  refine ⟨?_, ?_, lt⟩
  · rw [raw_4E w' r0]
    simp only [rawMajor4E, r17, f1, f0]
  · rintro rfl
    exact absurd r0 (by decide)

theorem WordRoundTrip.bar : WordRoundTrip.Statement .bar := by
  intro _
  have hv : encodeNat .bar =
    79 + 0 * 128 := rfl
  generalize encodeNat .bar = w' at hv ⊢
  obtain ⟨r0, r7, lt⟩ := layout13 79 0  (by decide) (by decide) w' hv
  have c1 : bitsOf w' 17 3 = 0 := bits_lit w' 17 3 0 131072 8 rfl rfl (by
    omega)
  refine ⟨?_, ?_, lt⟩
  · rw [raw_4F w' r0]
    simp only [rawMajor4F, c1]
  · rintro rfl
    exact absurd r0 (by decide)

theorem WordRoundTrip.bararr : WordRoundTrip.Statement .bararr := by
  intro _
  have hv : encodeNat .bararr =
    79 + 1024 * 128 := rfl
  generalize encodeNat .bararr = w' at hv ⊢
  obtain ⟨r0, r7, lt⟩ := layout13 79 1024  (by decide) (by decide) w' hv
  have c1 : bitsOf w' 17 3 = 1 := bits_lit w' 17 3 1 131072 8 rfl rfl (by
    omega)
  refine ⟨?_, ?_, lt⟩
  · rw [raw_4F w' r0]
    simp only [rawMajor4F, c1]
  · rintro rfl
    exact absurd r0 (by decide)

theorem WordRoundTrip.barwt : WordRoundTrip.Statement .barwt := by
  intro _
  have hv : encodeNat .barwt =
    79 + 2048 * 128 := rfl
  generalize encodeNat .barwt = w' at hv ⊢
  obtain ⟨r0, r7, lt⟩ := layout13 79 2048  (by decide) (by decide) w' hv
  have c1 : bitsOf w' 17 3 = 2 := bits_lit w' 17 3 2 131072 8 rfl rfl (by
    omega)
  refine ⟨?_, ?_, lt⟩
  · rw [raw_4F w' r0]
    simp only [rawMajor4F, c1]
  · rintro rfl
    exact absurd r0 (by decide)

theorem WordRoundTrip.ropen (d : BitVec 5) (a : BitVec 5) : WordRoundTrip.Statement (.ropen d a) := by
  intro _
  have hv : encodeNat (.ropen d a) =
    80 + 0 * 131072 + a.toNat * 4096 + d.toNat * 128 := rfl
  generalize encodeNat (.ropen d a) = w' at hv ⊢
  obtain ⟨r0, r17, f0, f1, lt⟩ := layout1 80 0 a d (by decide) (by decide) w' hv
  have c1 : bitsOf w' 26 3 = 0 := bits_lit w' 26 3 0 67108864 8 rfl rfl (by
    have := (d).isLt
    have := (a).isLt
    omega)
  refine ⟨?_, ?_, lt⟩
  · rw [raw_50 w' r0]
    simp only [rawMajor50, c1, f1, f0]
  · rintro rfl
    exact absurd r0 (by decide)

theorem WordRoundTrip.rclose (a : BitVec 5) : WordRoundTrip.Statement (.rclose a) := by
  intro _
  have hv : encodeNat (.rclose a) =
    80 + 0 * 128 + 512 * 131072 + a.toNat * 4096 := rfl
  generalize encodeNat (.rclose a) = w' at hv ⊢
  obtain ⟨r0, r7, r17, f0, lt⟩ := layout14 80 0 512 a (by decide) (by decide) (by decide) w' hv
  have c1 : bitsOf w' 26 3 = 1 := bits_lit w' 26 3 1 67108864 8 rfl rfl (by
    have := (a).isLt
    omega)
  refine ⟨?_, ?_, lt⟩
  · rw [raw_50 w' r0]
    simp only [rawMajor50, c1, f0]
  · rintro rfl
    exact absurd r0 (by decide)

theorem WordRoundTrip.rstat (d : BitVec 5) (a : BitVec 5) (o : BitVec 3) : WordRoundTrip.Statement (.rstat d a o) := by
  intro _
  have hv : encodeNat (.rstat d a o) =
    80 + 1024 * 131072 + o.toNat * 536870912 + a.toNat * 4096 + d.toNat * 128 := rfl
  generalize encodeNat (.rstat d a o) = w' at hv ⊢
  obtain ⟨r0, r17, f0, f1, f2, lt⟩ := layout42 80 1024 o a d (by decide) (by decide) w' hv
  have c1 : bitsOf w' 26 3 = 2 := bits_lit w' 26 3 2 67108864 8 rfl rfl (by
    have := (d).isLt
    have := (a).isLt
    have := (o).isLt
    omega)
  refine ⟨?_, ?_, lt⟩
  · rw [raw_50 w' r0]
    simp only [rawMajor50, c1, f2, f1, f0]
  · rintro rfl
    exact absurd r0 (by decide)

theorem WordRoundTrip.rdstr (a : BitVec 5) (b : BitVec 5) (q : BitVec 4) : WordRoundTrip.Statement (.rdstr a b q) := by
  intro _
  have hv : encodeNat (.rdstr a b q) =
    81 + 0 * 128 + 0 * 67108864 + q.toNat * 4194304 + b.toNat * 131072 + a.toNat * 4096 := rfl
  generalize encodeNat (.rdstr a b q) = w' at hv ⊢
  obtain ⟨r0, r7, r26, f0, f1, f2, lt⟩ := layout43 81 0 0 q b a (by decide) (by decide) (by decide) w' hv
  have c1 : bitsOf w' 26 3 = 0 := bits_lit w' 26 3 0 67108864 8 rfl rfl (by
    have := (a).isLt
    have := (b).isLt
    have := (q).isLt
    omega)
  refine ⟨?_, ?_, lt⟩
  · rw [raw_51 w' r0]
    simp only [rawMajor51, c1, f2, f1, f0]
  · rintro rfl
    exact absurd r0 (by decide)

theorem WordRoundTrip.wrstr (a : BitVec 5) (q : BitVec 4) : WordRoundTrip.Statement (.wrstr a q) := by
  intro _
  have hv : encodeNat (.wrstr a q) =
    81 + 0 * 128 + 0 * 131072 + 1 * 67108864 + q.toNat * 4194304 + a.toNat * 4096 := rfl
  generalize encodeNat (.wrstr a q) = w' at hv ⊢
  obtain ⟨r0, r7, r17, r26, f0, f1, lt⟩ := layout44 81 0 0 1 q a (by decide) (by decide) (by decide) (by decide) w' hv
  have c1 : bitsOf w' 26 3 = 1 := bits_lit w' 26 3 1 67108864 8 rfl rfl (by
    have := (a).isLt
    have := (q).isLt
    omega)
  refine ⟨?_, ?_, lt⟩
  · rw [raw_51 w' r0]
    simp only [rawMajor51, c1, f1, f0]
  · rintro rfl
    exact absurd r0 (by decide)

theorem WordRoundTrip.qpush (d : BitVec 5) (e : BitVec 1) (k : BitVec 2) (q : BitVec 4) : WordRoundTrip.Statement (.qpush d e k q) := by
  intro _
  have hv : encodeNat (.qpush d e k q) =
    82 + 0 * 4096 + 0 * 67108864 + q.toNat * 4194304 + k.toNat * 536870912 + e.toNat * 2147483648 + d.toNat * 128 := rfl
  generalize encodeNat (.qpush d e k q) = w' at hv ⊢
  obtain ⟨r0, r12, r26, f0, f1, f2, f3, lt⟩ := layout45 82 0 0 q k e d (by decide) (by decide) (by decide) w' hv
  refine ⟨?_, ?_, lt⟩
  · rw [raw_52 w' r0, f3, f2, f1, f0]
  · rintro rfl
    exact absurd r0 (by decide)

theorem WordRoundTrip.qpop (d : BitVec 5) (a : BitVec 5) (k : BitVec 2) (q : BitVec 4) : WordRoundTrip.Statement (.qpop d a k q) := by
  intro _
  have hv : encodeNat (.qpop d a k q) =
    83 + 0 * 131072 + 0 * 67108864 + 0 * 2147483648 + q.toNat * 4194304 + k.toNat * 536870912 + a.toNat * 4096 + d.toNat * 128 := rfl
  generalize encodeNat (.qpop d a k q) = w' at hv ⊢
  obtain ⟨r0, r17, r26, r31, f0, f1, f2, f3, lt⟩ := layout46 83 0 0 0 q k a d (by decide) (by decide) (by decide) (by decide) w' hv
  refine ⟨?_, ?_, lt⟩
  · rw [raw_53 w' r0, f3, f2, f1, f0]
  · rintro rfl
    exact absurd r0 (by decide)

theorem WordRoundTrip.rsort (d : BitVec 5) (a : BitVec 5) (y : BitVec 2) (c : BitVec 1) (q : BitVec 4) : WordRoundTrip.Statement (.rsort d a y c q) := by
  intro _
  have hv : encodeNat (.rsort d a y c q) =
    84 + 0 * 131072 + 0 * 67108864 + q.toNat * 4194304 + c.toNat * 536870912 + y.toNat * 1073741824 + a.toNat * 4096 + d.toNat * 128 := rfl
  generalize encodeNat (.rsort d a y c q) = w' at hv ⊢
  obtain ⟨r0, r17, r26, f0, f1, f2, f3, f4, lt⟩ := layout47 84 0 0 q c y a d (by decide) (by decide) (by decide) w' hv
  refine ⟨?_, ?_, lt⟩
  · rw [raw_54 w' r0, f4, f3, f2, f1, f0]
  · rintro rfl
    exact absurd r0 (by decide)

theorem WordRoundTrip.rmerge (d : BitVec 5) (a : BitVec 5) (b : BitVec 5) (u : BitVec 1) (l : BitVec 1) (c : BitVec 1) (q : BitVec 4) : WordRoundTrip.Statement (.rmerge d a b u l c q) := by
  intro _
  have hv : encodeNat (.rmerge d a b u l c q) =
    85 + 0 * 67108864 + q.toNat * 4194304 + c.toNat * 536870912 + l.toNat * 1073741824 + u.toNat * 2147483648 + b.toNat * 131072 + a.toNat * 4096 + d.toNat * 128 := rfl
  generalize encodeNat (.rmerge d a b u l c q) = w' at hv ⊢
  obtain ⟨r0, r26, f0, f1, f2, f3, f4, f5, f6, lt⟩ := layout48 85 0 q c l u b a d (by decide) (by decide) w' hv
  refine ⟨?_, ?_, lt⟩
  · rw [raw_55 w' r0, f6, f5, f4, f3, f2, f1, f0]
  · rintro rfl
    exact absurd r0 (by decide)

theorem WordRoundTrip.rjoin (d : BitVec 5) (a : BitVec 5) (b : BitVec 5) (l : BitVec 1) (j : BitVec 2) (q : BitVec 4) : WordRoundTrip.Statement (.rjoin d a b l j q) := by
  intro _
  have hv : encodeNat (.rjoin d a b l j q) =
    86 + 0 * 67108864 + q.toNat * 4194304 + j.toNat * 536870912 + l.toNat * 2147483648 + b.toNat * 131072 + a.toNat * 4096 + d.toNat * 128 := rfl
  generalize encodeNat (.rjoin d a b l j q) = w' at hv ⊢
  obtain ⟨r0, r26, f0, f1, f2, f3, f4, f5, lt⟩ := layout49 86 0 q j l b a d (by decide) (by decide) w' hv
  refine ⟨?_, ?_, lt⟩
  · rw [raw_56 w' r0, f5, f4, f3, f2, f1, f0]
  · rintro rfl
    exact absurd r0 (by decide)

theorem WordRoundTrip.rpart (d : BitVec 5) (a : BitVec 5) (q : BitVec 4) : WordRoundTrip.Statement (.rpart d a q) := by
  intro _
  have hv : encodeNat (.rpart d a q) =
    87 + 0 * 131072 + 0 * 67108864 + q.toNat * 4194304 + a.toNat * 4096 + d.toNat * 128 := rfl
  generalize encodeNat (.rpart d a q) = w' at hv ⊢
  obtain ⟨r0, r17, r26, f0, f1, f2, lt⟩ := layout50 87 0 0 q a d (by decide) (by decide) (by decide) w' hv
  refine ⟨?_, ?_, lt⟩
  · rw [raw_57 w' r0, f2, f1, f0]
  · rintro rfl
    exact absurd r0 (by decide)

theorem WordRoundTrip.rwait (d : BitVec 5) (q : BitVec 4) : WordRoundTrip.Statement (.rwait d q) := by
  intro _
  have hv : encodeNat (.rwait d q) =
    88 + 0 * 4096 + 0 * 67108864 + q.toNat * 4194304 + d.toNat * 128 := rfl
  generalize encodeNat (.rwait d q) = w' at hv ⊢
  obtain ⟨r0, r12, r26, f0, f1, lt⟩ := layout51 88 0 0 q d (by decide) (by decide) (by decide) w' hv
  refine ⟨?_, ?_, lt⟩
  · rw [raw_58 w' r0, f1, f0]
  · rintro rfl
    exact absurd r0 (by decide)

theorem WordRoundTrip.cspec (a : BitVec 5) : WordRoundTrip.Statement (.cspec a) := by
  intro _
  have hv : encodeNat (.cspec a) =
    89 + 0 * 128 + 0 * 131072 + a.toNat * 4096 := rfl
  generalize encodeNat (.cspec a) = w' at hv ⊢
  obtain ⟨r0, r7, r17, f0, lt⟩ := layout14 89 0 0 a (by decide) (by decide) (by decide) w' hv
  refine ⟨?_, ?_, lt⟩
  · rw [raw_59 w' r0, f0]
  · rintro rfl
    exact absurd r0 (by decide)

theorem WordRoundTrip.mattach (d : BitVec 5) (a : BitVec 5) (w : BitVec 1) : WordRoundTrip.Statement (.mattach d a w) := by
  intro _
  have hv : encodeNat (.mattach d a w) =
    96 + 0 * 131072 + 0 * 8388608 + w.toNat * 4194304 + a.toNat * 4096 + d.toNat * 128 := rfl
  generalize encodeNat (.mattach d a w) = w' at hv ⊢
  obtain ⟨r0, r17, r23, f0, f1, f2, lt⟩ := layout52 96 0 0 w a d (by decide) (by decide) (by decide) w' hv
  have c1 : bitsOf w' 30 2 = 0 := bits_lit w' 30 2 0 1073741824 4 rfl rfl (by
    have := (d).isLt
    have := (a).isLt
    have := (w).isLt
    omega)
  refine ⟨?_, ?_, lt⟩
  · rw [raw_60 w' r0]
    simp only [rawMajor60, c1, f2, f1, f0]
  · rintro rfl
    exact absurd r0 (by decide)

theorem WordRoundTrip.mdetach : WordRoundTrip.Statement .mdetach := by
  intro _
  have hv : encodeNat .mdetach =
    96 + 8388608 * 128 := rfl
  generalize encodeNat .mdetach = w' at hv ⊢
  obtain ⟨r0, r7, lt⟩ := layout13 96 8388608  (by decide) (by decide) w' hv
  have c1 : bitsOf w' 30 2 = 1 := bits_lit w' 30 2 1 1073741824 4 rfl rfl (by
    omega)
  refine ⟨?_, ?_, lt⟩
  · rw [raw_60 w' r0]
    simp only [rawMajor60, c1]
  · rintro rfl
    exact absurd r0 (by decide)

theorem WordRoundTrip.mwldCfg (d : BitVec 5) (a : BitVec 5) (r : BitVec 8) : WordRoundTrip.Statement (.mwldCfg d a r) := by
  intro _
  have hv : encodeNat (.mwldCfg d a r) =
    97 + 0 * 131072 + 0 * 1073741824 + r.toNat * 4194304 + a.toNat * 4096 + d.toNat * 128 := rfl
  generalize encodeNat (.mwldCfg d a r) = w' at hv ⊢
  obtain ⟨r0, r17, r30, f0, f1, f2, lt⟩ := layout53 97 0 0 r a d (by decide) (by decide) (by decide) w' hv
  refine ⟨?_, ?_, lt⟩
  · rw [raw_61 w' r0]
    simp only [rawMajor61, r30, f2, f1, f0]
  · rintro rfl
    exact absurd r0 (by decide)

theorem WordRoundTrip.mwldSp (a : BitVec 5) (b : BitVec 5) (r : BitVec 8) : WordRoundTrip.Statement (.mwldSp a b r) := by
  intro _
  have hv : encodeNat (.mwldSp a b r) =
    97 + 0 * 128 + 1 * 1073741824 + r.toNat * 4194304 + b.toNat * 131072 + a.toNat * 4096 := rfl
  generalize encodeNat (.mwldSp a b r) = w' at hv ⊢
  obtain ⟨r0, r7, r30, f0, f1, f2, lt⟩ := layout54 97 0 1 r b a (by decide) (by decide) (by decide) w' hv
  refine ⟨?_, ?_, lt⟩
  · rw [raw_61 w' r0]
    simp only [rawMajor61, r30, f2, f1, f0]
  · rintro rfl
    exact absurd r0 (by decide)

theorem WordRoundTrip.mwldQ (d : BitVec 5) (a : BitVec 4) (b : BitVec 5) (r : BitVec 8) : WordRoundTrip.Statement (.mwldQ d a b r) := by
  intro _
  have hv : encodeNat (.mwldQ d a b r) =
    97 + 0 * 65536 + 2 * 1073741824 + r.toNat * 4194304 + b.toNat * 131072 + a.toNat * 4096 + d.toNat * 128 := rfl
  generalize encodeNat (.mwldQ d a b r) = w' at hv ⊢
  obtain ⟨r0, r16, r30, f0, f1, f2, f3, lt⟩ := layout55 97 0 2 r b a d (by decide) (by decide) (by decide) w' hv
  refine ⟨?_, ?_, lt⟩
  · rw [raw_61 w' r0]
    simp only [rawMajor61, r30, f3, f2, f1, f0]
  · rintro rfl
    exact absurd r0 (by decide)

theorem WordRoundTrip.mwldSc (a : BitVec 5) (b : BitVec 5) (r : BitVec 8) : WordRoundTrip.Statement (.mwldSc a b r) := by
  intro _
  have hv : encodeNat (.mwldSc a b r) =
    97 + 0 * 128 + 3 * 1073741824 + r.toNat * 4194304 + b.toNat * 131072 + a.toNat * 4096 := rfl
  generalize encodeNat (.mwldSc a b r) = w' at hv ⊢
  obtain ⟨r0, r7, r30, f0, f1, f2, lt⟩ := layout54 97 0 3 r b a (by decide) (by decide) (by decide) w' hv
  refine ⟨?_, ?_, lt⟩
  · rw [raw_61 w' r0]
    simp only [rawMajor61, r30, f2, f1, f0]
  · rintro rfl
    exact absurd r0 (by decide)

theorem WordRoundTrip.mxv (d : BitVec 5) (a : BitVec 5) (b : BitVec 5) (z : BitVec 1) (w : BitVec 1) (r : BitVec 8) : WordRoundTrip.Statement (.mxv d a b z w r) := by
  intro _
  have hv : encodeNat (.mxv d a b z w r) =
    98 + r.toNat * 4194304 + w.toNat * 1073741824 + z.toNat * 2147483648 + b.toNat * 131072 + a.toNat * 4096 + d.toNat * 128 := rfl
  generalize encodeNat (.mxv d a b z w r) = w' at hv ⊢
  obtain ⟨r0, f0, f1, f2, f3, f4, f5, lt⟩ := layout56 98 r w z b a d (by decide) w' hv
  refine ⟨?_, ?_, lt⟩
  · rw [raw_62 w' r0, f5, f4, f3, f2, f1, f0]
  · rintro rfl
    exact absurd r0 (by decide)

theorem WordRoundTrip.mop (a : BitVec 5) (b : BitVec 5) (f : BitVec 2) (r : BitVec 8) : WordRoundTrip.Statement (.mop a b f r) := by
  intro _
  have hv : encodeNat (.mop a b f r) =
    99 + 0 * 128 + r.toNat * 4194304 + f.toNat * 1073741824 + b.toNat * 131072 + a.toNat * 4096 := rfl
  generalize encodeNat (.mop a b f r) = w' at hv ⊢
  obtain ⟨r0, r7, f0, f1, f2, f3, lt⟩ := layout57 99 0 r f b a (by decide) (by decide) w' hv
  refine ⟨?_, ?_, lt⟩
  · rw [raw_63 w' r0, f3, f2, f1, f0]
  · rintro rfl
    exact absurd r0 (by decide)

theorem WordRoundTrip.maccrd (d : BitVec 5) (a : BitVec 5) (r : BitVec 8) : WordRoundTrip.Statement (.maccrd d a r) := by
  intro _
  have hv : encodeNat (.maccrd d a r) =
    100 + 0 * 131072 + 0 * 1073741824 + r.toNat * 4194304 + a.toNat * 4096 + d.toNat * 128 := rfl
  generalize encodeNat (.maccrd d a r) = w' at hv ⊢
  obtain ⟨r0, r17, r30, f0, f1, f2, lt⟩ := layout53 100 0 0 r a d (by decide) (by decide) (by decide) w' hv
  refine ⟨?_, ?_, lt⟩
  · rw [raw_64 w' r0]
    simp only [rawMajor64, r30, f2, f1, f0]
  · rintro rfl
    exact absurd r0 (by decide)

theorem WordRoundTrip.maccwr (d : BitVec 5) (a : BitVec 5) (r : BitVec 8) : WordRoundTrip.Statement (.maccwr d a r) := by
  intro _
  have hv : encodeNat (.maccwr d a r) =
    100 + 0 * 131072 + 1 * 1073741824 + r.toNat * 4194304 + a.toNat * 4096 + d.toNat * 128 := rfl
  generalize encodeNat (.maccwr d a r) = w' at hv ⊢
  obtain ⟨r0, r17, r30, f0, f1, f2, lt⟩ := layout53 100 0 1 r a d (by decide) (by decide) (by decide) w' hv
  refine ⟨?_, ?_, lt⟩
  · rw [raw_64 w' r0]
    simp only [rawMajor64, r30, f2, f1, f0]
  · rintro rfl
    exact absurd r0 (by decide)

theorem WordRoundTrip.maccz (a : BitVec 5) (r : BitVec 8) : WordRoundTrip.Statement (.maccz a r) := by
  intro _
  have hv : encodeNat (.maccz a r) =
    100 + 0 * 128 + 0 * 131072 + 2 * 1073741824 + r.toNat * 4194304 + a.toNat * 4096 := rfl
  generalize encodeNat (.maccz a r) = w' at hv ⊢
  obtain ⟨r0, r7, r17, r30, f0, f1, lt⟩ := layout58 100 0 0 2 r a (by decide) (by decide) (by decide) (by decide) w' hv
  refine ⟨?_, ?_, lt⟩
  · rw [raw_64 w' r0]
    simp only [rawMajor64, r30, f1, f0]
  · rintro rfl
    exact absurd r0 (by decide)

theorem WordRoundTrip.msave (a : BitVec 5) : WordRoundTrip.Statement (.msave a) := by
  intro _
  have hv : encodeNat (.msave a) =
    101 + 0 * 128 + 0 * 131072 + a.toNat * 4096 := rfl
  generalize encodeNat (.msave a) = w' at hv ⊢
  obtain ⟨r0, r7, r17, f0, lt⟩ := layout14 101 0 0 a (by decide) (by decide) (by decide) w' hv
  have c1 : bitsOf w' 30 2 = 0 := bits_lit w' 30 2 0 1073741824 4 rfl rfl (by
    have := (a).isLt
    omega)
  refine ⟨?_, ?_, lt⟩
  · rw [raw_65 w' r0]
    simp only [rawMajor65, c1, f0]
  · rintro rfl
    exact absurd r0 (by decide)

theorem WordRoundTrip.mrest (a : BitVec 5) : WordRoundTrip.Statement (.mrest a) := by
  intro _
  have hv : encodeNat (.mrest a) =
    101 + 0 * 128 + 8192 * 131072 + a.toNat * 4096 := rfl
  generalize encodeNat (.mrest a) = w' at hv ⊢
  obtain ⟨r0, r7, r17, f0, lt⟩ := layout14 101 0 8192 a (by decide) (by decide) (by decide) w' hv
  have c1 : bitsOf w' 30 2 = 1 := bits_lit w' 30 2 1 1073741824 4 rfl rfl (by
    have := (a).isLt
    omega)
  refine ⟨?_, ?_, lt⟩
  · rw [raw_65 w' r0]
    simp only [rawMajor65, c1, f0]
  · rintro rfl
    exact absurd r0 (by decide)

theorem WordRoundTrip.mcensRd (d : BitVec 5) (a : BitVec 5) : WordRoundTrip.Statement (.mcensRd d a) := by
  intro _
  have hv : encodeNat (.mcensRd d a) =
    102 + 0 * 131072 + a.toNat * 4096 + d.toNat * 128 := rfl
  generalize encodeNat (.mcensRd d a) = w' at hv ⊢
  obtain ⟨r0, r17, f0, f1, lt⟩ := layout1 102 0 a d (by decide) (by decide) w' hv
  have c1 : bitsOf w' 30 2 = 0 := bits_lit w' 30 2 0 1073741824 4 rfl rfl (by
    have := (d).isLt
    have := (a).isLt
    omega)
  refine ⟨?_, ?_, lt⟩
  · rw [raw_66 w' r0]
    simp only [rawMajor66, c1, f1, f0]
  · rintro rfl
    exact absurd r0 (by decide)

theorem WordRoundTrip.mcensRdclr (d : BitVec 5) (a : BitVec 5) : WordRoundTrip.Statement (.mcensRdclr d a) := by
  intro _
  have hv : encodeNat (.mcensRdclr d a) =
    102 + 8192 * 131072 + a.toNat * 4096 + d.toNat * 128 := rfl
  generalize encodeNat (.mcensRdclr d a) = w' at hv ⊢
  obtain ⟨r0, r17, f0, f1, lt⟩ := layout1 102 8192 a d (by decide) (by decide) w' hv
  have c1 : bitsOf w' 30 2 = 1 := bits_lit w' 30 2 1 1073741824 4 rfl rfl (by
    have := (d).isLt
    have := (a).isLt
    omega)
  refine ⟨?_, ?_, lt⟩
  · rw [raw_66 w' r0]
    simp only [rawMajor66, c1, f1, f0]
  · rintro rfl
    exact absurd r0 (by decide)

theorem WordRoundTrip.mcensClr : WordRoundTrip.Statement .mcensClr := by
  intro _
  have hv : encodeNat .mcensClr =
    102 + 16777216 * 128 := rfl
  generalize encodeNat .mcensClr = w' at hv ⊢
  obtain ⟨r0, r7, lt⟩ := layout13 102 16777216  (by decide) (by decide) w' hv
  have c1 : bitsOf w' 30 2 = 2 := bits_lit w' 30 2 2 1073741824 4 rfl rfl (by
    omega)
  refine ⟨?_, ?_, lt⟩
  · rw [raw_66 w' r0]
    simp only [rawMajor66, c1]
  · rintro rfl
    exact absurd r0 (by decide)

theorem WordRoundTrip.mcensIdx (d : BitVec 5) (a : BitVec 5) : WordRoundTrip.Statement (.mcensIdx d a) := by
  intro _
  have hv : encodeNat (.mcensIdx d a) =
    102 + 24576 * 131072 + a.toNat * 4096 + d.toNat * 128 := rfl
  generalize encodeNat (.mcensIdx d a) = w' at hv ⊢
  obtain ⟨r0, r17, f0, f1, lt⟩ := layout1 102 24576 a d (by decide) (by decide) w' hv
  have c1 : bitsOf w' 30 2 = 3 := bits_lit w' 30 2 3 1073741824 4 rfl rfl (by
    have := (d).isLt
    have := (a).isLt
    omega)
  refine ⟨?_, ?_, lt⟩
  · rw [raw_66 w' r0]
    simp only [rawMajor66, c1, f1, f0]
  · rintro rfl
    exact absurd r0 (by decide)

theorem WordRoundTrip.qrtld (a : BitVec 5) (c : BitVec 6) (f : BitVec 6) : WordRoundTrip.Statement (.qrtld a c f) := by
  intro _
  have hv : encodeNat (.qrtld a c f) =
    104 + 0 * 128 + 0 * 131072 + f.toNat * 1048576 + c.toNat * 67108864 + a.toNat * 4096 := rfl
  generalize encodeNat (.qrtld a c f) = w' at hv ⊢
  obtain ⟨r0, r7, r17, f0, f1, f2, lt⟩ := layout59 104 0 0 f c a (by decide) (by decide) (by decide) w' hv
  refine ⟨?_, ?_, lt⟩
  · rw [raw_68 w' r0]
    simp only [rawMajor68, r17, f2, f1, f0]
  · rintro rfl
    exact absurd r0 (by decide)

theorem WordRoundTrip.qrseed (d : BitVec 5) (a : BitVec 5) (m : BitVec 2) (n : BitVec 6) : WordRoundTrip.Statement (.qrseed d a m n) := by
  intro _
  have hv : encodeNat (.qrseed d a m n) =
    104 + 1 * 131072 + 0 * 268435456 + n.toNat * 1048576 + m.toNat * 67108864 + a.toNat * 4096 + d.toNat * 128 := rfl
  generalize encodeNat (.qrseed d a m n) = w' at hv ⊢
  obtain ⟨r0, r17, r28, f0, f1, f2, f3, lt⟩ := layout60 104 1 0 n m a d (by decide) (by decide) (by decide) w' hv
  refine ⟨?_, ?_, lt⟩
  · rw [raw_68 w' r0]
    simp only [rawMajor68, r17, f3, f2, f1, f0]
  · rintro rfl
    exact absurd r0 (by decide)

theorem WordRoundTrip.qrgen (d : BitVec 5) (a : BitVec 5) (b : BitVec 5) (o : VMod) : WordRoundTrip.Statement (.qrgen d a b o) := by
  intro _
  have hv : encodeNat (.qrgen d a b o) =
    105 + 0 * 536870912 + o.z.toNat * 134217728 + o.c.toNat * 67108864 + o.m.toNat * 16777216 + o.k.toNat * 8388608 + o.j.toNat * 4194304 + b.toNat * 131072 + a.toNat * 4096 + d.toNat * 128 := rfl
  generalize encodeNat (.qrgen d a b o) = w' at hv ⊢
  obtain ⟨r0, r29, f0, f1, f2, f3, f4, f5, f6, f7, lt⟩ := layout16 105 0 o.z o.c o.m o.k o.j b a d (by decide) (by decide) w' hv
  have g3 : vmodOf w' = o := by simp only [vmodOf, f0, f1, f2, f3, f4]
  refine ⟨?_, ?_, lt⟩
  · rw [raw_69 w' r0]
    simp only [rawMajor69, r29, f7, f6, f5, g3]
  · rintro rfl
    exact absurd r0 (by decide)

theorem WordRoundTrip.qrgens (d : BitVec 5) (a : BitVec 5) (b : BitVec 5) (o : SMod) : WordRoundTrip.Statement (.qrgens d a b o) := by
  intro _
  have hv : encodeNat (.qrgens d a b o) =
    105 + 0 * 4194304 + 1 * 536870912 + o.z.toNat * 134217728 + o.c.toNat * 67108864 + o.m.toNat * 16777216 + o.k.toNat * 8388608 + b.toNat * 131072 + a.toNat * 4096 + d.toNat * 128 := rfl
  generalize encodeNat (.qrgens d a b o) = w' at hv ⊢
  obtain ⟨r0, r22, r29, f0, f1, f2, f3, f4, f5, f6, lt⟩ := layout17 105 0 1 o.z o.c o.m o.k b a d (by decide) (by decide) (by decide) w' hv
  have g3 : smodOf w' = o := by simp only [smodOf, f0, f1, f2, f3]
  refine ⟨?_, ?_, lt⟩
  · rw [raw_69 w' r0]
    simp only [rawMajor69, r29, f6, f5, f4, g3]
  · rintro rfl
    exact absurd r0 (by decide)

theorem WordRoundTrip.pwld (d : BitVec 5) (a : BitVec 5) (b : BitVec 5) (n : BitVec 1) (q : BitVec 3) : WordRoundTrip.Statement (.pwld d a b n q) := by
  intro _
  have hv : encodeNat (.pwld d a b n q) =
    108 + 0 * 33554432 + 0 * 1073741824 + q.toNat * 4194304 + n.toNat * 536870912 + b.toNat * 131072 + a.toNat * 4096 + d.toNat * 128 := rfl
  generalize encodeNat (.pwld d a b n q) = w' at hv ⊢
  obtain ⟨r0, r25, r30, f0, f1, f2, f3, f4, lt⟩ := layout61 108 0 0 q n b a d (by decide) (by decide) (by decide) w' hv
  have c1 : bitsOf w' 26 3 = 0 := bits_lit w' 26 3 0 67108864 8 rfl rfl (by
    have := (d).isLt
    have := (a).isLt
    have := (b).isLt
    have := (n).isLt
    have := (q).isLt
    omega)
  refine ⟨?_, ?_, lt⟩
  · rw [raw_6C w' r0]
    simp only [rawMajor6C, c1, f4, f3, f2, f1, f0]
  · rintro rfl
    exact absurd r0 (by decide)

theorem WordRoundTrip.pwcntSt (d : BitVec 5) (a : BitVec 5) : WordRoundTrip.Statement (.pwcntSt d a) := by
  intro _
  have hv : encodeNat (.pwcntSt d a) =
    108 + 512 * 131072 + a.toNat * 4096 + d.toNat * 128 := rfl
  generalize encodeNat (.pwcntSt d a) = w' at hv ⊢
  obtain ⟨r0, r17, f0, f1, lt⟩ := layout1 108 512 a d (by decide) (by decide) w' hv
  have c1 : bitsOf w' 26 3 = 1 := bits_lit w' 26 3 1 67108864 8 rfl rfl (by
    have := (d).isLt
    have := (a).isLt
    omega)
  have c2 : bitsOf w' 29 3 = 0 := bits_lit w' 29 3 0 536870912 8 rfl rfl (by
    have := (d).isLt
    have := (a).isLt
    omega)
  refine ⟨?_, ?_, lt⟩
  · rw [raw_6C w' r0]
    simp only [rawMajor6C, c1, c2, f1, f0]
  · rintro rfl
    exact absurd r0 (by decide)

theorem WordRoundTrip.pwcntHist (d : BitVec 5) (a : BitVec 5) (b : BitVec 5) : WordRoundTrip.Statement (.pwcntHist d a b) := by
  intro _
  have hv : encodeNat (.pwcntHist d a b) =
    108 + 144 * 4194304 + b.toNat * 131072 + a.toNat * 4096 + d.toNat * 128 := rfl
  generalize encodeNat (.pwcntHist d a b) = w' at hv ⊢
  obtain ⟨r0, r22, f0, f1, f2, lt⟩ := layout0 108 144 b a d (by decide) (by decide) w' hv
  have c1 : bitsOf w' 26 3 = 1 := bits_lit w' 26 3 1 67108864 8 rfl rfl (by
    have := (d).isLt
    have := (a).isLt
    have := (b).isLt
    omega)
  have c2 : bitsOf w' 29 3 = 1 := bits_lit w' 29 3 1 536870912 8 rfl rfl (by
    have := (d).isLt
    have := (a).isLt
    have := (b).isLt
    omega)
  refine ⟨?_, ?_, lt⟩
  · rw [raw_6C w' r0]
    simp only [rawMajor6C, c1, c2, f2, f1, f0]
  · rintro rfl
    exact absurd r0 (by decide)

theorem WordRoundTrip.pwcntCnt (d : BitVec 5) (a : BitVec 5) (b : BitVec 5) : WordRoundTrip.Statement (.pwcntCnt d a b) := by
  intro _
  have hv : encodeNat (.pwcntCnt d a b) =
    108 + 272 * 4194304 + b.toNat * 131072 + a.toNat * 4096 + d.toNat * 128 := rfl
  generalize encodeNat (.pwcntCnt d a b) = w' at hv ⊢
  obtain ⟨r0, r22, f0, f1, f2, lt⟩ := layout0 108 272 b a d (by decide) (by decide) w' hv
  have c1 : bitsOf w' 26 3 = 1 := bits_lit w' 26 3 1 67108864 8 rfl rfl (by
    have := (d).isLt
    have := (a).isLt
    have := (b).isLt
    omega)
  have c2 : bitsOf w' 29 3 = 2 := bits_lit w' 29 3 2 536870912 8 rfl rfl (by
    have := (d).isLt
    have := (a).isLt
    have := (b).isLt
    omega)
  refine ⟨?_, ?_, lt⟩
  · rw [raw_6C w' r0]
    simp only [rawMajor6C, c1, c2, f2, f1, f0]
  · rintro rfl
    exact absurd r0 (by decide)

theorem WordRoundTrip.pwcntFree (a : BitVec 5) : WordRoundTrip.Statement (.pwcntFree a) := by
  intro _
  have hv : encodeNat (.pwcntFree a) =
    108 + 0 * 128 + 12800 * 131072 + a.toNat * 4096 := rfl
  generalize encodeNat (.pwcntFree a) = w' at hv ⊢
  obtain ⟨r0, r7, r17, f0, lt⟩ := layout14 108 0 12800 a (by decide) (by decide) (by decide) w' hv
  have c1 : bitsOf w' 26 3 = 1 := bits_lit w' 26 3 1 67108864 8 rfl rfl (by
    have := (a).isLt
    omega)
  have c2 : bitsOf w' 29 3 = 3 := bits_lit w' 29 3 3 536870912 8 rfl rfl (by
    have := (a).isLt
    omega)
  refine ⟨?_, ?_, lt⟩
  · rw [raw_6C w' r0]
    simp only [rawMajor6C, c1, c2, f0]
  · rintro rfl
    exact absurd r0 (by decide)

theorem WordRoundTrip.pwchk (d : BitVec 5) (a : BitVec 5) (b : BitVec 5) : WordRoundTrip.Statement (.pwchk d a b) := by
  intro _
  have hv : encodeNat (.pwchk d a b) =
    109 + 0 * 4194304 + b.toNat * 131072 + a.toNat * 4096 + d.toNat * 128 := rfl
  generalize encodeNat (.pwchk d a b) = w' at hv ⊢
  obtain ⟨r0, r22, f0, f1, f2, lt⟩ := layout0 109 0 b a d (by decide) (by decide) w' hv
  have c1 : bitsOf w' 26 3 = 0 := bits_lit w' 26 3 0 67108864 8 rfl rfl (by
    have := (d).isLt
    have := (a).isLt
    have := (b).isLt
    omega)
  refine ⟨?_, ?_, lt⟩
  · rw [raw_6D w' r0]
    simp only [rawMajor6D, c1, f2, f1, f0]
  · rintro rfl
    exact absurd r0 (by decide)

theorem WordRoundTrip.pwdrft (d : BitVec 5) (a : BitVec 5) (b : BitVec 5) : WordRoundTrip.Statement (.pwdrft d a b) := by
  intro _
  have hv : encodeNat (.pwdrft d a b) =
    109 + 16 * 4194304 + b.toNat * 131072 + a.toNat * 4096 + d.toNat * 128 := rfl
  generalize encodeNat (.pwdrft d a b) = w' at hv ⊢
  obtain ⟨r0, r22, f0, f1, f2, lt⟩ := layout0 109 16 b a d (by decide) (by decide) w' hv
  have c1 : bitsOf w' 26 3 = 1 := bits_lit w' 26 3 1 67108864 8 rfl rfl (by
    have := (d).isLt
    have := (a).isLt
    have := (b).isLt
    omega)
  refine ⟨?_, ?_, lt⟩
  · rw [raw_6D w' r0]
    simp only [rawMajor6D, c1, f2, f1, f0]
  · rintro rfl
    exact absurd r0 (by decide)

theorem WordRoundTrip.pwconf (d : BitVec 5) (a : BitVec 5) (b : BitVec 5) : WordRoundTrip.Statement (.pwconf d a b) := by
  intro _
  have hv : encodeNat (.pwconf d a b) =
    109 + 32 * 4194304 + b.toNat * 131072 + a.toNat * 4096 + d.toNat * 128 := rfl
  generalize encodeNat (.pwconf d a b) = w' at hv ⊢
  obtain ⟨r0, r22, f0, f1, f2, lt⟩ := layout0 109 32 b a d (by decide) (by decide) w' hv
  have c1 : bitsOf w' 26 3 = 2 := bits_lit w' 26 3 2 67108864 8 rfl rfl (by
    have := (d).isLt
    have := (a).isLt
    have := (b).isLt
    omega)
  refine ⟨?_, ?_, lt⟩
  · rw [raw_6D w' r0]
    simp only [rawMajor6D, c1, f2, f1, f0]
  · rintro rfl
    exact absurd r0 (by decide)

theorem WordRoundTrip.pwinj (d : BitVec 5) (a : BitVec 5) : WordRoundTrip.Statement (.pwinj d a) := by
  intro _
  have hv : encodeNat (.pwinj d a) =
    109 + 1536 * 131072 + a.toNat * 4096 + d.toNat * 128 := rfl
  generalize encodeNat (.pwinj d a) = w' at hv ⊢
  obtain ⟨r0, r17, f0, f1, lt⟩ := layout1 109 1536 a d (by decide) (by decide) w' hv
  have c1 : bitsOf w' 26 3 = 3 := bits_lit w' 26 3 3 67108864 8 rfl rfl (by
    have := (d).isLt
    have := (a).isLt
    omega)
  refine ⟨?_, ?_, lt⟩
  · rw [raw_6D w' r0]
    simp only [rawMajor6D, c1, f1, f0]
  · rintro rfl
    exact absurd r0 (by decide)

theorem WordRoundTrip.split (core : Nat) (slot : Nat) : WordRoundTrip.Statement (.split core slot) := fun h => nomatch h
theorem WordRoundTrip.fetch (core : Nat) (slot : Nat) : WordRoundTrip.Statement (.fetch core slot) := fun h => nomatch h
theorem WordRoundTrip.execute (core : Nat) (slot : Nat) : WordRoundTrip.Statement (.execute core slot) := fun h => nomatch h
theorem WordRoundTrip.drain (core : Nat) (slot : Nat) (line : Nat) : WordRoundTrip.Statement (.drain core slot line) := fun h => nomatch h
theorem WordRoundTrip.deliver (src : Nat) (dst : Nat) : WordRoundTrip.Statement (.deliver src dst) := fun h => nomatch h
theorem WordRoundTrip.serve (core : Nat) (bank : Nat) (port : Nat) : WordRoundTrip.Statement (.serve core bank port) := fun h => nomatch h
theorem WordRoundTrip.hostPerform (core : Nat) (slot : Nat) : WordRoundTrip.Statement (.hostPerform core slot) := fun h => nomatch h
theorem WordRoundTrip.push (core : Nat) (slot : Nat) : WordRoundTrip.Statement (.push core slot) := fun h => nomatch h
theorem WordRoundTrip.acceptAndProduce (core : Nat) (slot : Nat) (q : Nat) : WordRoundTrip.Statement (.acceptAndProduce core slot q) := fun h => nomatch h
theorem WordRoundTrip.streamRecord (core : Nat) (slot : Nat) (q : Nat) : WordRoundTrip.Statement (.streamRecord core slot q) := fun h => nomatch h
theorem WordRoundTrip.commandComplete (core : Nat) (slot : Nat) (q : Nat) : WordRoundTrip.Statement (.commandComplete core slot q) := fun h => nomatch h
theorem WordRoundTrip.stall (core : Nat) (slot : Nat) (q : Nat) : WordRoundTrip.Statement (.stall core slot q) := fun h => nomatch h
theorem WordRoundTrip.streamPageFault (core : Nat) (slot : Nat) (q : Nat) : WordRoundTrip.Statement (.streamPageFault core slot q) := fun h => nomatch h
theorem WordRoundTrip.pop (core : Nat) (slot : Nat) : WordRoundTrip.Statement (.pop core slot) := fun h => nomatch h
theorem WordRoundTrip.postAndObserve (core : Nat) (slot : Nat) : WordRoundTrip.Statement (.postAndObserve core slot) := fun h => nomatch h
theorem WordRoundTrip.proof (core : Nat) (slot : Nat) : WordRoundTrip.Statement (.proof core slot) := fun h => nomatch h
theorem WordRoundTrip.hearthServe (core : Nat) (slot : Nat) : WordRoundTrip.Statement (.hearthServe core slot) := fun h => nomatch h
theorem WordRoundTrip.gangDrain (fn : Nat) (seq : Nat) (gang : Nat) : WordRoundTrip.Statement (.gangDrain fn seq gang) := fun h => nomatch h
theorem WordRoundTrip.wfeWake (core : Nat) (slot : Nat) : WordRoundTrip.Statement (.wfeWake core slot) := fun h => nomatch h
theorem WordRoundTrip.sliceEnd (core : Nat) : WordRoundTrip.Statement (.sliceEnd core) := fun h => nomatch h
theorem WordRoundTrip.waitQuantumExpiry (core : Nat) : WordRoundTrip.Statement (.waitQuantumExpiry core) := fun h => nomatch h
theorem WordRoundTrip.doorbell (fn : Nat) (q : Nat) (tail : BitVec 32) : WordRoundTrip.Statement (.doorbell fn q tail) := fun h => nomatch h
theorem WordRoundTrip.launchFetch (fn : Nat) (q : Nat) : WordRoundTrip.Statement (.launchFetch fn q) := fun h => nomatch h
theorem WordRoundTrip.gangPlacement (fn : Nat) (seq : Nat) (gang : Nat) (stack : Nat) (places : List (Nat × Nat × Nat)) (lc : Nat) : WordRoundTrip.Statement (.gangPlacement fn seq gang stack places lc) := fun h => nomatch h
theorem WordRoundTrip.warmSlot (fn : Nat) (seq : Nat) (gang : Nat) (stack : Nat) (places : List (Nat × Nat × Nat)) : WordRoundTrip.Statement (.warmSlot fn seq gang stack places) := fun h => nomatch h
theorem WordRoundTrip.priorityPreemption (fn : Nat) (seq : Nat) (gang : Nat) (vfn : Nat) (vseq : Nat) (vgang : Nat) : WordRoundTrip.Statement (.priorityPreemption fn seq gang vfn vseq vgang) := fun h => nomatch h
theorem WordRoundTrip.resumption (fn : Nat) (seq : Nat) (gang : Nat) (lc : Nat) : WordRoundTrip.Statement (.resumption fn seq gang lc) := fun h => nomatch h
theorem WordRoundTrip.graceExpiry (fn : Nat) (seq : Nat) (gang : Nat) : WordRoundTrip.Statement (.graceExpiry fn seq gang) := fun h => nomatch h
theorem WordRoundTrip.budgetWindow : WordRoundTrip.Statement (.budgetWindow) := fun h => nomatch h
theorem WordRoundTrip.budgetExhausted (fn : Nat) (tbu : Nat) (ebu : Nat) : WordRoundTrip.Statement (.budgetExhausted fn tbu ebu) := fun h => nomatch h
theorem WordRoundTrip.powerInterval (avg : Nat) (reason : Nat) (lc : Nat) (issue : Nat) (duty : Nat) : WordRoundTrip.Statement (.powerInterval avg reason lc issue duty) := fun h => nomatch h
theorem WordRoundTrip.completionWordWrite (fn : Nat) (seq : Nat) : WordRoundTrip.Statement (.completionWordWrite fn seq) := fun h => nomatch h
theorem WordRoundTrip.queueLevelReset (fn : Nat) (q : Nat) : WordRoundTrip.Statement (.queueLevelReset fn q) := fun h => nomatch h
theorem WordRoundTrip.functionLevelReset (fn : Nat) : WordRoundTrip.Statement (.functionLevelReset fn) := fun h => nomatch h
theorem WordRoundTrip.partmapWrite (fn : Nat) (half : Nat) (v : Word) : WordRoundTrip.Statement (.partmapWrite fn half v) := fun h => nomatch h
theorem WordRoundTrip.tenantWrite (fn : Nat) (v : Word) : WordRoundTrip.Statement (.tenantWrite fn v) := fun h => nomatch h
theorem WordRoundTrip.scrub (hg : Nat) : WordRoundTrip.Statement (.scrub hg) := fun h => nomatch h
theorem WordRoundTrip.faultRecordWrite (ring : Nat) : WordRoundTrip.Statement (.faultRecordWrite ring) := fun h => nomatch h
theorem WordRoundTrip.faultAnswer (fn : Nat) (v : Word) : WordRoundTrip.Statement (.faultAnswer fn v) := fun h => nomatch h
theorem WordRoundTrip.pfFaultAnswer (ring : Nat) (v : Word) : WordRoundTrip.Statement (.pfFaultAnswer ring v) := fun h => nomatch h
theorem WordRoundTrip.inv1 (fn : Nat) (count : Word) : WordRoundTrip.Statement (.inv1 fn count) := fun h => nomatch h
theorem WordRoundTrip.inv2 (fn : Nat) (count : Word) : WordRoundTrip.Statement (.inv2 fn count) := fun h => nomatch h
theorem WordRoundTrip.pageRetirement (vault : Nat) (frame : Nat) (spare : Nat) (lost : List Nat) : WordRoundTrip.Statement (.pageRetirement vault frame spare lost) := fun h => nomatch h
theorem WordRoundTrip.snoop (line : Nat) : WordRoundTrip.Statement (.snoop line) := fun h => nomatch h
theorem WordRoundTrip.hjelvorReadRequest (link : Nat) (flit : Flit) : WordRoundTrip.Statement (.hjelvorReadRequest link flit) := fun h => nomatch h
theorem WordRoundTrip.hjelvorReadRecords (link : Nat) (flit : Flit) : WordRoundTrip.Statement (.hjelvorReadRecords link flit) := fun h => nomatch h
theorem WordRoundTrip.hjelvorWriteRecords (link : Nat) (flit : Flit) : WordRoundTrip.Statement (.hjelvorWriteRecords link flit) := fun h => nomatch h
theorem WordRoundTrip.hjelvorCompletionFlit (link : Nat) (flit : Flit) : WordRoundTrip.Statement (.hjelvorCompletionFlit link flit) := fun h => nomatch h
theorem WordRoundTrip.hjelvorFenceFlit (link : Nat) (flit : Flit) : WordRoundTrip.Statement (.hjelvorFenceFlit link flit) := fun h => nomatch h
theorem WordRoundTrip.hjelvorFenceAck (link : Nat) (flit : Flit) : WordRoundTrip.Statement (.hjelvorFenceAck link flit) := fun h => nomatch h
theorem WordRoundTrip.linkDown (link : Nat) : WordRoundTrip.Statement (.linkDown link) := fun h => nomatch h
theorem WordRoundTrip.powerOn : WordRoundTrip.Statement (.powerOn) := fun h => nomatch h
theorem WordRoundTrip.load : WordRoundTrip.Statement (.load) := fun h => nomatch h
theorem WordRoundTrip.commit : WordRoundTrip.Statement (.commit) := fun h => nomatch h
theorem WordRoundTrip.config : WordRoundTrip.Statement (.config) := fun h => nomatch h
theorem WordRoundTrip.quote : WordRoundTrip.Statement (.quote) := fun h => nomatch h
theorem WordRoundTrip.securityAlarm (sensor : Nat) (tenants : List Nat) : WordRoundTrip.Statement (.securityAlarm sensor tenants) := fun h => nomatch h
theorem WordRoundTrip.debugResume (fn : Nat) : WordRoundTrip.Statement (.debugResume fn) := fun h => nomatch h
theorem WordRoundTrip.smplostRead (fn : Nat) : WordRoundTrip.Statement (.smplostRead fn) := fun h => nomatch h
theorem WordRoundTrip.trsigWrite (v : Word) : WordRoundTrip.Statement (.trsigWrite v) := fun h => nomatch h
theorem WordRoundTrip.trenClear (fn : Nat) : WordRoundTrip.Statement (.trenClear fn) := fun h => nomatch h
theorem WordRoundTrip.registerWrite (fn : Nat) (off : Nat) (v : Word) : WordRoundTrip.Statement (.registerWrite fn off v) := fun h => nomatch h
theorem WordRoundTrip.illegalInstruction (w : BitVec 32) : WordRoundTrip.Statement (.illegalInstruction w) := fun h => nomatch h
theorem WordRoundTrip.instructionFetchFault : WordRoundTrip.Statement (.instructionFetchFault) := fun h => nomatch h
theorem WordRoundTrip.resetCompletion (fn : Nat) (q : Nat) : WordRoundTrip.Statement (.resetCompletion fn q) := fun h => nomatch h
theorem WordRoundTrip.mailboxCompletion : WordRoundTrip.Statement (.mailboxCompletion) := fun h => nomatch h
theorem WordRoundTrip.invalidationCompletion : WordRoundTrip.Statement (.invalidationCompletion) := fun h => nomatch h

end Sys2Proof.Laws
end

