-- ==== Sys2Proof/Laws/State.lean ====
section
/-! SUPPORT. What the operations over State leave in each field: one lemma a field, used by simp in place of the operations'
bodies. -/

namespace Sys2Proof.Machine

/-! ### updMe -/

@[simp] theorem updMe_others (s : State) (f : Strand → Strand) : (updMe s f).others = s.others := rfl

@[simp] theorem updMe_active (s : State) (f : Strand → Strand) : (updMe s f).active = s.active := rfl

@[simp] theorem updMe_gangs (s : State) (f : Strand → Strand) : (updMe s f).gangs = s.gangs := rfl

@[simp] theorem updMe_launches (s : State) (f : Strand → Strand) : (updMe s f).launches = s.launches := rfl

@[simp] theorem updMe_funcs (s : State) (f : Strand → Strand) : (updMe s f).funcs = s.funcs := rfl

@[simp] theorem updMe_hearths (s : State) (f : Strand → Strand) : (updMe s f).hearths = s.hearths := rfl

@[simp] theorem updMe_census (s : State) (f : Strand → Strand) : (updMe s f).census = s.census := rfl

@[simp] theorem updMe_seqs (s : State) (f : Strand → Strand) : (updMe s f).seqs = s.seqs := rfl

@[simp] theorem updMe_host (s : State) (f : Strand → Strand) : (updMe s f).host = s.host := rfl

@[simp] theorem updMe_spad (s : State) (f : Strand → Strand) : (updMe s f).spad = s.spad := rfl

@[simp] theorem updMe_vault (s : State) (f : Strand → Strand) : (updMe s f).vault = s.vault := rfl

@[simp] theorem updMe_net (s : State) (f : Strand → Strand) : (updMe s f).net = s.net := rfl

@[simp] theorem updMe_dev (s : State) (f : Strand → Strand) : (updMe s f).dev = s.dev := rfl

@[simp] theorem updMe_agenda (s : State) (f : Strand → Strand) : (updMe s f).agenda = s.agenda := rfl

@[simp] theorem updMe_defer (s : State) (f : Strand → Strand) : (updMe s f).defer = s.defer := rfl

@[simp] theorem updMe_nextId (s : State) (f : Strand → Strand) : (updMe s f).nextId = s.nextId := rfl

@[simp] theorem updMe_tick (s : State) (f : Strand → Strand) : (updMe s f).tick = s.tick := rfl

@[simp] theorem updMe_beat (s : State) (f : Strand → Strand) : (updMe s f).beat = s.beat := rfl

@[simp] theorem updMe_turns (s : State) (f : Strand → Strand) : (updMe s f).turns = s.turns := rfl

@[simp] theorem updMe_traceT (s : State) (f : Strand → Strand) : (updMe s f).traceT = s.traceT := rfl

@[simp] theorem updMe_trev (s : State) (f : Strand → Strand) : (updMe s f).trev = s.trev := rfl

@[simp] theorem updMe_me (s : State) (f : Strand → Strand) : (updMe s f).me = f s.me := rfl

/-! ### updCtx -/

@[simp] theorem updCtx_others (s : State) (f : VCtx → VCtx) : (updCtx s f).others = s.others := rfl

@[simp] theorem updCtx_active (s : State) (f : VCtx → VCtx) : (updCtx s f).active = s.active := rfl

@[simp] theorem updCtx_gangs (s : State) (f : VCtx → VCtx) : (updCtx s f).gangs = s.gangs := rfl

@[simp] theorem updCtx_launches (s : State) (f : VCtx → VCtx) : (updCtx s f).launches = s.launches := rfl

@[simp] theorem updCtx_funcs (s : State) (f : VCtx → VCtx) : (updCtx s f).funcs = s.funcs := rfl

@[simp] theorem updCtx_hearths (s : State) (f : VCtx → VCtx) : (updCtx s f).hearths = s.hearths := rfl

@[simp] theorem updCtx_census (s : State) (f : VCtx → VCtx) : (updCtx s f).census = s.census := rfl

@[simp] theorem updCtx_seqs (s : State) (f : VCtx → VCtx) : (updCtx s f).seqs = s.seqs := rfl

@[simp] theorem updCtx_host (s : State) (f : VCtx → VCtx) : (updCtx s f).host = s.host := rfl

@[simp] theorem updCtx_spad (s : State) (f : VCtx → VCtx) : (updCtx s f).spad = s.spad := rfl

@[simp] theorem updCtx_vault (s : State) (f : VCtx → VCtx) : (updCtx s f).vault = s.vault := rfl

@[simp] theorem updCtx_net (s : State) (f : VCtx → VCtx) : (updCtx s f).net = s.net := rfl

@[simp] theorem updCtx_dev (s : State) (f : VCtx → VCtx) : (updCtx s f).dev = s.dev := rfl

@[simp] theorem updCtx_agenda (s : State) (f : VCtx → VCtx) : (updCtx s f).agenda = s.agenda := rfl

@[simp] theorem updCtx_defer (s : State) (f : VCtx → VCtx) : (updCtx s f).defer = s.defer := rfl

@[simp] theorem updCtx_nextId (s : State) (f : VCtx → VCtx) : (updCtx s f).nextId = s.nextId := rfl

@[simp] theorem updCtx_tick (s : State) (f : VCtx → VCtx) : (updCtx s f).tick = s.tick := rfl

@[simp] theorem updCtx_beat (s : State) (f : VCtx → VCtx) : (updCtx s f).beat = s.beat := rfl

@[simp] theorem updCtx_turns (s : State) (f : VCtx → VCtx) : (updCtx s f).turns = s.turns := rfl

@[simp] theorem updCtx_traceT (s : State) (f : VCtx → VCtx) : (updCtx s f).traceT = s.traceT := rfl

@[simp] theorem updCtx_trev (s : State) (f : VCtx → VCtx) : (updCtx s f).trev = s.trev := rfl

@[simp] theorem updCtx_me_status (s : State) (f : VCtx → VCtx) : (updCtx s f).me.status = s.me.status := rfl

@[simp] theorem updCtx_me_fn (s : State) (f : VCtx → VCtx) : (updCtx s f).me.fn = s.me.fn := rfl

@[simp] theorem updCtx_me_lseq (s : State) (f : VCtx → VCtx) : (updCtx s f).me.lseq = s.me.lseq := rfl

@[simp] theorem updCtx_me_gang (s : State) (f : VCtx → VCtx) : (updCtx s f).me.gang = s.me.gang := rfl

@[simp] theorem updCtx_me_lsn (s : State) (f : VCtx → VCtx) : (updCtx s f).me.lsn = s.me.lsn := rfl

@[simp] theorem updCtx_me_core (s : State) (f : VCtx → VCtx) : (updCtx s f).me.core = s.me.core := rfl

@[simp] theorem updCtx_me_slot (s : State) (f : VCtx → VCtx) : (updCtx s f).me.slot = s.me.slot := rfl

@[simp] theorem updCtx_me_gcount (s : State) (f : VCtx → VCtx) : (updCtx s f).me.gcount = s.me.gcount := rfl

@[simp] theorem updCtx_me_gsize (s : State) (f : VCtx → VCtx) : (updCtx s f).me.gsize = s.me.gsize := rfl

@[simp] theorem updCtx_me_pc (s : State) (f : VCtx → VCtx) : (updCtx s f).me.pc = s.me.pc := rfl

@[simp] theorem updCtx_me_regs (s : State) (f : VCtx → VCtx) : (updCtx s f).me.regs = s.me.regs := rfl

@[simp] theorem updCtx_me_spBase (s : State) (f : VCtx → VCtx) : (updCtx s f).me.spBase = s.me.spBase := rfl

@[simp] theorem updCtx_me_spSize (s : State) (f : VCtx → VCtx) : (updCtx s f).me.spSize = s.me.spSize := rfl

@[simp] theorem updCtx_me_vlcap (s : State) (f : VCtx → VCtx) : (updCtx s f).me.vlcap = s.me.vlcap := rfl

@[simp] theorem updCtx_me_det (s : State) (f : VCtx → VCtx) : (updCtx s f).me.det = s.me.det := rfl

@[simp] theorem updCtx_me_dseed (s : State) (f : VCtx → VCtx) : (updCtx s f).me.dseed = s.me.dseed := rfl

@[simp] theorem updCtx_me_pref (s : State) (f : VCtx → VCtx) : (updCtx s f).me.pref = s.me.pref := rfl

@[simp] theorem updCtx_me_lc (s : State) (f : VCtx → VCtx) : (updCtx s f).me.lc = s.me.lc := rfl

@[simp] theorem updCtx_me_epoch (s : State) (f : VCtx → VCtx) : (updCtx s f).me.epoch = s.me.epoch := rfl

@[simp] theorem updCtx_me_issue (s : State) (f : VCtx → VCtx) : (updCtx s f).me.issue = s.me.issue := rfl

@[simp] theorem updCtx_me_xflags (s : State) (f : VCtx → VCtx) : (updCtx s f).me.xflags = s.me.xflags := rfl

@[simp] theorem updCtx_me_tcause (s : State) (f : VCtx → VCtx) : (updCtx s f).me.tcause = s.me.tcause := rfl

@[simp] theorem updCtx_me_tepc (s : State) (f : VCtx → VCtx) : (updCtx s f).me.tepc = s.me.tepc := rfl

@[simp] theorem updCtx_me_tval (s : State) (f : VCtx → VCtx) : (updCtx s f).me.tval = s.me.tval := rfl

@[simp] theorem updCtx_me_ev (s : State) (f : VCtx → VCtx) : (updCtx s f).me.ev = s.me.ev := rfl

@[simp] theorem updCtx_me_pre (s : State) (f : VCtx → VCtx) : (updCtx s f).me.pre = s.me.pre := rfl

@[simp] theorem updCtx_me_qstop (s : State) (f : VCtx → VCtx) : (updCtx s f).me.qstop = s.me.qstop := rfl

@[simp] theorem updCtx_me_vown (s : State) (f : VCtx → VCtx) : (updCtx s f).me.vown = s.me.vown := rfl

@[simp] theorem updCtx_me_hm (s : State) (f : VCtx → VCtx) : (updCtx s f).me.hm = s.me.hm := rfl

@[simp] theorem updCtx_me_thandler (s : State) (f : VCtx → VCtx) : (updCtx s f).me.thandler = s.me.thandler := rfl

@[simp] theorem updCtx_me_ctxarea (s : State) (f : VCtx → VCtx) : (updCtx s f).me.ctxarea = s.me.ctxarea := rfl

@[simp] theorem updCtx_me_tscr (s : State) (f : VCtx → VCtx) : (updCtx s f).me.tscr = s.me.tscr := rfl

@[simp] theorem updCtx_me_vpsel (s : State) (f : VCtx → VCtx) : (updCtx s f).me.vpsel = s.me.vpsel := rfl

@[simp] theorem updCtx_me_notify (s : State) (f : VCtx → VCtx) : (updCtx s f).me.notify = s.me.notify := rfl

@[simp] theorem updCtx_me_pwstat (s : State) (f : VCtx → VCtx) : (updCtx s f).me.pwstat = s.me.pwstat := rfl

@[simp] theorem updCtx_me_pwctl (s : State) (f : VCtx → VCtx) : (updCtx s f).me.pwctl = s.me.pwctl := rfl

@[simp] theorem updCtx_me_cspec (s : State) (f : VCtx → VCtx) : (updCtx s f).me.cspec = s.me.cspec := rfl

@[simp] theorem updCtx_me_handles (s : State) (f : VCtx → VCtx) : (updCtx s f).me.handles = s.me.handles := rfl

@[simp] theorem updCtx_me_gens (s : State) (f : VCtx → VCtx) : (updCtx s f).me.gens = s.me.gens := rfl

@[simp] theorem updCtx_me_fifos (s : State) (f : VCtx → VCtx) : (updCtx s f).me.fifos = s.me.fifos := rfl

@[simp] theorem updCtx_me_wcb (s : State) (f : VCtx → VCtx) : (updCtx s f).me.wcb = s.me.wcb := rfl

@[simp] theorem updCtx_me_hpath (s : State) (f : VCtx → VCtx) : (updCtx s f).me.hpath = s.me.hpath := rfl

@[simp] theorem updCtx_me_out (s : State) (f : VCtx → VCtx) : (updCtx s f).me.out = s.me.out := rfl
@[simp] theorem updCtx_me_acquired (s : State) (f : VCtx → VCtx) : (updCtx s f).me.acquired = s.me.acquired := rfl
@[simp] theorem updCtx_me_kept (s : State) (f : VCtx → VCtx) : (updCtx s f).me.kept = s.me.kept := rfl

@[simp] theorem updCtx_me_acc (s : State) (f : VCtx → VCtx) : (updCtx s f).me.acc = s.me.acc := rfl

@[simp] theorem updCtx_me_accRows (s : State) (f : VCtx → VCtx) : (updCtx s f).me.accRows = s.me.accRows := rfl

@[simp] theorem updCtx_me_reserved (s : State) (f : VCtx → VCtx) : (updCtx s f).me.reserved = s.me.reserved := rfl

@[simp] theorem updCtx_me_savedRows (s : State) (f : VCtx → VCtx) : (updCtx s f).me.savedRows = s.me.savedRows := rfl

@[simp] theorem updCtx_me_dumped (s : State) (f : VCtx → VCtx) : (updCtx s f).me.dumped = s.me.dumped := rfl

@[simp] theorem updCtx_me_stand (s : State) (f : VCtx → VCtx) : (updCtx s f).me.stand = s.me.stand := rfl

@[simp] theorem updCtx_me_permit (s : State) (f : VCtx → VCtx) : (updCtx s f).me.permit = s.me.permit := rfl

@[simp] theorem updCtx_me_susp (s : State) (f : VCtx → VCtx) : (updCtx s f).me.susp = s.me.susp := rfl

@[simp] theorem updCtx_me_nsample (s : State) (f : VCtx → VCtx) : (updCtx s f).me.nsample = s.me.nsample := rfl

@[simp] theorem updCtx_me_skipBrk (s : State) (f : VCtx → VCtx) : (updCtx s f).me.skipBrk = s.me.skipBrk := rfl
@[simp] theorem updCtx_me_areaProg (s : State) (f : VCtx → VCtx) : (updCtx s f).me.areaProg = s.me.areaProg := rfl

@[simp] theorem updCtx_me_ending (s : State) (f : VCtx → VCtx) : (updCtx s f).me.ending = s.me.ending := rfl

@[simp] theorem updCtx_me_endOff (s : State) (f : VCtx → VCtx) : (updCtx s f).me.endOff = s.me.endOff := rfl

@[simp] theorem updCtx_me_laneCycles (s : State) (f : VCtx → VCtx) : (updCtx s f).me.laneCycles = s.me.laneCycles := rfl

@[simp] theorem updCtx_me_bitCycles (s : State) (f : VCtx → VCtx) : (updCtx s f).me.bitCycles = s.me.bitCycles := rfl

@[simp] theorem updCtx_me_woke (s : State) (f : VCtx → VCtx) : (updCtx s f).me.woke = s.me.woke := rfl

@[simp] theorem updCtx_me_vctx (s : State) (f : VCtx → VCtx) : (updCtx s f).me.vctx = f s.me.vctx := rfl

/-! ### advance -/

@[simp] theorem advance_others (s : State) : (advance s).others = s.others := rfl

@[simp] theorem advance_active (s : State) : (advance s).active = s.active := rfl

@[simp] theorem advance_gangs (s : State) : (advance s).gangs = s.gangs := rfl

@[simp] theorem advance_launches (s : State) : (advance s).launches = s.launches := rfl

@[simp] theorem advance_funcs (s : State) : (advance s).funcs = s.funcs := rfl

@[simp] theorem advance_hearths (s : State) : (advance s).hearths = s.hearths := rfl

@[simp] theorem advance_census (s : State) : (advance s).census = s.census := rfl

@[simp] theorem advance_seqs (s : State) : (advance s).seqs = s.seqs := rfl

@[simp] theorem advance_host (s : State) : (advance s).host = s.host := rfl

@[simp] theorem advance_spad (s : State) : (advance s).spad = s.spad := rfl

@[simp] theorem advance_vault (s : State) : (advance s).vault = s.vault := rfl

@[simp] theorem advance_net (s : State) : (advance s).net = s.net := rfl

@[simp] theorem advance_dev (s : State) : (advance s).dev = s.dev := rfl

@[simp] theorem advance_agenda (s : State) : (advance s).agenda = s.agenda := rfl

@[simp] theorem advance_defer (s : State) : (advance s).defer = s.defer := rfl

@[simp] theorem advance_nextId (s : State) : (advance s).nextId = s.nextId := rfl

@[simp] theorem advance_tick (s : State) : (advance s).tick = s.tick := rfl

@[simp] theorem advance_beat (s : State) : (advance s).beat = s.beat := rfl

@[simp] theorem advance_turns (s : State) : (advance s).turns = s.turns := rfl

@[simp] theorem advance_traceT (s : State) : (advance s).traceT = s.traceT := rfl

@[simp] theorem advance_trev (s : State) : (advance s).trev = s.trev := rfl

@[simp] theorem advance_me_status (s : State) : (advance s).me.status = s.me.status := rfl

@[simp] theorem advance_me_fn (s : State) : (advance s).me.fn = s.me.fn := rfl

@[simp] theorem advance_me_lseq (s : State) : (advance s).me.lseq = s.me.lseq := rfl

@[simp] theorem advance_me_gang (s : State) : (advance s).me.gang = s.me.gang := rfl

@[simp] theorem advance_me_lsn (s : State) : (advance s).me.lsn = s.me.lsn := rfl

@[simp] theorem advance_me_core (s : State) : (advance s).me.core = s.me.core := rfl

@[simp] theorem advance_me_slot (s : State) : (advance s).me.slot = s.me.slot := rfl

@[simp] theorem advance_me_gcount (s : State) : (advance s).me.gcount = s.me.gcount := rfl

@[simp] theorem advance_me_gsize (s : State) : (advance s).me.gsize = s.me.gsize := rfl

@[simp] theorem advance_me_regs (s : State) : (advance s).me.regs = s.me.regs := rfl

@[simp] theorem advance_me_spBase (s : State) : (advance s).me.spBase = s.me.spBase := rfl

@[simp] theorem advance_me_spSize (s : State) : (advance s).me.spSize = s.me.spSize := rfl

@[simp] theorem advance_me_vlcap (s : State) : (advance s).me.vlcap = s.me.vlcap := rfl

@[simp] theorem advance_me_det (s : State) : (advance s).me.det = s.me.det := rfl

@[simp] theorem advance_me_dseed (s : State) : (advance s).me.dseed = s.me.dseed := rfl

@[simp] theorem advance_me_pref (s : State) : (advance s).me.pref = s.me.pref := rfl

@[simp] theorem advance_me_lc (s : State) : (advance s).me.lc = s.me.lc := rfl

@[simp] theorem advance_me_epoch (s : State) : (advance s).me.epoch = s.me.epoch := rfl

@[simp] theorem advance_me_issue (s : State) : (advance s).me.issue = s.me.issue := rfl

@[simp] theorem advance_me_xflags (s : State) : (advance s).me.xflags = s.me.xflags := rfl

@[simp] theorem advance_me_tcause (s : State) : (advance s).me.tcause = s.me.tcause := rfl

@[simp] theorem advance_me_tepc (s : State) : (advance s).me.tepc = s.me.tepc := rfl

@[simp] theorem advance_me_tval (s : State) : (advance s).me.tval = s.me.tval := rfl

@[simp] theorem advance_me_ev (s : State) : (advance s).me.ev = s.me.ev := rfl

@[simp] theorem advance_me_pre (s : State) : (advance s).me.pre = s.me.pre := rfl

@[simp] theorem advance_me_qstop (s : State) : (advance s).me.qstop = s.me.qstop := rfl

@[simp] theorem advance_me_vown (s : State) : (advance s).me.vown = s.me.vown := rfl

@[simp] theorem advance_me_hm (s : State) : (advance s).me.hm = s.me.hm := rfl

@[simp] theorem advance_me_thandler (s : State) : (advance s).me.thandler = s.me.thandler := rfl

@[simp] theorem advance_me_ctxarea (s : State) : (advance s).me.ctxarea = s.me.ctxarea := rfl

@[simp] theorem advance_me_tscr (s : State) : (advance s).me.tscr = s.me.tscr := rfl

@[simp] theorem advance_me_vpsel (s : State) : (advance s).me.vpsel = s.me.vpsel := rfl

@[simp] theorem advance_me_notify (s : State) : (advance s).me.notify = s.me.notify := rfl

@[simp] theorem advance_me_pwstat (s : State) : (advance s).me.pwstat = s.me.pwstat := rfl

@[simp] theorem advance_me_pwctl (s : State) : (advance s).me.pwctl = s.me.pwctl := rfl

@[simp] theorem advance_me_cspec (s : State) : (advance s).me.cspec = s.me.cspec := rfl

@[simp] theorem advance_me_handles (s : State) : (advance s).me.handles = s.me.handles := rfl

@[simp] theorem advance_me_gens (s : State) : (advance s).me.gens = s.me.gens := rfl

@[simp] theorem advance_me_fifos (s : State) : (advance s).me.fifos = s.me.fifos := rfl

@[simp] theorem advance_me_wcb (s : State) : (advance s).me.wcb = s.me.wcb := rfl

@[simp] theorem advance_me_hpath (s : State) : (advance s).me.hpath = s.me.hpath := rfl

@[simp] theorem advance_me_out (s : State) : (advance s).me.out = s.me.out := rfl
@[simp] theorem advance_me_acquired (s : State) : (advance s).me.acquired = s.me.acquired := rfl
@[simp] theorem advance_me_kept (s : State) : (advance s).me.kept = s.me.kept := rfl

@[simp] theorem advance_me_acc (s : State) : (advance s).me.acc = s.me.acc := rfl

@[simp] theorem advance_me_accRows (s : State) : (advance s).me.accRows = s.me.accRows := rfl

@[simp] theorem advance_me_reserved (s : State) : (advance s).me.reserved = s.me.reserved := rfl

@[simp] theorem advance_me_savedRows (s : State) : (advance s).me.savedRows = s.me.savedRows := rfl

@[simp] theorem advance_me_vctx (s : State) : (advance s).me.vctx = s.me.vctx := rfl

@[simp] theorem advance_me_dumped (s : State) : (advance s).me.dumped = s.me.dumped := rfl

@[simp] theorem advance_me_stand (s : State) : (advance s).me.stand = s.me.stand := rfl

@[simp] theorem advance_me_permit (s : State) : (advance s).me.permit = s.me.permit := rfl

@[simp] theorem advance_me_susp (s : State) : (advance s).me.susp = s.me.susp := rfl

@[simp] theorem advance_me_nsample (s : State) : (advance s).me.nsample = s.me.nsample := rfl

@[simp] theorem advance_me_skipBrk (s : State) : (advance s).me.skipBrk = s.me.skipBrk := rfl
@[simp] theorem advance_me_areaProg (s : State) : (advance s).me.areaProg = s.me.areaProg := rfl

@[simp] theorem advance_me_ending (s : State) : (advance s).me.ending = s.me.ending := rfl

@[simp] theorem advance_me_endOff (s : State) : (advance s).me.endOff = s.me.endOff := rfl

@[simp] theorem advance_me_laneCycles (s : State) : (advance s).me.laneCycles = s.me.laneCycles := rfl

@[simp] theorem advance_me_bitCycles (s : State) : (advance s).me.bitCycles = s.me.bitCycles := rfl

@[simp] theorem advance_me_woke (s : State) : (advance s).me.woke = s.me.woke := rfl

@[simp] theorem advance_me_pc (s : State) : (advance s).me.pc = s.me.pc + 4 := rfl

/-! ### setReg -/

@[simp] theorem setReg_others (s : State) (r : BitVec 5) (v : Word) : (setReg s r v).others = s.others := by unfold setReg; split <;> rfl

@[simp] theorem setReg_active (s : State) (r : BitVec 5) (v : Word) : (setReg s r v).active = s.active := by unfold setReg; split <;> rfl

@[simp] theorem setReg_gangs (s : State) (r : BitVec 5) (v : Word) : (setReg s r v).gangs = s.gangs := by unfold setReg; split <;> rfl

@[simp] theorem setReg_launches (s : State) (r : BitVec 5) (v : Word) : (setReg s r v).launches = s.launches := by unfold setReg; split <;> rfl

@[simp] theorem setReg_funcs (s : State) (r : BitVec 5) (v : Word) : (setReg s r v).funcs = s.funcs := by unfold setReg; split <;> rfl

@[simp] theorem setReg_hearths (s : State) (r : BitVec 5) (v : Word) : (setReg s r v).hearths = s.hearths := by unfold setReg; split <;> rfl

@[simp] theorem setReg_census (s : State) (r : BitVec 5) (v : Word) : (setReg s r v).census = s.census := by unfold setReg; split <;> rfl

@[simp] theorem setReg_seqs (s : State) (r : BitVec 5) (v : Word) : (setReg s r v).seqs = s.seqs := by unfold setReg; split <;> rfl

@[simp] theorem setReg_host (s : State) (r : BitVec 5) (v : Word) : (setReg s r v).host = s.host := by unfold setReg; split <;> rfl

@[simp] theorem setReg_spad (s : State) (r : BitVec 5) (v : Word) : (setReg s r v).spad = s.spad := by unfold setReg; split <;> rfl

@[simp] theorem setReg_vault (s : State) (r : BitVec 5) (v : Word) : (setReg s r v).vault = s.vault := by unfold setReg; split <;> rfl

@[simp] theorem setReg_net (s : State) (r : BitVec 5) (v : Word) : (setReg s r v).net = s.net := by unfold setReg; split <;> rfl

@[simp] theorem setReg_dev (s : State) (r : BitVec 5) (v : Word) : (setReg s r v).dev = s.dev := by unfold setReg; split <;> rfl

@[simp] theorem setReg_agenda (s : State) (r : BitVec 5) (v : Word) : (setReg s r v).agenda = s.agenda := by unfold setReg; split <;> rfl

@[simp] theorem setReg_defer (s : State) (r : BitVec 5) (v : Word) : (setReg s r v).defer = s.defer := by unfold setReg; split <;> rfl

@[simp] theorem setReg_nextId (s : State) (r : BitVec 5) (v : Word) : (setReg s r v).nextId = s.nextId := by unfold setReg; split <;> rfl

@[simp] theorem setReg_tick (s : State) (r : BitVec 5) (v : Word) : (setReg s r v).tick = s.tick := by unfold setReg; split <;> rfl

@[simp] theorem setReg_beat (s : State) (r : BitVec 5) (v : Word) : (setReg s r v).beat = s.beat := by unfold setReg; split <;> rfl

@[simp] theorem setReg_turns (s : State) (r : BitVec 5) (v : Word) : (setReg s r v).turns = s.turns := by unfold setReg; split <;> rfl

@[simp] theorem setReg_traceT (s : State) (r : BitVec 5) (v : Word) : (setReg s r v).traceT = s.traceT := by unfold setReg; split <;> rfl

@[simp] theorem setReg_trev (s : State) (r : BitVec 5) (v : Word) : (setReg s r v).trev = s.trev := by unfold setReg; split <;> rfl

@[simp] theorem setReg_me_status (s : State) (r : BitVec 5) (v : Word) : (setReg s r v).me.status = s.me.status := by unfold setReg; split <;> rfl

@[simp] theorem setReg_me_fn (s : State) (r : BitVec 5) (v : Word) : (setReg s r v).me.fn = s.me.fn := by unfold setReg; split <;> rfl

@[simp] theorem setReg_me_lseq (s : State) (r : BitVec 5) (v : Word) : (setReg s r v).me.lseq = s.me.lseq := by unfold setReg; split <;> rfl

@[simp] theorem setReg_me_gang (s : State) (r : BitVec 5) (v : Word) : (setReg s r v).me.gang = s.me.gang := by unfold setReg; split <;> rfl

@[simp] theorem setReg_me_lsn (s : State) (r : BitVec 5) (v : Word) : (setReg s r v).me.lsn = s.me.lsn := by unfold setReg; split <;> rfl

@[simp] theorem setReg_me_core (s : State) (r : BitVec 5) (v : Word) : (setReg s r v).me.core = s.me.core := by unfold setReg; split <;> rfl

@[simp] theorem setReg_me_slot (s : State) (r : BitVec 5) (v : Word) : (setReg s r v).me.slot = s.me.slot := by unfold setReg; split <;> rfl

@[simp] theorem setReg_me_gcount (s : State) (r : BitVec 5) (v : Word) : (setReg s r v).me.gcount = s.me.gcount := by unfold setReg; split <;> rfl

@[simp] theorem setReg_me_gsize (s : State) (r : BitVec 5) (v : Word) : (setReg s r v).me.gsize = s.me.gsize := by unfold setReg; split <;> rfl

@[simp] theorem setReg_me_pc (s : State) (r : BitVec 5) (v : Word) : (setReg s r v).me.pc = s.me.pc := by unfold setReg; split <;> rfl

@[simp] theorem setReg_me_spBase (s : State) (r : BitVec 5) (v : Word) : (setReg s r v).me.spBase = s.me.spBase := by unfold setReg; split <;> rfl

@[simp] theorem setReg_me_spSize (s : State) (r : BitVec 5) (v : Word) : (setReg s r v).me.spSize = s.me.spSize := by unfold setReg; split <;> rfl

@[simp] theorem setReg_me_vlcap (s : State) (r : BitVec 5) (v : Word) : (setReg s r v).me.vlcap = s.me.vlcap := by unfold setReg; split <;> rfl

@[simp] theorem setReg_me_det (s : State) (r : BitVec 5) (v : Word) : (setReg s r v).me.det = s.me.det := by unfold setReg; split <;> rfl

@[simp] theorem setReg_me_dseed (s : State) (r : BitVec 5) (v : Word) : (setReg s r v).me.dseed = s.me.dseed := by unfold setReg; split <;> rfl

@[simp] theorem setReg_me_pref (s : State) (r : BitVec 5) (v : Word) : (setReg s r v).me.pref = s.me.pref := by unfold setReg; split <;> rfl

@[simp] theorem setReg_me_lc (s : State) (r : BitVec 5) (v : Word) : (setReg s r v).me.lc = s.me.lc := by unfold setReg; split <;> rfl

@[simp] theorem setReg_me_epoch (s : State) (r : BitVec 5) (v : Word) : (setReg s r v).me.epoch = s.me.epoch := by unfold setReg; split <;> rfl

@[simp] theorem setReg_me_issue (s : State) (r : BitVec 5) (v : Word) : (setReg s r v).me.issue = s.me.issue := by unfold setReg; split <;> rfl

@[simp] theorem setReg_me_xflags (s : State) (r : BitVec 5) (v : Word) : (setReg s r v).me.xflags = s.me.xflags := by unfold setReg; split <;> rfl

@[simp] theorem setReg_me_tcause (s : State) (r : BitVec 5) (v : Word) : (setReg s r v).me.tcause = s.me.tcause := by unfold setReg; split <;> rfl

@[simp] theorem setReg_me_tepc (s : State) (r : BitVec 5) (v : Word) : (setReg s r v).me.tepc = s.me.tepc := by unfold setReg; split <;> rfl

@[simp] theorem setReg_me_tval (s : State) (r : BitVec 5) (v : Word) : (setReg s r v).me.tval = s.me.tval := by unfold setReg; split <;> rfl

@[simp] theorem setReg_me_ev (s : State) (r : BitVec 5) (v : Word) : (setReg s r v).me.ev = s.me.ev := by unfold setReg; split <;> rfl

@[simp] theorem setReg_me_pre (s : State) (r : BitVec 5) (v : Word) : (setReg s r v).me.pre = s.me.pre := by unfold setReg; split <;> rfl

@[simp] theorem setReg_me_qstop (s : State) (r : BitVec 5) (v : Word) : (setReg s r v).me.qstop = s.me.qstop := by unfold setReg; split <;> rfl

@[simp] theorem setReg_me_vown (s : State) (r : BitVec 5) (v : Word) : (setReg s r v).me.vown = s.me.vown := by unfold setReg; split <;> rfl

@[simp] theorem setReg_me_hm (s : State) (r : BitVec 5) (v : Word) : (setReg s r v).me.hm = s.me.hm := by unfold setReg; split <;> rfl

@[simp] theorem setReg_me_thandler (s : State) (r : BitVec 5) (v : Word) : (setReg s r v).me.thandler = s.me.thandler := by unfold setReg; split <;> rfl

@[simp] theorem setReg_me_ctxarea (s : State) (r : BitVec 5) (v : Word) : (setReg s r v).me.ctxarea = s.me.ctxarea := by unfold setReg; split <;> rfl

@[simp] theorem setReg_me_tscr (s : State) (r : BitVec 5) (v : Word) : (setReg s r v).me.tscr = s.me.tscr := by unfold setReg; split <;> rfl

@[simp] theorem setReg_me_vpsel (s : State) (r : BitVec 5) (v : Word) : (setReg s r v).me.vpsel = s.me.vpsel := by unfold setReg; split <;> rfl

@[simp] theorem setReg_me_notify (s : State) (r : BitVec 5) (v : Word) : (setReg s r v).me.notify = s.me.notify := by unfold setReg; split <;> rfl

@[simp] theorem setReg_me_pwstat (s : State) (r : BitVec 5) (v : Word) : (setReg s r v).me.pwstat = s.me.pwstat := by unfold setReg; split <;> rfl

@[simp] theorem setReg_me_pwctl (s : State) (r : BitVec 5) (v : Word) : (setReg s r v).me.pwctl = s.me.pwctl := by unfold setReg; split <;> rfl

@[simp] theorem setReg_me_cspec (s : State) (r : BitVec 5) (v : Word) : (setReg s r v).me.cspec = s.me.cspec := by unfold setReg; split <;> rfl

@[simp] theorem setReg_me_handles (s : State) (r : BitVec 5) (v : Word) : (setReg s r v).me.handles = s.me.handles := by unfold setReg; split <;> rfl

@[simp] theorem setReg_me_gens (s : State) (r : BitVec 5) (v : Word) : (setReg s r v).me.gens = s.me.gens := by unfold setReg; split <;> rfl

@[simp] theorem setReg_me_fifos (s : State) (r : BitVec 5) (v : Word) : (setReg s r v).me.fifos = s.me.fifos := by unfold setReg; split <;> rfl

@[simp] theorem setReg_me_wcb (s : State) (r : BitVec 5) (v : Word) : (setReg s r v).me.wcb = s.me.wcb := by unfold setReg; split <;> rfl

@[simp] theorem setReg_me_hpath (s : State) (r : BitVec 5) (v : Word) : (setReg s r v).me.hpath = s.me.hpath := by unfold setReg; split <;> rfl

@[simp] theorem setReg_me_out (s : State) (r : BitVec 5) (v : Word) : (setReg s r v).me.out = s.me.out := by unfold setReg; split <;> rfl
@[simp] theorem setReg_me_acquired (s : State) (r : BitVec 5) (v : Word) : (setReg s r v).me.acquired = s.me.acquired := by unfold setReg; split <;> rfl
@[simp] theorem setReg_me_kept (s : State) (r : BitVec 5) (v : Word) : (setReg s r v).me.kept = s.me.kept := by unfold setReg; split <;> rfl

@[simp] theorem setReg_me_acc (s : State) (r : BitVec 5) (v : Word) : (setReg s r v).me.acc = s.me.acc := by unfold setReg; split <;> rfl

@[simp] theorem setReg_me_accRows (s : State) (r : BitVec 5) (v : Word) : (setReg s r v).me.accRows = s.me.accRows := by unfold setReg; split <;> rfl

@[simp] theorem setReg_me_reserved (s : State) (r : BitVec 5) (v : Word) : (setReg s r v).me.reserved = s.me.reserved := by unfold setReg; split <;> rfl

@[simp] theorem setReg_me_savedRows (s : State) (r : BitVec 5) (v : Word) : (setReg s r v).me.savedRows = s.me.savedRows := by unfold setReg; split <;> rfl

@[simp] theorem setReg_me_vctx (s : State) (r : BitVec 5) (v : Word) : (setReg s r v).me.vctx = s.me.vctx := by unfold setReg; split <;> rfl

@[simp] theorem setReg_me_dumped (s : State) (r : BitVec 5) (v : Word) : (setReg s r v).me.dumped = s.me.dumped := by unfold setReg; split <;> rfl

@[simp] theorem setReg_me_stand (s : State) (r : BitVec 5) (v : Word) : (setReg s r v).me.stand = s.me.stand := by unfold setReg; split <;> rfl

@[simp] theorem setReg_me_permit (s : State) (r : BitVec 5) (v : Word) : (setReg s r v).me.permit = s.me.permit := by unfold setReg; split <;> rfl

@[simp] theorem setReg_me_susp (s : State) (r : BitVec 5) (v : Word) : (setReg s r v).me.susp = s.me.susp := by unfold setReg; split <;> rfl

@[simp] theorem setReg_me_nsample (s : State) (r : BitVec 5) (v : Word) : (setReg s r v).me.nsample = s.me.nsample := by unfold setReg; split <;> rfl

@[simp] theorem setReg_me_skipBrk (s : State) (r : BitVec 5) (v : Word) : (setReg s r v).me.skipBrk = s.me.skipBrk := by unfold setReg; split <;> rfl
@[simp] theorem setReg_me_areaProg (s : State) (r : BitVec 5) (v : Word) : (setReg s r v).me.areaProg = s.me.areaProg := by unfold setReg; split <;> rfl

@[simp] theorem setReg_me_ending (s : State) (r : BitVec 5) (v : Word) : (setReg s r v).me.ending = s.me.ending := by unfold setReg; split <;> rfl

@[simp] theorem setReg_me_endOff (s : State) (r : BitVec 5) (v : Word) : (setReg s r v).me.endOff = s.me.endOff := by unfold setReg; split <;> rfl

@[simp] theorem setReg_me_laneCycles (s : State) (r : BitVec 5) (v : Word) : (setReg s r v).me.laneCycles = s.me.laneCycles := by unfold setReg; split <;> rfl

@[simp] theorem setReg_me_bitCycles (s : State) (r : BitVec 5) (v : Word) : (setReg s r v).me.bitCycles = s.me.bitCycles := by unfold setReg; split <;> rfl

@[simp] theorem setReg_me_woke (s : State) (r : BitVec 5) (v : Word) : (setReg s r v).me.woke = s.me.woke := by unfold setReg; split <;> rfl

/-! ### bump -/

@[simp] theorem bump_me (s : State) : (bump s).me = s.me := rfl

@[simp] theorem bump_others (s : State) : (bump s).others = s.others := rfl

@[simp] theorem bump_active (s : State) : (bump s).active = s.active := rfl

@[simp] theorem bump_gangs (s : State) : (bump s).gangs = s.gangs := rfl

@[simp] theorem bump_launches (s : State) : (bump s).launches = s.launches := rfl

@[simp] theorem bump_funcs (s : State) : (bump s).funcs = s.funcs := rfl

@[simp] theorem bump_hearths (s : State) : (bump s).hearths = s.hearths := rfl

@[simp] theorem bump_census (s : State) : (bump s).census = s.census := rfl

@[simp] theorem bump_seqs (s : State) : (bump s).seqs = s.seqs := rfl

@[simp] theorem bump_host (s : State) : (bump s).host = s.host := rfl

@[simp] theorem bump_spad (s : State) : (bump s).spad = s.spad := rfl

@[simp] theorem bump_vault (s : State) : (bump s).vault = s.vault := rfl

@[simp] theorem bump_net (s : State) : (bump s).net = s.net := rfl

@[simp] theorem bump_dev (s : State) : (bump s).dev = s.dev := rfl

@[simp] theorem bump_agenda (s : State) : (bump s).agenda = s.agenda := rfl

@[simp] theorem bump_defer (s : State) : (bump s).defer = s.defer := rfl

@[simp] theorem bump_nextId (s : State) : (bump s).nextId = s.nextId := rfl

@[simp] theorem bump_beat (s : State) : (bump s).beat = s.beat := rfl

@[simp] theorem bump_turns (s : State) : (bump s).turns = s.turns := rfl

@[simp] theorem bump_traceT (s : State) : (bump s).traceT = s.traceT := rfl

@[simp] theorem bump_trev (s : State) : (bump s).trev = s.trev := rfl

@[simp] theorem bump_tick (s : State) : (bump s).tick = s.tick + 1 := rfl

/-! ### setFn -/

@[simp] theorem setFn_me (s : State) (fn : Nat) (f : Func) : (setFn s fn f).me = s.me := rfl

@[simp] theorem setFn_others (s : State) (fn : Nat) (f : Func) : (setFn s fn f).others = s.others := rfl

@[simp] theorem setFn_active (s : State) (fn : Nat) (f : Func) : (setFn s fn f).active = s.active := rfl

@[simp] theorem setFn_gangs (s : State) (fn : Nat) (f : Func) : (setFn s fn f).gangs = s.gangs := rfl

@[simp] theorem setFn_launches (s : State) (fn : Nat) (f : Func) : (setFn s fn f).launches = s.launches := rfl

@[simp] theorem setFn_hearths (s : State) (fn : Nat) (f : Func) : (setFn s fn f).hearths = s.hearths := rfl

@[simp] theorem setFn_census (s : State) (fn : Nat) (f : Func) : (setFn s fn f).census = s.census := rfl

@[simp] theorem setFn_seqs (s : State) (fn : Nat) (f : Func) : (setFn s fn f).seqs = s.seqs := rfl

@[simp] theorem setFn_host (s : State) (fn : Nat) (f : Func) : (setFn s fn f).host = s.host := rfl

@[simp] theorem setFn_spad (s : State) (fn : Nat) (f : Func) : (setFn s fn f).spad = s.spad := rfl

@[simp] theorem setFn_vault (s : State) (fn : Nat) (f : Func) : (setFn s fn f).vault = s.vault := rfl

@[simp] theorem setFn_net (s : State) (fn : Nat) (f : Func) : (setFn s fn f).net = s.net := rfl

@[simp] theorem setFn_dev (s : State) (fn : Nat) (f : Func) : (setFn s fn f).dev = s.dev := rfl

@[simp] theorem setFn_agenda (s : State) (fn : Nat) (f : Func) : (setFn s fn f).agenda = s.agenda := rfl

@[simp] theorem setFn_defer (s : State) (fn : Nat) (f : Func) : (setFn s fn f).defer = s.defer := rfl

@[simp] theorem setFn_nextId (s : State) (fn : Nat) (f : Func) : (setFn s fn f).nextId = s.nextId := rfl

@[simp] theorem setFn_tick (s : State) (fn : Nat) (f : Func) : (setFn s fn f).tick = s.tick := rfl

@[simp] theorem setFn_beat (s : State) (fn : Nat) (f : Func) : (setFn s fn f).beat = s.beat := rfl

@[simp] theorem setFn_turns (s : State) (fn : Nat) (f : Func) : (setFn s fn f).turns = s.turns := rfl

@[simp] theorem setFn_traceT (s : State) (fn : Nat) (f : Func) : (setFn s fn f).traceT = s.traceT := rfl

@[simp] theorem setFn_trev (s : State) (fn : Nat) (f : Func) : (setFn s fn f).trev = s.trev := rfl

/-! ### updFn -/

@[simp] theorem updFn_me (s : State) (fn : Nat) (g : Func → Func) : (updFn s fn g).me = s.me := rfl

@[simp] theorem updFn_others (s : State) (fn : Nat) (g : Func → Func) : (updFn s fn g).others = s.others := rfl

@[simp] theorem updFn_active (s : State) (fn : Nat) (g : Func → Func) : (updFn s fn g).active = s.active := rfl

@[simp] theorem updFn_gangs (s : State) (fn : Nat) (g : Func → Func) : (updFn s fn g).gangs = s.gangs := rfl

@[simp] theorem updFn_launches (s : State) (fn : Nat) (g : Func → Func) : (updFn s fn g).launches = s.launches := rfl

@[simp] theorem updFn_hearths (s : State) (fn : Nat) (g : Func → Func) : (updFn s fn g).hearths = s.hearths := rfl

@[simp] theorem updFn_census (s : State) (fn : Nat) (g : Func → Func) : (updFn s fn g).census = s.census := rfl

@[simp] theorem updFn_seqs (s : State) (fn : Nat) (g : Func → Func) : (updFn s fn g).seqs = s.seqs := rfl

@[simp] theorem updFn_host (s : State) (fn : Nat) (g : Func → Func) : (updFn s fn g).host = s.host := rfl

@[simp] theorem updFn_spad (s : State) (fn : Nat) (g : Func → Func) : (updFn s fn g).spad = s.spad := rfl

@[simp] theorem updFn_vault (s : State) (fn : Nat) (g : Func → Func) : (updFn s fn g).vault = s.vault := rfl

@[simp] theorem updFn_net (s : State) (fn : Nat) (g : Func → Func) : (updFn s fn g).net = s.net := rfl

@[simp] theorem updFn_dev (s : State) (fn : Nat) (g : Func → Func) : (updFn s fn g).dev = s.dev := rfl

@[simp] theorem updFn_agenda (s : State) (fn : Nat) (g : Func → Func) : (updFn s fn g).agenda = s.agenda := rfl

@[simp] theorem updFn_defer (s : State) (fn : Nat) (g : Func → Func) : (updFn s fn g).defer = s.defer := rfl

@[simp] theorem updFn_nextId (s : State) (fn : Nat) (g : Func → Func) : (updFn s fn g).nextId = s.nextId := rfl

@[simp] theorem updFn_tick (s : State) (fn : Nat) (g : Func → Func) : (updFn s fn g).tick = s.tick := rfl

@[simp] theorem updFn_beat (s : State) (fn : Nat) (g : Func → Func) : (updFn s fn g).beat = s.beat := rfl

@[simp] theorem updFn_turns (s : State) (fn : Nat) (g : Func → Func) : (updFn s fn g).turns = s.turns := rfl

@[simp] theorem updFn_traceT (s : State) (fn : Nat) (g : Func → Func) : (updFn s fn g).traceT = s.traceT := rfl

@[simp] theorem updFn_trev (s : State) (fn : Nat) (g : Func → Func) : (updFn s fn g).trev = s.trev := rfl

/-! ### updGang -/

@[simp] theorem updGang_me (s : State) (fn seq k : Nat) (g : Gang → Gang) : (updGang s fn seq k g).me = s.me := rfl

@[simp] theorem updGang_others (s : State) (fn seq k : Nat) (g : Gang → Gang) : (updGang s fn seq k g).others = s.others := rfl

@[simp] theorem updGang_active (s : State) (fn seq k : Nat) (g : Gang → Gang) : (updGang s fn seq k g).active = s.active := rfl

@[simp] theorem updGang_launches (s : State) (fn seq k : Nat) (g : Gang → Gang) : (updGang s fn seq k g).launches = s.launches := rfl

@[simp] theorem updGang_funcs (s : State) (fn seq k : Nat) (g : Gang → Gang) : (updGang s fn seq k g).funcs = s.funcs := rfl

@[simp] theorem updGang_hearths (s : State) (fn seq k : Nat) (g : Gang → Gang) : (updGang s fn seq k g).hearths = s.hearths := rfl

@[simp] theorem updGang_census (s : State) (fn seq k : Nat) (g : Gang → Gang) : (updGang s fn seq k g).census = s.census := rfl

@[simp] theorem updGang_seqs (s : State) (fn seq k : Nat) (g : Gang → Gang) : (updGang s fn seq k g).seqs = s.seqs := rfl

@[simp] theorem updGang_host (s : State) (fn seq k : Nat) (g : Gang → Gang) : (updGang s fn seq k g).host = s.host := rfl

@[simp] theorem updGang_spad (s : State) (fn seq k : Nat) (g : Gang → Gang) : (updGang s fn seq k g).spad = s.spad := rfl

@[simp] theorem updGang_vault (s : State) (fn seq k : Nat) (g : Gang → Gang) : (updGang s fn seq k g).vault = s.vault := rfl

@[simp] theorem updGang_net (s : State) (fn seq k : Nat) (g : Gang → Gang) : (updGang s fn seq k g).net = s.net := rfl

@[simp] theorem updGang_dev (s : State) (fn seq k : Nat) (g : Gang → Gang) : (updGang s fn seq k g).dev = s.dev := rfl

@[simp] theorem updGang_agenda (s : State) (fn seq k : Nat) (g : Gang → Gang) : (updGang s fn seq k g).agenda = s.agenda := rfl

@[simp] theorem updGang_defer (s : State) (fn seq k : Nat) (g : Gang → Gang) : (updGang s fn seq k g).defer = s.defer := rfl

@[simp] theorem updGang_nextId (s : State) (fn seq k : Nat) (g : Gang → Gang) : (updGang s fn seq k g).nextId = s.nextId := rfl

@[simp] theorem updGang_tick (s : State) (fn seq k : Nat) (g : Gang → Gang) : (updGang s fn seq k g).tick = s.tick := rfl

@[simp] theorem updGang_beat (s : State) (fn seq k : Nat) (g : Gang → Gang) : (updGang s fn seq k g).beat = s.beat := rfl

@[simp] theorem updGang_turns (s : State) (fn seq k : Nat) (g : Gang → Gang) : (updGang s fn seq k g).turns = s.turns := rfl

@[simp] theorem updGang_traceT (s : State) (fn seq k : Nat) (g : Gang → Gang) : (updGang s fn seq k g).traceT = s.traceT := rfl

@[simp] theorem updGang_trev (s : State) (fn seq k : Nat) (g : Gang → Gang) : (updGang s fn seq k g).trev = s.trev := rfl

/-! ### addActivity -/

@[simp] theorem addActivity_me (s : State) (fn k n : Nat) : (addActivity s fn k n).me = s.me := rfl

@[simp] theorem addActivity_others (s : State) (fn k n : Nat) : (addActivity s fn k n).others = s.others := rfl

@[simp] theorem addActivity_active (s : State) (fn k n : Nat) : (addActivity s fn k n).active = s.active := rfl

@[simp] theorem addActivity_gangs (s : State) (fn k n : Nat) : (addActivity s fn k n).gangs = s.gangs := rfl

@[simp] theorem addActivity_launches (s : State) (fn k n : Nat) : (addActivity s fn k n).launches = s.launches := rfl

@[simp] theorem addActivity_hearths (s : State) (fn k n : Nat) : (addActivity s fn k n).hearths = s.hearths := rfl

@[simp] theorem addActivity_census (s : State) (fn k n : Nat) : (addActivity s fn k n).census = s.census := rfl

@[simp] theorem addActivity_seqs (s : State) (fn k n : Nat) : (addActivity s fn k n).seqs = s.seqs := rfl

@[simp] theorem addActivity_host (s : State) (fn k n : Nat) : (addActivity s fn k n).host = s.host := rfl

@[simp] theorem addActivity_spad (s : State) (fn k n : Nat) : (addActivity s fn k n).spad = s.spad := rfl

@[simp] theorem addActivity_vault (s : State) (fn k n : Nat) : (addActivity s fn k n).vault = s.vault := rfl

@[simp] theorem addActivity_net (s : State) (fn k n : Nat) : (addActivity s fn k n).net = s.net := rfl

@[simp] theorem addActivity_dev (s : State) (fn k n : Nat) : (addActivity s fn k n).dev = s.dev := rfl

@[simp] theorem addActivity_agenda (s : State) (fn k n : Nat) : (addActivity s fn k n).agenda = s.agenda := rfl

@[simp] theorem addActivity_defer (s : State) (fn k n : Nat) : (addActivity s fn k n).defer = s.defer := rfl

@[simp] theorem addActivity_nextId (s : State) (fn k n : Nat) : (addActivity s fn k n).nextId = s.nextId := rfl

@[simp] theorem addActivity_tick (s : State) (fn k n : Nat) : (addActivity s fn k n).tick = s.tick := rfl

@[simp] theorem addActivity_beat (s : State) (fn k n : Nat) : (addActivity s fn k n).beat = s.beat := rfl

@[simp] theorem addActivity_turns (s : State) (fn k n : Nat) : (addActivity s fn k n).turns = s.turns := rfl

@[simp] theorem addActivity_traceT (s : State) (fn k n : Nat) : (addActivity s fn k n).traceT = s.traceT := rfl

@[simp] theorem addActivity_trev (s : State) (fn k n : Nat) : (addActivity s fn k n).trev = s.trev := rfl

/-! ### updLaunch -/

@[simp] theorem updLaunch_me (s : State) (fn seq : Nat) (g : Launch → Launch) : (updLaunch s fn seq g).me = s.me := rfl

@[simp] theorem updLaunch_others (s : State) (fn seq : Nat) (g : Launch → Launch) : (updLaunch s fn seq g).others = s.others := rfl

@[simp] theorem updLaunch_active (s : State) (fn seq : Nat) (g : Launch → Launch) : (updLaunch s fn seq g).active = s.active := rfl

@[simp] theorem updLaunch_gangs (s : State) (fn seq : Nat) (g : Launch → Launch) : (updLaunch s fn seq g).gangs = s.gangs := rfl

@[simp] theorem updLaunch_funcs (s : State) (fn seq : Nat) (g : Launch → Launch) : (updLaunch s fn seq g).funcs = s.funcs := rfl

@[simp] theorem updLaunch_hearths (s : State) (fn seq : Nat) (g : Launch → Launch) : (updLaunch s fn seq g).hearths = s.hearths := rfl

@[simp] theorem updLaunch_census (s : State) (fn seq : Nat) (g : Launch → Launch) : (updLaunch s fn seq g).census = s.census := rfl

@[simp] theorem updLaunch_seqs (s : State) (fn seq : Nat) (g : Launch → Launch) : (updLaunch s fn seq g).seqs = s.seqs := rfl

@[simp] theorem updLaunch_host (s : State) (fn seq : Nat) (g : Launch → Launch) : (updLaunch s fn seq g).host = s.host := rfl

@[simp] theorem updLaunch_spad (s : State) (fn seq : Nat) (g : Launch → Launch) : (updLaunch s fn seq g).spad = s.spad := rfl

@[simp] theorem updLaunch_vault (s : State) (fn seq : Nat) (g : Launch → Launch) : (updLaunch s fn seq g).vault = s.vault := rfl

@[simp] theorem updLaunch_net (s : State) (fn seq : Nat) (g : Launch → Launch) : (updLaunch s fn seq g).net = s.net := rfl

@[simp] theorem updLaunch_dev (s : State) (fn seq : Nat) (g : Launch → Launch) : (updLaunch s fn seq g).dev = s.dev := rfl

@[simp] theorem updLaunch_agenda (s : State) (fn seq : Nat) (g : Launch → Launch) : (updLaunch s fn seq g).agenda = s.agenda := rfl

@[simp] theorem updLaunch_defer (s : State) (fn seq : Nat) (g : Launch → Launch) : (updLaunch s fn seq g).defer = s.defer := rfl

@[simp] theorem updLaunch_nextId (s : State) (fn seq : Nat) (g : Launch → Launch) : (updLaunch s fn seq g).nextId = s.nextId := rfl

@[simp] theorem updLaunch_tick (s : State) (fn seq : Nat) (g : Launch → Launch) : (updLaunch s fn seq g).tick = s.tick := rfl

@[simp] theorem updLaunch_beat (s : State) (fn seq : Nat) (g : Launch → Launch) : (updLaunch s fn seq g).beat = s.beat := rfl

@[simp] theorem updLaunch_turns (s : State) (fn seq : Nat) (g : Launch → Launch) : (updLaunch s fn seq g).turns = s.turns := rfl

@[simp] theorem updLaunch_traceT (s : State) (fn seq : Nat) (g : Launch → Launch) : (updLaunch s fn seq g).traceT = s.traceT := rfl

@[simp] theorem updLaunch_trev (s : State) (fn seq : Nat) (g : Launch → Launch) : (updLaunch s fn seq g).trev = s.trev := rfl

/-! ### Register writes over CXL.io (R335, R341) -/

/-- A register write that is served has its effect. -/
theorem onBar_served {s t : State} (h : served s = true) : onBar s t = .next t := by simp [onBar, h]

/-- One that is not leaves the state as it was. -/
theorem onBar_refused {s t : State} (h : served s = false) : onBar s t = .next s := by simp [onBar, h]

/-- A write of a register completes, with its effect or with none. -/
theorem onBar_next (s t : State) : ∃ u, onBar s t = .next u ∧ (u = t ∨ u = s) := by
  unfold onBar; split
  · exact ⟨t, rfl, .inl rfl⟩
  · exact ⟨s, rfl, .inr rfl⟩

/-! ### Registers (R66, R101) -/

/-- s0 reads as zero. -/
@[simp] theorem reg_zero (s : State) : reg s 0 = 0 := by simp [reg]

/-- A write of s0 is discarded. -/
@[simp] theorem setReg_zero (s : State) (v : Word) : setReg s 0 v = s := by simp [setReg]

@[simp] theorem reg_advance (s : State) (r : BitVec 5) : reg (advance s) r = reg s r := rfl

@[simp] theorem reg_updCtx (s : State) (f : VCtx → VCtx) (r : BitVec 5) : reg (updCtx s f) r = reg s r := rfl

/-- A register reads as it was written; every other register is unchanged. -/
theorem reg_setReg (s : State) (d r : BitVec 5) (v : Word) :
    reg (setReg s d v) r = if r = d ∧ r ≠ 0 then v else reg s r := by
  unfold setReg reg
  by_cases hr : r = 0
  · simp [hr]
  by_cases hd : d = 0
  · simp [hd]
  · simp only [hr, hd, if_false, ne_eq, not_false_eq_true, and_true]
    by_cases h : r = d
    · subst h
      simp only [if_true]
      exact Vector.getElem_set_self ..
    · simp only [h, if_false]
      apply Vector.getElem_set_ne
      intro e
      exact h (BitVec.eq_of_toNat_eq (by simpa using e.symm))

/-- The number of a set register is not zero. -/
@[simp] theorem reg_setReg_same (s : State) (d : BitVec 5) (v : Word) (h : d ≠ 0) : reg (setReg s d v) d = v := by
  rw [reg_setReg, if_pos ⟨rfl, h⟩]

/-- Register instructions: D, then the next instruction, when a strand runs. -/
theorem alu_eq (d : BitVec 5) (v : Word) (s : State) (h : s.me.status = .run) : alu d v s = .next (advance (setReg s d v)) := by
  simp [alu, onStrand, h]

theorem onStrand_eq (s t : State) (h : s.me.status = .run) : onStrand s t = .next t := by simp [onStrand, h]

end Sys2Proof.Machine
end

