-- ==== Sys2Proof/Laws/Translate.lean ====
section
/-! SUPPORT. Translation is by page, and what the hub caches changes no translation. -/

namespace Sys2Proof.Machine

/-! ### Two addresses of one page -/

/-- The address that a' has where a of the same page has x. -/
def samePage (a' x : Nat) : Nat := x / 4096 * 4096 + a' % 4096

theorem samePage_self (a x : Nat) (h : x % 4096 = a % 4096) : samePage a x = x := by unfold samePage; omega

theorem bits_page {a a' : Nat} (h : a' / 4096 = a / 4096) (hi lo : Nat) (hl : 12 ≤ lo) : bits a' hi lo = bits a hi lo := by
  unfold bits
  have e : 2 ^ lo = 4096 * 2 ^ (lo - 12) := by
    rw [show (4096 : Nat) = 2 ^ 12 by norm_num, ← Nat.pow_add]; congr 1; omega
  rw [e, ← Nat.div_div_eq_div_mul, ← Nat.div_div_eq_div_mul, h]

theorem levelIndex_page {a a' : Nat} (h : a' / 4096 = a / 4096) (l : Nat) : levelIndex a' l = levelIndex a l := by
  unfold levelIndex
  split
  · exact bits_page h _ _ (by omega)
  · exact bits_page h _ _ (by omega)

/-- A walk's outcome moved to another address of the page. -/
def Walk.moved (a' : Nat) : Walk → Walk
  | .ok addr r w x => .ok (samePage a' addr) r w x
  | .absent => .absent
  | .nested g => .nested g
  | .nestedBad g => .nestedBad g
  | .malformed => .malformed

theorem walkEntry_page {a a' : Nat} (h : a' / 4096 = a / 4096) (e l : Nat) (next next' : Nat → Walk)
    (hn : ∀ t, next' t = (next t).moved a') : walkEntry e l a' next' = (walkEntry e l a next).moved a' := by
  unfold walkEntry
  split
  · rfl
  split
  · split
    · simp only [Walk.moved, samePage, Walk.ok.injEq, and_true]; omega
    split
    · split
      · simp only [Walk.moved, samePage, Walk.ok.injEq, and_true, show (2 : Nat) ^ 21 = 2097152 by norm_num]; omega
      · rfl
    · rfl
  split
  · rfl
  · exact hn _

theorem walk2From_page {a a' : Nat} (h : a' / 4096 = a / 4096) (s : State) :
    ∀ l t, walk2From s a' l t = (walk2From s a l t).moved a'
  | 0, t => by rw [walk2From, walk2From, levelIndex_page h]; exact walkEntry_page h _ _ _ _ fun _ => rfl
  | l + 1, t => by rw [walk2From, walk2From, levelIndex_page h]; exact walkEntry_page h _ _ _ _ (walk2From_page h s l)

theorem stage2_page {a a' : Nat} (h : a' / 4096 = a / 4096) (s : State) (f : Func) :
    stage2 s f a' = (stage2 s f a).moved a' := by
  unfold stage2
  split
  · by_cases hc : a < 2 ^ 52
    · rw [if_pos hc, if_pos (by omega), walk2From_page h]
    · rw [if_neg hc, if_neg (by omega)]; rfl
  · simp only [Walk.moved, samePage, Walk.ok.injEq, and_true]; omega

theorem walk1From_page {a a' : Nat} (h : a' / 4096 = a / 4096) (s : State) (f : Func) :
    ∀ l t, walk1From s f a' l t = (walk1From s f a l t).moved a'
  | 0, t => by
    rw [walk1From, walk1From, levelIndex_page h]
    split
    · exact walkEntry_page h _ _ _ _ fun _ => rfl
    · rfl
    · rfl
  | l + 1, t => by
    rw [walk1From, walk1From, levelIndex_page h]
    split
    · exact walkEntry_page h _ _ _ _ (walk1From_page h s f l)
    · rfl
    · rfl

theorem stage1_page {a a' : Nat} (h : a' / 4096 = a / 4096) (s : State) (f : Func) :
    stage1 s f a' = (stage1 s f a).moved a' := by
  unfold stage1
  split
  · exact walk1From_page h s f _ _
  · simp only [Walk.moved, samePage, Walk.ok.injEq, and_true]; omega

/-- An outcome that maps an address to where its page is mapped. -/
theorem walkBoth_page {s : State} {f : Func} {a a' pa gpa : Nat} {r w x : Bool} (h : a' / 4096 = a / 4096)
    (hw : walkBoth s f a = .ok pa gpa r w x) : walkBoth s f a' = .ok (samePage a' pa) (samePage a' gpa) r w x := by
  unfold walkBoth at hw ⊢
  rw [stage1_page h]
  cases h1 : stage1 s f a with
  | ok g r1 w1 x1 =>
    rw [h1] at hw
    have hg : samePage a' g / 4096 = g / 4096 := by unfold samePage; omega
    simp only [Walk.moved, stage2_page hg]
    cases h2 : stage2 s f g with
    | ok p r2 w2 x2 =>
      simp only [h2, XRes.ok.injEq] at hw
      obtain ⟨rfl, rfl, rfl, rfl, rfl⟩ := hw
      simp only [XRes.ok.injEq, and_true]
      unfold samePage; omega
    | _ => simp [h2] at hw
  | _ => simp [h1] at hw

/-- What the hub caches changes no translation. -/
theorem translate_cacheWalk (s : State) (fn va fn' va' : Nat) (a : Acc) :
    translate (cacheWalk s fn va) fn' va' a = translate s fn' va' a := by
  unfold cacheWalk
  dsimp only
  split
  · split
    · rfl
    next hn =>
      split
      next pa gpa r w x hw =>
        unfold translate
        simp only [tlbFind]
        by_cases hc : fn = fn' ∧ va / 4096 = va' / 4096
        · obtain ⟨rfl, hv⟩ := hc
          rw [if_pos (by simp [hv]), ← hv, hn]
          simp only
          rw [walkBoth_page hv.symm hw]
          simp only [samePage]
          rfl
        · rw [if_neg (by simpa using hc)]; rfl
      · rfl
  · rfl

@[simp] theorem cacheWalk_net (s : State) (fn va : Nat) : (cacheWalk s fn va).net = s.net := by
  unfold cacheWalk; dsimp only; repeat' split
  all_goals rfl

theorem cacheWalk_tlb (s : State) (fn va : Nat) :
    { cacheWalk s fn va with dev := { (cacheWalk s fn va).dev with tlb := s.dev.tlb } } = s := by
  unfold cacheWalk; dsimp only; repeat' split
  all_goals rfl

theorem cacheWalk_eq (s : State) (fn va : Nat) :
    ∃ l, cacheWalk s fn va = { s with dev := { s.dev with tlb := l } } := by
  unfold cacheWalk; dsimp only; repeat' split
  all_goals exact ⟨_, rfl⟩

end Sys2Proof.Machine
end

