-- ==== Sys2Proof/Laws/View.lean ====
section
/-! SUPPORT. What a strand sees of memory: through requests in flight, its write-combining buffer and its host path. -/

namespace Sys2Proof.Machine

/-! ### Requests in flight -/

/-- What the arrival of values may change of a strand: its scalar registers, what is outstanding, whether an atomic that acquires has come
back, its vector file and its element buffers. -/
structure Landing where
  regs : Vector Word 32
  out : List Pend
  acquired : Bool
  vf : Cells 8
  bufs : List ElemBuf

def Strand.landed (st : Strand) (x : Landing) : Strand :=
  { st with regs := x.regs, out := x.out, acquired := x.acquired, vctx := { st.vctx with vf := x.vf, bufs := x.bufs } }

/-- Nothing has arrived. -/
def Strand.stays (st : Strand) : Landing := ⟨st.regs, st.out, st.acquired, st.vctx.vf, st.vctx.bufs⟩

theorem land_eq (x : Late) (bs : List Byte) (st : Strand) : ∃ y, land x bs st = st.landed y := by
  unfold land
  cases x.kind with
  | load d w => exact ⟨⟨_, _, _, st.vctx.vf, st.vctx.bufs⟩, rfl⟩
  | amo d op b => exact ⟨⟨_, _, _, st.vctx.vf, st.vctx.bufs⟩, rfl⟩
  | cas d v b => exact ⟨⟨_, _, _, st.vctx.vf, st.vctx.bufs⟩, rfl⟩
  | elem buf parts => exact ⟨⟨st.regs, st.out, st.acquired, st.vctx.vf, _⟩, rfl⟩
  | vamo d rb sew i op b => exact ⟨⟨st.regs, _, st.acquired, _, st.vctx.bufs⟩, rfl⟩

theorem serveReq_eq (s : State) (q : NetReq) :
    ∃ y os, serveReq s q = { s with me := s.me.landed y, others := os, spad := reqMem s.spad q } := by
  unfold serveReq
  cases q.late with
  | none => exact ⟨s.me.stays, s.others, rfl⟩
  | some x =>
    dsimp only
    unfold toOwner
    dsimp only
    split
    · obtain ⟨y, h⟩ := land_eq x (q.reply.getD (lateBytes s.spad x)) s.me
      exact ⟨y, _, by rw [h]⟩
    · exact ⟨s.me.stays, _, rfl⟩

/-- Requests in the order in which they are served: those in the port queues, then those in the channels. -/
def settleOrder (n : List NetReq) : List NetReq := (n.filter fun r => !r.inChannel) ++ n.filter fun r => r.inChannel

/-- The scratchpads once every request in flight is served. -/
def settled (s : State) : List Host.Cell := (settleOrder s.net).foldl reqMem s.spad

/-- Serving every request keeps the canonical form of the scratchpads. -/
theorem Memory.wf_settled {s : State} (h : Memory.wf s.spad = true) : Memory.wf (settled s) = true :=
  Memory.wf_foldl _ (fun _ r h => Memory.wf_reqMem r h) _ h

theorem serveAll_eq (l : List NetReq) : ∀ s : State,
    ∃ y os, l.foldl serveReq s = { s with me := s.me.landed y, others := os, spad := l.foldl reqMem s.spad } := by
  induction l with
  | nil => exact fun s => ⟨s.me.stays, s.others, rfl⟩
  | cons q l ih =>
    intro s
    obtain ⟨y, os, h⟩ := serveReq_eq s q
    obtain ⟨y', os', h'⟩ := ih (serveReq s q)
    refine ⟨y', os', ?_⟩
    rw [List.foldl_cons, h', h]
    rfl

theorem settle_fold (s : State) : settle s = (settleOrder s.net).foldl serveReq { s with net := [] } := by
  unfold settle settleOrder
  split
  next h => rw [h]; cases s; simp_all
  · rfl

/-- All that serving the requests in flight changes. -/
theorem settle_eq (s : State) :
    ∃ y os, settle s = { s with me := s.me.landed y, others := os, spad := settled s, net := [] } := by
  obtain ⟨y, os, h⟩ := serveAll_eq (settleOrder s.net) { s with net := [] }
  exact ⟨y, os, by rw [settle_fold, h]; rfl⟩

/-- With no access among the requests the strands stay as they are. -/
theorem settle_quiet (s : State) (h : ∀ q ∈ s.net, q.late = none) : settle s = { s with spad := settled s, net := [] } := by
  have hl : ∀ (l : List NetReq) (t : State), (∀ q ∈ l, q.late = none) → l.foldl serveReq t = { t with spad := l.foldl reqMem t.spad } := by
    intro l
    induction l with
    | nil => intro t _; rfl
    | cons q l ih =>
      intro t ht
      have e : serveReq t q = { t with spad := reqMem t.spad q } := by unfold serveReq; rw [ht q (by simp)]
      rw [List.foldl_cons, ih _ (fun x hx => ht x (by simp [hx])), e]; rfl
  rw [settle_fold, hl]
  · rfl
  · intro q hq
    unfold settleOrder at hq
    rw [List.mem_append, List.mem_filter, List.mem_filter] at hq
    exact h q (by rcases hq with hq | hq <;> exact hq.1)

@[simp] theorem settle_spad (s : State) : (settle s).spad = settled s := by obtain ⟨y, os, h⟩ := settle_eq s; rw [h]
@[simp] theorem settle_host (s : State) : (settle s).host = s.host := by obtain ⟨y, os, h⟩ := settle_eq s; rw [h]
@[simp] theorem settle_net (s : State) : (settle s).net = [] := by obtain ⟨y, os, h⟩ := settle_eq s; rw [h]
@[simp] theorem settle_dev (s : State) : (settle s).dev = s.dev := by obtain ⟨y, os, h⟩ := settle_eq s; rw [h]
theorem settle_nil {s : State} (h : s.net = []) : settle s = s := by unfold settle; rw [h]
@[simp] theorem settle_settle (s : State) : settle (settle s) = settle s := settle_nil (settle_net s)

@[simp] theorem forwarded_landed (st : Strand) (x : Landing) (l : Loc) :
    forwarded (st.landed x) l = forwarded st l := by cases l <;> rfl

@[simp] theorem forwarded_settle (s : State) (l : Loc) : forwarded (settle s).me l = forwarded s.me l := by
  obtain ⟨y, os, h⟩ := settle_eq s; rw [h]; exact forwarded_landed ..

/-- The byte that the strand sees at a location: what requests in flight and its own waiting stores leave there. -/
theorem locByte_settle (s : State) (l : Loc) :
    locByte (settle s) l = overlay (match l with
      | .spad k => cget zeros (settled s) k
      | .host pa => cget zeros s.host pa) (forwarded s.me l) := by
  unfold locByte; rw [forwarded_settle]
  cases l <;> simp [atCoherence]

theorem reach_settle (s : State) (e : Nat) (a : Acc) : reach (settle s) e a = reach s e a := by
  obtain ⟨y, os, h⟩ := settle_eq s; rw [h]; rfl

theorem viewByte_settle (s : State) (e : Nat) : viewByte (settle s) e = viewByte s e := by
  unfold viewByte; rw [reach_settle, settle_settle]

theorem reach_cacheWalk (s : State) (fn va e : Nat) (a : Acc) : reach (cacheWalk s fn va) e a = reach s e a := by
  have h := translate_cacheWalk s fn va s.me.fn e a
  obtain ⟨l, hl⟩ := cacheWalk_eq s fn va
  rw [hl] at h ⊢
  unfold reach
  cases regionOf e <;> first | rfl | skip
  simp only [h]

theorem locByte_cacheWalk (s : State) (fn va : Nat) (l : Loc) :
    locByte (settle (cacheWalk s fn va)) l = locByte (settle s) l := by
  obtain ⟨n, hl⟩ := cacheWalk_eq s fn va
  rw [hl, locByte_settle, locByte_settle]; rfl

theorem viewByte_cacheWalk (s : State) (fn va e : Nat) : viewByte (cacheWalk s fn va) e = viewByte s e := by
  unfold viewByte; rw [reach_cacheWalk]; cases reach s e .load <;> simp [locByte_cacheWalk]

/-! ### The write-combining buffer and the host path -/

theorem tget_tset {α : Type} (d : α) (l : List (Nat × α)) (k k' : Nat) (v : α) :
    tget d (tset l k v) k' = if k = k' then v else tget d l k' := by
  induction l with
  | nil => simp [tset, tget]
  | cons p t ih =>
    obtain ⟨j, w⟩ := p
    simp only [tset]
    split
    · simp only [tget]
    split
    next h1 h2 => subst h2; simp only [tget]; split <;> rfl
    next h1 h2 =>
      simp only [tget, ih]
      split
      next h3 => subst h3; rw [if_neg h2]
      · rfl

/-- Bytes at distinct places folded into a line: each place with its own byte over what waited there. -/
theorem tget_merge (bs : List (Nat × PByte)) (hn : (bs.map Prod.fst).Nodup) (t : List (Nat × PByte)) (k : Nat) :
    tget ⟨0, 0⟩ (bs.foldl (fun t b => tset t b.1 (b.2.after (tget ⟨0, 0⟩ t b.1))) t) k =
      match bs.find? (fun b => b.1 == k) with
      | some b => b.2.after (tget ⟨0, 0⟩ t k)
      | none => tget ⟨0, 0⟩ t k := by
  induction bs generalizing t with
  | nil => rfl
  | cons b bs ih =>
    simp only [List.map_cons, List.nodup_cons] at hn
    rw [List.foldl_cons, ih hn.2, List.find?_cons]
    by_cases hb : b.1 = k
    · have : bs.find? (fun b => b.1 == k) = none := by
        rw [List.find?_eq_none]; intro x hx h
        apply hn.1; rw [hb]; simp at h; rw [← h]; exact List.mem_map_of_mem hx
      simp [hb, this, tget_tset]
    · simp [hb, tget_tset, beq_eq_false_iff_ne.2 hb]

theorem cellsAt_fst (k : Nat) (bs : List PByte) : (cellsAt k bs).map Prod.fst = (upTo bs.length).map (k + ·) := by
  unfold cellsAt
  rw [List.map_map]
  have h : ∀ (n : List Nat) (b : List PByte), n.length = b.length →
      ((n.zip b).map (Prod.fst ∘ fun x => (k + x.1, x.2))) = n.map (k + ·) := by
    intro n
    induction n with
    | nil => intro b _; simp
    | cons x n ih => intro b hb; cases b with
      | nil => simp at hb
      | cons y b => simp at hb; simp [ih b hb]
  exact h _ _ (by simp [upTo])

theorem cellsAt_nodup (k : Nat) (bs : List PByte) : ((cellsAt k bs).map Prod.fst).Nodup := by
  rw [cellsAt_fst]
  exact (List.nodup_range).map (fun a b h => by simpa using h)

theorem cellsAt_get (k : Nat) (bs : List PByte) (j : Nat) (h : j < bs.length) :
    (cellsAt k bs).find? (fun b => b.1 == k + j) = some (k + j, bs[j]) := by
  have hm : (k + j, bs[j]) ∈ cellsAt k bs := by
    unfold cellsAt
    rw [List.mem_map]
    refine ⟨(j, bs[j]), ?_, rfl⟩
    rw [List.mem_iff_getElem]
    exact ⟨j, by simp [upTo, h], by simp [upTo]⟩
  cases hf : (cellsAt k bs).find? (fun b => b.1 == k + j) with
  | none => rw [List.find?_eq_none] at hf; exact absurd (by simp) (hf _ hm)
  | some b =>
    have h1 := List.mem_of_find?_eq_some hf
    have h2 := List.find?_some hf
    simp at h2
    have := List.inj_on_of_nodup_map (cellsAt_nodup k bs) h1 hm (by simpa using h2)
    rw [this]

theorem cellsAt_none (k : Nat) (bs : List PByte) (x : Nat) (h : ∀ j < bs.length, x ≠ k + j) :
    (cellsAt k bs).find? (fun b => b.1 == x) = none := by
  rw [List.find?_eq_none]
  intro b hb he
  simp at he
  have : b.1 ∈ (cellsAt k bs).map Prod.fst := List.mem_map_of_mem hb
  rw [cellsAt_fst] at this
  simp [upTo] at this
  obtain ⟨j, hj, e⟩ := this
  exact h j hj (by omega)

theorem overlay_after (b : Byte) (p q : PByte) : overlay b (p.after q) = overlay (overlay b q) p := by
  unfold overlay PByte.after overlay
  ext i hi
  simp
  cases p.mask[i] <;> cases q.mask[i] <;> cases b[i] <;> cases p.val[i] <;> cases q.val[i] <;> rfl

theorem and_ones8 (b : Byte) : b &&& 255#8 = b := by
  have := b.isLt
  apply BitVec.eq_of_toNat_eq
  rw [BitVec.toNat_and]
  show b.toNat &&& (2 ^ 8 - 1) = _
  rw [Nat.and_two_pow_sub_one_eq_mod]; omega

@[simp] theorem overlay_full (b c : Byte) : overlay b (full c) = c := by
  unfold overlay full; simp [and_ones8]

@[simp] theorem overlay_none (b : Byte) : overlay b ⟨0, 0⟩ = b := by unfold overlay; simp [and_ones8]

/-- Overlaying writes one after another. -/
theorem overlay_foldl {α : Type} (f : α → PByte) (l : List α) : ∀ (b : Byte) (p : PByte),
    overlay b (l.foldl (fun o x => (f x).after o) p) = l.foldl (fun b x => overlay b (f x)) (overlay b p) := by
  induction l with
  | nil => intro b p; rfl
  | cons x l ih => intro b p; rw [List.foldl_cons, ih, overlay_after]; rfl

theorem overlay_lines (b : Byte) (st : Strand) (y : Nat) :
    overlay b (forwarded st (.spad y)) = (st.wcb.filter fun x => x.line == y / 256).foldl (fun b x => overlay b (tfind x.bytes y)) b := by
  unfold forwarded; rw [overlay_foldl, overlay_none]

theorem overlay_path (b : Byte) (st : Strand) (pa : Nat) :
    overlay b (forwarded st (.host pa)) = st.hpath.foldl (fun b x => overlay b (tfind x.bytes pa)) b := by
  unfold forwarded pathBits; rw [overlay_foldl, overlay_none]; rfl

/-- No store of the strand waits for a VFENCE, and a line stands once in its WCB. -/
def FreeLines (st : Strand) : Prop := (∀ x ∈ st.wcb, x.held = 0) ∧ (st.wcb.map WLine.line).Nodup

/-- A line is the only one of its number. -/
theorem filter_line {l : List WLine} (hn : (l.map WLine.line).Nodup) {z : WLine} (hz : z ∈ l) :
    (l.filter fun x => x.line == z.line) = [z] := by
  induction l with
  | nil => cases hz
  | cons x l ih =>
    simp only [List.map_cons, List.nodup_cons] at hn
    rcases List.mem_cons.1 hz with rfl | hz
    · rw [List.filter_cons_of_pos (by simp), List.filter_eq_nil_iff.2]
      intro y hy h
      exact hn.1 (by rw [← (by simpa using h : y.line = z.line)]; exact List.mem_map_of_mem hy)
    · have hx : x.line ≠ z.line := fun h => hn.1 (by rw [h]; exact List.mem_map_of_mem hz)
      rw [List.filter_cons_of_neg (by simpa using hx), ih hn.2 hz]

/-- With no line held, a new one stands last. -/
theorem wcbInsert_last {l : List WLine} (h : ∀ x ∈ l, x.held = 0) (z : WLine) (hz : z.held = 0) : wcbInsert z l = l ++ [z] := by
  induction l with
  | nil => rfl
  | cons x l ih =>
    have : ¬ z.held < x.held := by rw [hz, h x (by simp)]; omega
    rw [wcbInsert, if_neg this, ih (fun y hy => h y (by simp [hy]))]; rfl

/-- With a line free a store that waits for no VFENCE needs no room made. -/
theorem makeRoom_free {s : State} {k : Nat} (h : ¬ 64 ≤ s.me.wcb.length) : makeRoom 0 k s = s := by simp [makeRoom, reopens, h]

theorem wcbPut_rest (s : State) (k : Nat) (bs : List PByte) (hw : wcbFull s k = false) :
    ∃ w, wcbPut s k bs = { s with me := { s.me with wcb := w } } := by
  unfold wcbPut wcbPutAt; dsimp only
  cases hf : wcbFind s.me.wcb (k / 256) 0 with
  | some z => exact ⟨_, rfl⟩
  | none =>
    have hlen : ¬ 64 ≤ s.me.wcb.length := by simpa [wcbFull, noLine, reopens, hf] using hw
    rw [makeRoom_free hlen, if_neg (by simp [hlen])]; exact ⟨_, rfl⟩

/-- What a strand sees over a byte after bytes of one line have entered its WCB. -/
theorem overlay_wcbPut (s : State) (k : Nat) (bs : List PByte) (hw : wcbFull s k = false) (hs : FreeLines s.me)
    (hl : ∀ j < bs.length, (k + j) / 256 = k / 256) (b : Byte) (y : Nat) :
    overlay b (forwarded (wcbPut s k bs).me (.spad y)) =
      match (cellsAt k bs).find? (fun b => b.1 == y) with
      | some c => overlay (overlay b (forwarded s.me (.spad y))) c.2
      | none => overlay b (forwarded s.me (.spad y)) := by
  have hkey : ∀ y, y / 256 ≠ k / 256 → (cellsAt k bs).find? (fun b => b.1 == y) = none := by
    intro y hy; apply cellsAt_none; intro j hj e; subst e; exact hy (hl j hj)
  have hmerge : ∀ z : WLine, overlay b (tfind (lineMerge z (cellsAt k bs)).bytes y) =
      match (cellsAt k bs).find? (fun b => b.1 == y) with
      | some c => overlay (overlay b (tfind z.bytes y)) c.2
      | none => overlay b (tfind z.bytes y) := by
    intro z
    have e : tfind (lineMerge z (cellsAt k bs)).bytes y =
        match (cellsAt k bs).find? (fun b => b.1 == y) with
        | some c => c.2.after (tfind z.bytes y)
        | none => tfind z.bytes y := tget_merge _ (cellsAt_nodup k bs) _ _
    rw [e]; split <;> simp [overlay_after]
  rw [overlay_lines, overlay_lines]
  unfold wcbPut wcbPutAt
  dsimp only
  cases hf : wcbFind s.me.wcb (k / 256) 0 with
  | some z =>
    dsimp only
    have hzm : z ∈ s.me.wcb := List.mem_of_find?_eq_some hf
    have hzl : z.line = k / 256 := by have := List.find?_some hf; simp at this; exact this.1
    have hfil : ((wcbMerge s.me.wcb (k / 256) 0 (cellsAt k bs)).filter fun x => x.line == y / 256) =
        (s.me.wcb.filter fun x => x.line == y / 256).map fun x =>
          if x.line = k / 256 ∧ x.held = 0 then lineMerge x (cellsAt k bs) else x := by
      unfold wcbMerge
      rw [List.filter_map]; congr 1
      apply List.filter_congr; intro x _
      show ((if x.line = k / 256 ∧ x.held = 0 then lineMerge x (cellsAt k bs) else x).line == y / 256) = _
      split <;> rfl
    rw [hfil]
    by_cases hy : y / 256 = k / 256
    · rw [hy, ← hzl, filter_line hs.2 hzm]
      simp only [List.map_cons, List.map_nil, hs.1 z hzm, and_self, if_true, List.foldl_cons, List.foldl_nil]
      exact hmerge z
    · rw [hkey y hy]
      congr 1
      rw [List.map_congr_left (g := id), List.map_id]
      intro x hx
      rw [List.mem_filter] at hx
      rw [if_neg]; · rfl
      rintro ⟨h, -⟩
      exact hy (by rw [← h]; simpa using (beq_iff_eq.1 hx.2).symm)
  | none =>
    have hlen : ¬ 64 ≤ s.me.wcb.length := by simpa [wcbFull, noLine, reopens, hf] using hw
    rw [makeRoom_free hlen, if_neg (by simp [hlen])]
    dsimp only
    rw [wcbInsert_last hs.1 _ rfl, List.filter_append, List.foldl_append]
    have hno : ∀ x ∈ s.me.wcb, x.line ≠ k / 256 := by
      intro x hx h
      have := List.find?_eq_none.1 hf x hx
      simp [h, hs.1 x hx] at this
    by_cases hy : y / 256 = k / 256
    · have h0 : (s.me.wcb.filter fun x => x.line == y / 256) = [] := by
        rw [List.filter_eq_nil_iff]; intro x hx h; exact hno x hx (by rw [← hy]; simpa using h)
      rw [h0, List.filter_cons_of_pos (by simp [lineMerge, hy])]
      simp only [List.foldl_nil, List.foldl_cons, List.filter_nil]
      have := hmerge ⟨k / 256, 0, []⟩
      rw [this, show tfind (WLine.mk (k / 256) 0 []).bytes y = ⟨0, 0⟩ from rfl, overlay_none]
    · rw [hkey y hy, List.filter_cons_of_neg (by simpa [lineMerge] using Ne.symm hy)]; rfl

/-! ### What the strand sees after a store -/

theorem seen_wcbPut (s : State) (k : Nat) (bs : List PByte) (hw : wcbFull s k = false) (hs : FreeLines s.me)
    (hl : ∀ j < bs.length, (k + j) / 256 = k / 256) :
    (∀ j, (hj : j < bs.length) → seen (wcbPut s k bs) (.spad (k + j)) = overlay (seen s (.spad (k + j))) bs[j]) ∧
    ∀ x, (∀ j < bs.length, x ≠ .spad (k + j)) → seen (wcbPut s k bs) x = seen s x := by
  obtain ⟨w, hr⟩ := wcbPut_rest s k bs hw
  have hn : settled (wcbPut s k bs) = settled s ∧ (wcbPut s k bs).host = s.host ∧ (wcbPut s k bs).me.hpath = s.me.hpath := by
    rw [hr]; exact ⟨rfl, rfl, rfl⟩
  constructor
  · intro j hj
    simp only [seen, locByte_settle]
    rw [overlay_wcbPut s k bs hw hs hl, hn.1, cellsAt_get k bs j hj]
  · intro x hx
    simp only [seen, locByte_settle]
    cases x with
    | host pa => rw [overlay_path, overlay_path, hn.2.1, hn.2.2]
    | spad y =>
      rw [overlay_wcbPut s k bs hw hs hl, hn.1]
      dsimp only
      rw [cellsAt_none k bs y (fun j hj e => hx j hj (by rw [e]))]

/-- No entry of the path waits for a VFENCE. -/
def FreePath (st : Strand) : Prop := ∀ x ∈ st.hpath, x.held = 0

theorem pathInsert_last {l : List HStore} (h : ∀ x ∈ l, x.held = 0) (z : HStore) (hz : z.held = 0) : pathInsert z l = l ++ [z] := by
  induction l with
  | nil => rfl
  | cons x l ih =>
    have : ¬ z.held < x.held := by rw [hz, h x (by simp)]; omega
    rw [pathInsert, if_neg this, ih (fun y hy => h y (by simp [hy]))]; rfl

theorem tfind_eq (l : List (Nat × PByte)) (k : Nat) : tfind l k = match l.find? (fun b => b.1 == k) with | some b => b.2 | none => ⟨0, 0⟩ := by
  induction l with
  | nil => rfl
  | cons b l ih =>
    simp only [tfind, tget, List.find?_cons] at ih ⊢
    by_cases hb : b.1 = k
    · simp [hb]
    · rw [if_neg hb, beq_eq_false_iff_ne.2 hb]; exact ih

theorem seen_hostPut (s : State) (pa : Nat) (bs : List PByte) (hp : FreePath s.me) :
    (∀ j, (hj : j < bs.length) → seen (hostPut s pa bs) (.host (pa + j)) = overlay (seen s (.host (pa + j))) bs[j]) ∧
    ∀ x, (∀ j < bs.length, x ≠ .host (pa + j)) → seen (hostPut s pa bs) x = seen s x := by
  have hr : (hostPut s pa bs).me.hpath = s.me.hpath ++ [⟨cellsAt pa bs, 0, none⟩] := pathInsert_last hp _ rfl
  have hs : settled (hostPut s pa bs) = settled s := rfl
  constructor
  · intro j hj
    simp only [seen, locByte_settle, overlay_path, hr, List.foldl_append, List.foldl_cons, List.foldl_nil]
    rw [tfind_eq, cellsAt_get pa bs j hj]; rfl
  · intro x hx
    simp only [seen, locByte_settle]
    cases x with
    | spad y => rfl
    | host p =>
      simp only [overlay_path, hr, List.foldl_append, List.foldl_cons, List.foldl_nil]
      rw [tfind_eq, cellsAt_none pa bs p (fun j hj e => hx j hj (by rw [e]))]
      exact overlay_none _

/-! ### Bytes of a number -/

theorem toBytes_len : ∀ n x, (toBytes n x).length = n
  | 0, _ => rfl
  | n + 1, x => by simp [toBytes, toBytes_len n]
theorem toBytes_get : ∀ n x j (h : j < n), (toBytes n x)[j]'(by rw [toBytes_len]; exact h) = BitVec.ofNat 8 (x / 256 ^ j)
  | n + 1, x, 0, h => by simp [toBytes]
  | n + 1, x, j + 1, h => by
    simp only [toBytes, List.getElem_cons_succ]
    rw [toBytes_get n (x / 256) j (by omega), Nat.div_div_eq_div_mul, Nat.pow_succ, Nat.mul_comm]


end Sys2Proof.Machine
end

