-- ==== Sys2Proof/Laws/Scalar.lean ====
section
/-! SUPPORT. Writes of scalar registers, and the numbers that the bit and shift instructions compute. -/

namespace Sys2Proof.Machine

theorem writes_setReg (s : State) (d : BitVec 5) (v : Word) : WritesReg s (advance (setReg s d v)) d v := by
  constructor
  · by_cases h : d = 0
    · subst h; simp [reg]
    · rw [if_neg h]
      simp only [reg, setReg, advance, h, if_false]
      simp [Vector.get_eq_getElem]
  · intro r hr
    by_cases h : d = 0
    · simp [h, setReg, reg, advance]
    · by_cases h2 : r = 0
      · simp [h2, reg]
      · simp only [reg, h2, setReg, h, if_false, advance]
        rw [Vector.get_eq_getElem, Vector.get_eq_getElem]
        have : d.toNat ≠ r.toNat := fun e => hr (BitVec.eq_of_toNat_eq e.symm)
        simp [this]

theorem same_setReg (s : State) (d : BitVec 5) (v : Word) : SameButRegs s (advance (setReg s d v)) := by
  unfold SameButRegs setReg advance; split <;> rfl

theorem seen_regs (s : State) (v : Word) (rs : Vector Word 32) (l : Loc) :
    locByte (settle { s with me := { s.me with pc := v, regs := rs } }) l = locByte (settle s) l := by
  rw [locByte_settle, locByte_settle]; cases l <;> rfl

theorem viewByte_regs (s : State) (v : Word) (rs : Vector Word 32) (e : Nat) :
    viewByte { s with me := { s.me with pc := v, regs := rs } } e = viewByte s e := by
  have h : reach { s with me := { s.me with pc := v, regs := rs } } e .load = reach s e .load := rfl
  simp only [viewByte, h]
  cases reach s e .load <;> simp [seen_regs]

theorem bytes_setReg (s : State) (d : BitVec 5) (v : Word) : SameBytes s (advance (setReg s d v)) := by
  intro a
  unfold setReg advance
  split
  · exact viewByte_regs s (s.me.pc + 4) s.me.regs a
  · exact viewByte_regs s (s.me.pc + 4) (s.me.regs.set d.toFin v) a

theorem bit_top {n x : Nat} (h : x < 2 ^ (n + 1)) : bit x n = decide (2 ^ n ≤ x) := by
  unfold bit
  by_cases hx : 2 ^ n ≤ x
  · have : x / 2 ^ n = 1 := by
      apply Nat.div_eq_of_lt_le <;> omega
    simp [this, hx]
  · simp [Nat.div_eq_of_lt (Nat.lt_of_not_le hx), hx]

theorem leadZeros_eq : ∀ n x, x < 2 ^ n → leadZeros n x = if x = 0 then n else n - 1 - x.log2
  | 0, x, h => by simp at h; subst h; simp [leadZeros]
  | n + 1, x, h => by
    rw [leadZeros, bit_top h]
    by_cases hx : 2 ^ n ≤ x
    · have h0 : x ≠ 0 := by have := Nat.two_pow_pos n; omega
      have : x.log2 = n := by rw [Nat.log2_eq_iff h0]; exact ⟨hx, h⟩
      simp [hx, h0, this]
    · have ih := leadZeros_eq n x (Nat.lt_of_not_le hx)
      simp only [hx, decide_false, Bool.false_eq_true, if_false, ih]
      by_cases h0 : x = 0
      · simp [h0]; omega
      · have : x.log2 < n := (Nat.log2_lt h0).2 (Nat.lt_of_not_le hx)
        simp [h0]; omega

theorem trailZeros_eq : ∀ n x, x < 2 ^ n → trailZeros n x = if x = 0 then n else padicValNat 2 x
  | 0, x, h => by simp at h; subst h; simp [trailZeros]
  | n + 1, x, h => by
    rw [trailZeros]
    by_cases hx : x % 2 = 1
    · have h0 : x ≠ 0 := by omega
      have : ¬ 2 ∣ x := by omega
      simp [hx, h0, padicValNat.eq_zero_of_not_dvd this]
    · have ih := trailZeros_eq n (x / 2) (by omega)
      rw [if_neg hx, ih]
      by_cases h0 : x = 0
      · simp [h0]; omega
      · have h1 : x / 2 ≠ 0 := by omega
        have h2 : 2 ∣ x := by omega
        have hv := padicValNat.div h2 (p := 2)
        have hp : 1 ≤ padicValNat 2 x := one_le_padicValNat_of_dvd h0 h2
        simp only [h1, h0, if_false]; omega

theorem popCount_eq (n x : Nat) : popCount n x = (List.range n).countP fun k => x.testBit k := by
  induction n generalizing x with
  | zero => rfl
  | succ n ih =>
    rw [popCount, ih, List.range_succ_eq_map, List.countP_cons, List.countP_map, Nat.add_comm]
    congr 1
    · apply List.countP_congr; intro k _; simp [Nat.testBit_succ]
    · simp only [Nat.testBit_zero]
      rcases Nat.mod_two_eq_zero_or_one x with h | h <;> simp [h]

theorem reg_lt (s : State) (r : BitVec 5) : (reg s r).toNat < 2 ^ 64 := (reg s r).isLt

theorem field_lo (x : Word) (h : Nat) : field x h 0 = x.toNat % 2 ^ (h + 1) := by simp [field, bits]

theorem sshr (x : Word) (n : Nat) : x.sshiftRight n = BitVec.ofInt 64 (x.toInt / 2 ^ n) := by
  apply BitVec.eq_of_toInt_eq
  rw [BitVec.toInt_sshiftRight, Int.shiftRight_eq_div_pow, BitVec.toInt_ofInt]
  have h1 := BitVec.toInt_lt (x := x)
  have h2 := BitVec.le_toInt (x := x)
  have hp : (0 : Int) < 2 ^ n := by positivity
  have h3 : -(2 ^ 63) ≤ x.toInt / 2 ^ n := by
    rw [Int.le_ediv_iff_mul_le hp]; norm_num at h2 ⊢; nlinarith
  have h4 : x.toInt / 2 ^ n < 2 ^ 63 := by
    rw [Int.ediv_lt_iff_lt_mul hp]; norm_num at h1 ⊢; nlinarith
  symm
  norm_num
  apply Int.bmod_eq_of_le <;> norm_num <;> omega

theorem shl (x : Word) (n : Nat) : x <<< n = BitVec.ofInt 64 (x.toNat * 2 ^ n) := by
  apply BitVec.eq_of_toNat_eq
  rw [BitVec.toNat_shiftLeft, Nat.shiftLeft_eq]
  norm_cast
theorem shrw (x : Word) (n : Nat) : x >>> n = BitVec.ofInt 64 (x.toNat / 2 ^ n : Nat) := by
  apply BitVec.eq_of_toNat_eq
  rw [BitVec.toNat_ushiftRight, Nat.shiftRight_eq_div_pow]
  rw [BitVec.ofInt_natCast, BitVec.toNat_ofNat, Nat.mod_eq_of_lt]
  exact Nat.lt_of_le_of_lt (Nat.div_le_self _ _) x.isLt
theorem sextI {n : Nat} (x : BitVec n) : sext x = BitVec.ofInt 64 x.toInt := rfl
theorem ofIntNat (n : Nat) : BitVec.ofInt 64 (n : Int) = word n := by simp [word]
theorem wordToNat (x : Word) : word x.toNat = x := by simp [word]

end Sys2Proof.Machine
end

