-- ==== Sys2Proof/Tests/Slice0.lean ====
section
/-! SUPPORT. Witnesses that the hypotheses of the statements can be met together, words of every row of the opcode table, ill-formed
terms, and the manual's own examples. -/

set_option Elab.async false
namespace Sys2Proof.Tests
open Sys2Proof Sys2Proof.Machine Sys2Proof.Claims
set_option maxRecDepth 100000

/-! ### Small states -/

/-- Scalar registers that hold zero but for those of the list. -/
def regsOf (rs : List (Nat × Word)) : Vector Word 32 := Vector.ofFn fun j => tget 0 rs j.val

/-- The strand of a gang of one on core 0, in slot 0, that runs, owns its context and has a region of 64 KiB. -/
def strand (vs : Word) (vl : Nat) (rs : List (Nat × Word)) : Strand :=
  { Strand.reset with
    status := .run, vown := true, spSize := 65536, lc := 8, gsize := 1, gcount := 1, vlcap := 65536, thandler := 0x4000,
    pc := 0x1000, regs := regsOf rs, vctx := { VCtx.reset with vshape := vs, vl := vl, vlGrant := vl } }

/-- The state after reset with that strand, under a VSHAPE, a VL and registers. -/
def mk (vs : Word) (vl : Nat) (rs : List (Nat × Word)) : State := { State.reset with me := strand vs vl rs }

/-- The base of the local scratchpad. -/
def sp : Nat := 0xFE00000000000000

theorem mk_ready (vs : Word) (vl : Nat) (rs : List (Nat × Word)) : QueueReady (mk vs vl rs) := by
  refine ⟨rfl, rfl, rfl, rfl, ?_, rfl, ?_⟩
  · have h : myDebug (mk vs vl rs) = Debug.reset := rfl
    rw [h]
    intro b hb
    simp [Debug.reset] at hb
    subst hb; decide
  · simp [traced, mk, strand, fnOf, tget, State.reset, Func.reset, Debug.reset]

theorem nothing_of (s : State) (h1 : s.me.out = []) (h2 : s.me.vctx.bufs = []) (h3 : s.me.kept = []) (h4 : s.me.hpath = []) :
    NothingOut s := by
  refine ⟨h1, h2, h3, ?_⟩
  simp [h4]

theorem calm_of (s : State) (h1 : s.me.out = []) (h2 : s.me.vctx.bufs = []) (h3 : s.net = []) (h4 : s.me.wcb = [])
    (h5 : s.me.hpath = []) (h6 : s.me.kept = [] := by rfl) : Calm s := by
  refine ⟨nothing_of s h1 h2 h6 h5, ?_, ?_, ?_⟩ <;> intro x hx <;> simp [h3, h4, h5] at hx

theorem stores_of (s : State) (h1 : s.me.wcb = []) (h2 : s.me.hpath = []) : StoresOk s := by
  unfold StoresOk StoresInOrder
  rw [h1, h2]
  simp

theorem ports_of (s : State) (h : s.net = []) : PortsOnly s := by
  intro q hq
  rw [h] at hq
  exact absurd hq List.not_mem_nil

/-! ### Witnesses of the hypotheses of the statements -/

theorem witness_ScalarResults : ∃ i s d x, aluInt s i = some (d, x) ∧ Running s :=
  ⟨.add 1 2 3, mk 0x31 4 [(2, 5), (3, 7)], 1, 12, rfl, rfl⟩

theorem witness_BitInstructions : ∃ i s d x, bitInt s i = some (d, x) ∧ Running s :=
  ⟨.popc 1 2, mk 0x31 4 [(2, 5)], 1, 2, by decide, rfl⟩

theorem witness_BranchesAndJumps : ∃ i s c o, branchInt s i = some (c, o) ∧ Running s ∧ traced s = false :=
  ⟨.beq 1 2 3, mk 0x31 4 [], _, _, rfl, rfl, rfl⟩

theorem witness_LoadReads : ∃ (s : State) (a : BitVec 5) (i : BitVec 12) (w : BitVec 3) (l : Loc), Running s ∧ w.toNat < 7 ∧
    address s a i % loadBytes w = 0 ∧ reach s (address s a i) .load = .ok l ∧ s.defer = false ∧ Calm s :=
  ⟨mk 0x31 4 [(1, word sp)], 1, 8, 6, .spad 8, rfl, by decide, by decide, by decide, rfl, calm_of _ rfl rfl rfl rfl rfl⟩

/-- Seven loads are outstanding, and the agenda defers the next. -/
def sevenOut : State :=
  { mk 0x31 4 [(1, word sp)] with
    defer := true, me := { strand 0x31 4 [(1, word sp)] with out := (List.range 7).map (pendLoad 9) } }

theorem witness_LoadReads_deferred : ∃ (s : State) (d a : BitVec 5) (i : BitVec 12) (w : BitVec 3) (l : Loc), Running s ∧ w.toNat < 7 ∧
    address s a i % loadBytes w = 0 ∧ reach s (address s a i) .load = .ok l ∧ s.defer = true ∧
    (∀ k, l = .spad k → ∃ j < loadBytes w, (forwarded s.me (.spad (k + j))).mask ≠ 0xFF) ∧ d ≠ 0 ∧
    (s.me.out.filter Pend.load).length = 7 :=
  ⟨sevenOut, 3, 1, 8, 6, .spad 8, rfl, by decide, by decide, by decide, rfl, by rintro k ⟨⟩; exact ⟨7, by decide, by decide⟩, by decide,
    by decide⟩

/-- An entry of the vector queue, of 32-bit elements with a VL of 4. -/
def entry (i : Instr) (split : Bool) : QEntry :=
  { id := 0, instr := i, addr := 0x1000, prog := 0, a := word sp, b := 0, d := 0, vshape := 0x31, vl := 4, mvl := 0, mfcr := 0, cnt := 0,
    split := split, vlSpan := 0, spec := none, done := false }

/-- An atomic of bytes 8 to 15 is kept behind a queued VFENCE. -/
def keptAt : State :=
  { mk 0x31 4 [(1, word sp)] with
    me := { strand 0x31 4 [(1, word sp)] with
      kept := [⟨[], 1, some ⟨0, 0, 0, 0, 0, 8, 8, [], .amo 3 0 1⟩⟩]
      vctx := { (strand 0x31 4 []).vctx with queue := [entry (.vfence 0) true] } } }

theorem witness_LoadReads_kept : ∃ (s : State) (a : BitVec 5) (i : BitVec 12) (w : BitVec 3) (l : Loc) (k : Nat), Running s ∧ w.toNat < 7 ∧
    address s a i % loadBytes w = 0 ∧ reach s (address s a i) .load = .ok l ∧ l = .spad k ∧ meetsKept s.me k (loadBytes w) = true :=
  ⟨keptAt, 1, 8, 6, .spad 8, 8, rfl, by decide, by decide, by decide, rfl, by decide⟩

theorem witness_StoreWrites_kept : ∃ (s : State) (a : BitVec 5) (h : BitVec 7) (w : BitVec 2) (l : BitVec 5) (k : Nat), Running s ∧
    s.me.wcb.length ≤ 64 ∧ address s a (h ++ l) % 2 ^ w.toNat = 0 ∧ reach s (address s a (h ++ l)) .store = .ok (.spad k) ∧
    meetsKept s.me k (2 ^ w.toNat) = true :=
  ⟨keptAt, 1, 0, 3, 8, 8, rfl, by decide, by decide, by decide, by decide⟩

/-- Sixty-four lines wait in the write-combining buffer. -/
def fullWcb : State :=
  { mk 0x31 4 [(1, word sp)] with
    me := { strand 0x31 4 [(1, word sp)] with wcb := (List.range 64).map fun k => ⟨k + 1000, 0, []⟩ } }

theorem witness_StoreWrites : ∃ (s : State) (a : BitVec 5) (h : BitVec 7) (w : BitVec 2) (l : BitVec 5) (p : Loc), Running s ∧
    StoresOk s ∧ (∀ x ∈ s.me.wcb, x.held ≤ fencesAhead s.me) ∧ (∀ x ∈ s.me.hpath, x.held ≤ fencesAhead s.me) ∧
    address s a (h ++ l) % 2 ^ w.toNat = 0 ∧ reach s (address s a (h ++ l)) .store = .ok p ∧
    ∀ k, p = .spad k → k % 2 ^ w.toNat = 0 ∧ noLine s (fencesAhead s.me) k = false ∧
      reopens s (fencesAhead s.me) k = false ∧ meetsKept s.me k (2 ^ w.toNat) = false :=
  ⟨mk 0x31 4 [(1, word sp)], 1, 0, 3, 8, .spad 8, rfl, stores_of _ rfl rfl, by decide, by decide, by decide, by decide,
    by rintro k ⟨⟩; decide⟩

/-- The store of a VFENCE's strand to a line that is open with stores that wait for none. -/
def reopened : State :=
  { mk 0x31 4 [(1, word sp)] with
    me := { strand 0x31 4 [(1, word sp)] with
      wcb := [⟨0, 0, []⟩], vctx := { (strand 0x31 4 []).vctx with queue := [entry (.vfence 0) true] } } }

theorem witness_StoreWrites_reopens : ∃ (s : State) (a : BitVec 5) (h : BitVec 7) (w : BitVec 2) (l : BitVec 5) (k : Nat), Running s ∧
    s.me.wcb.length ≤ 64 ∧ address s a (h ++ l) % 2 ^ w.toNat = 0 ∧ reach s (address s a (h ++ l)) .store = .ok (.spad k) ∧
    meetsKept s.me k (2 ^ w.toNat) = false ∧ reopens s (fencesAhead s.me) k = true ∧
    wcbFind s.me.wcb (k / 256) (fencesAhead s.me) = none :=
  ⟨reopened, 1, 0, 3, 8, 8, rfl, by decide, by decide, by decide, by decide, by decide, by decide⟩

theorem witness_StoreWrites_full : ∃ (s : State) (a : BitVec 5) (h : BitVec 7) (w : BitVec 2) (l : BitVec 5) (k : Nat) (x : WLine)
    (xs : List WLine), Running s ∧ NoDrain s ∧ fencesAhead s.me = 0 ∧ meetsKept s.me k (2 ^ w.toNat) = false ∧
    address s a (h ++ l) % 2 ^ w.toNat = 0 ∧
    reach s (address s a (h ++ l)) .store = .ok (.spad k) ∧ s.me.wcb = x :: xs ∧ x.held = 0 ∧ s.me.wcb.length = 64 ∧
    wcbFull s k = true :=
  ⟨fullWcb, 1, 0, 3, 8, 8, ⟨1000, 0, []⟩, _, rfl, rfl, by decide, by decide, by decide, by decide, rfl, rfl, rfl, by decide⟩

theorem witness_AccessChecks : ∃ (s : State) (a : BitVec 5) (i : BitVec 12) (w : BitVec 3) (h : BitVec 7) (l : BitVec 5)
    (v : BitVec 2), Running s ∧ s.me.hm = false ∧ w.toNat < 7 ∧ address s a i % loadBytes w ≠ 0 ∧
    address s a (h ++ l) % 2 ^ v.toNat ≠ 0 :=
  ⟨mk 0x31 4 [(1, word sp)], 1, 9, 6, 0, 9, 3, rfl, rfl, by decide, by decide, by decide⟩

theorem witness_AccessChecks_nowhere : ∃ (s : State) (a : BitVec 5) (i : BitVec 12) (w : BitVec 3) (h : BitVec 7) (l : BitVec 5)
    (v : BitVec 2), Running s ∧ s.me.hm = false ∧ w.toNat < 7 ∧ address s a i % loadBytes w = 0 ∧
    regionOf (address s a i) = .nowhere ∧ address s a (h ++ l) % 2 ^ v.toNat = 0 ∧ regionOf (address s a (h ++ l)) = .nowhere :=
  ⟨mk 0x31 4 [(1, word (2 ^ 56))], 1, 0, 6, 0, 0, 3, rfl, rfl, by decide, by decide, by decide, by decide, by decide⟩

theorem witness_AtomicsAtCoherence : ∃ (s : State) (a : BitVec 5) (o : BitVec 4) (r : BitVec 2) (l : Loc), Running s ∧ NoDrain s ∧
    s.defer = false ∧ Calm s ∧ keepsAtomic s = false ∧ 2 ≤ r.toNat ∧ allAccepted s = true ∧ o.toNat < 9 ∧
    (reg s a).toNat % 8 = 0 ∧ reach s (reg s a).toNat .store = .ok l :=
  ⟨mk 0x31 4 [(1, word sp)], 1, 8, 3, .spad 0, rfl, rfl, rfl, calm_of _ rfl rfl rfl rfl rfl, by decide, by decide, rfl, by decide,
    by decide, by decide⟩

theorem witness_AtomicsAtCoherence_kept : ∃ (s : State) (a : BitVec 5) (r : BitVec 2) (l : Loc), Running s ∧ NoDrain s ∧ r.toNat < 2 ∧
    keepsAtomic s = true ∧ (reg s a).toNat % 8 = 0 ∧ reach s (reg s a).toNat .store = .ok l ∧
    ∀ y ∈ s.me.hpath, y.held ≤ fencesAhead s.me :=
  ⟨reopened, 1, 1, .spad 0, rfl, rfl, by decide, by decide, by decide, by decide, by decide⟩

/-- A launch whose strands are placed with an empty context. -/
def launch0 : Launch :=
  { fn := 0, queue := 0, seq := 0, record := [0x1000, 0x0101000000000000, 0, 0, 0, 0, 0, 0], next := 1, passed := 0, ended := 0, xflags := 0,
    status := none, cause := 0, written := false, cwBatch := 0, waited := 0, recHeld := false, dirs := [], seeds := [], modes := [],
    man := ⟨[], [], [], [], [], []⟩, hashes := [] }

/-- The strand in handler mode. -/
def inHandler : State :=
  { mk 0x31 4 [(1, 0x200000)] with me := { strand 0x31 4 [(1, 0x200000)] with hm := true } }

/-- The strand without its core's context. -/
def noContext : State := { mk 0x31 4 [] with me := { strand 0x31 4 [] with vown := false } }

theorem witness_SystemRegisterReads : ∃ (s : State) (n k u : BitVec 12), Running s ∧ s.me.hm = false ∧ assigned n.toNat = true ∧
    mayName s n.toNat ∧ n.toNat < 0x202 ∧ plainValue s n.toNat = some 4 ∧ s.me.qstop = false ∧ assigned k.toNat = false ∧ 0x407 ≤ u.toNat ∧
    u.toNat ≤ 0x40A :=
  ⟨mk 0x31 4 [], 0x001, 0x0FF, 0x40A, rfl, rfl, by decide, by unfold mayName; decide, by decide, by decide, rfl, by decide, by decide,
    by decide⟩

/-- Each register that reads a value which the strand holds, or which the machine keeps of it. -/
theorem witness_SystemRegisterReads_plain : ∃ s : State, Running s ∧ s.me.hm = false ∧ s.me.qstop = false ∧
    ∀ n ∈ [0x010, 0x012, 0x013, 0x023, 0x110, 0x111, 0x700], assigned n = true ∧ mayName s n ∧ (plainValue s n).isSome :=
  ⟨mk 0x31 4 [], rfl, rfl, rfl, by
    intro n h
    simp only [List.mem_cons, List.not_mem_nil, or_false] at h
    rcases h with rfl | rfl | rfl | rfl | rfl | rfl | rfl <;> exact ⟨by decide, by unfold mayName; decide, rfl⟩⟩

theorem witness_SystemRegisterReads_context : ∃ (s : State) (n : BitVec 12), Running s ∧ ofContext n.toNat = true ∧ s.me.vown = false :=
  ⟨noContext, 0x001, rfl, by decide, rfl⟩

theorem witness_SystemRegisterReads_sensor : ∃ (s : State) (n : BitVec 12), Running s ∧ 0x407 ≤ n.toNat ∧ n.toNat ≤ 0x40A ∧ s.me.hm = false ∧
    s.dev.levels.getD 3 1 = 1 ∧ s.launches ≠ [] :=
  ⟨{ mk 0x31 4 [] with launches := [launch0] }, 0x407, rfl, by decide, by decide, rfl, by decide, by decide⟩

/-- A stopped queue of one entry. -/
def stoppedAt : State :=
  { inHandler with
    me := { inHandler.me with
      qstop := true
      vctx := { inHandler.me.vctx with
        queue := [entry .bar true] } } }

theorem witness_SystemRegisterReads_dump : ∃ (s : State), Running s ∧ assigned 0x00B = true ∧ mayName s 0x00B ∧ s.me.qstop = true ∧
    s.me.vctx.queue ≠ [] :=
  ⟨stoppedAt, rfl, by decide, by unfold mayName; decide, rfl, by decide⟩

/-- A strand in a gang of one. -/
def inGangOfOne (phase : Nat) : State :=
  { mk 0x31 4 [] with gangs := [{
      fn := 0, seq := 0, gang := 0, stack := 0, members := [⟨0, 0, 0, false, true, 0, NodeView.reset, []⟩], areas := [], phase := phase,
      loops := #v[⟨true, 10, 2⟩, Loop.reset, Loop.reset, Loop.reset], lc := 8, lcCap := 8, epoch := 0, placed := true, preempting := false,
      stopping := false, halted := false, slices := 0 }] }

theorem witness_SystemRegisterReads_gang : ∀ n : BitVec 12, 0x202 ≤ n.toNat → n.toNat ≤ 0x207 → ∃ (s : State) (g : Gang) (m : Member),
    Running s ∧ s.defer = false ∧ myGang s = some g ∧ g.members[s.me.lsn]? = some m :=
  fun _ _ _ => ⟨inGangOfOne 7, _, _, rfl, rfl, rfl, rfl⟩

theorem witness_SystemRegisterWrites : ∃ (s : State) (n : BitVec 12), Running s ∧ freeWidth n.toNat = some 64 ∧ mayName s n.toNat :=
  ⟨inHandler, 0x401, rfl, by decide, by unfold mayName; decide⟩

theorem witness_SystemRegisterWrites_shape : ∃ (s : State) (a b : BitVec 5), Running s ∧ s.me.vown = true ∧
    shapeOk (reg s a) = true ∧ shapeOk (reg s b) = false :=
  ⟨mk 0x31 4 [(1, 0x31), (2, 10)], 1, 2, rfl, rfl, by decide, by decide⟩

theorem witness_TrapsTakenAndReturned : ∃ s u : State, s.me.hm = false ∧ traced s = false ∧ Running s ∧ u.me.hm = true ∧
    traced u = false ∧ Running u ∧ u.me.pre = false ∧ u.me.susp = none :=
  ⟨mk 0x31 4 [], inHandler, rfl, rfl, rfl, rfl, rfl, rfl, rfl, rfl⟩

theorem witness_TrapsTakenAndReturned_nested : ∃ s t u : State, s.me.hm = true ∧ (completeAll s).me.qstop = true ∧ t.me.hm = true ∧
    (completeAll t).me.qstop = false ∧ Running u ∧ u.me.hm = false ∧ NothingOut u :=
  ⟨stoppedAt, inHandler, mk 0x31 4 [], rfl, rfl, rfl, rfl, rfl, rfl, nothing_of _ rfl rfl rfl rfl⟩

theorem witness_TrapsTakenAndReturned_off : ∃ s : State, Running s ∧ s.me.hm = true ∧ s.me.pre = true :=
  ⟨{ inHandler with me := { inHandler.me with pre := true } }, rfl, rfl, rfl⟩

/-- Two strands of a core. -/
def two : State := { mk 0x31 4 [] with others := [{ strand 0x31 4 [] with slot := 1, vown := false }] }

theorem witness_EndYieldWait : ∃ s : State, Running s ∧ NoDrain s ∧ s.me.hm = false ∧ s.me.ending = false ∧ s.me.dumped = [] ∧
    s.me.fifos = [] ∧ s.me.vctx.queue = [] ∧ traced s = false ∧ s.me.ev = false ∧ nextReady (advance s) s.me.core = some 1 :=
  ⟨two, rfl, rfl, rfl, rfl, rfl, rfl, rfl, rfl, rfl, by decide⟩

theorem witness_EndYieldWait_event : ∃ s : State, Running s ∧ s.me.ev = true :=
  ⟨{ two with me := { two.me with ev := true } }, rfl, rfl⟩

theorem dense_skip (a n k : Nat) (v : Byte) (t : Cells 8) :
    denseFrom zeros (a + n) k ((k + a, v) :: t) = List.replicate a 0 ++ denseFrom zeros n (k + a) ((k + a, v) :: t) := by
  induction a generalizing k with
  | zero => simp
  | succ a ih =>
    have h := ih (k + 1)
    rw [show k + (a + 1) = k + 1 + a by omega, show a + 1 + n = a + n + 1 by omega]
    simp only [denseFrom, List.replicate_succ, List.cons_append]
    rw [if_neg (by omega), h]; rfl

theorem dense_nil (n k : Nat) : denseFrom zeros n k ([] : Cells 8) = List.replicate n 0 := by
  induction n generalizing k with
  | zero => rfl
  | succ n ih => rw [denseFrom, ih]; rfl

/-- The pages of the area at 0x200000. -/
def areaAt : List Loc := (List.range 128).map fun j => .host (0x200000 + 4096 * j)

def newcomer : State := { inHandler with launches := [launch0], me := { inHandler.me with vown := false } }

theorem witness_SaveAndRestore : ∃ (s u : State) (a : BitVec 5) (ls ms : List Loc) (l : Launch), Running s ∧ s.me.hm = true ∧
    s.me.vown = true ∧ areaPages s (reg s a).toNat .store = .ok ls ∧ (∃ st, ownerOf s s.me.core = some st) ∧
    Running u ∧ u.me.hm = true ∧ ownerOf u u.me.core = none ∧ areaPages u (reg u a).toNat .store = .ok ms ∧
    wordAt (areaBytes (flushAll u) ms 0 0x2100) 0 = 0 ∧ launchFind u u.me.fn u.me.lseq = some l := by
  refine ⟨inHandler, newcomer, 1, areaAt, areaAt, launch0, rfl, rfl, rfl, by decide +kernel, ⟨inHandler.me, by decide +kernel⟩, rfl, rfl,
    by decide +kernel,
    by decide +kernel, ?_, by decide +kernel⟩
  have h : areaSlice (flushAll newcomer) areaAt 0 0x2100 0 = [] := by decide +kernel
  rw [areaBytes, h, dense_nil]; rfl

/-- The handler of a strand on the core of another, which owns its context. -/
def visitor : State :=
  { newcomer with others := [{ inHandler.me with hm := false, slot := 1, lsn := 1, gang := 3 }] }

theorem witness_SaveAndRestore_other : ∃ (s : State) (a : BitVec 5) (ls : List Loc) (o : Strand), Running s ∧ s.me.hm = true ∧
    s.me.vown = false ∧ ((s.me :: s.others).filter (owns s.me.core)).length = 1 ∧
    (∀ x ∈ s.others, isStrand s.me.fn s.me.lseq s.me.gang s.me.lsn x = false) ∧ areaPages s (reg s a).toNat .store = .ok ls ∧
    ownerOf (flushAll (onBy (owns s.me.core) (fun s => evenOut (servePort s.me.core (completeOut s))) s)) s.me.core = some o :=
  ⟨visitor, 1, areaAt, _, rfl, rfl, rfl, by decide +kernel, by decide +kernel, by decide +kernel, rfl⟩

theorem dense_hit (n k : Nat) (v : Byte) (t : Cells 8) : denseFrom zeros (n + 1) k ((k, v) :: t) = v :: denseFrom zeros n (k + 1) t := by
  rw [denseFrom, if_pos rfl]

/-- A context area of format 1 at 0x200000 whose dump has one entry and whose CHECK is the value of eight bytes. -/
def savedArea (c : List Byte) : State :=
  { inHandler with
    host := [(0x200000, 1), (0x200048, 1)] ++ ((List.range 8).map fun j => (0x2000F8 + j, c.getD j 0)) ++
      [(0x200100, 0xA0), (0x200101, 0xFF), (0x200102, 0xFF), (0x200103, 0x0D)]
    me := { inHandler.me with vown := false } }

def head (c : List Byte) : List Byte :=
  [1] ++ (List.replicate 71 0 ++ ([1] ++ (List.replicate 175 0 ++ (c ++ ([0xA0, 0xFF, 0xFF, 0x0D] ++ List.replicate 8188 0)))))

theorem savedArea_head (c0 c1 c2 c3 c4 c5 c6 c7 : Byte) :
    areaBytes (flushAll (savedArea [c0, c1, c2, c3, c4, c5, c6, c7])) areaAt 0 0x2100 = head [c0, c1, c2, c3, c4, c5, c6, c7] := by
  have h : areaSlice (flushAll (savedArea [c0, c1, c2, c3, c4, c5, c6, c7])) areaAt 0 0x2100 0 =
    [(0, 1), (72, 1), (248, c0), (249, c1), (250, c2), (251, c3), (252, c4), (253, c5), (254, c6), (255, c7), (256, 0xA0), (257, 0xFF),
      (258, 0xFF), (259, 0x0D)] := by cbv
  rw [areaBytes, h, head, show (0x2100 : Nat) = 8447 + 1 from rfl, dense_hit 8447, show (8447 : Nat) = 71 + 8376 from rfl,
    dense_skip 71 8376 1, dense_hit 8375, show (8375 : Nat) = 175 + 8200 from rfl, dense_skip 175 8200 73]
  rw [dense_hit 8199, dense_hit 8198, dense_hit 8197, dense_hit 8196, dense_hit 8195, dense_hit 8194, dense_hit 8193, dense_hit 8192,
    dense_hit 8191, dense_hit 8190, dense_hit 8189, dense_hit 8188, dense_nil]
  rfl

theorem head_take (c : List Byte) : (head c).take 8 = [1, 0, 0, 0, 0, 0, 0, 0] := rfl

theorem head_take1 (c : List Byte) : ((head c).drop 8).take 8 = [0, 0, 0, 0, 0, 0, 0, 0] := rfl

theorem head_take9 (c : List Byte) : ((head c).drop 72).take 8 = [1, 0, 0, 0, 0, 0, 0, 0] := rfl

theorem head_check (c : List Byte) : (head c).drop 248 = c ++ ([0xA0, 0xFF, 0xFF, 0x0D] ++ List.replicate 8188 0) := rfl

theorem head_tail (c : List Byte) (h : c.length = 8) : (head c).drop 256 = [0xA0, 0xFF, 0xFF, 0x0D] ++ List.replicate 8188 0 := by
  rw [show 256 = 248 + 8 from rfl, ← List.drop_drop, head_check, List.drop_append_of_le_length (by omega),
    List.drop_of_length_le (by omega), List.nil_append]

theorem head_front (c : List Byte) : (head c).take 248 = (head []).take 248 := rfl

theorem headCheck_head (c : List Byte) (h : c.length = 8) :
    headCheck 0 (head c) = (Config.ctxCheck 0 (head (List.replicate 8 0))).toNat := by
  rw [headCheck, head_front, head_tail c h]
  rfl

theorem check_bytes (x : Nat) (h : x < 2 ^ 64) :
    word (ofBytes ((List.range 8).map fun k => BitVec.ofNat 8 (x / 256 ^ k))) = BitVec.ofNat 64 x := by
  have e : ofBytes ((List.range 8).map fun k => BitVec.ofNat 8 (x / 256 ^ k)) = x := by
    simp only [List.range_succ, List.range_zero, List.map_nil, List.map_cons, List.nil_append, List.cons_append,
      ofBytes, BitVec.toNat_ofNat]
    omega
  rw [e]; rfl

theorem witness_SaveAndRestore_saved : ∃ (s : State) (a : BitVec 5) (ls : List Loc) (is : Nat → Instr), Running s ∧ s.me.hm = true ∧
    ownerOf s s.me.core = none ∧ areaPages s (reg s a).toNat .store = .ok ls ∧ s.dev.checkKey = true ∧
    (let hd := areaBytes (flushAll s) ls 0 0x2100
     wordAt hd 0 = 1 ∧ (wordAt hd 1).toNat = identOf s.me ∧ (wordAt hd 31).toNat = headCheck s.me.fn hd ∧ (wordAt hd 9).toNat = 1 ∧
      ∀ k < 1, decodeNat (ofBytes (((hd.drop (0x100 + 256 * k)).take 256).take 4)) = .ok (is k)) := by
  obtain ⟨x, hx⟩ : ∃ x, x = (Config.ctxCheck 0 (head (List.replicate 8 0))).toNat := ⟨_, rfl⟩
  have hl : x < 2 ^ 64 := by rw [hx]; exact BitVec.isLt _
  obtain ⟨b, hb⟩ : ∃ b : List Byte, b = (List.range 8).map fun k => BitVec.ofNat 8 (x / 256 ^ k) := ⟨_, rfl⟩
  obtain ⟨c0, c1, c2, c3, c4, c5, c6, c7, hc⟩ : ∃ c0 c1 c2 c3 c4 c5 c6 c7, b = [c0, c1, c2, c3, c4, c5, c6, c7] :=
    ⟨_, _, _, _, _, _, _, _, hb⟩
  have e := savedArea_head c0 c1 c2 c3 c4 c5 c6 c7
  have hlen : b.length = 8 := by rw [hc]; rfl
  rw [← hc] at e
  refine ⟨savedArea b, 1, areaAt, fun _ => .vadd 31 31 31 ⟨1, 1, 1, 1, 1⟩, rfl, rfl, rfl, ?_, rfl, ?_⟩
  · rw [hc]; cbv
  · rw [e]
    dsimp only
    rw [show (savedArea b).me.fn = 0 from rfl, headCheck_head b hlen, ← hx,
      show identOf (savedArea b).me = 0 by simp [identOf, savedArea, inHandler, strand, Strand.reset]]
    refine ⟨?_, ?_, ?_, ?_, ?_⟩
    · rw [wordAt, List.drop_zero, head_take]; rfl
    · rw [wordAt, Nat.mul_one, head_take1]; decide
    · rw [wordAt, head_check, List.take_append_of_le_length (by omega), List.take_of_length_le (by omega), hb, check_bytes x hl]
      exact Nat.mod_eq_of_lt hl
    · rw [wordAt, head_take9]; decide
    · intro k hk
      have hk0 : k = 0 := by omega
      subst hk0
      rw [Nat.mul_zero, Nat.add_zero, head_tail b hlen]
      decide +kernel

theorem mk_vl (vs : Word) (vl : Nat) (rs : List (Nat × Word)) (h : vl ≤ maxVl vs 0 ∧ vl ≤ 65536) : VlOk (mk vs vl rs) :=
  ⟨Nat.le_refl _, h.1, h.2⟩

/-- Two shapes, one that Table 6.2 accepts and one that it refuses, and a count of the four. -/
theorem witness_VectorConfiguration : ∃ (s : State) (a b : BitVec 5) (n : BitVec 12), QueueReady s ∧ shapeOk (reg s a) = true ∧
    shapeOk (reg s b) = false ∧ (n = 4 ∨ n = 8 ∨ n = 16 ∨ n = 32) ∧ matrixOn s.me.vctx.mvl = false :=
  ⟨mk 0x31 4 [(1, 0x31), (2, 10)], 1, 2, 32, mk_ready _ _ _, by decide, by decide, by decide, by decide⟩

theorem witness_VectorIssueChecks : ∃ (i : Instr) (f : Form) (s u : State), form i = some f ∧ Running s ∧ Running u ∧
    (∃ r ∈ f.rs, nregsOf s.me.vctx.cnt ≤ r.toNat) ∧ Declared u f.rs ∧ u.me.vown = false := by
  let u : State := { mk 0x31 4 [] with me := { (mk 0x31 4 []).me with vown := false, vctx := { VCtx.reset with cnt := 3 } } }
  exact ⟨.vadd 1 2 31 ⟨0, 0, 0, 0, 0⟩, _, mk 0x31 4 [], u, rfl, rfl, rfl, ⟨31, by decide, by decide⟩, by unfold Declared; decide, rfl⟩

theorem witness_VectorIssueChecks_type : ∃ (i j k : Instr) (f g h : Form) (s t u : State), form i = some f ∧ form j = some g ∧
    form k = some h ∧ Running s ∧ Running t ∧ Running u ∧ s.me.vown = true ∧ t.me.vown = true ∧ u.me.vown = true ∧
    Declared s f.rs ∧ Declared t g.rs ∧ Declared u h.rs ∧ definedFor f.op (etypeOf s.me.vctx.vshape) = false ∧
    ¬Grouped t g.rs ∧ maxVl u.me.vctx.vshape u.me.vctx.cnt < u.me.vctx.vlGrant :=
  ⟨.vand 1 2 3 ⟨0, 0, 0, 0, 0⟩, .vadd 1 2 3 ⟨0, 0, 0, 0, 0⟩, .vadd 1 2 3 ⟨0, 0, 0, 0, 0⟩, _, _, _, mk 3 4 [], mk 0xB1 4 [],
    mk 0x31 16385 [], rfl, rfl, rfl, rfl, rfl, rfl, rfl, rfl, rfl, by unfold Declared; decide, by unfold Declared; decide,
    by unfold Declared; decide, by decide, by unfold Grouped; decide, by decide⟩

theorem witness_VectorArithmetic : ∃ (i : Instr) (f : Form) (s : State), form i = some f ∧ QueueReady s ∧ VlOk s ∧ Declared s f.rs ∧
    Grouped s f.rs ∧ definedFor f.op (etypeOf s.me.vctx.vshape) = true :=
  ⟨.vaddVi 1 2 (-1) ⟨0, 0, 1, 0⟩, _, mk 0x31 16384 [], rfl, mk_ready _ _ _, mk_vl _ _ _ (by decide), by unfold Declared; decide,
    by unfold Grouped; decide, by decide⟩

theorem witness_VectorArithmetic_integers : ∃ (v : FEnv) (x y z : Nat), v.et < 2 ∧ 0 < v.sew ∧ x < 2 ^ v.sew ∧ y < 2 ^ v.sew ∧
    z < 2 ^ v.sew ∧ v.sat = true :=
  ⟨⟨0, 8, true, .rne⟩, 128, 255, 1, by decide, by decide, by decide, by decide, by decide, rfl⟩

/-- Of each format, a pattern of each class that the clauses name, and every mode. -/
theorem witness_VectorArithmetic_floats : ∀ et, 2 ≤ et → et < 6 → ∀ m : RMode, ∃ (v : FEnv) (snan qnan inf nil one : Nat), v.et = et ∧ v.mode = m ∧
    (∀ x ∈ [snan, qnan, inf, nil, one], x < 2 * (layout et).sign ∧ x + (layout et).sign < 2 * (layout et).sign) ∧
    (layout et).snan snan = true ∧ (layout et).nan qnan = true ∧ (layout et).snan qnan = false ∧ (layout et).inf inf = true ∧
    (layout et).zero nil = true ∧ (layout et).finite one = true ∧ (layout et).zero one = false ∧
    (layout et).neg (one + (layout et).sign) = true ∧ (layout et).neg one = false := by
  intro et h2 h6 m
  refine ⟨⟨et, 0, false, m⟩, (layout et).top + 1, (layout et).quiet, (layout et).top, 0, 1, rfl, rfl, ?_⟩
  obtain rfl | rfl | rfl | rfl : et = 2 ∨ et = 3 ∨ et = 4 ∨ et = 5 := by omega
  all_goals decide +kernel

theorem witness_IndexMoveSelect : ∃ (s : State) (d a b : BitVec 5), QueueReady s ∧ VlOk s ∧ Declared s [d, a, b] ∧ Grouped s [d, a, b] ∧
    etypeOf s.me.vctx.vshape < 2 :=
  ⟨mk 0x31 4 [], 1, 2, 3, mk_ready _ _ _, mk_vl _ _ _ (by decide), by unfold Declared; decide, by unfold Grouped; decide, by decide⟩

theorem witness_ComparesAndMasks : ∃ (i : Instr) (f : CForm) (s : State), cform i = some f ∧ QueueReady s ∧ VlOk s ∧
    Declared s f.rs ∧ Grouped s f.rs ∧ condFor f.q (etypeOf s.me.vctx.vshape) = true ∧ f.d.toNat < 8 :=
  ⟨.vcmp 7 2 3 5 ⟨0, 0, 0, 0, 0⟩, _, mk 0x31 4 [], rfl, mk_ready _ _ _, mk_vl _ _ _ (by decide), by unfold Declared; decide,
    by unfold Grouped; decide, by decide, by decide⟩

theorem witness_ComparesAndMasks_conditions : ∀ q : BitVec 3, ∃ et w x y : Nat, condFor q et = true ∧ (q.toNat < 6 → et < 2) ∧
    (6 ≤ q.toNat → 2 ≤ et) ∧ 0 < w ∧ x < 2 ^ w ∧ y < 2 ^ w ∧ x < 2 * (layout et).sign ∧ y < 2 * (layout et).sign := by
  intro q
  by_cases h : q.toNat < 6
  · exact ⟨1, 8, 255, 0, by revert q; decide, fun _ => by decide, fun h6 => absurd h (by omega), by decide, by decide, by decide, by decide,
      by decide⟩
  · exact ⟨3, 32, 0x7F800001, 0, by revert q; decide, fun h' => absurd h' h, fun _ => by decide, by decide, by decide, by decide, by decide,
      by decide⟩

theorem witness_ComparesAndMasks_masks : ∃ (i : Instr) (d a b : BitVec 5) (f : Bool → Bool → Bool) (s : State), QueueReady s ∧
    s.me.vctx.vl ≤ 65536 ∧ maskForm i = some (d, a, b, f) ∧ d.toNat < 8 ∧ a.toNat < 8 ∧ b.toNat < 8 :=
  ⟨.mand 0 7 1, _, _, _, _, mk 0x31 4 [], mk_ready _ _ _, by decide, rfl, by decide, by decide, by decide⟩

theorem witness_Conversions : ∃ (i : Instr) (s : State) (d b : BitVec 5) (q : SMod) (x : Conv),
    convForm s.me.vctx.vshape i = some (d, b, q, x) ∧ QueueReady s ∧ VlOk s ∧ Declared s [d, b] ∧ Grouped s [b] ∧
    badGroup s.me.vctx.cnt x.group d.toNat = false ∧ overlap d.toNat x.group b.toNat (lmulOf s.me.vctx.vshape) = false :=
  ⟨.vcvtw 0 2 0 ⟨0, 0, 0, 0⟩, mk 0x21 4 [], _, _, _, _, rfl, mk_ready _ _ _, mk_vl _ _ _ (by decide), by unfold Declared; decide,
    by unfold Grouped; decide, by decide, by decide⟩

theorem witness_Conversions_blocks : ∃ (i : Instr) (s : State) (d b : BitVec 5) (v : BitVec 3) (q : SMod) (x : Conv) (o : Int),
    blockForm s.me.vctx.vshape i = some (d, b, v, q, x, o) ∧ QueueReady s ∧ VlOk s ∧ Declared s [d, b] ∧ Grouped s [b] ∧
    badGroup s.me.vctx.cnt x.group d.toNat = false ∧ overlap d.toNat x.group b.toNat (lmulOf s.me.vctx.vshape) = false ∧ v = 0 :=
  ⟨.vcvtdy 1 2 0 ⟨0, 0, 0, 0⟩, mk 3 4 [], _, _, _, _, _, _, rfl, mk_ready _ _ _, mk_vl _ _ _ (by decide), by unfold Declared; decide,
    by unfold Grouped; decide, by decide, by decide, rfl⟩

/-- A value of each kind of type that reads as a number, and two that do not. -/
theorem witness_Conversions_values : (∃ neg q, Reads (.int true 8) 0x80 neg q ∧ neg = true) ∧
    (∀ f ∈ formats, ∃ neg q, Reads (.flt f) 1 neg q ∧ neg = false) ∧ (∃ neg q, Reads .dyad 0x77 neg q) ∧ isInf fp32 0x7F800000 ∧
    isNaN fp32 0x7F800001 ∧ signals fp32 0x7F800001 = true ∧ isNaN e2m1 0 = False :=
  ⟨⟨_, _, ⟨by decide, rfl, rfl⟩, by decide⟩,
    fun f h => ⟨_, _, ⟨h, by revert f; decide, by revert f; decide, rfl, rfl⟩, by revert f; decide⟩,
    ⟨_, _, by decide, rfl, rfl⟩, ⟨by decide, by decide, by decide⟩, ⟨by decide, by decide, by decide, fun _ => by decide⟩, by decide,
    by simp [isNaN, e2m1]⟩

theorem witness_Conversions_scaled : ∃ (x z : Conv) (k n y : Nat), x.dst = .flt e2m1 ∧ z.dst = .dyad ∧ k < 2 ^ 32 ∧ y < 2 ^ 32 ∧
    0 < k ∧ k ≤ 0x7F7FFFFF ∧ n < 2 ^ 32 ∧ 0x7F7FFFFF < n ∧ ∃ neg q, Reads (.flt fp32) y neg q :=
  ⟨⟨.flt fp32, .flt e2m1, 1⟩, ⟨.flt fp32, .dyad, 1⟩, 0x3F800000, 0x7F800000, 5, rfl, rfl, by decide, by decide, by decide,
    by decide, by decide, by decide, _, _, by decide, by decide, by decide, rfl, rfl⟩

theorem witness_ScaleInstructions : ∃ (s : State) (d a b : BitVec 5), QueueReady s ∧ VlOk s ∧ d.toNat < 8 ∧
    etypeOf s.me.vctx.vshape = 3 ∧ s.me.vctx.vlGrant ≤ 4096 ∧ Declared s [b] ∧ Grouped s [b] ∧ Declared s [d] ∧ Grouped s [d] ∧
    a.toNat < 4 :=
  ⟨mk 3 4096 [], 1, 3, 2, mk_ready _ _ _, mk_vl _ _ _ (by decide), by decide, by decide, by decide, by unfold Declared; decide,
    by unfold Grouped; decide, by unfold Declared; decide, by unfold Grouped; decide, by decide⟩

theorem witness_PermuteInstructions : ∃ (s : State) (d a b : BitVec 5), QueueReady s ∧ VlOk s ∧ Declared s [d, a, b] ∧
    Grouped s [d, b] ∧ Grouped s [d, a] ∧ badGroup s.me.vctx.cnt (indexRegs s.me.vctx.vshape) b.toNat = false ∧
    etypeOf s.me.vctx.vshape < 2 ∧ 0 < s.me.vctx.vl :=
  ⟨mk 0x31 4 [], 1, 2, 3, mk_ready _ _ _, mk_vl _ _ _ (by decide), by unfold Declared; decide, by unfold Grouped; decide,
    by unfold Grouped; decide, by decide, by decide, by decide⟩

theorem witness_ReduceAndScan : ∃ (s : State) (d a b : BitVec 5), QueueReady s ∧ VlOk s ∧ Declared s [d, a, b] ∧
    redWrong false d a b 0 s.me.vctx = false ∧ redWrong true d a b 5 s.me.vctx = false ∧ 0 < s.me.vctx.vl ∧
    etypeOf s.me.vctx.vshape < 2 ∧ satOf s.me.vctx.vshape = false :=
  ⟨mk 0x31 4 [], 1, 2, 3, mk_ready _ _ _, mk_vl _ _ _ (by decide), by unfold Declared; decide, by decide, by decide, by decide, by decide,
    by decide⟩

theorem witness_ReduceAndScan_pairs : ∃ (s : State) (d a b : BitVec 5), QueueReady s ∧ VlOk s ∧ Declared s [d, a, b] ∧
    redWrong false d a b 6 s.me.vctx = false ∧ redWrong true d a b 7 s.me.vctx = false ∧ 0 < s.me.vctx.vl ∧
    mpolOf s.me.vctx.vshape = true ∧ (∃ i < s.me.vctx.vl, on s 1 i = true) ∧ ∃ i < s.me.vctx.vl, on s 1 i = false :=
  ⟨{ mk 0x20031 4 [] with me := { strand 0x20031 4 [] with vctx := { (strand 0x20031 4 []).vctx with masks := [(65536, 1)] } } }, 0, 0, 3,
    ⟨rfl, rfl, rfl, rfl, (mk_ready 0x31 4 []).2.2.2.2⟩, mk_vl 0x20031 4 [] (by decide), by unfold Declared; decide, by decide, by decide,
    by decide, by decide, ⟨0, by decide, by decide⟩, 1, by decide, by decide⟩

theorem witness_ReduceAndScan_empty : ∃ (s : State) (d a b : BitVec 5), QueueReady s ∧ VlOk s ∧ Declared s [d, a, b] ∧
    redWrong false d a b 0 s.me.vctx = false ∧ redWrong true d a b 0 s.me.vctx = false ∧ s.me.vctx.vl = 0 :=
  ⟨mk 0x31 0 [], 1, 2, 3, mk_ready _ _ _, mk_vl _ _ _ (by decide), by unfold Declared; decide, by decide, by decide, rfl⟩

theorem witness_HistogramAndTopK : ∃ (s : State) (d a b e : BitVec 5), QueueReady s ∧ VlOk s ∧ Declared s [d, b] ∧ Grouped s [d, b] ∧
    etypeOf s.me.vctx.vshape < 2 ∧ 8 ≤ sewOf s.me.vctx.vshape ∧ overlap d.toNat 1 b.toNat (lmulOf s.me.vctx.vshape) = false ∧
    d.toNat + lmulOf s.me.vctx.vshape + 1 ≤ nregsOf s.me.vctx.cnt ∧
    overlap (d.toNat + lmulOf s.me.vctx.vshape) 1 b.toNat (lmulOf s.me.vctx.vshape) = false ∧ (reg s a).toNat = 64 ∧
    64 < (reg s e).toNat :=
  ⟨mk 0x31 4 [(1, 64), (2, 65)], 0, 1, 2, 2, mk_ready _ _ _, mk_vl _ _ _ (by decide), by unfold Declared; decide,
    by unfold Grouped; decide, by decide, by decide, by decide, by decide, by decide, by decide, by decide⟩

/-- Eight registers. -/
def eight : State := { mk 0x31 64 [] with me := { strand 0x31 64 [] with vctx := { (strand 0x31 64 []).vctx with cnt := 1 } } }

theorem eight_ready : QueueReady eight := ⟨rfl, rfl, rfl, rfl, (mk_ready 0x31 64 []).2.2.2.2⟩

theorem witness_HistogramAndTopK_merge : ∃ (s : State) (d a b : BitVec 5), QueueReady s ∧ VlOk s ∧ Declared s [d, a, b] ∧
    Grouped s [d, a, b] ∧ etypeOf s.me.vctx.vshape < 6 ∧ 0 < s.me.vctx.vlGrant ∧ s.me.vctx.vlGrant = 64 ∧
    d.toNat + lmulOf s.me.vctx.vshape + 1 ≤ nregsOf s.me.vctx.cnt ∧ a.toNat + lmulOf s.me.vctx.vshape + 1 ≤ nregsOf s.me.vctx.cnt ∧
    b.toNat + lmulOf s.me.vctx.vshape + 1 ≤ nregsOf s.me.vctx.cnt ∧
    overlap d.toNat (lmulOf s.me.vctx.vshape + 1) b.toNat (lmulOf s.me.vctx.vshape + 1) = false :=
  ⟨eight, 0, 4, 6, eight_ready, by unfold VlOk; decide, by unfold Declared; decide, by unfold Grouped; decide, by decide,
    by decide, rfl, by decide, by decide, by decide, by decide⟩

/-- A VSHAPE of 32-bit unsigned elements, a VL of 4, and s1 at the scratchpad. -/
def loads : State := mk 0x31 4 [(1, word sp), (2, 4)]

theorem witness_VectorLoads : ∃ (i : Instr) (f : MForm) (s : State) (l : Nat → Loc), loadForm i = some f ∧ QueueReady s ∧ Calm s ∧
    memChecks s f ∧ Located s f .load l :=
  ⟨.vlds 3 1 2 0, _, loads, fun i => .spad (4 * i), rfl, mk_ready _ _ _, calm_of _ rfl rfl rfl rfl rfl,
    ⟨by unfold Declared; decide, by unfold Grouped; decide, mk_vl _ _ _ (by decide), by decide, by intro b hb; cases hb⟩,
    by unfold Located; decide +kernel⟩

theorem witness_VectorLoads_indexed : ∃ (d a b : BitVec 5) (m : BitVec 2) (k : BitVec 1) (f : MForm) (s : State) (l : Nat → Loc),
    loadForm (.vldx d a b m k) = some f ∧ QueueReady s ∧ Calm s ∧ memChecks s f ∧ Located s f .load l ∧ 0 < s.me.vctx.vl :=
  ⟨3, 1, 2, 0, 0, _, loads, fun _ => .spad 0, rfl, mk_ready _ _ _, calm_of _ rfl rfl rfl rfl rfl,
    ⟨by unfold Declared; decide, by unfold Grouped; decide, mk_vl _ _ _ (by decide), by decide, by rintro b ⟨⟩; decide⟩,
    by unfold Located; decide +kernel, by decide⟩

theorem witness_VectorStores : ∃ (i : Instr) (f : MForm) (s : State) (l : Nat → Loc), storeForm i = some f ∧ QueueReady s ∧
    NoDrain s ∧ StoresOk s ∧ Calm s ∧ PortsOnly s ∧ memChecks s f ∧ Located s f .store l ∧ sewOf s.me.vctx.vshape ≠ 4 ∧
    ∀ j < s.me.vctx.vl, ∀ k, on s f.m j = true → l j = .spad k → k % esize (sewOf s.me.vctx.vshape) = 0 :=
  ⟨.vst 3 1 0, _, loads, fun i => .spad (4 * i), rfl, mk_ready _ _ _, rfl, stores_of _ rfl rfl,
    calm_of _ rfl rfl rfl rfl rfl, ports_of _ rfl, ⟨by unfold Declared; decide, by unfold Grouped; decide, mk_vl _ _ _ (by decide),
      by decide, by intro b hb; cases hb⟩,
    by unfold Located; decide +kernel, by decide, by
      rintro j - k - ⟨⟩
      exact Nat.mul_mod_right 4 j⟩

/-- A stride of 4 from the scratchpad's last word: element 1 lies in no region. -/
def strided : State := mk 0x31 4 [(1, word sp), (2, 6)]

theorem witness_VectorLoadStops : ∃ (s : State) (d a b : BitVec 5) (m : BitVec 2) (j : Nat) (l : Nat → Loc), QueueReady s ∧ Calm s ∧
    s.me.hm = false ∧ memChecks s ⟨d, [d], m, strideAddr a b, none, false⟩ ∧ j < s.me.vctx.vl ∧ on s m j = true ∧
    (∀ i < j, on s m i = true → strideAddr a b s i % (sewOf s.me.vctx.vshape / 8) = 0 ∧
      reach s (strideAddr a b s i) .load = .ok (l i)) ∧ strideAddr a b s j % (sewOf s.me.vctx.vshape / 8) ≠ 0 :=
  ⟨strided, 3, 1, 2, 0, 1, fun _ => .spad 0, mk_ready _ _ _, calm_of _ rfl rfl rfl rfl rfl, rfl,
    ⟨by unfold Declared; decide, by unfold Grouped; decide, mk_vl _ _ _ (by decide), by decide, by intro b hb; cases hb⟩,
    by decide, by decide, by decide +kernel, by decide +kernel⟩

/-- The last word of the region, then addresses beyond it. -/
def atEnd : State := mk 0x31 4 [(1, word (sp + 65532))]

theorem witness_VectorLoadStops_first : ∃ (s : State) (d a : BitVec 5) (m : BitVec 2) (j : Nat) (l : Nat → Loc), QueueReady s ∧
    Calm s ∧ memChecks s ⟨d, [d], m, unitAddr a, none, true⟩ ∧ j < s.me.vctx.vl ∧ on s m j = true ∧
    (∃ i < j, on s m i = true) ∧
    (∀ i < j, on s m i = true → unitAddr a s i % esize (sewOf s.me.vctx.vshape) = 0 ∧ reach s (unitAddr a s i) .load = .ok (l i)) ∧
    unitAddr a s j % esize (sewOf s.me.vctx.vshape) = 0 ∧ ∀ p, reach s (unitAddr a s j) .load ≠ .ok p := by
  refine ⟨atEnd, 3, 1, 0, 1, fun _ => .spad 65532, mk_ready _ _ _, calm_of _ rfl rfl rfl rfl rfl,
    ⟨by unfold Declared; decide, by unfold Grouped; decide, mk_vl _ _ _ (by decide), by decide, by intro b hb; cases hb⟩,
    by decide, by decide, ⟨0, by decide, by decide⟩, by decide +kernel, by decide +kernel, ?_⟩
  have h : reach atEnd (unitAddr 1 atEnd 1) .load = .access := by decide +kernel
  intro p; rw [h]; simp

/-- Records of two fields of 32 bits. -/
def records : State :=
  { mk 0x31 4 [(1, word sp), (2, 0x232), (3, 0xB)] with
    me := { strand 0x31 4 [(1, word sp), (2, 0x232), (3, 0xB)] with
      vctx := { VCtx.reset with vshape := 0x31, vl := 4, vlGrant := 4, mfcr := 0x33 } } }

theorem records_ready : QueueReady records := ⟨rfl, rfl, rfl, rfl, (mk_ready 0x31 4 []).2.2.2.2⟩

def recordAddr (s : State) (i f : Nat) : Nat :=
  let w := sewOf s.me.vctx.vshape
  let mw := fun f => mtWidth w (mtOf s.me.vctx.mfcr f)
  let off := fun f => ((List.range f).map mw).sum
  ((reg s 1).toNat + i * (off 2 + field s.me.vctx.mfcr 39 32) + off f) % 2 ^ 64

theorem witness_SegmentForms : ∃ (s : State) (a b : BitVec 5), QueueReady s ∧ Calm s ∧ mfcrOk (reg s a) = true ∧
    mfcrOk (reg s b) = false :=
  ⟨records, 2, 3, records_ready, calm_of _ rfl rfl rfl rfl rfl, by decide +kernel, by decide +kernel⟩

theorem witness_SegmentForms_moves : ∃ (s : State) (d : BitVec 5) (n : BitVec 3) (l : Nat → Nat → Loc), QueueReady s ∧ Calm s ∧
    Declared s [d] ∧ VlOk s ∧ segWrong d n s.me.vctx = false ∧ NoDrain s ∧ StoresOk s ∧ PortsOnly s ∧
    (∀ i < s.me.vctx.vl, ∀ f < n.toNat + 1, recordAddr s i f % mtWidth (sewOf s.me.vctx.vshape) (mtOf s.me.vctx.mfcr f) = 0 ∧
      reach s (recordAddr s i f) .load = .ok (l i f) ∧ reach s (recordAddr s i f) .store = .ok (l i f)) ∧
    (∀ i < s.me.vctx.vl, ∀ f < n.toNat + 1, ∀ x, l i f = .spad x → x % mtWidth (sewOf s.me.vctx.vshape) (mtOf s.me.vctx.mfcr f) = 0) ∧
    ∀ i f i' f' j j', i < s.me.vctx.vl → i' < s.me.vctx.vl → f < n.toNat + 1 → f' < n.toNat + 1 →
      j < mtWidth (sewOf s.me.vctx.vshape) (mtOf s.me.vctx.mfcr f) → j' < mtWidth (sewOf s.me.vctx.vshape) (mtOf s.me.vctx.mfcr f') →
      (l i f).plus j = (l i' f').plus j' → i = i' ∧ f = f' := by
  have w : ∀ f < 2, mtWidth (sewOf records.me.vctx.vshape) (mtOf records.me.vctx.mfcr f) = 4 := by decide
  refine ⟨records, 0, 1, fun i f => .spad (8 * i + 4 * f), records_ready, calm_of _ rfl rfl rfl rfl rfl,
    by unfold Declared; decide, by unfold VlOk; decide, by decide, rfl, stores_of _ rfl rfl, ports_of _ rfl, by decide +kernel, ?_, ?_⟩
  · rintro i - f hf x ⟨⟩
    rw [w f hf]; omega
  · intro i f i' f' j j' _ _ hf hf' hj hj' h
    rw [w f hf] at hj
    rw [w f' hf'] at hj'
    have hf2 : f < 2 := hf
    have hf2' : f' < 2 := hf'
    injection h
    omega

/-- Two elements whose indices are 0 and 4. -/
def spread : State :=
  { mk 0x31 2 [(1, word sp)] with
    me := { strand 0x31 2 [(1, word sp)] with
      vctx := { VCtx.reset with vshape := 0x31, vl := 2, vlGrant := 2, vf := [(131076, 4)] } } }

theorem witness_VectorAtomics : ∃ (s : State) (d a b : BitVec 5) (o : BitVec 4) (m : BitVec 2) (l : Nat → Nat), QueueReady s ∧
    NoDrain s ∧ Calm s ∧ allAccepted s = true ∧ s.me.wcb = [] ∧ s.net = [] ∧ o.toNat < 9 ∧
      memChecks s ⟨d, [d, b], m, indexAddr a b, some b, false⟩ ∧
    etypeOf s.me.vctx.vshape < 2 ∧ sewOf s.me.vctx.vshape = 32 ∧
    Located s ⟨d, [d, b], m, indexAddr a b, some b, false⟩ .store (fun i => .spad (l i)) ∧
    ∀ i < s.me.vctx.vl, ∀ j < s.me.vctx.vl, on s m i = true → on s m j = true → i ≠ j →
      l i + sewOf s.me.vctx.vshape / 8 ≤ l j ∨ l j + sewOf s.me.vctx.vshape / 8 ≤ l i :=
  ⟨spread, 3, 1, 2, 8, 0, fun i => 4 * i, ⟨rfl, rfl, rfl, rfl, (mk_ready 0x31 4 []).2.2.2.2⟩, rfl, calm_of _ rfl rfl rfl rfl rfl, rfl,
    rfl, rfl,
    by decide, ⟨by unfold Declared; decide, by unfold Grouped; decide, by unfold VlOk; decide, by decide, by rintro b ⟨⟩; decide⟩,
    by decide, by decide, by unfold Located; decide +kernel, by
      intro i _ j _ _ _ h
      change 4 * i + 4 ≤ 4 * j ∨ 4 * j + 4 ≤ 4 * i
      omega⟩

/-- A gang of one strand in its own slot, loop 0 set at 10 with iteration 11 posted. -/
def gang1 : Gang :=
  { fn := 0, seq := 0, gang := 0, stack := 0, members := [⟨0, 0, 0, false, false, 0, NodeView.reset, []⟩], areas := [], phase := 0,
    loops := #v[⟨true, 10, 2⟩, ⟨false, 0, 0⟩, ⟨true, 5, 1⟩, ⟨false, 0, 0⟩], lc := 8, lcCap := 8, epoch := 0, placed := true,
    preempting := false, stopping := false, halted := false, slices := 0 }

/-- The same gang with a second strand, and the first arrived. -/
def gang2 (arr : Bool) : Gang :=
  { gang1 with members := [⟨0, 0, 0, false, arr, 0, NodeView.reset, []⟩, ⟨1, 0, 0, false, false, 0, NodeView.reset, []⟩] }

def inGang (g : Gang) (rs : List (Nat × Word)) : State := { mk 0x31 4 rs with gangs := [g] }

theorem inGang_ready (g : Gang) (rs : List (Nat × Word)) : QueueReady (inGang g rs) :=
  ⟨rfl, rfl, rfl, rfl, (mk_ready 0x31 4 rs).2.2.2.2⟩

theorem witness_VectorStores_nibbles : ∃ (s : State) (d a : BitVec 5) (m : BitVec 2) (l : Nat → Loc), QueueReady s ∧ NoDrain s ∧
    StoresOk s ∧ Calm s ∧ PortsOnly s ∧ memChecks s ⟨d, [d], m, unitAddr a, none, true⟩ ∧
    Located s ⟨d, [d], m, unitAddr a, none, true⟩ .store l ∧ sewOf s.me.vctx.vshape = 4 ∧ 0 < s.me.vctx.vl :=
  ⟨mk 0x01 5 [(1, word sp)], 3, 1, 0, fun i => .spad (i / 2), mk_ready _ _ _, rfl, stores_of _ rfl rfl, calm_of _ rfl rfl rfl rfl rfl,
    ports_of _ rfl, ⟨by unfold Declared; decide, by unfold Grouped; decide, mk_vl _ _ _ (by decide), by decide, by intro b hb; cases hb⟩,
    by unfold Located; decide +kernel, by decide, by decide⟩

/-- The lines of a buffer: none, or sixty-four that the stores of `loads` do not meet. -/
def taken (full : Bool) : List WLine := if full then (List.range 64).map fun k => ⟨k + 1000, 0, []⟩ else []

/-- A deterministic strand in a gang of two. -/
def ordered (full : Bool) : State :=
  { loads with gangs := [{ gang2 false with seq := 0 }], me := { loads.me with det := true, wcb := taken full } }

theorem taken_mem (full : Bool) (x : WLine) (h : x ∈ taken full) : x.line ≠ 0 ∧ x.held = 0 ∧ x.bytes = [] := by
  cases full
  · cases h
  · obtain ⟨k, -, rfl⟩ := List.mem_map.mp h
    exact ⟨by show k + 1000 ≠ 0; omega, rfl, rfl⟩

theorem witness_VectorStores_ordered : ∀ full : Bool, ∃ (i : Instr) (f : MForm) (s : State) (l : Nat → Loc), storeForm i = some f ∧
    QueueReady s ∧ s.me.det = true ∧ StoresOk s ∧ Calm s ∧ PortsOnly s ∧ memChecks s f ∧ Located s f .store l ∧
    sewOf s.me.vctx.vshape ≠ 4 ∧
    (∀ j < s.me.vctx.vl, ∀ k, on s f.m j = true → l j = .spad k → k % esize (sewOf s.me.vctx.vshape) = 0) ∧
    on s f.m 0 = true ∧ l 0 = .spad 0 ∧ alone s = false ∧ (∀ x ∈ s.me.wcb, x.line ≠ 0) ∧ (∀ j < s.me.vctx.vl, l j = l 0 → j = 0) ∧
    if full then s.me.wcb.length = 64 else s.me.wcb.length + s.me.vctx.vl ≤ 64 := by
  intro full
  refine ⟨.vst 3 1 0, ⟨3, [3], 0, unitAddr 1, none, true⟩, ordered full, fun i => .spad (4 * i), rfl,
    ⟨rfl, rfl, rfl, rfl, (mk_ready 0x31 4 []).2.2.2.2⟩, rfl, ⟨by cases full <;> decide +kernel, ?_, (by intro x hx; cases hx),
      by cases full <;> decide +kernel, List.Pairwise.nil⟩,
    ⟨nothing_of _ rfl rfl rfl rfl, (by intro q hq; cases hq), fun x hx => (taken_mem full x hx).2.1, by intro x hx; cases hx⟩, ports_of _ rfl,
    ⟨by cases full <;> (unfold Declared; decide), by cases full <;> (unfold Grouped; decide), mk_vl 0x31 4 [] (by decide),
      fun h => absurd h (by decide), by intro b hb; cases hb⟩, by cases full <;> (unfold Located; decide +kernel),
    by cases full <;> decide, ?_, by cases full <;> decide, rfl, by cases full <;> decide, fun x hx => (taken_mem full x hx).1, ?_,
    by cases full <;> decide⟩
  · intro x hx
    rw [(taken_mem full x hx).2.2]
    exact ⟨List.Pairwise.nil, by simp⟩
  · rintro j - k - ⟨⟩
    cases full <;> exact Nat.mul_mod_right 4 j
  · intro j _ h
    simp only [Loc.spad.injEq] at h
    omega

/-- Where an access lands, for any address that passes. -/
def landing (s : State) (f : MForm) (acc : Acc) (i : Nat) : Loc :=
  match reach s (f.addr s i) acc with
  | .ok p => p
  | _ => .spad 0

theorem placed_landing (s : State) (f : MForm) (acc : Acc) : Placed s f acc (landing s f acc) := by
  intro i h
  unfold passesAt at h
  unfold landing
  split <;> simp_all

/-- A base that no element is aligned at, or one beyond the region. -/
def askew (base : Nat) : State := mk 0x31 4 [(1, word base)]

theorem unit_checks (base : Nat) (h : base = sp + 1 ∨ base = sp + 65536) :
    memChecks (askew base) ⟨3, [3], 0, unitAddr 1, none, true⟩ := by
  rcases h with rfl | rfl <;> exact
  ⟨by unfold Declared; decide, by unfold Grouped; decide, mk_vl _ _ _ (by decide), fun h => absurd h (by decide),
    by intro b hb; cases hb⟩

theorem index_checks (base : Nat) (h : base = sp + 1 ∨ base = sp + 65536) :
    memChecks (askew base) ⟨3, [3, 2], 0, indexAddr 1 2, some 2, false⟩ := by
  rcases h with rfl | rfl <;> exact
  ⟨by unfold Declared; decide, by unfold Grouped; decide, mk_vl _ _ _ (by decide), fun _ => by decide, by rintro b ⟨⟩; decide⟩

/-- Its first element stops at once. -/
theorem stops_askew (f : MForm) (acc : Acc) (base : Nat) (h : f.addr (askew base) 0 = base) (m : f.m = 0) :
    (base = sp + 1 → StopsFirst (askew base) f acc (landing (askew base) f acc) 0 3) ∧
      (base = sp + 65536 → StopsFirst (askew base) f acc (landing (askew base) f acc) 0 4) := by
  constructor <;> (rintro rfl; refine ⟨by decide, by rw [m]; decide, fun i hi => absurd hi (Nat.not_lt_zero i), ?_⟩; rw [h])
  · exact .inl ⟨rfl, by decide⟩
  · exact .inr ⟨rfl, by decide, by cases acc <;> decide +kernel⟩

theorem witness_VectorLoadStops_loads : ∀ (base c : Nat), (base = sp + 1 ∧ c = 3) ∨ (base = sp + 65536 ∧ c = 4) →
    ∀ i ∈ [Instr.vld 3 1 0, .vldff 3 1 0, .vldx 3 1 2 0 0, .vldxo 3 1 2 0 0], ∃ (f : MForm) (s : State) (l : Nat → Loc) (j : Nat),
      loadForm i = some f ∧ QueueReady s ∧ Calm s ∧ s.me.hm = false ∧ memChecks s f ∧ StopsFirst s f .load l j c ∧ Placed s f .load l ∧
      ∀ k < j, on s f.m k = false := by
  have all : ∀ base c, (base = sp + 1 ∧ c = 3) ∨ (base = sp + 65536 ∧ c = 4) → ∀ i f, loadForm i = some f → memChecks (askew base) f →
      f.addr (askew base) 0 = base → f.m = 0 → ∃ (f : MForm) (s : State) (l : Nat → Loc) (j : Nat),
      loadForm i = some f ∧ QueueReady s ∧ Calm s ∧ s.me.hm = false ∧ memChecks s f ∧ StopsFirst s f .load l j c ∧ Placed s f .load l ∧
      ∀ k < j, on s f.m k = false := by
    intro base c hb i f hi hm ha h0
    refine ⟨f, askew base, landing _ f .load, 0, hi, mk_ready _ _ _, calm_of _ rfl rfl rfl rfl rfl, rfl, hm, ?_, placed_landing _ _ _,
      fun k hk => absurd hk (Nat.not_lt_zero k)⟩
    rcases hb with ⟨rfl, rfl⟩ | ⟨rfl, rfl⟩
    · exact (stops_askew f .load _ ha h0).1 rfl
    · exact (stops_askew f .load _ ha h0).2 rfl
  intro base c hb i hi
  simp only [List.mem_cons, List.not_mem_nil, or_false] at hi
  rcases hi with rfl | rfl | rfl | rfl
  · exact all base c hb _ _ rfl (unit_checks base (hb.imp And.left And.left)) (by rcases hb with ⟨rfl, -⟩ | ⟨rfl, -⟩ <;> decide +kernel) rfl
  · exact all base c hb _ _ rfl (unit_checks base (hb.imp And.left And.left)) (by rcases hb with ⟨rfl, -⟩ | ⟨rfl, -⟩ <;> decide +kernel) rfl
  · exact all base c hb _ _ rfl (index_checks base (hb.imp And.left And.left)) (by rcases hb with ⟨rfl, -⟩ | ⟨rfl, -⟩ <;> decide +kernel) rfl
  · exact all base c hb _ _ rfl (index_checks base (hb.imp And.left And.left)) (by rcases hb with ⟨rfl, -⟩ | ⟨rfl, -⟩ <;> decide +kernel) rfl

theorem witness_VectorLoadStops_stores : ∀ i ∈ [Instr.vst 3 1 0, .vstx 3 1 2 0 0, .vstxo 3 1 2 0 0],
    ∃ (f : MForm) (s : State) (l : Nat → Loc) (j : Nat), storeForm i = some f ∧ QueueReady s ∧ NoDrain s ∧ StoresOk s ∧ Calm s ∧
      PortsOnly s ∧ s.me.hm = false ∧ memChecks s f ∧ StopsFirst s f .store l j 3 ∧ sewOf s.me.vctx.vshape ≠ 4 ∧ Placed s f .store l ∧
      ∀ k < s.me.vctx.vl, passesAt s f .store k = true → ∀ x, l k = .spad x → x % esize (sewOf s.me.vctx.vshape) = 0 := by
  have all : ∀ i f, storeForm i = some f → memChecks (askew (sp + 1)) f → f.addr (askew (sp + 1)) 0 = sp + 1 → f.m = 0 →
      (∀ k < 4, passesAt (askew (sp + 1)) f .store k = false) →
      ∃ (f : MForm) (s : State) (l : Nat → Loc) (j : Nat), storeForm i = some f ∧ QueueReady s ∧ NoDrain s ∧ StoresOk s ∧ Calm s ∧
      PortsOnly s ∧ s.me.hm = false ∧ memChecks s f ∧ StopsFirst s f .store l j 3 ∧ sewOf s.me.vctx.vshape ≠ 4 ∧ Placed s f .store l ∧
      ∀ k < s.me.vctx.vl, passesAt s f .store k = true → ∀ x, l k = .spad x → x % esize (sewOf s.me.vctx.vshape) = 0 := by
    intro i f hi hm ha h0 hp
    exact ⟨f, askew (sp + 1), landing _ f .store, 0, hi, mk_ready _ _ _, rfl, stores_of _ rfl rfl, calm_of _ rfl rfl rfl rfl rfl,
      ports_of _ rfl, rfl, hm, (stops_askew f .store _ ha h0).1 rfl, by decide, placed_landing _ _ _,
      fun k hk h => absurd h (by rw [hp k hk]; decide)⟩
  intro i hi
  simp only [List.mem_cons, List.not_mem_nil, or_false] at hi
  rcases hi with rfl | rfl | rfl
  · exact all _ _ rfl (unit_checks _ (.inl rfl)) (by decide +kernel) rfl (by decide +kernel)
  · exact all _ _ rfl (index_checks _ (.inl rfl)) (by decide +kernel) rfl (by decide +kernel)
  · exact all _ _ rfl (index_checks _ (.inl rfl)) (by decide +kernel) rfl (by decide +kernel)

/-- Records that no field is aligned at. -/
def skewed : State := { records with me := { records.me with regs := regsOf [(1, word (sp + 1))] } }

theorem witness_VectorLoadStops_segments : ∃ (s : State) (d a : BitVec 5) (n : BitVec 3) (m : BitVec 2) (j g : Nat), QueueReady s ∧ Calm s ∧
    NoDrain s ∧ StoresOk s ∧ PortsOnly s ∧ s.me.hm = false ∧ Declared s [d] ∧ VlOk s ∧ segWrong d n s.me.vctx = false ∧
    j < s.me.vctx.vl ∧ on s m j = true ∧ g ≤ n.toNat ∧ (∀ i ≤ j, ∀ x ≤ n.toNat, ¬(i < j ∨ x < g)) ∧
    recordAddr s j g % mtWidth (sewOf s.me.vctx.vshape) (mtOf s.me.vctx.mfcr g) ≠ 0 ∧ a = 1 :=
  ⟨skewed, 2, 1, 1, 0, 0, 0, ⟨rfl, rfl, rfl, rfl, (mk_ready 0x31 4 []).2.2.2.2⟩, calm_of _ rfl rfl rfl rfl rfl, rfl, stores_of _ rfl rfl,
    ports_of _ rfl, rfl, by unfold Declared; decide, mk_vl 0x31 4 [] (by decide), by decide, by decide, by decide, by decide, by omega,
    by decide +kernel, rfl⟩

theorem witness_FencesPerform : ∃ s : State, QueueReady s ∧ NoDrain s ∧ StoresOk s ∧ Calm s ∧ allAccepted s = true ∧ myWindows s = [] ∧
    fencesDone s.nextId s = true ∧ linksIdle s = true :=
  ⟨mk 0x31 4 [], mk_ready _ _ _, rfl, stores_of _ rfl rfl, calm_of _ rfl rfl rfl rfl rfl, rfl, rfl, by decide, rfl⟩

/-- A window over link 3 whose tenant is the strand's. -/
def windowed : State :=
  { mk 0x31 4 [] with dev := { State.reset.dev with windows := [(2, { Window.reset with valid := true, links := 8, pkg := 1 })] } }

theorem witness_FencesPerform_peers : ∃ s : State, QueueReady s ∧ NoDrain s ∧ Calm s ∧ allAccepted s = true ∧ linksIdle s = true ∧
    myWindows s ≠ [] :=
  ⟨windowed, ⟨rfl, rfl, rfl, rfl, (mk_ready 0x31 4 []).2.2.2.2⟩, rfl, calm_of _ rfl rfl rfl rfl rfl, rfl, rfl, by decide +kernel⟩

theorem witness_IterationRing : ∃ (s : State) (a b : BitVec 5) (l u : BitVec 2) (g : Gang) (m : Member), QueueReady s ∧ NoDrain s ∧ Calm s ∧
    allAccepted s = true ∧ myGang s = some g ∧ g.members[s.me.lsn]? = some m ∧
    (loopOf s l).set = true ∧ (reg s a).toNat < (loopOf s l).f.toNat + 64 ∧ ¬posted (loopOf s l) (reg s a).toNat ∧
    (reg s b).toNat ≤ 2 ^ 64 - 65 ∧ posted (loopOf s l) (reg s b).toNat ∧ s.me.hm = false ∧ (loopOf s u).set = false :=
  ⟨inGang gang1 [(1, 73), (2, 11)], 1, 2, 0, 1, gang1, _, inGang_ready _ _, rfl, calm_of _ rfl rfl rfl rfl rfl, rfl, by decide +kernel, rfl,
    by decide +kernel, by decide +kernel, by unfold posted; decide +kernel, by decide +kernel, by unfold posted; decide +kernel, rfl,
    by decide +kernel⟩

theorem witness_Barriers : ∃ (s : State) (g : Gang) (m : Member), QueueReady s ∧ NoDrain s ∧ Calm s ∧
    allAccepted s = true ∧ myGang s = some g ∧
    g.members[s.me.lsn]? = some m ∧ m.arr = false ∧ m.ended = false ∧ m.target ≤ g.phase ∧
    ¬∀ j x, g.members[j]? = some x → j ≠ s.me.lsn → x.ended = true ∨ x.arr = true :=
  ⟨inGang (gang2 false) [], gang2 false, _, inGang_ready _ _, rfl, calm_of _ rfl rfl rfl rfl rfl, rfl, by decide +kernel, rfl, rfl, rfl,
    by decide, fun h => by
    have := h 1 _ rfl (by decide)
    simp at this⟩

theorem witness_Barriers_last : ∃ (s : State) (g : Gang) (m : Member), QueueReady s ∧ NoDrain s ∧ Calm s ∧
    allAccepted s = true ∧ myGang s = some g ∧
    g.members[s.me.lsn]? = some m ∧ m.arr = false ∧ m.ended = false ∧
    ∀ j x, g.members[j]? = some x → j ≠ s.me.lsn → x.ended = true ∨ x.arr = true :=
  ⟨inGang gang1 [], gang1, _, inGang_ready _ _, rfl, calm_of _ rfl rfl rfl rfl rfl, rfl, by decide +kernel, rfl, rfl, rfl, by
    intro j x h hj
    cases j with
    | zero => exact absurd rfl hj
    | succ j => simp [gang1] at h⟩

theorem witness_Barriers_twice : ∃ (s : State) (g : Gang) (m : Member), QueueReady s ∧ NoDrain s ∧ Calm s ∧
    allAccepted s = true ∧ myGang s = some g ∧
    g.members[s.me.lsn]? = some m ∧ s.me.hm = false ∧ m.arr = true :=
  ⟨inGang (gang2 true) [], gang2 true, _, inGang_ready _ _, rfl, calm_of _ rfl rfl rfl rfl rfl, rfl, by decide +kernel, rfl, rfl, rfl⟩

/-- A strand with a handle in slot 0, value 0x100, and registers at the scratchpad. -/
def handles1 (rs : List (Nat × Word)) : State :=
  { mk 0x31 4 rs with me := { strand 0x31 4 rs with handles := [(0, ⟨0, 16, 16, 0⟩)] } }

theorem handles1_ready (rs : List (Nat × Word)) : QueueReady (handles1 rs) := ⟨rfl, rfl, rfl, rfl, (mk_ready 0x31 4 rs).2.2.2.2⟩

/-- A descriptor of a run in host space, and one that is refused. -/
theorem witness_RunHandles : ∃ (s : State) (a b : BitVec 5) (bs : List Byte) (k : Nat), QueueReady s ∧ Calm s ∧
    padRead s (reg s a).toNat 8 4 = .ok bs ∧ freeSlot s.me = some k ∧
    refusal (wordAt bs 0) (wordAt bs 1) (wordAt bs 2) (wordAt bs 3) = 0 ∧ (handleOf s.me (reg s b)).isSome = true ∧
    handleOf s.me (reg s a) = none :=
  ⟨handles1 [(1, word sp), (2, 0x100)], 1, 2, _, 1, handles1_ready _, calm_of _ rfl rfl rfl rfl rfl, rfl, by decide +kernel,
    by decide +kernel, by decide +kernel,
    by decide +kernel⟩

theorem witness_RunHandles_refused : ∃ (s : State) (a : BitVec 5) (bs : List Byte) (k : Nat), QueueReady s ∧ Calm s ∧
    padRead s (reg s a).toNat 8 4 = .ok bs ∧ freeSlot s.me = some k ∧
    refusal (wordAt bs 0) (wordAt bs 1) (wordAt bs 2) (wordAt bs 3) ≠ 0 :=
  ⟨{ handles1 [(1, word sp)] with spad := [(7, 1)] }, 1, _, 1, handles1_ready _, calm_of _ rfl rfl rfl rfl rfl, rfl, by decide +kernel,
    by decide +kernel⟩

theorem witness_RunHandles_full : ∃ (s : State) (a : BitVec 5) (bs : List Byte), QueueReady s ∧ Calm s ∧
    padRead s (reg s a).toNat 8 4 = .ok bs ∧ freeSlot s.me = none :=
  ⟨{ mk 0x31 4 [(1, word sp)] with me := { strand 0x31 4 [(1, word sp)] with handles := (List.range 256).map fun k => (k, ⟨0, 0, 0, 0⟩) } },
    1, _, ⟨rfl, rfl, rfl, rfl, (mk_ready 0x31 4 [(1, word sp)]).2.2.2.2⟩, calm_of _ rfl rfl rfl rfl rfl, rfl, by decide +kernel⟩

theorem witness_CommandPushes : ∃ (s : State) (i : Instr) (f : CmdForm), QueueReady s ∧ NoDrain s ∧ Calm s ∧ cmdForm s i = some f ∧
    (fifo s f.q).ws = false ∧ (fifo s f.q).out < 16 ∧ ∀ r ∈ f.hs, (handleOf s.me (reg s r)).isSome = true :=
  ⟨handles1 [(1, 0x100), (2, 0x100)], .rmerge 1 2 2 0 0 0 15, _, handles1_ready _, rfl, calm_of _ rfl rfl rfl rfl rfl, rfl, rfl,
    by decide, by decide +kernel⟩

theorem witness_CommandPushes_lists : ∃ (s : State) (d a b e : BitVec 5) (q : BitVec 4) (bs hd cs : List Byte), QueueReady s ∧ NoDrain s ∧
    Calm s ∧
    (fifo s q).ws = false ∧ (fifo s q).out < 16 ∧ (handleOf s.me (reg s d)).isSome = true ∧ (reg s b).toNat = 2 ∧
    padRead (flushAll s) (reg s a).toNat 2 (reg s b).toNat = .ok bs ∧ padRead (flushAll s) (reg s e).toNat 8 1 = .ok hd ∧
    ofBytes (hd.take 2) = 2 ∧ padRead (flushAll s) ((reg s e).toNat + 8) 8 (2 - 1 + (2 * 2 + 7) / 8) = .ok cs :=
  ⟨{ handles1 [(1, 0x100), (2, word sp), (3, 2), (4, word (sp + 64))] with spad := [(64, 2)] }, 1, 2, 3, 4, 0,
    [0, 0, 0, 0], [2, 0, 0, 0, 0, 0, 0, 0], List.replicate 16 0, handles1_ready _, rfl, calm_of _ rfl rfl rfl rfl rfl, rfl, by decide,
      by decide +kernel,
    by decide +kernel, by decide +kernel, by decide +kernel, by decide +kernel, by decide +kernel⟩

/-- A record of a key, four bytes, and the FIFO it stands in with a completion behind it. -/
def withFifo (f : Fifo) (rs : List (Nat × Word)) : State :=
  { mk 0x31 1 rs with me := { strand 0x31 1 rs with fifos := [(3, f)] } }

theorem withFifo_ready (f : Fifo) (rs : List (Nat × Word)) : QueueReady (withFifo f rs) :=
  ⟨rfl, rfl, rfl, rfl, (mk_ready 0x31 1 rs).2.2.2.2⟩

def delivered : Fifo := { out := 1, ws := false, cmds := [], res := [.record [1, 2, 3, 4], .done 5 []], unpopped := [(true, 0)] }

def writer : Cmd :=
  { kind := .wrstr, srcs := [], dsts := [⟨0, 1, ⟨0, 0, 16, 0⟩⟩], cspec := [0, 0, 0, 0], bad := 0, phase := .stream, count := 0,
    pushed := [], pushEnd := false, sorted := true, lastKey := 0, addr := 0, src := 0, cause := 0, faults := [], resume := .stream, off := 0, fixed := 0,
    batch := (0, 0), reads := [], writes := [], held := none }

def writing : Fifo := { out := 1, ws := true, cmds := [writer], res := [], unpopped := [(false, 0)] }

theorem withFifo_vl (f : Fifo) (rs : List (Nat × Word)) : VlOk (withFifo f rs) := mk_vl 0x31 1 rs (by decide)

theorem witness_FifoTransfers : ∃ (s : State) (q : BitVec 4) (d a : BitVec 5) (k : BitVec 2) (rs : List Rec) (r : ResElem) (rest : List ResElem),
    QueueReady s ∧ Calm s ∧ (fifo s q).ws = false ∧ 0 < (fifo s q).out ∧ (fifo s q).res = rs.map ResElem.record ++ r :: rest ∧
      r = .done 5 [] ∧
    Declared s [d] ∧ VlOk s ∧ qWrong d (k.toNat + 1) s.me.vctx = false ∧ rs.length = s.me.vctx.vl ∧
    fieldTrap (.qpop d a k q) ((fifo s q).unpopped.headD (false, 0)).2 (k.toNat + 1) s = none :=
  ⟨withFifo delivered [], 3, 1, 2, 0, [[1, 2, 3, 4]], _, [], withFifo_ready _ _, calm_of _ rfl rfl rfl rfl rfl, rfl, by decide, rfl, rfl,
    by unfold Declared; decide,
    withFifo_vl _ _, by decide, rfl, by decide⟩

theorem witness_FifoTransfers_push : ∃ (s : State) (q : BitVec 4) (d : BitVec 5) (k : BitVec 2) (en : BitVec 1) (c : Cmd), QueueReady s ∧
    Calm s ∧
    Declared s [d] ∧ VlOk s ∧ NoDrain s ∧ qWrong d (k.toNat + 1) s.me.vctx = false ∧ (fifo s q).ws = true ∧
    fieldTrap (.qpush d en k q) ((fifo s q).unpopped.getLastD (false, 0)).2 (k.toNat + 1) s = none ∧
    openWriter (fifo s q) = some c ∧ c.phase ≠ .stall :=
  ⟨withFifo writing [], 3, 1, 0, 1, writer, withFifo_ready _ _, calm_of _ rfl rfl rfl rfl rfl, by unfold Declared; decide,
    withFifo_vl _ _, rfl, by decide, rfl, by decide,
    by decide, by decide⟩

theorem witness_FifoTransfers_block : ∃ (s u : State) (a b : BitVec 5) (bs cs : List Byte), QueueReady s ∧ Calm s ∧
    padRead s (reg s a).toNat 8 4 = .ok bs ∧ cspecOk (wordAt bs 0) = true ∧ QueueReady u ∧ Calm u ∧ padRead u (reg u b).toNat 8 4 = .ok cs ∧
    cspecOk (wordAt cs 0) = false ∧ u.me.hm = false :=
  ⟨withFifo writing [(1, word sp)], { withFifo writing [(1, word sp)] with spad := [(7, 1)] }, 1, 1, List.replicate 32 0,
    [0, 0, 0, 0, 0, 0, 0, 1] ++ List.replicate 24 0, withFifo_ready _ _, calm_of _ rfl rfl rfl rfl rfl, by decide +kernel,
      by decide +kernel, withFifo_ready _ _, calm_of _ rfl rfl rfl rfl rfl,
    by decide +kernel, by decide +kernel, rfl⟩

theorem witness_FifoTransfers_wrong : ∃ (s u : State) (d a : BitVec 5) (q : BitVec 4) (k : BitVec 2), Running s ∧ s.me.vown = true ∧
    s.me.hm = false ∧ (fifo s q).ws = true ∧ (handleOf u.me (reg u a)).isSome = true ∧ Declared u [d] ∧
    qWrong d (k.toNat + 1) u.me.vctx = false ∧ (fifo u q).ws = false ∧ (fifo u q).out = 16 ∧
    ∀ i ∈ [Instr.rdstr a 2 q, .wrstr a q, .rsort a a 0 0 q, .rsort 0 a 0 1 q, .rmerge a a a 0 0 0 q, .rjoin a a a 0 0 q],
      ∃ f, cmdForm u i = some f ∧ f.q = q ∧ ∀ r ∈ f.hs, (handleOf u.me (reg u r)).isSome = true :=
  ⟨withFifo writing [], { withFifo { delivered with out := 16 } [(1, 0x100)] with
    me := { (withFifo { delivered with out := 16 } [(1, 0x100)]).me with handles := [(0, ⟨0, 16, 16, 0⟩)] } }, 1, 1, 3, 0, rfl, rfl, rfl,
      rfl,
    by decide +kernel, by unfold Declared; decide, by decide, rfl, rfl, by
      intro i hi
      simp only [List.mem_cons, List.not_mem_nil, or_false] at hi
      rcases hi with rfl | rfl | rfl | rfl | rfl | rfl <;> exact ⟨_, rfl, rfl, by decide +kernel⟩⟩

/-- Matrix mode with MVL, rows held, tile slot 2 of 1,024 rows, and registers. -/
def matrix (mvl : Word) (rows : Nat) (rs : List (Nat × Word)) : State :=
  { mk 0x31 4 rs with
    hearths := [(0, { Hearth.reset with heights := [(2, 1024)] })]
    me := { strand 0x31 4 rs with
      accRows := rows, vctx := { VCtx.reset with vshape := 0x31, vl := 4, vlGrant := 4, mvl := mvl, mgrant := rows } } }

theorem matrix_ready (mvl : Word) (rows : Nat) (rs : List (Nat × Word)) : QueueReady (matrix mvl rows rs) :=
  ⟨rfl, rfl, rfl, rfl, (mk_ready 0x31 4 rs).2.2.2.2⟩

theorem witness_AccumulatorGrant : ∃ (s : State) (a : BitVec 5), QueueReady s ∧ matrixOn s.me.vctx.mvl = true ∧
    (reg s a).toNat % 16 = 0 ∧ (reg s a).toNat ≤ 256 ∧
    ((reg s a).toNat ≤ s.me.vctx.mgrant ∨ (reg s a).toNat - s.me.vctx.mgrant ≤ freeRows s s.me.core) :=
  ⟨matrix 0x4001 16 [(1, 256)], 1, matrix_ready _ _ _, by decide, by decide +kernel, by decide +kernel, by decide +kernel⟩

theorem witness_AccumulatorGrant_outside : ∃ (s : State) (d a b : BitVec 5), Running s ∧ s.me.vown = true ∧ s.me.hm = false ∧
    matrixOn s.me.vctx.mvl = false ∧ Declared s [d, a, b] :=
  ⟨matrix 0 0 [], 1, 2, 3, rfl, rfl, rfl, by decide, by unfold Declared; decide⟩

theorem witness_TileLoads : ∃ (s : State) (a : BitVec 5) (r : BitVec 8), QueueReady s ∧ Calm s ∧ PortIdle s ∧ r.toNat < 16 ∧
    height s r.toNat ≤ 4096 ∧
    (reg s a).toNat = 4096 :=
  ⟨matrix 0 0 [(1, 4096)], 1, 15, matrix_ready _ _ _, calm_of _ rfl rfl rfl rfl rfl, by unfold PortIdle; decide, by decide, by decide,
    by decide +kernel⟩

/-- Rows 960 to 1,023 of slot 2, from the scratchpad. -/
theorem witness_TileLoads_rows : ∃ (s : State) (a b : BitVec 5) (r : BitVec 8) (l : Nat → Loc), QueueReady s ∧ Calm s ∧ PortIdle s ∧
    r.toNat < 16 ∧
    height s r.toNat ≤ 4096 ∧ rowSpanOk (reg s b) = true ∧ spanFirst (reg s b) + spanCount (reg s b) ≤ height s r.toNat ∧
    (reg s a).toNat % 256 = 0 ∧ ∀ x < spanCount (reg s b), hostSize ≤ ((reg s a).toNat + 256 * x) % 2 ^ 64 ∧
      reach s (((reg s a).toNat + 256 * x) % 2 ^ 64) .load = .ok (l x) :=
  ⟨matrix 0 0 [(1, word sp), (2, 0x4003C0)], 1, 2, 2, fun x => .spad (256 * x), matrix_ready _ _ _, calm_of _ rfl rfl rfl rfl rfl,
    by unfold PortIdle; decide, by decide, by decide +kernel,
    by decide +kernel, by decide +kernel, by decide +kernel, by decide +kernel⟩

theorem witness_TileLoads_scales : ∃ (s : State) (a b : BitVec 5) (r : BitVec 8) (l : Nat → Loc), QueueReady s ∧ Calm s ∧ PortIdle s ∧
    r.toNat < 16 ∧
    height s r.toNat ≤ 4096 ∧ blockSpanOk (reg s b) = true ∧ 64 * (spanFirst (reg s b) + spanCount (reg s b)) ≤ height s r.toNat ∧
    (reg s a).toNat % 256 = 0 ∧ ∀ x < 4 * spanCount (reg s b), hostSize ≤ ((reg s a).toNat + 256 * x) % 2 ^ 64 ∧
      reach s (((reg s a).toNat + 256 * x) % 2 ^ 64) .load = .ok (l x) :=
  ⟨matrix 0 0 [(1, word sp), (2, 0x1000F)], 1, 2, 2, fun x => .spad (256 * x), matrix_ready _ _ _, calm_of _ rfl rfl rfl rfl rfl,
    by unfold PortIdle; decide, by decide, by decide +kernel,
    by decide +kernel, by decide +kernel, by decide +kernel, by decide +kernel⟩

/-- The result FIFO with 256 records of 64 bytes. -/
def tiled : State :=
  { matrix 0 0 [(2, 0x400000)] with
    me := { (matrix 0 0 [(2, 0x400000)]).me with
      fifos := [(3,
        { out := 1, ws := false, cmds := [], unpopped := [(true, 3)],
          res := List.replicate 256 (.record (List.replicate 64 0)) })] } }

theorem witness_TileLoads_records : ∃ (s : State) (b : BitVec 5) (q : BitVec 4) (r : BitVec 8) (rs : List Rec) (rest : List ResElem),
    QueueReady s ∧ Calm s ∧ PortIdle s ∧ r.toNat < 16 ∧ height s r.toNat ≤ 4096 ∧ rowSpanOk (reg s b) = true ∧
    spanFirst (reg s b) + spanCount (reg s b) ≤ height s r.toNat ∧ (fifo s q).ws = false ∧ 0 < (fifo s q).out ∧
    streams64 s q.toNat = none ∧ (fifo s q).res = rs.map ResElem.record ++ rest ∧ rs.length = 4 * spanCount (reg s b) ∧
    ∀ x ∈ rs, x.length = 64 :=
  ⟨tiled, 2, 3, 2, List.replicate 256 (List.replicate 64 0), [], ⟨rfl, rfl, rfl, rfl, (mk_ready 0x31 4 []).2.2.2.2⟩,
    calm_of _ rfl rfl rfl rfl rfl,
    by unfold PortIdle; decide, by decide,
    by decide +kernel, by decide +kernel, by decide +kernel, rfl, by decide, by decide +kernel, by decide +kernel, by decide +kernel,
    by decide +kernel⟩

theorem witness_MatrixAccumulate : ∃ (s u : State) (a b : BitVec 5) (f : BitVec 2) (r : BitVec 8), QueueReady s ∧ PortIdle s ∧
    matrixOn s.me.vctx.mvl = true ∧ Declared s [b] ∧ matrixPath s.me.vctx.mvl = false ∧ field (reg s a) 15 4 = 0 ∧
    field (reg s a) 63 32 = 0 ∧ selRow (reg s a) % 64 = 0 ∧ r.toNat < s.me.vctx.mgrant ∧ 0 < height s (selSlot (reg s a)) ∧
    selRow (reg s a) + mvlOf s.me.vctx.mvl = height s (selSlot (reg s a)) ∧
    QueueReady u ∧ PortIdle u ∧ matrixOn u.me.vctx.mvl = true ∧ Declared u [a, b] ∧ matrixPath u.me.vctx.mvl = true ∧ f ≠ 3 ∧
    mvlOf u.me.vctx.mvl ≤ 256 ∧ r.toNat + mvlOf u.me.vctx.mvl ≤ u.me.vctx.mgrant :=
  ⟨matrix 0x4040 16 [(1, 0x3C00002)], matrix 0x6001 16 [], 1, 2, 2, 15, matrix_ready _ _ _, by unfold PortIdle; decide, by decide,
    by unfold Declared; decide, by decide,
    by decide +kernel, by decide +kernel, by decide +kernel, by decide, by decide +kernel, by decide +kernel, matrix_ready _ _ _,
      by unfold PortIdle; decide,
    by decide, by unfold Declared; decide, by decide, by decide, by decide, by decide⟩

theorem witness_AccumulatorRows : ∃ (s : State) (d a : BitVec 5) (r : BitVec 8), QueueReady s ∧ matrixOn s.me.vctx.mvl = true ∧
    a ≠ 0 ∧ (reg s a).toNat = 64 ∧ 64 ≤ 256 - r.toNat ∧ r.toNat + 64 ≤ s.me.vctx.mgrant ∧ Declared s [d] ∧
    64 ≤ rbOf s.me.vctx.cnt / 1024 :=
  ⟨matrix 0x4001 80 [(1, 64)], 3, 1, 16, matrix_ready _ _ _, by decide, by decide, by decide +kernel, by decide, by decide,
    by unfold Declared; decide, by decide⟩

theorem witness_MatrixSaveAreas : ∃ (s : State) (a : BitVec 5) (l : Nat → Loc), QueueReady s ∧ Calm s ∧ inPreemption s = false ∧
    NoDrain s ∧ PortsOnly s ∧ StoresOk s ∧
    AreaAt s a (8 + 128 * s.me.vctx.mgrant) .store l ∧ ∀ j < 8 + 128 * s.me.vctx.mgrant, ∀ k, l j = .spad k → k % 8 = 0 :=
  ⟨matrix 0x4001 16 [(1, word sp)], 1, fun j => .spad (8 * j), matrix_ready _ _ _, calm_of _ rfl rfl rfl rfl rfl, by decide, rfl,
    ports_of _ rfl, stores_of _ rfl rfl,
    by unfold AreaAt; decide +kernel, by rintro j - k ⟨⟩; exact Nat.mul_mod_right 8 j⟩

/-- An area of sixteen rows. -/
def area16 : State := { matrix 0x4001 0 [(1, word sp)] with spad := [(0, 16)] }

theorem witness_MatrixSaveAreas_back : ∃ (s : State) (a : BitVec 5) (l : Nat → Loc) (n : Nat), QueueReady s ∧ Calm s ∧
    inPreemption s = false ∧
    s.me.accRows = 0 ∧ n = 16 ∧ AreaAt s a (8 + 128 * n) .load l ∧
    ofBytes ((List.range 8).map fun q => seen s ((l (q / 8)).plus (q % 8))) = n ∧
    (∀ q, 8 ≤ q → q < 64 → seen s ((l (q / 8)).plus (q % 8)) = 0) ∧ n ≤ freeRows s s.me.core + s.me.reserved := by
  refine ⟨area16, 1, fun j => .spad (8 * j), 16, matrix_ready _ _ _, calm_of _ rfl rfl rfl rfl rfl, by decide, rfl, rfl,
    by unfold AreaAt; decide +kernel,
    by decide +kernel, ?_, by decide⟩
  have h : ∀ q < 64, 8 ≤ q → seen area16 (((fun j => Loc.spad (8 * j)) (q / 8)).plus (q % 8)) = 0 := by decide +kernel
  exact fun q h1 h2 => h q h2 h1

theorem witness_CensusReads : ∃ (w : Nat) (i : Instr) (s : State), decodeNat w = .ok i ∧ w % 128 = 0x66 ∧ QueueReady s :=
  ⟨0xC0001066, _, mk 0x31 4 [], rfl, by decide, mk_ready _ _ _⟩

theorem witness_DredgerInstructions : ∃ (s : State) (d a b : BitVec 5) (c : BitVec 6) (l : Nat → Loc), QueueReady s ∧ Calm s ∧
    (∀ j < 16 * (c.toNat + 1), resolve s (((reg s a).toNat + 8 * j) % 2 ^ 64) 8 .load = .ok (l j)) ∧ VlOk s ∧
    etypeOf s.me.vctx.vshape = 1 ∧ (sewOf s.me.vctx.vshape = 32 ∨ sewOf s.me.vctx.vshape = 64) ∧
    Declared s [d, a, b] ∧ Grouped s [d, a, b] :=
  ⟨mk 0x31 4 [(1, word sp)], 3, 1, 2, 1, fun j => .spad (8 * j), mk_ready _ _ _, calm_of _ rfl rfl rfl rfl rfl, by decide +kernel,
    mk_vl _ _ _ (by decide), by decide,
    by decide, by unfold Declared; decide, by unfold Grouped; decide⟩

/-- The strand's pool is identifiers 8 to 15, some held by sequences. -/
def pool (seqs : List (Nat × Seq)) (rs : List (Nat × Word)) : State :=
  { mk 0x31 4 rs with funcs := [(0, { Func.reset with pools := [(0, 8, 8)] })], seqs := seqs }

theorem pool_ready (seqs : List (Nat × Seq)) (rs : List (Nat × Word)) : QueueReady (pool seqs rs) := by
  refine ⟨rfl, rfl, rfl, rfl, ?_, rfl, ?_⟩
  · have h : myDebug (pool seqs rs) = Debug.reset := rfl
    rw [h]
    intro b hb
    simp [Debug.reset] at hb
    subst hb; decide
  · have h : (fnOf (pool seqs rs) (pool seqs rs).me.fn).debug = Debug.reset := rfl
    rw [traced, h]; rfl

/-- A table of one entry in the scratchpad: an n-gram of one token 5, which halts. -/
def table : List Host.Cell := [(0, 5), (48, 1)]

theorem witness_ProofSequences : ∃ (s : State) (a b : BitVec 5) (n : BitVec 3) (bs : List Byte), QueueReady s ∧ Calm s ∧
    tableRead s (reg s a).toNat (n.toNat + 1) = .ok bs ∧ inPool s (reg s b).toNat = true ∧
    (¬∃ j ≤ n.toNat, watchOk ((bs.drop (64 * j)).take 64) = false) ∧ leastFree s = some 8 := by
  refine ⟨{ pool [] [(1, word sp), (2, 15)] with spad := table }, 1, 2, 0, [5] ++ List.replicate 47 0 ++ [1] ++ List.replicate 15 0,
    pool_ready [] [(1, word sp), (2, 15)], calm_of _ rfl rfl rfl rfl rfl, by decide +kernel, by decide +kernel, ?_, by decide +kernel⟩
  have h : watchOk (([5] ++ List.replicate 47 0 ++ [1] ++ List.replicate 15 0 : List Byte).take 64) = true := by decide +kernel
  rintro ⟨j, hj, hw⟩
  have : j = 0 := Nat.le_zero.mp hj
  subst this
  rw [Nat.mul_zero, List.drop_zero, h] at hw
  exact absurd hw (by decide)

theorem witness_ProofSequences_none : ∃ (s u : State) (a : BitVec 5) (n : BitVec 3) (bs cs : List Byte), QueueReady s ∧ Calm s ∧
    QueueReady u ∧ Calm u ∧
    tableRead s (reg s a).toNat (n.toNat + 1) = .ok bs ∧ (∃ j ≤ n.toNat, watchOk ((bs.drop (64 * j)).take 64) = false) ∧
    tableRead u (reg u a).toNat (n.toNat + 1) = .ok cs ∧ leastFree u = none :=
  ⟨{ pool [] [(1, word sp)] with spad := [(0, 5), (48, 0)] }, mk 0x31 4 [(1, word sp)], 1, 0, [5] ++ List.replicate 63 0,
    List.replicate 64 0,
    pool_ready [] [(1, word sp)], calm_of _ rfl rfl rfl rfl rfl, mk_ready _ _ _, calm_of _ rfl rfl rfl rfl rfl, by decide +kernel, ⟨0,
      by decide, by decide +kernel⟩, by decide +kernel, by decide +kernel⟩

/-- Sequence 8 with two forced tokens, LIVE. -/
def forced : Seq := { loadedSeq 0 0 [] with fq := [7, 9] }

theorem witness_ProofSequences_counts : ∃ (s : State) (a b c : BitVec 5) (x : BitVec 32) (xs : List (BitVec 32)), QueueReady s ∧ Calm s ∧
    inPool s (reg s a).toNat = true ∧ (reg s b).toNat < 8 ∧ (seqOf s (reg s a)).fq = x :: xs ∧ (seqOf s (reg s a)).st ≠ 0 ∧
    inPool s (reg s c).toNat = true ∧ (seqOf s (reg s c)).fq = [] :=
  ⟨pool [(8, forced)] [(1, 8), (2, 7), (3, 9)], 1, 2, 3, _, _, pool_ready _ _, calm_of _ rfl rfl rfl rfl rfl, by decide +kernel,
    by decide +kernel, rfl, by decide +kernel,
    by decide +kernel, rfl⟩

theorem witness_ProofSequences_outside : ∃ (s u : State) (a b : BitVec 5) (n : BitVec 3) (bs : List Byte), QueueReady s ∧ Calm s ∧
    inPool s (reg s a).toNat = false ∧ s.me.hm = false ∧ (reg s b).toNat < 8 ∧ QueueReady u ∧ Calm u ∧ u.me.hm = false ∧
    inPool u (reg u b).toNat = false ∧ tableRead u (reg u a).toNat (n.toNat + 1) = .ok bs :=
  ⟨pool [] [(1, 16), (2, 7)], pool [] [(1, word sp), (2, 7)], 1, 2, 0, List.replicate 64 0, pool_ready _ _,
    calm_of _ rfl rfl rfl rfl rfl, by decide +kernel, rfl, by decide, pool_ready _ _, calm_of _ rfl rfl rfl rfl rfl, rfl,
    by decide +kernel, by decide +kernel⟩

/-- An entry that matches the token 5 and takes an action. -/
def watch (act : Nat) (ninj : Nat) : WEntry := { emptyEntry with kind := 1, pats := [5], act := act, ninj := ninj, injs := [6, 0, 0, 0] }

def watched (act ninj : Nat) : State := pool [(8, loadedSeq 0 0 [watch act ninj])] [(1, 8), (2, 5), (3, 4)]

theorem witness_ProofChecks : ∃ (s : State) (a : BitVec 5), QueueReady s ∧ NothingOut s ∧ inPool s (reg s a).toNat = true ∧
    (seqOf s (reg s a)).st ≠ 1 :=
  ⟨pool [] [(1, 15)], 1, pool_ready _ _, nothing_of _ rfl rfl rfl rfl, by decide +kernel, by decide +kernel⟩

/-- On one LIVE sequence: the token of s2 fires entry 0, that of s3 none, and every action of Table 15.3 that the statement names. -/
theorem witness_ProofChecks_live : ∀ act, act = 0 ∨ act = 1 ∨ act = 2 → ∃ (s : State) (a b c : BitVec 5), QueueReady s ∧ NothingOut s ∧
    inPool s (reg s a).toNat = true ∧ (seqOf s (reg s a)).st = 1 ∧
    selectSet (seqOf s (reg s a)).entries (joinTok (seqOf s (reg s a)).entries ((reg s b).setWidth 32) (seqOf s (reg s a)).h) = ([],
      some 0) ∧
    selectSet (seqOf s (reg s a)).entries (joinTok (seqOf s (reg s a)).entries ((reg s c).setWidth 32) (seqOf s (reg s a)).h) = ([], none) ∧
    (entryAt (seqOf s (reg s a)).entries 0).act = act ∧
    (seqOf s (reg s a)).fq.length + (entryAt (seqOf s (reg s a)).entries 0).ninj ≤ 16 ∧ s.me.hm = false ∧
    (seqOf s (reg s a)).drafts.length < 8 := by
  rintro act (rfl | rfl | rfl)
  · exact ⟨watched 0 0, 1, 2, 3, pool_ready _ _, nothing_of _ rfl rfl rfl rfl, by decide +kernel, by decide +kernel, by decide +kernel, by decide +kernel,
      by decide +kernel, by decide +kernel, rfl, by decide +kernel⟩
  · exact ⟨watched 1 0, 1, 2, 3, pool_ready _ _, nothing_of _ rfl rfl rfl rfl, by decide +kernel, by decide +kernel, by decide +kernel, by decide +kernel,
      by decide +kernel, by decide +kernel, rfl, by decide +kernel⟩
  · exact ⟨watched 2 1, 1, 2, 3, pool_ready _ _, nothing_of _ rfl rfl rfl rfl, by decide +kernel, by decide +kernel, by decide +kernel, by decide +kernel,
      by decide +kernel, by decide +kernel, rfl, by decide +kernel⟩

/-- The sequence of `watched` in a pool of n identifiers, with a number of forced tokens. -/
def crowded (n fq act ninj : Nat) : State :=
  { watched act ninj with
    funcs := [(0, { Func.reset with pools := [(0, 8, n)] })]
    seqs := [(8, { loadedSeq 0 0 [watch act ninj] with fq := List.replicate fq 1 })] }

theorem crowded_ready (n fq act ninj : Nat) : QueueReady (crowded n fq act ninj) := by
  refine ⟨rfl, rfl, rfl, rfl, ?_, rfl, ?_⟩
  · have h : myDebug (crowded n fq act ninj) = Debug.reset := rfl
    rw [h]
    intro b hb
    simp [Debug.reset] at hb
    subst hb; decide
  · have h : (fnOf (crowded n fq act ninj) (crowded n fq act ninj).me.fn).debug = Debug.reset := rfl
    rw [traced, h]; rfl

/-- An INJECT without room, a FORK with an identifier free and with none, and a NOTIFY. -/
theorem witness_ProofChecks_actions : ∀ x ∈ [(8, 16, 2, 1, false), (8, 0, 3, 0, true), (1, 0, 3, 0, false), (8, 0, 4, 0, true)],
    ∃ (s : State) (a b : BitVec 5), QueueReady s ∧ NothingOut s ∧ inPool s (reg s a).toNat = true ∧ (seqOf s (reg s a)).st = 1 ∧
    selectSet (seqOf s (reg s a)).entries (joinTok (seqOf s (reg s a)).entries ((reg s b).setWidth 32) (seqOf s (reg s a)).h) =
      (if x.2.2.1 = 4 then ([0], none) else ([], some 0)) ∧
    (entryAt (seqOf s (reg s a)).entries 0).act = x.2.2.1 ∧ (seqOf s (reg s a)).fq.length = x.2.1 ∧
    (entryAt (seqOf s (reg s a)).entries 0).ninj = x.2.2.2.1 ∧ (x.2.2.2.2 = true ↔ leastFree s = some 9) ∧ s.me.hm = false := by
  intro x hx
  simp only [List.mem_cons, List.not_mem_nil, or_false] at hx
  rcases hx with rfl | rfl | rfl | rfl
  · exact ⟨{ crowded 8 16 2 1 with funcs := [(0, { Func.reset with pools := [(0, 8, 1)] })] }, 1, 2, crowded_ready 1 16 2 1,
      nothing_of _ rfl rfl rfl rfl, by decide +kernel, rfl, by decide +kernel, rfl, rfl, rfl, by decide +kernel, rfl⟩
  · exact ⟨crowded 8 0 3 0, 1, 2, crowded_ready _ _ _ _, nothing_of _ rfl rfl rfl rfl, by decide +kernel, rfl, by decide +kernel, rfl, rfl,
      rfl, by decide +kernel, rfl⟩
  · exact ⟨crowded 1 0 3 0, 1, 2, crowded_ready _ _ _ _, nothing_of _ rfl rfl rfl rfl, by decide +kernel, rfl, by decide +kernel, rfl, rfl,
      rfl, by decide +kernel, rfl⟩
  · exact ⟨crowded 8 0 4 0, 1, 2, crowded_ready _ _ _ _, nothing_of _ rfl rfl rfl rfl, by decide +kernel, rfl, by decide +kernel, rfl, rfl,
      rfl, by decide +kernel, rfl⟩

/-- The second of three drafts confirmed has an action. -/
theorem witness_ProofChecks_confirmed : ∃ (s : State) (a b : BitVec 5) (pre post : List Draft) (x : Draft), QueueReady s ∧ NothingOut s ∧
    inPool s (reg s a).toNat = true ∧ (seqOf s (reg s a)).st = 1 ∧
    (seqOf s (reg s a)).drafts.take (reg s b).toNat = pre ++ x :: post ∧ (∀ y ∈ pre, y.nset = [] ∧ y.w = none) ∧ x.w = some 0 ∧
    (entryAt (seqOf s (reg s a)).entries 0).act = 1 ∧ s.me.hm = false ∧ pre ≠ [] ∧ post ≠ [] :=
  ⟨pool [(8, { loadedSeq 0 0 [watch 1 0] with drafts := [⟨4, [], none⟩, ⟨5, [], some 0⟩, ⟨6, [], none⟩] })] [(1, 8), (2, 3)], 1, 2,
    [⟨4, [], none⟩], [⟨6, [], none⟩], ⟨5, [], some 0⟩, pool_ready _ _, nothing_of _ rfl rfl rfl rfl, by decide +kernel, rfl, rfl, by decide,
    rfl, rfl, rfl, by decide, by decide⟩

theorem witness_ProofChecks_drafts : ∃ (s : State) (a b : BitVec 5), QueueReady s ∧ NothingOut s ∧ inPool s (reg s a).toNat = true ∧
    (seqOf s (reg s a)).st = 1 ∧ ((seqOf s (reg s a)).drafts.take (reg s b).toNat).length = 1 ∧
    ∀ x ∈ (seqOf s (reg s a)).drafts.take (reg s b).toNat, x.nset = [] ∧ x.w = none :=
  ⟨pool [(8, { loadedSeq 0 0 [] with drafts := [⟨4, [], none⟩, ⟨3, [], none⟩] })] [(1, 8), (2, 1)], 1, 2, pool_ready _ _, nothing_of _ rfl rfl rfl rfl,
    by decide +kernel,
    by decide +kernel, by decide +kernel, by decide +kernel⟩

/-- The strand's queue with entries. -/
def queued (es : List QEntry) : State :=
  { mk 0x31 4 [] with me := { strand 0x31 4 [] with vctx := { VCtx.reset with vshape := 0x31, vl := 4, vlGrant := 4, queue := es } } }

theorem witness_QueueMoves : ∃ (s : State) (core slot : Nat) (a b : List QEntry) (e : QEntry), InSlot s core slot ∧
    s.me.vctx.queue = a ++ e :: b ∧ a ≠ [] ∧ (∀ x ∈ a, x.split = true) ∧ e.split = false :=
  ⟨queued [entry .mstop true, entry .mstop false], 0, 0, [_], [], _, by unfold InSlot; decide, rfl, by decide, by decide +kernel, rfl⟩

theorem witness_QueueMoves_fetch : ∃ (s : State) (core slot : Nat) (d a : BitVec 5) (e : QEntry) (rest : List QEntry) (l : Nat → Nat),
    InSlot s core slot ∧ queueLive s.me = true ∧ s.me.vctx.queue = e :: rest ∧ e.instr = .vld d a 0 ∧ e.split = true ∧ e.prog = 0 ∧
    e.done = false ∧ s.me.vctx.bufs = [] ∧ 8 ≤ sewOf e.vshape ∧ 0 < e.vl ∧ PortsOnly s ∧ (∀ q ∈ s.net, q.late = none) ∧
      ∀ i, i < min e.vl (epg (sewOf e.vshape)) →
      (e.a.toNat + i * (sewOf e.vshape / 8)) % 2 ^ 64 % (sewOf e.vshape / 8) = 0 ∧
      reach s ((e.a.toNat + i * (sewOf e.vshape / 8)) % 2 ^ 64) .load = .ok (.spad (l i)) :=
  ⟨queued [entry (.vld 1 2 0) true], 0, 0, 1, 2, _, [], fun i => 4 * i, by unfold InSlot; decide, rfl, rfl, rfl, rfl, rfl, rfl, rfl, by decide,
    by decide, ports_of _ rfl, by decide, by decide +kernel⟩

/-- An instruction of each move of Table 4.3. -/
theorem witness_QueueMoves_execute : ∀ i ∈ [Instr.mstop, .wrstr 1 0, .rwait 1 0, .bar, .pwinj 1 2, .mwldCfg 1 2 3, .mxv 1 2 3 0 0 4],
    (queueBody i).isSome = true ∧ ∃ (s : State) (core slot : Nat) (e : QEntry) (rest : List QEntry), InSlot s core slot ∧
      s.me.vctx.queue = e :: rest ∧ queueLive s.me = true ∧ s.me.stand = none ∧ e.split = true ∧ e.instr = i ∧ portReqs s core = [] := by
  intro i hi
  refine ⟨?_, queued [entry i true], 0, 0, _, [], by unfold InSlot; exact (by decide : isAt 0 0 (queued []).me = true), rfl, rfl, rfl, rfl,
    rfl, rfl⟩
  fin_cases hi <;> rfl

theorem witness_QueueMoves_other : ∀ m ∈ [Instr.execute 0 0, .push 0 0, .pop 0 0, .postAndObserve 0 0, .proof 0 0, .hearthServe 0 0],
    ∃ s u : State, InSlot s 0 0 ∧ InSlot u 0 0 ∧ queueLive s.me = true ∧ queueLive u.me = false ∧ s.me.vctx.queue.length = 1 ∧
      portReqs s 0 = [] ∧ ∀ e rest, s.me.vctx.queue = e :: rest →
        queueLive s.me = false ∨ s.me.stand ≠ none ∨ e.split = false ∨ ownMove e.instr 0 0 ≠ m := by
  intro m _
  refine ⟨queued [entry .mstop false], { queued [] with me := { (queued []).me with qstop := true } }, by unfold InSlot; decide,
    by unfold InSlot; decide, rfl, rfl, rfl, rfl, ?_⟩
  rintro e rest ⟨⟩
  exact Or.inr (Or.inr (Or.inl rfl))

/-- Units of two cores at the ports of a Hearth, behind the port served last. -/
def ports (last : Nat) : State :=
  { queued [entry (.mwldSp 1 2 3) true] with
    hearths := [(0, { Hearth.reset with
      heights := [(3, 1024)], ports := [⟨0, 0, 0, 0, 0, 0, false, 3, 64, [1, 2]⟩, ⟨0, 0, 1, 0, 9, 1, true, 3, 0, []⟩], last := last })] }

theorem witness_QueueMoves_port : ∃ (s u : State) (r x : HReq), InSlot s 0 0 ∧ InSlot u 0 0 ∧ portReqs s 0 = [r] ∧
    nextPort (hearthOf s 0) (0 / 4) = some 0 ∧ tileHeight (hearthOf s 0) r.slot ≠ 0 ∧ r.scale = false ∧
    portReqs u 0 = [x] ∧ nextPort (hearthOf u 0) (0 / 4) ≠ some 0 :=
  ⟨ports 3, ports 0, _, _, by unfold InSlot; decide, by unfold InSlot; decide, rfl, by decide, by decide, rfl, rfl, by decide⟩

/-- A line waits in the buffer, a store in the host path, and a request in a port queue. -/
def storing : State :=
  { mk 0x31 4 [] with
    net := [⟨0, 0, 0, 0, false, [(64, ⟨7, 0xFF⟩)], none, none⟩]
    me := { strand 0x31 4 [] with wcb := [⟨0, 0, [(4, ⟨1, 0xFF⟩), (5, ⟨2, 0xFF⟩)]⟩], hpath := [⟨[(0x2000, ⟨3, 0xFF⟩)], 0, none⟩] } }

theorem storing_ok : StoresOk storing := by
  unfold StoresOk StoresInOrder
  decide

theorem witness_StoreMoves : ∃ (s : State) (core slot : Nat), InSlot s core slot ∧ s.me.det = false ∧ StoresOk s ∧ PortsOnly s :=
  ⟨storing, 0, 0, by unfold InSlot; decide, rfl, storing_ok, by unfold PortsOnly; decide⟩

/-- A scalar load of the strand that waits, of the eight bytes at 64. -/
def waitingLoad : Late := ⟨5, 0, 0, 0, 0, 64, 8, [], .load 3 6⟩

/-- Requests and replies: a write and the reply of a load over the die fabric, a load in a port of each kind, and a write behind it. -/
def traffic : State :=
  { mk 0x31 4 [] with
    net := [⟨0, 1, 2, 1, true, [(524288, ⟨9, 0xFF⟩)], none, none⟩, ⟨1, 0, 0, 1, true, [], some waitingLoad, some (List.replicate 8 1)⟩,
      ⟨0, 0, 0, 0, false, [], some waitingLoad, none⟩, ⟨0, 0, 0, 1, false, [], some waitingLoad, none⟩,
      ⟨0, 0, 1, 0, false, [(256, ⟨7, 0xFF⟩)], none, none⟩] }

theorem witness_StoreMoves_deliver : ∃ (s : State) (a b c : List NetReq) (r x : NetReq) (bs : List Byte) (y : Late) (d : BitVec 5) (w : BitVec 3),
    s.net = a ++ r :: b ∧ (∀ z ∈ a, ¬(z.inChannel = true ∧ z.src = r.src ∧ z.dst = r.dst)) ∧ r.inChannel = true ∧ r.reply = none ∧
    s.net = [r] ++ x :: c ∧ ¬(r.inChannel = true ∧ r.src = x.src ∧ r.dst = x.dst) ∧ x.inChannel = true ∧ x.reply = some bs ∧
    x.late = some y ∧ y.kind = .load d w ∧ isStrand y.fn y.seq y.gang y.lsn s.me = true :=
  ⟨traffic, [], _, _, _, _, _, _, 3, 6, rfl, by decide, rfl, rfl, rfl, by decide, rfl, rfl, rfl, rfl, by decide⟩

/-- Whether it is the port's turn, as the statement says it. -/
def portFirst (s : State) (core bank port : Nat) : Prop :=
  let rank := fun p => (p + 2 - tget 0 s.turns (core * 64 + bank) % 3) % 3
  ∀ q ∈ s.net, q.inChannel = false → q.dst = core → q.bank = bank → q.port < 3 → rank port ≤ rank q.port

theorem witness_StoreMoves_serve : ∃ (s : State) (a b : List NetReq) (r : NetReq), s.net = a ++ r :: b ∧
    (∀ x ∈ a, ¬(x.inChannel = false ∧ x.dst = 0 ∧ x.bank = 1 ∧ x.port = 0)) ∧ r.inChannel = false ∧ r.dst = 0 ∧ r.bank = 1 ∧ r.port = 0 ∧
    r.reply = none ∧ portFirst s 0 1 0 ∧ r.late = none ∧ (r.bytes.map Prod.fst).Nodup :=
  ⟨traffic, traffic.net.take 4, [], _, rfl, by decide, rfl, rfl, rfl, rfl, rfl, by unfold portFirst; decide, rfl, by decide⟩

/-- The port whose turn it is, of the crossbar and of the die fabric, each with a load, and the other port. -/
theorem witness_StoreMoves_serve_loads : ∀ port, port = 0 ∨ port = 1 → ∃ (s u : State) (a b : List NetReq) (r : NetReq) (x : Late)
    (d : BitVec 5) (w : BitVec 3), s.net = a ++ r :: b ∧ (∀ x ∈ a, ¬(x.inChannel = false ∧ x.dst = 0 ∧ x.bank = 0 ∧ x.port = port)) ∧
      r.inChannel = false ∧ r.dst = 0 ∧ r.bank = 0 ∧ r.port = port ∧ r.reply = none ∧ portFirst s 0 0 port ∧ u.net = s.net ∧
      ¬portFirst u 0 0 port ∧ r.late = some x ∧ x.kind = .load d w ∧ isStrand x.fn x.seq x.gang x.lsn s.me = true := by
  rintro port (rfl | rfl)
  · exact ⟨{ traffic with turns := [(0, 1)] }, traffic, traffic.net.take 2, _, _, _, 3, 6, rfl, by decide, rfl, rfl, rfl, rfl, rfl,
      by unfold portFirst; decide, rfl, by unfold portFirst; decide, rfl, rfl, by decide⟩
  · exact ⟨traffic, { traffic with turns := [(0, 1)] }, traffic.net.take 3, _, _, _, 3, 6, rfl, by decide, rfl, rfl, rfl, rfl, rfl,
      by unfold portFirst; decide, rfl, by unfold portFirst; decide, rfl, rfl, by decide⟩

/-- The host path of the strand. -/
def onPath (es : List HStore) : State := { mk 0x31 4 [] with me := { strand 0x31 4 [] with hpath := es } }

theorem witness_StoreMoves_path : ∃ (s u : State) (e x : HStore), InSlot s 0 0 ∧ s.me.hpath = [e] ∧ e.late = none ∧ e.held = 0 ∧
    s.me.det = false ∧ (e.bytes.map Prod.fst).Nodup ∧ InSlot u 0 0 ∧ u.me.hpath = [x] ∧ x.late = none ∧ 0 < x.held :=
  ⟨onPath [⟨[(0x2000, ⟨3, 0xFF⟩)], 0, none⟩], onPath [⟨[], 1, none⟩], _, _, by unfold InSlot; decide, rfl, rfl, rfl, rfl, by decide,
    by unfold InSlot; decide, rfl, rfl, by decide⟩

theorem witness_StoreMoves_path_late : ∃ (s u v : State) (e f y : HStore) (x z : Late) (d : BitVec 5) (w : BitVec 3) (op b : Nat),
    InSlot s 0 0 ∧ s.me.hpath = [e] ∧ e.late = some x ∧ x.kind = .load d w ∧ isStrand x.fn x.seq x.gang x.lsn s.me = true ∧ x.fwd = [] ∧
    InSlot u 0 0 ∧ u.me.hpath = [f] ∧ f.late = some z ∧ z.kind = .amo d op b ∧ isStrand z.fn z.seq z.gang z.lsn u.me = true ∧
    z.fwd.all (· == ⟨0, 0⟩) = true ∧ f.held = 0 ∧ op < 9 ∧ z.n = 8 ∧ b < 2 ^ (8 * z.n) ∧
    InSlot v 0 0 ∧ v.me.hpath = [y, e] ∧ y.late = none :=
  ⟨onPath [⟨[], 0, some waitingLoad⟩], onPath [⟨[], 0, some { waitingLoad with fwd := [⟨0, 0⟩], kind := .amo 3 8 1 }⟩],
    onPath [⟨[(64, ⟨3, 0xFF⟩)], 0, none⟩, ⟨[], 0, some waitingLoad⟩], _, _, _, _, _, 3, 6, 8, 1, by unfold InSlot; decide, rfl, rfl, rfl,
    by decide, rfl, by unfold InSlot; decide, rfl, rfl, rfl, by decide, by decide, rfl, by decide, rfl, by decide, by unfold InSlot; decide,
    rfl, rfl⟩

/-- A command in FIFO 3. -/
def commanded (c : Cmd) : State := withFifo { out := 1, ws := false, cmds := [c], res := [], unpopped := [(false, 0)] } []

/-- A run of two records in host space at 0x8000. -/
def run2 : Handle := ⟨0x8000000000008000, 2, 2, 0⟩

def command (k : CmdKind) (srcs dsts : List Handle) (p : Phase) : Cmd :=
  { writer with kind := k, srcs := srcs.map fun h => ⟨0, 1, h⟩, dsts := dsts.map fun h => ⟨1, 1, h⟩, phase := p }

/-- What every clause asks of a command. -/
def Local (c : Cmd) : Prop := c.held = none ∧ c.reads = [] ∧ c.writes = [] ∧ ∀ x ∈ c.srcs ++ outputs c, atPeer x = false

theorem witness_KneaderMoves : ∃ (s : State) (core slot q : Nat) (c : Cmd), InSlot s core slot ∧ headCmd s q = some c ∧ s.me.status ≠ .wfe ∧
    Local c ∧ c.phase = .queued ∧ c.fixed ≠ 10 ∧ checkStatus c = 0 :=
  ⟨commanded (command (.rdstr 0) [run2] [] .queued), 0, 0, 3, _, by unfold InSlot; decide, rfl, by decide, by unfold Local; decide, rfl,
    by decide, by decide⟩

/-- Runs of 1,024 records, or of one, in the run space of a partition of four vaults. -/
def striped (n : Nat) (at' : Word) : Handle := ⟨at', 1, n, 0xB10408⟩

def owned (c : Cmd) : State := { commanded c with funcs := [(0, { Func.reset with map0 := 1 })] }

/-- An accepted RSORT, and an accepted RJOIN by field 1, over one vault and over several. -/
theorem witness_KneaderMoves_accepted : ∀ n, n = 1 ∨ n = 1024 → ∀ join : Bool, ∃ (s : State) (c : Cmd), InSlot s 0 0 ∧
    headCmd s 3 = some c ∧ s.me.status ≠ .wfe ∧ Local c ∧ c.phase = .queued ∧ c.fixed ≠ 10 ∧ checkStatus c = 0 ∧
    (if join then ∃ l, c.kind = .rjoin 1 l else c.kind = .rsort false 0) ∧ overVaults s c = decide (n = 1024) := by
  rintro n (rfl | rfl) join <;> cases join
  · exact ⟨owned (command (.rsort false 0) [striped 1 0] [striped 1 0x40] .queued), _, by unfold InSlot; decide, rfl, by decide,
      by unfold Local; decide, rfl, by decide, by decide, rfl, by decide⟩
  · exact ⟨owned (command (.rjoin 1 false) [striped 1 0, striped 1 0x20] [striped 1 0x40] .queued), _, by unfold InSlot; decide, rfl,
      by decide, by unfold Local; decide, rfl, by decide, by decide, ⟨_, rfl⟩, by decide⟩
  · exact ⟨owned (command (.rsort false 0) [striped 1024 0] [striped 1024 0x40000] .queued), _, by unfold InSlot; decide, rfl, by decide,
      by unfold Local; decide, rfl, by decide, by decide, rfl, by decide⟩
  · exact ⟨owned (command (.rjoin 1 false) [striped 1024 0, striped 1024 0x20000] [striped 1024 0x40000] .queued), _,
      by unfold InSlot; decide,
      rfl, by decide, by unfold Local; decide, rfl, by decide, by decide, ⟨_, rfl⟩, by decide⟩

theorem witness_KneaderMoves_sampled : ∃ (s : State) (core slot q : Nat) (c : Cmd), InSlot s core slot ∧ headCmd s q = some c ∧
    s.me.status ≠ .wfe ∧ Local c ∧ c.phase = .sample :=
  ⟨commanded (command (.rsort false 0) [run2] [run2] .sample), 0, 0, 3, _, by unfold InSlot; decide, rfl, by decide,
    by unfold Local; decide,
    rfl⟩

theorem witness_KneaderMoves_refused : ∃ (s : State) (core slot q : Nat) (c : Cmd), InSlot s core slot ∧ headCmd s q = some c ∧
    s.me.status ≠ .wfe ∧ Local c ∧ c.phase = .queued ∧ c.fixed ≠ 10 ∧ checkStatus c ≠ 0 ∧ c.count = 0 :=
  ⟨commanded (command (.rsort false 0) [run2] [] .queued), 0, 0, 3, _, by unfold InSlot; decide, rfl, by decide, by unfold Local; decide,
    rfl, by decide, by decide, rfl⟩

theorem witness_KneaderMoves_stream : ∃ (s u : State) (core slot q first : Nat) (c d : Cmd) (x y : Cap) (r : Rec), InSlot s core slot ∧
    headCmd s q = some c ∧ s.me.status ≠ .wfe ∧ Local c ∧ c.phase = .stream ∧ c.fixed = 0 ∧ c.kind = .rdstr first ∧ c.srcs = [x] ∧
    c.dsts = [] ∧ waiting (fifoOf s.me q) < 256 ∧ first + c.count < x.h.len ∧ recordAt s s.me.fn x.h (first + c.count) = .ok r ∧
    InSlot u core slot ∧ headCmd u q = some d ∧ Local d ∧ d.phase = .stream ∧ d.fixed = 0 ∧ d.kind = .rdstr 2 ∧ d.srcs = [y] ∧ d.dsts = [] ∧
    y.h.len ≤ 2 + d.count :=
  ⟨commanded (command (.rdstr 1) [run2] [] .stream), commanded (command (.rdstr 2) [run2] [] .stream), 0, 0, 3, 1, _, _, _, _,
    List.replicate 8 0, by unfold InSlot; decide, rfl, by decide, by unfold Local; decide, rfl, rfl, rfl, rfl, rfl, by decide, by decide,
    by decide +kernel, by unfold InSlot; decide, rfl, by unfold Local; decide, rfl, rfl, rfl, rfl, rfl, by decide⟩

/-- A stream that is read to its end places its completion even with 256 elements waiting in its FIFO. -/
theorem witness_KneaderMoves_full : ∃ (s : State) (core slot q first : Nat) (c : Cmd) (x : Cap), InSlot s core slot ∧
    headCmd s q = some c ∧ s.me.status ≠ .wfe ∧ Local c ∧ c.phase = .stream ∧ c.fixed = 0 ∧ c.kind = .rdstr first ∧ c.srcs = [x] ∧
    c.dsts = [] ∧ 256 ≤ waiting (fifoOf s.me q) ∧ x.h.len ≤ first + c.count :=
  ⟨withFifo
      { out := 1, ws := false, cmds := [command (.rdstr 2) [run2] [] .stream], res := List.replicate 256 (.record []), unpopped := [] } [],
    0, 0, 3, 2, _, _, by unfold InSlot; decide, rfl, by decide, by unfold Local; decide, rfl, rfl, rfl, rfl, rfl, by decide, by decide⟩

/-- Stage 1 of the function's translation is enabled over an empty table: every page of host space can be served. -/
def unmapped (c : Cmd) : State := { commanded c with funcs := [(0, { Func.reset with s1 := 1 })] }

theorem witness_KneaderMoves_faults : ∃ (s u : State) (core slot q first cause cause' a a' : Nat) (c d : Cmd) (x : Cap) (p p' : _),
    InSlot s core slot ∧ headCmd s q = some c ∧ s.me.status ≠ .wfe ∧ Local c ∧ c.phase = .stream ∧ c.fixed = 0 ∧ c.kind = .rdstr first ∧
    c.srcs = [x] ∧ c.dsts = [] ∧ waiting (fifoOf s.me q) < 256 ∧ first + c.count < x.h.len ∧
    recordAt s s.me.fn x.h (first + c.count) = .error (.page cause p a) ∧
    InSlot u core slot ∧ headCmd u q = some d ∧ Local d ∧ d.phase = .pass ∧ readAll u d = .error (.page cause' p' a') :=
  ⟨unmapped (command (.rdstr 0) [run2] [] .stream), unmapped (command (.rsort false 0) [run2] [run2] .pass), 0, 0, 3, 0, 5, 5, 0x8000,
    0x8000,
    _, _, _, ⟨false, false, 0x8000⟩, ⟨false, false, 0x8000⟩, by unfold InSlot; decide, rfl, by decide, by unfold Local; decide, rfl, rfl,
      rfl,
    rfl, rfl, by decide, by decide, by decide +kernel, by unfold InSlot; decide, rfl, by unfold Local; decide, rfl, by decide +kernel⟩

/-- A run of two records in host space at 0x9000, to which RSORT writes. -/
def run9 : Handle := ⟨0x8000000000009000, 0, 2, 0⟩

theorem witness_KneaderMoves_sort : ∃ (s u : State) (q : Nat) (c : Cmd) (rs : List Rec) (x : Cap), headCmd s q = some c ∧ Local c ∧
    c.kind = .rsort false 0 ∧ c.fixed = 0 ∧ c.phase = .pass ∧ readAll s c = .ok [rs] ∧ workFaults s c = [] ∧ c.dsts = [x] ∧
    rs.length ≤ x.h.cap ∧ fmtDkey x.h.fmt = false ∧
    writeUnits s.me.fn x.h (unitsOf x.h.fmt ((output c [rs]).map fun x => x.2.1)) s 0 = (u, rs.length, none) := by
  have h : (writeUnits 0 run9 (unitsOf 0 ((output (command (.rsort false 0) [run2] [run9] .pass) [List.replicate 2 (List.replicate 8 0)]).map
    fun x => x.2.1)) (commanded (command (.rsort false 0) [run2] [run9] .pass)) 0).2 = (2, none) := by decide +kernel
  exact ⟨commanded (command (.rsort false 0) [run2] [run9] .pass), _, 3, _, List.replicate 2 (List.replicate 8 0), _, rfl,
    by unfold Local; decide, rfl, rfl, rfl, by decide +kernel, by decide +kernel, rfl, by decide, by decide, Prod.ext rfl h⟩

/-- In deterministic mode the strand of a gang of one stands at a store to the scratchpad. -/
def standing : State :=
  { mk 0x31 4 [(1, word sp)] with
    gangs := [gang1], me := { strand 0x31 4 [(1, word sp)] with det := true, stand := some (.st 1 2 0 3 8) } }

theorem witness_GangAndTurnMoves : ∃ (s : State) (g : Gang) (m : Member) (a b : BitVec 5) (h : BitVec 7) (w : BitVec 2) (l : BitVec 5) (k : Nat),
    myGang s = some g ∧ g.members = [m] ∧ m.ended = false ∧ s.me.lsn = 0 ∧ s.me.det = true ∧ Quiet s ∧ Calm s ∧ s.me.status = .run ∧
    s.me.stand = some (.st a b h w l) ∧ StoresOk s ∧ (reg s a + (h ++ l).signExtend 64).toNat % 2 ^ w.toNat = 0 ∧
    reach s (reg s a + (h ++ l).signExtend 64).toNat .store = .ok (.spad k) ∧ k % 2 ^ w.toNat = 0 :=
  ⟨standing, gang1, _, 1, 2, 0, 3, 8, 8, by decide +kernel, rfl, rfl, rfl, rfl, (mk_ready 0x31 4 []).2.2.2.2,
    calm_of _ rfl rfl rfl rfl rfl, rfl, rfl, stores_of _ rfl rfl, by decide +kernel,
    by decide +kernel, by decide⟩

theorem witness_GangAndTurnMoves_wake : ∃ (s : State) (core slot : Nat), InSlot s core slot ∧ s.me.status = .wfe :=
  ⟨{ two with me := { two.me with status := .wfe } }, 0, 0, by unfold InSlot; decide, rfl⟩

theorem witness_GangAndTurnMoves_turn : ∃ (s : State) (core j : Nat) (st : Strand), nextReady s core = some j ∧
    strandAt s core j = some st ∧ s.me.core = core ∧ s.me.slot = activeSlot s core ∧ ready s.me = true ∧ s.me.ending = true :=
  ⟨{ two with me := { two.me with ending := true } }, 0, 1, { strand 0x31 4 [] with slot := 1, vown := false }, by decide +kernel,
    by decide +kernel, rfl, by decide, rfl, rfl⟩

theorem witness_GangAndTurnMoves_elsewhere : ∃ (s : State) (core j : Nat) (st : Strand), nextReady s core = some j ∧
    strandAt s core j = some st ∧ s.me.core ≠ core ∧ resident s.me = true :=
  ⟨{ mk 0x31 4 [] with others := [{ strand 0x31 4 [] with core := 5, slot := 2 }] }, 5, 2, { strand 0x31 4 [] with core := 5, slot := 2 },
    by decide +kernel, by decide +kernel, by decide, rfl⟩

/-- A function with the partition of hearth group 0 and no budget, a launch of it with one gang of one strand to place, and a
launch queue with one entry. -/
def owner : Func :=
  { Func.reset with
    map0 := 1, tbu := 0xFFFFFFFF, ebu := 0xFFFFFFFF
    queues := [(7, { LQueue.reset with en := true, tail := 1, base := 0x20000, log2n := 4 })] }

def unplaced (seq : Nat) (prio : Word) : Launch :=
  { fn := 0, queue := 7, seq := seq, record := [0x1000, 0x0001000001000001, 0, 0, 0x30000, 0x400000, 1, prio], next := 0, ended := 0,
    xflags := 0,
    status := none, cause := 0, written := false, cwBatch := 0, waited := 0, passed := 0, recHeld := false, dirs := [], seeds := [],
    modes := [], man := ⟨[], [], [], [], [], []⟩, hashes := [] }

/-- No strand is placed. -/
def waitingHost : State :=
  { State.reset with funcs := [(0, owner)], launches := [unplaced 5 0], dev := { State.reset.dev with fw := true } }

theorem witness_LaunchQueueing : ∃ (s : State) (fn q : Nat) (bs : List Byte), fn < 64 ∧ q < 8 ∧ served s = true ∧ mayFetch s fn q = true ∧
    hostReadFn s fn (headEntry (lq s fn q)) 64 = some bs :=
  ⟨waitingHost, 0, 7, List.replicate 64 0, by decide, by decide, rfl, by decide +kernel, by decide +kernel⟩

theorem witness_LaunchQueueing_place : ∃ (s : State) (fn : Nat) (l : Launch) (stack lc : Nat) (ps : List (Nat × Nat × Nat)), fn < 64 ∧
    launchFind s fn l.seq = some l ∧ l.written = false ∧ mayPlace s l stack ps lc = true ∧ ps ≠ [] :=
  ⟨waitingHost, 0, unplaced 5 0, 0, 8, [(3, 3, 4096)], by decide, by decide +kernel, rfl, by decide +kernel, by decide⟩

theorem witness_LaunchQueueing_warm : ∃ (s : State) (fn : Nat) (l : Launch) (stack : Nat) (ps : List (Nat × Nat × Nat)), fn < 64 ∧
    launchFind s fn l.seq = some l ∧ l.written = false ∧ pending' l = true ∧ placesFree s l stack ps = true ∧
    (∀ p ∈ ps, ∀ st ∈ s.me :: s.others, ¬(st.status = .off ∧ st.core = p.1 ∧ st.slot = p.2.1)) ∧
    ∀ w ∈ s.dev.warm, ¬(w.fn = fn ∧ w.seq = l.seq ∧ w.gang = l.next) :=
  ⟨waitingHost, 0, unplaced 5 0, 0, [(0, 0, 0)], by decide, by decide +kernel, rfl, by decide +kernel, by decide +kernel, by decide +kernel,
    by intro w hw; exact absurd hw List.not_mem_nil⟩

/-- The gang of launch 4 runs, and launch 5 waits with a higher priority. -/
def contended : State :=
  { waitingHost with
    launches := [{ unplaced 4 0 with next := 1 }, unplaced 5 7], gangs := [{ gang1 with seq := 4 }]
    me := { strand 0x31 4 [] with lseq := 4 } }

theorem contended_stops : StopsAtOnce contended { gang1 with seq := 4 } := by
  intro st h _ e he
  rw [List.mem_singleton.1 h] at he
  exact absurd he List.not_mem_nil

theorem witness_PreemptionAndBudgets : ∃ (s : State) (fn seq g : Nat) (x : Gang) (l : Launch) (st : Strand), gangOf s fn seq g = some x ∧
    launchFind s l.fn l.seq = some l ∧ pending' l = true ∧ preemptable x = true ∧ x.halted = false ∧ samePart s fn l.fn = true ∧
    gangPrio s x < recPrio l ∧ (∀ y ∈ s.gangs, runsIn s l.fn y = true → gangPrio s x ≤ gangPrio s y) ∧ (∀ r ∈ s.net, r.late = none) ∧
    (∀ st ∈ s.me :: s.others, st.out = [] ∧ st.vctx.bufs = [] ∧ st.kept = [] ∧ (∀ h ∈ st.hpath, h.late = none) ∧
      ∀ e ∈ st.vctx.queue, e.prog = 0) ∧ StopsAtOnce s x ∧ 0 < x.members.length ∧
    member s fn seq g 0 = some st ∧ resident st = true ∧ st.hm = false ∧ st.ending = false :=
  ⟨contended, 0, 4, 0, { gang1 with seq := 4 }, unplaced 5 7, contended.me, by decide +kernel, by decide +kernel, by decide +kernel, rfl, rfl,
    by decide +kernel, by decide +kernel, by decide +kernel, by decide, by decide, contended_stops, by decide, by decide +kernel, rfl, rfl,
    rfl⟩

/-- The gang's strand waits at MATTACH with .wait for rows that its Hearth has not. -/
def attaching : State :=
  { contended with
    me := { contended.me with
      vctx := { contended.me.vctx with queue := [{ entry (.mattach 1 2 1) true with a := 300 }] } } }

theorem witness_PreemptionAndBudgets_late : ∃ (s : State) (fn seq g : Nat) (x : Gang) (l : Launch), gangOf s fn seq g = some x ∧
    launchFind s l.fn l.seq = some l ∧ pending' l = true ∧ preemptable x = true ∧ x.halted = false ∧ samePart s fn l.fn = true ∧
    gangPrio s x < recPrio l ∧ (∀ y ∈ s.gangs, runsIn s l.fn y = true → gangPrio s x ≤ gangPrio s y) ∧
    ∃ st ∈ s.me :: s.others, Machine.inGang x st = true ∧ holdsStop s st = true :=
  ⟨attaching, 0, 4, 0, { gang1 with seq := 4 }, unplaced 5 7, by decide +kernel, by decide +kernel, by decide +kernel, rfl, rfl,
    by decide +kernel, by decide +kernel, by decide +kernel, attaching.me, List.mem_singleton.2 rfl, by decide +kernel, by decide +kernel⟩

/-- The handler of a pre-empted strand runs beyond its grace. -/
def late : State :=
  { contended with
    gangs := [{ gang1 with seq := 4, preempting := true }], me := { contended.me with hm := true, tcause := 0x0E } }

theorem witness_PreemptionAndBudgets_grace : ∃ (s : State) (fn seq g : Nat) (x : Gang) (l : Launch) (st : Strand),
    gangOf s fn seq g = some x ∧ launchFind s fn seq = some l ∧ l.written = false ∧ l.status = none ∧ x.preempting = true ∧
    (strandsOf s x).find? (fun st => st.hm && resident st) = some st :=
  ⟨late, 0, 4, 0, { gang1 with seq := 4, preempting := true }, { unplaced 4 0 with next := 1 }, late.me, by decide +kernel,
    by decide +kernel,
    rfl, rfl, rfl, by decide +kernel⟩

/-- A gang that may resume, a waiting launch of higher priority that comes first, and a grant above that to which it was lowered. -/
theorem witness_PreemptionAndBudgets_yield : ∃ (s : State) (fn seq g lc : Nat) (x : Gang) (l : Launch), gangOf s fn seq g = some x ∧
    l ∈ s.launches ∧ yieldsTo s x l = true ∧ x.lcCap < lc ∧ lc ≤ s.dev.dispLc ∧ ¬∃ st ∈ strandsOf s x, st.det = true :=
  ⟨{ contended with gangs := [{ gang1 with seq := 4, placed := false, lcCap := 7 }], me := { contended.me with status := .off } }, 0, 4, 0, 8,
    { gang1 with seq := 4, placed := false, lcCap := 7 }, unplaced 5 7, by decide +kernel, by simp [contended], by decide +kernel, by decide,
    by decide, by decide +kernel⟩

/-- A function with 100 TBU, of which 40 are spent, a coefficient of 10^9 pJ for each link flit, and 7 flits counted. -/
def spending : State :=
  { contended with
    funcs := [(0, { owner with tbu := 100, spentT := 40, activity := [0, 0, 0, 0, 7] })]
    dev := { contended.dev with coefs := [0, 0, 0, 0, 10 ^ 9] } }

/-- Allotments: left, spent, and a sum that the counters do not give. -/
theorem witness_PreemptionAndBudgets_budget : ∃ (s : State) (fn seq g tb tl eb : Nat) (x : Gang), gangOf s fn seq g = some x ∧
    (fnOf s fn).spentT ≤ tb ∧ (fnOf s fn).spentT ≤ tl ∧ eb = energyOf s fn / 10 ^ 9 ∧ eb = 7 ∧ preemptable x = true ∧
    ¬((fnOf s fn).tbu = 0xFFFFFFFF ∨ tb < (fnOf s fn).tbu) ∧ tl < (fnOf s fn).tbu ∧ (fnOf s fn).ebu = 0xFFFFFFFF ∧
    ¬((fnOf s fn).spentT ≤ 39 ∧ 7 = energyOf s fn / 10 ^ 9) ∧ x.halted = false ∧ StopsAtOnce s x :=
  ⟨spending, 0, 4, 0, 100, 99, 7, { gang1 with seq := 4 }, by decide +kernel, by decide +kernel, by decide +kernel, by decide +kernel,
    rfl, rfl, by decide +kernel, by decide +kernel, by decide +kernel, by decide +kernel, rfl, contended_stops⟩

/-- A gang that DEBUG halted when the sum is spent. -/
theorem witness_PreemptionAndBudgets_halted : ∃ (s : State) (fn seq g tb : Nat) (x : Gang), gangOf s fn seq g = some x ∧
    (fnOf s fn).spentT ≤ tb ∧ 7 = energyOf s fn / 10 ^ 9 ∧ ¬((fnOf s fn).tbu = 0xFFFFFFFF ∨ tb < (fnOf s fn).tbu) ∧ preemptable x = true ∧
    x.halted = true ∧ (s.gangs.map fun y => (y.fn, y.seq, y.gang)).Nodup :=
  ⟨{ spending with gangs := [{ gang1 with seq := 4, halted := true }], me := { spending.me with status := .halted } }, 0, 4, 0, 100,
    { gang1 with seq := 4, halted := true }, by decide +kernel, by decide +kernel, by decide +kernel, by decide +kernel, rfl, rfl,
    by decide +kernel⟩

/-- Settings at the end of a power interval that hold, and that do not, where the power was above the LIMIT and where it was not. -/
theorem witness_PreemptionAndBudgets_power : ∀ hot : Bool, ∃ (s : State) (fn seq g avg lc high : Nat) (x : Gang),
    gangOf s fn seq g = some x ∧ decide (s.dev.pwrInForce < avg) = hot ∧ 1 ≤ lc ∧ high ≤ 8 ∧ lc < s.dev.dispLc ∧ s.dev.dispLc ≤ high ∧
    s.dev.dispLc < x.lc ∧ preemptable x = true ∧ x.halted = false ∧ StopsAtOnce s x ∧ ∀ st ∈ strandsOf s x, st.det = false := by
  rintro hot
  refine ⟨{ contended with dev := { contended.dev with dispLc := 7 } }, 0, 4, 0, if hot then 2201 else 2200, 6, 8, { gang1 with seq := 4 },
    by decide +kernel, by cases hot <;> rfl, by decide, by decide, by decide, by decide, by decide, rfl, rfl, contended_stops,
    by decide +kernel⟩

/-- A launch that has completed, its word to be written; and a queue that is reset. -/
def completed : State := { waitingHost with launches := [{ unplaced 5 0 with status := some 0 }] }

def resetting : State :=
  { State.reset with funcs := [(0, { owner with queues := [(7, { LQueue.reset with busy := true, tail := 3 })] })] }

theorem witness_ResetsAndTenancy : ∃ (s : State) (fn st pa d : Nat) (a b c : Bool) (l : Launch), fn < 64 ∧ launchFind s fn l.seq = some l ∧
    l.status = some st ∧ l.written = false ∧ l.cwBatch = 0 ∧ l.recHeld = false ∧ cwAddr l % 8 = 0 ∧ cwAddr l < hostSize ∧
    translate s fn (cwAddr l) .store = .ok pa d a b c :=
  ⟨completed, 0, 0, 0x30000, 0x30000, true, true, true, { unplaced 5 0 with status := some 0 }, by decide, by decide +kernel, rfl, rfl,
    rfl, rfl,
    by decide, by decide, by decide +kernel⟩

/-- A launch of the queue that runs, one that has ended but is not written, with each status, and one of another queue with its gang. -/
theorem witness_ResetsAndTenancy_queue : ∀ st : Option Nat, ∃ (s : State) (fn q : Nat) (a b c : Launch) (x : Gang), fn < 64 ∧ q < 8 ∧
    s.launches = [a, b, c] ∧ (s.launches.map fun l => (l.fn, l.seq)).Nodup ∧
    (∀ l ∈ s.launches, l.fn = fn ∧ l.written = false ∧ l.cwBatch = 0 ∧ l.recHeld = false) ∧ a.queue = q ∧ b.queue = q ∧ c.queue ≠ q ∧
    a.status = none ∧ b.status = st ∧ s.gangs = [x] ∧ x.fn = fn ∧ x.seq = c.seq ∧ (lq s fn q).busy = false ∧ served s = true := by
  intro st
  refine ⟨{ waitingHost with
      launches := [unplaced 5 0, { unplaced 6 0 with status := st }, { unplaced 7 0 with queue := 1 }], gangs := [{ gang1 with seq := 7 }] },
    0, 7, _, _, _, _, by decide, by decide, rfl, by simp [unplaced], ?_, rfl, rfl, by decide, rfl, rfl, rfl, rfl, rfl, ?_, rfl⟩
  · intro l h
    simp only [List.mem_cons, List.not_mem_nil, or_false] at h
    rcases h with rfl | rfl | rfl <;> exact ⟨rfl, rfl, rfl, rfl⟩
  · show (lq waitingHost 0 7).busy = false
    decide +kernel

/-- A reset of the function with a launch that runs, one that has ended but is not written, and one of another function. -/
theorem witness_ResetsAndTenancy_function : ∀ st : Option Nat, ∃ (s : State) (fn : Nat) (a b c : Launch) (x : Gang), fn < 64 ∧
    s.launches = [a, b, c] ∧ (s.launches.map fun l => (l.fn, l.seq)).Nodup ∧
    (∀ l ∈ [a, b], l.fn = fn ∧ l.queue < 8 ∧ l.written = false ∧ l.cwBatch = 0 ∧ l.recHeld = false) ∧ c.fn ≠ fn ∧
    a.status = none ∧ b.status = st ∧ s.gangs = [x] ∧ x.fn = c.fn := by
  intro st
  refine ⟨{ waitingHost with
      launches := [unplaced 5 0, { unplaced 6 0 with status := st }, { unplaced 5 0 with fn := 1 }], gangs := [{ gang1 with fn := 1, seq := 5 }] },
    0, _, _, _, _, by decide, rfl, by simp [unplaced], ?_, by decide, rfl, rfl, rfl, rfl⟩
  intro l h
  simp only [List.mem_cons, List.not_mem_nil, or_false] at h
  rcases h with rfl | rfl <;> exact ⟨rfl, (by decide : 7 < 8), rfl, rfl, rfl⟩

/-- A reset with a launch that is not yet finished, and one with none, of one queue and of the function. -/
theorem witness_ResetsAndTenancy_end : ∀ whole : Bool, ∃ (s u : State) (fn q : Nat), fn < 64 ∧ q < 8 ∧ (lq s fn q).busy = true ∧
    (fnOf s fn).flr = whole ∧ (lq u fn q).busy = true ∧ (fnOf u fn).flr = whole ∧ unfinished s fn q ≠ [] ∧
    (∀ k < 8, unfinished u fn k = []) ∧ u.launches = [] ∧
    ∃ h < 128, mapBit (fnOf u fn) h = true ∧ ∀ f < 64, f ≠ fn → mapBit (fnOf u f) h = true → hasLaunch u f = false := by
  intro whole
  let u : State := { resetting with
    funcs := [(0, { owner with queues := [(7, { LQueue.reset with busy := true, tail := 3 })], flr := whole })] }
  refine ⟨{ u with launches := [unplaced 5 0] }, u, 0, 7, by decide, by decide, ?_, ?_, ?_, ?_, ?_, ?_, rfl, 0, by decide, ?_, ?_⟩ <;>
    cases whole <;> decide +kernel

/-- Function 1 may have groups 1 and 2, and shares group 0 with function 0 only under the same tenant and partition. -/
theorem witness_ResetsAndTenancy_map : ∃ (s : State) (fn : Nat) (v u : Word), fn < 64 ∧ s.launches = [] ∧ served s = true ∧
    sharingOk s = true ∧
    (∃ f g h, f < 64 ∧ f ≠ fn ∧ g < 128 ∧ h = fnOf s f ∧ mapBit { fnOf s fn with map0 := v } g = true ∧ mapBit h g = true ∧
      ¬((fnOf s fn).tenant = h.tenant ∧ v = h.map0 ∧ (fnOf s fn).map1 = h.map1)) ∧
    ¬∃ f g h, f < 64 ∧ f ≠ fn ∧ g < 128 ∧ h = fnOf s f ∧ mapBit { fnOf s fn with map0 := u } g = true ∧ mapBit h g = true ∧
      ¬((fnOf s fn).tenant = h.tenant ∧ u = h.map0 ∧ (fnOf s fn).map1 = h.map1) := by
  refine ⟨{ State.reset with funcs := [(0, owner)], dev := { State.reset.dev with fw := true } }, 1, 3, 1, by decide, rfl, rfl,
    by decide +kernel,
    ⟨0, 0, _, by decide, by decide, by decide,
    rfl, by decide +kernel, by decide +kernel, by decide +kernel⟩, ?_⟩
  rintro ⟨f, g, h, hf, hn, hg, rfl, h1, h2, h3⟩
  by_cases hz : f = 0
  · subst hz; exact h3 (by decide +kernel)
  · have e : fnOf { State.reset with funcs := [(0, owner)], dev := { State.reset.dev with fw := true } } f = Func.reset := by
      simp [fnOf, tget, Ne.symm hz]
    rw [e] at h2
    have : ∀ g < 128, mapBit Func.reset g = false := by decide +kernel
    rw [this g hg] at h2
    exact absurd h2 (by decide)

/-- TENANT written, and PARTMAP with a group that another tenant has used. -/
theorem witness_ResetsAndTenancy_passed : ∃ (s : State) (fn g : Nat) (v : Word), fn < 64 ∧ s.launches = [] ∧ served s = true ∧
    sharingOk s = true ∧ g < 128 ∧ mapBit { fnOf s fn with map0 := v } g = true ∧ thas s.dev.scrubbed g = true ∧
    tget 0 s.dev.scrubbed g ≠ (fnOf s fn).tenant :=
  ⟨{ State.reset with dev := { State.reset.dev with fw := true, scrubbed := [(1, 9)] } }, 2, 1, 2, by decide, rfl, rfl, by decide +kernel,
    by decide, by decide +kernel, by decide +kernel, by decide +kernel⟩

/-- A launch in progress in a group that the function has or is to have. -/
theorem witness_ResetsAndTenancy_busy : ∃ (s : State) (fn f g : Nat) (v : Word) (l : Launch), fn < 64 ∧ f < 64 ∧ f ≠ fn ∧ g < 128 ∧
    served s = true ∧ mapBit { fnOf s fn with map0 := v } g = true ∧ mapBit (fnOf s f) g = true ∧ l ∈ s.launches ∧ l.fn = f ∧
    l.written = false :=
  ⟨waitingHost, 1, 0, 0, 1, unplaced 5 0, by decide, by decide, by decide, by decide, rfl, by decide +kernel, by decide +kernel,
    List.mem_singleton.2 rfl, rfl, rfl⟩

/-- A group that another tenant's function had before, with nothing left in it. -/
theorem witness_ResetsAndTenancy_held : ∃ (s : State) (fn g : Nat) (v : Word), fn < 64 ∧ s.launches = [] ∧ served s = true ∧
    sharingOk s = true ∧ g < 128 ∧ mapBit { fnOf s fn with map0 := v } g = true ∧ thas s.dev.holders g = true ∧
    tget 0 s.dev.holders g ≠ (fnOf s fn).tenant :=
  ⟨{ State.reset with dev := { State.reset.dev with fw := true, holders := [(1, 9)] } }, 2, 1, 2, by decide, rfl, rfl, by decide +kernel,
    by decide, by decide +kernel, by decide +kernel, by decide +kernel⟩

theorem witness_ResetsAndTenancy_scrub : ∃ (s : State) (h : Nat) (fs : List Nat), tget [] s.dev.scrubbing h = fs ∧
    thas s.dev.scrubbing h = true ∧ h < 128 :=
  ⟨{ State.reset with dev := { State.reset.dev with scrubbing := [(127, [3])] } }, 127, [3], by decide +kernel, by decide +kernel,
    by decide⟩

/-! ### The area of a strand that was taken off -/

theorem imageOf_mem (bs : List Byte) : ∀ o, ∀ c ∈ imageOf o bs, o ≤ c.1 ∧ c.1 < o + bs.length := by
  induction bs with
  | nil => intro o c hc; simp [imageOf] at hc
  | cons b t ih =>
    intro o c hc
    simp only [imageOf] at hc
    have := ih (o + 1) c
    split at hc
    · have := this hc; simp; omega
    · rcases List.mem_cons.1 hc with rfl | hc
      · simp
      · have := this hc; simp; omega

theorem imageOf_sorted (bs : List Byte) : ∀ o, (imageOf o bs).Pairwise fun x y => x.1 < y.1 := by
  induction bs with
  | nil => intro o; simp [imageOf]
  | cons b t ih =>
    intro o
    simp only [imageOf]
    split
    · exact ih _
    · exact List.pairwise_cons.2 ⟨fun c hc => by have := imageOf_mem t (o + 1) c hc; omega, ih _⟩

/-- The entries of a page of an image that stands at A. -/
theorem cslice_shift (A lo n : Nat) (l : Cells 8) :
    cslice (A + lo) n lo (l.map fun c => (c.1 + A, c.2)) = l.filter fun c => decide (lo ≤ c.1) && decide (c.1 < lo + n) := by
  induction l with
  | nil => rfl
  | cons c t ih =>
    simp only [cslice, List.map_cons, List.filter_cons] at ih ⊢
    by_cases h : lo ≤ c.1 ∧ c.1 < lo + n
    · have h1 : A + lo ≤ c.1 + A ∧ c.1 + A < A + lo + n := by omega
      have h2 : c.1 + A - (A + lo) + lo = c.1 := by omega
      simp [h, h1, h2, ih]
    · have h1 : ¬(A + lo ≤ c.1 + A ∧ c.1 + A < A + lo + n) := by omega
      rw [if_neg (by simpa using h1), if_neg (by simpa using h), ih]

theorem filter_split (m n : Nat) (l : Cells 8) (h : l.Pairwise fun x y => x.1 < y.1) :
    (l.filter fun c => decide (c.1 < m)) ++ (l.filter fun c => decide (m ≤ c.1) && decide (c.1 < m + n)) =
      l.filter fun c => decide (c.1 < m + n) := by
  induction l with
  | nil => rfl
  | cons c t ih =>
    have h' := List.pairwise_cons.1 h
    simp only [List.filter_cons]
    by_cases h1 : c.1 < m
    · have h2 : ¬m ≤ c.1 := by omega
      have h3 : c.1 < m + n := by omega
      simp [h1, h2, h3, ← ih h'.2]
    · have h0 : (t.filter fun c => decide (c.1 < m)) = [] := by
        simp only [List.filter_eq_nil_iff, decide_eq_true_eq]
        intro x hx; have := h'.1 x hx; omega
      have := ih h'.2
      rw [h0] at this
      by_cases h3 : c.1 < m + n
      · have h2 : m ≤ c.1 := by omega
        simp [h1, h2, h3, h0, ← this]
      · simp [h1, h3, h0, ← this]

/-- The pages of an area at A hold the image that stands there. -/
theorem pages_image (A : Nat) (l : Cells 8) (h : l.Pairwise fun x y => x.1 < y.1) (n : Nat) :
    ((List.range n).flatMap fun p => cslice (A + 4096 * p) 4096 (4096 * p) (l.map fun c => (c.1 + A, c.2))) =
      l.filter fun c => decide (c.1 < 4096 * n) := by
  induction n with
  | zero => simp
  | succ n ih =>
    rw [List.range_succ, List.flatMap_append, ih]
    simp only [List.flatMap_cons, List.flatMap_nil, List.append_nil, cslice_shift]
    exact filter_split _ _ _ h

/-- The strand of gang 0 of launch 4, taken off, and the host memory that holds its slot state. -/
def takenOff : Strand := { strand 0x31 4 [] with lseq := 4, status := .off, ctxarea := 0x400000, hm := true, tcause := 0x0E, pre := true }

def waitingArea : State :=
  { contended with
    launches := [{ unplaced 4 0 with next := 1 }], gangs := [{ gang1 with seq := 4, placed := false }], me := takenOff
    host := (imageOf 0 (slotBytes takenOff)).map fun c => (c.1 + 0x4E0000, c.2) }

theorem waitingArea_holds : slotHolds waitingArea ((List.range 32).map fun p => .host (0x4E0000 + 4096 * p)) takenOff = true := by
  have h : areaSlice waitingArea ((List.range 32).map fun p => .host (0x4E0000 + 4096 * p)) 0 0x20000 0 =
      imageOf 0 (slotBytes takenOff) := by
    have hh : waitingArea.host = (imageOf 0 (slotBytes takenOff)).map fun c => (c.1 + 0x4E0000,
      c.2) := by unfold waitingArea; with_reducible rfl
    have h2 := pages_image 0x4E0000 (imageOf 0 (slotBytes takenOff)) (imageOf_sorted _ _) 32
    have h3 : ((imageOf 0 (slotBytes takenOff)).filter fun c => decide (c.1 < 4096 * 32)) = imageOf 0 (slotBytes takenOff) := by
      rw [List.filter_eq_self]
      intro c hc
      have := imageOf_mem _ 0 c hc
      have hl : (slotBytes takenOff).length = 0x20000 := by simp [slotBytes, upTo]
      simp only [decide_eq_true_eq]; omega
    rw [h3] at h2
    rw [← h2]
    unfold areaSlice upTo
    simp only [List.length_map, List.length_range]
    refine List.flatMap_congr fun p hp => ?_
    have hp : p < 32 := List.mem_range.1 hp
    have e1 : ((List.range 32).map fun p => Loc.host (0x4E0000 + 4096 * p))[p]? = some (.host (0x4E0000 + 4096 * p)) := by
      simp [hp]
    have e2 : max 0 (4096 * p) = 4096 * p := by omega
    have e3 : min (0 + 0x20000) (4096 * p + 4096) = 4096 * p + 4096 := by omega
    have e4 : ¬4096 * p + 4096 ≤ 4096 * p := by omega
    simp only [e1, e2, e3, if_neg e4, memOf]
    have e5 : 4096 * p + 4096 - 4096 * p = 4096 := by omega
    have e6 : 0x4E0000 + 4096 * p + (4096 * p - 4096 * p) = 0x4E0000 + 4096 * p := by omega
    have e7 : 4096 * p - 0 + 0 = 4096 * p := by omega
    rw [e5, e6, e7, hh]
  unfold slotHolds
  rw [h]
  exact beq_self_eq_true _

theorem witness_PreemptionAndBudgets_resumption : ∃ (s : State) (fn seq g lc : Nat) (x : Gang) (st : Strand),
    gangOf s fn seq g = some x ∧ mayResume s x = true ∧ (∀ l ∈ s.launches, yieldsTo s x l = false) ∧ 1 ≤ lc ∧ lc ≤ s.dev.dispLc ∧
    s.dev.dispLc ≤ 8 ∧ lc ≤ x.lcCap ∧
    (¬∃ st ∈ strandsOf s x, st.det = true) ∧ ((strandsOf s x).map Strand.core).Nodup ∧
    (∀ st ∈ strandsOf s x, ∃ ls, slotPages s st = some ls ∧ slotHolds s ls st = true) ∧ 0 < x.members.length ∧
    member s fn seq g 0 = some st := by
  refine ⟨waitingArea, 0, 4, 0, 8, { gang1 with seq := 4, placed := false }, takenOff, by decide +kernel, by decide +kernel, ?_,
    by decide, by decide, by decide, by decide, by decide +kernel, by decide +kernel, ?_, by decide, by decide +kernel⟩
  · intro l h
    rw [List.mem_singleton.1 h]
    decide +kernel
  intro st hst
  have h : strandsOf waitingArea { gang1 with seq := 4, placed := false } = [takenOff] := by decide +kernel
  rw [h] at hst
  obtain rfl := List.mem_singleton.1 hst
  exact ⟨_, by decide +kernel, waitingArea_holds⟩

/-- A fault record, and rings that have room. -/
def frec : FRec :=
  { addr := 0x9000, pasid := 0, vf := 0, last := true, fetch := false, write := true, walk := false, stage2 := false, cause := 5, who := 0,
    batch := 1, count := 1, index := 0, launch := 0 }

def reporting (port : Nat × Nat) : State :=
  { State.reset with
    funcs := [(63, { Func.reset with held := [frec], frsize := 4, frbase := 0x50000 })]
    dev := { State.reset.dev with
      retry := ⟨0x60000, true, 4, 0, 0, [frec]⟩, term := ⟨0x70000, true, 4, 15, 0, [frec]⟩, port := port } }

theorem witness_FaultReporting : ∃ (s t v : State) (fn : Nat) (r q u : FRec) (a b c : List FRec), fn < 64 ∧ s.dev.retry.held = r :: a ∧
    HasRoom s.dev.retry ∧ HasTurn s 1 ∧ t.dev.term.held = q :: b ∧ HasRoom t.dev.term ∧ HasTurn t 2 ∧ (fnOf v fn).held = u :: c ∧
    (fnOf v fn).frsize ≠ 0 ∧ (fnOf v fn).frbase ≠ 0 ∧ ((fnOf v fn).frtail - (fnOf v fn).frhead).toNat < 2 ^ (fnOf v fn).frsize ∧
    ringOpen v fn ((fnOf v fn).frbase.toNat + (fnOf v fn).frtail.toNat % 2 ^ (fnOf v fn).frsize * 32) = true ∧ HasTurn v 0 ∧ u.launch = 0 ∧
    v.dev.port.2 ≠ 0 ∧ kindReady v 0 = true :=
  ⟨reporting (0, 0), reporting (2, 3), reporting (0, 1), 63, frec, frec, frec, [], [], [], by decide, rfl, by unfold HasRoom; decide,
    ⟨by decide +kernel, by decide, Or.inr (Or.inl ⟨rfl, rfl⟩)⟩, rfl, by unfold HasRoom; decide,
    ⟨by decide +kernel, by decide, Or.inl ⟨rfl, by decide⟩⟩, by decide +kernel,
    by decide +kernel, by decide +kernel, by decide +kernel, by decide +kernel, ⟨by decide +kernel, by decide, Or.inl ⟨rfl, by decide⟩⟩,
      rfl,
    by decide, by decide +kernel⟩

/-- A ring whose page does not translate, and a record that announces the end of launch 5, whose word was not written. -/
theorem witness_FaultReporting_ring : ∃ (s u : State) (r x : FRec) (l : Launch), (fnOf s 0).held = [r] ∧
    ringOpen s 0 ((fnOf s 0).frbase.toNat + (fnOf s 0).frtail.toNat % 2 ^ (fnOf s 0).frsize * 32) = false ∧
    (fnOf u 0).held = [x] ∧ (fnOf u 0).frsize ≠ 0 ∧ (fnOf u 0).frbase ≠ 0 ∧
    ((fnOf u 0).frtail - (fnOf u 0).frhead).toNat < 2 ^ (fnOf u 0).frsize ∧
    ringOpen u 0 ((fnOf u 0).frbase.toNat + (fnOf u 0).frtail.toNat % 2 ^ (fnOf u 0).frsize * 32) = true ∧ HasTurn u 0 ∧ x.launch ≠ 0 ∧
    x.vf = 0 ∧ launchFind u 0 x.launch = some l ∧ l.written = false ∧ l.recHeld = true := by
  let u : State := { waitingHost with
    funcs := [(0, { owner with held := [{ frec with launch := 5 }], frsize := 4, frbase := 0x50000 })]
    launches := [{ unplaced 5 0 with status := some 3, recHeld := true }] }
  exact ⟨{ u with funcs := [(0, { owner with held := [frec], frsize := 4, frbase := 0x50000, s1 := 1 })] }, u, frec,
    { frec with launch := 5 },
    { unplaced 5 0 with status := some 3, recHeld := true }, by decide +kernel, by decide +kernel, by decide +kernel, by decide +kernel,
    by decide +kernel, by decide +kernel, by decide +kernel,
    ⟨by decide +kernel, by decide, Or.inr (Or.inr (by decide +kernel))⟩, by decide, rfl, by decide +kernel, rfl, rfl⟩

/-- A suspended strand whose batch the host answers. -/
def suspended (ring : Nat) : State :=
  { mk 0x31 4 [] with
    dev := { State.reset.dev with fw := true, batches := [(ring, 1, .strand 0 0 0 0)] }
    me := { strand 0x31 4 [] with
      status := .suspended, susp := some ⟨5, false, (ring, 1), 0x9008, [⟨false, false, 0x9000⟩], false, false, false⟩ } }

theorem witness_FaultReporting_answer : ∀ (i : Instr) (ring : Nat) (term : Bool),
    (i = .faultAnswer 0 (answerWord 1 term) ∧ ring = 0) ∨ (i = .pfFaultAnswer ring (answerWord 1 term) ∧ (ring = 64 ∨ ring = 65)) →
    ∃ (s : State) (x : Susp), served s = true ∧ NothingOut s ∧ s.me.status = .suspended ∧ s.me.susp = some x ∧ x.batch = (ring, 1) ∧
      s.me.hm = false ∧
      s.dev.batches = [(ring, 1, .strand s.me.fn s.me.lseq s.me.gang s.me.lsn)] :=
  fun _ ring _ _ => ⟨suspended ring, _, rfl, nothing_of _ rfl rfl rfl rfl, rfl, rfl, rfl, rfl, rfl⟩

theorem witness_FaultReporting_none : ∃ (s : State) (ring : Nat) (v : Word), ∀ b ∈ s.dev.batches, ¬(b.1 = ring ∧ b.2.1 = v.toNat / 2) :=
  ⟨suspended 0, 0, 4, by
    intro b hb
    simp [suspended] at hb
    subst hb; decide⟩

theorem witness_FaultReporting_hub : ∃ (s : State) (x : Inval) (rest : List Inval) (vault frame spare : Nat), s.dev.invals = x :: rest ∧
    vault < 512 ∧ frame < 384 ∧ spare < 384 ∧ frame ≠ spare ∧ tget 0 s.dev.erased vault = 0 ∧
    cwf (vaultDflt s.dev.erased) s.vault = true ∧ (∀ x ∈ s.dev.retired, x.1 ≠ vault * 384 + spare ∧ x.2 ≠ vault * 384 + spare) ∧
    ∀ x ∈ s.dev.retired, x.1 ≠ vault * 384 + frame :=
  ⟨{ State.reset with dev := { State.reset.dev with invals := [⟨1, 1, 0, 8⟩] } }, _, _, 511, 383, 0, rfl, by decide, by decide, by decide,
    by decide, rfl, rfl, by intro x hx; exact absurd hx List.not_mem_nil, by intro x hx; exact absurd hx List.not_mem_nil⟩

/-- An invalidation with host stores that wait for a VFENCE, and with one that does not. -/
theorem witness_FaultReporting_invalidation : ∀ held, held = 0 ∨ held = 1 → ∃ (s : State) (x : Inval) (st : Strand) (y : HStore),
    s.dev.invals = [x] ∧ st ∈ s.me :: s.others ∧ st.status ≠ .free ∧ st.fn = x.fn ∧ st.hpath = [y] ∧ st.det = false ∧ y.held = held ∧
    ((s.me :: s.others).map fun st => (st.fn, st.lseq, st.gang, st.lsn)).Nodup := by
  rintro held (rfl | rfl) <;> exact ⟨{ onPath [⟨[(0x2000, ⟨3, 0xFF⟩)], _, none⟩] with dev := { State.reset.dev with invals := [⟨0, 1, 0,
    8⟩] } }, _, _, _, rfl,
    List.mem_singleton.2 rfl, by decide, rfl, rfl, rfl, rfl, by decide⟩

/-! ### Peers, the platform and debugging -/

theorem witness_PeerTraffic_arrives : ∀ k, 1 ≤ k → k ≤ 6 → ∃ (s : State) (f : Flit), Arrives s 3 f k ∧ f.tag < 2 ^ 32 ∧ f.count = 1 ∧
    askedOf s f.tag = none := by
  intro k h1 h6
  refine ⟨State.reset, mkFlit k 1 0 7 [1, 2, 3, 4, 5, 6, 7, 8], ⟨by decide, ?_, rfl, rfl⟩, (by decide : 7 < 2 ^ 32), rfl, rfl⟩
  have hk : k = 1 ∨ k = 2 ∨ k = 3 ∨ k = 4 ∨ k = 5 ∨ k = 6 := by omega
  rcases hk with rfl | rfl | rfl | rfl | rfl | rfl <;> decide +kernel

/-- What a command has asked of a peer over tag 7. -/
def asking : State := { State.reset with dev := { State.reset.dev with asked := [⟨7, 3, 2, 0, 0x1000, 8⟩] } }

theorem witness_PeerTraffic_asked : ∀ k, k = 2 ∨ k = 4 → ∃ (s : State) (f : Flit) (a : Asked), Arrives s 3 f k ∧
  askedOf s f.tag = some a := by
  rintro k (rfl | rfl)
  · exact ⟨asking, mkFlit 2 1 0 7 [1, 2, 3, 4, 5, 6, 7, 8], _, ⟨by decide, by decide +kernel, rfl, rfl⟩, rfl⟩
  · exact ⟨asking, mkFlit 4 0 0 7 [], _, ⟨by decide, by decide +kernel, rfl, rfl⟩, rfl⟩

/-- A flit out of order, one that fails its check, and one over a link that is down. -/
theorem witness_PeerTraffic_not : ∃ (s u : State) (f g : Flit), FlitMove 6 0 f (.hjelvorFenceAck 0 f) ∧ ¬Arrives s 0 f 6 ∧
    FlitMove 6 0 g (.hjelvorFenceAck 0 g) ∧ ¬Arrives s 0 g 6 ∧ ¬Arrives u 0 (mkFlit 6 0 0 7 []) 6 := by
  refine ⟨State.reset, { State.reset with dev := { State.reset.dev with linksDown := 1 } }, mkFlit 6 0 1 7 [],
    { mkFlit 6 0 0 7 [] with crc := 0 },
    by unfold FlitMove; simp, fun h => ?_, by unfold FlitMove; simp, fun h => ?_, fun h => ?_⟩
  · exact absurd h.2.2.2 (by decide)
  · exact absurd h.2.1 (by decide +kernel)
  · exact absurd h.1 (by decide)

/-- A package that the windows admit: the one that the traffic comes from. -/
def admits (pkg : Nat) : State :=
  { State.reset with
    dev := { State.reset.dev with windows := [(0, { Window.reset with valid := true, pkg := BitVec.ofNat 8 pkg })] } }

theorem admits_accepts (pkg fn : Nat) (h : pkg < 256) : accepts (admits pkg) pkg fn = true := by
  have h0 : (fnOf (admits pkg) fn).tenant = 0 := rfl
  simp only [accepts, List.any_eq_true, h0]
  refine ⟨0, by decide, ?_⟩
  have h1 : tget Window.reset (admits pkg).dev.windows 0 = { Window.reset with valid := true, pkg := BitVec.ofNat 8 pkg } := rfl
  rw [h1]
  simp [Window.reset, Nat.mod_eq_of_lt h]

theorem witness_PeerTraffic : ∀ k, k = 1 ∨ k = 3 → ∃ (s : State) (f : Flit), Arrives s 3 f k ∧ f.tag < 2 ^ 32 ∧ f.count = 1 ∧
    accepts s (remoteOf f.tag f.payload).pkg (remoteOf f.tag f.payload).fn = true := by
  intro k hk
  refine ⟨admits (remoteOf 7 [1, 2, 3, 4, 5, 6, 7, 8]).pkg, mkFlit k 1 0 7 [1, 2, 3, 4, 5, 6, 7, 8], ⟨rfl, ?_, rfl, rfl⟩,
    (by decide : 7 < 2 ^ 32), rfl,
    admits_accepts _ _ (Nat.mod_lt _ (by decide))⟩
  rcases hk with rfl | rfl <;> decide +kernel

theorem witness_PeerTraffic_write : ∃ (s : State) (f : Flit), Arrives s 3 f 3 ∧ f.tag < 2 ^ 32 ∧ f.count = 1 ∧
    accepts s (remoteOf f.tag []).pkg (remoteOf f.tag []).fn = true :=
  ⟨admits (remoteOf 7 []).pkg, mkFlit 3 1 0 7 [1, 2, 3, 4, 5, 6, 7, 8], ⟨rfl, by decide +kernel, rfl, rfl⟩, by decide, rfl,
    admits_accepts _ _ (Nat.mod_lt _ (by decide))⟩

theorem witness_PeerTraffic_refused : ∀ k, k = 1 ∨ k = 3 → ∃ (s : State) (f : Flit), Arrives s 3 f k ∧ f.tag < 2 ^ 32 ∧ f.count = 1 ∧
    accepts s (remoteOf f.tag f.payload).pkg (remoteOf f.tag f.payload).fn = false ∧
    accepts s (remoteOf f.tag []).pkg (remoteOf f.tag []).fn = false := by
  rintro k (rfl | rfl)
  · exact ⟨State.reset, mkFlit 1 1 0 7 [], ⟨rfl, by decide +kernel, rfl, rfl⟩, by decide, rfl, rfl, rfl⟩
  · exact ⟨State.reset, mkFlit 3 1 0 7 [], ⟨rfl, by decide +kernel, rfl, rfl⟩, by decide, rfl, rfl, rfl⟩

theorem witness_PeerTraffic_down : ∃ (s : State) (link : Nat), link < 12 ∧ ∀ st ∈ s.me :: s.others, st.fifos = [] :=
  ⟨mk 0x31 4 [], 11, by decide, by intro st h; rw [List.mem_singleton.1 h]; rfl⟩

/-- The mailbox, with firmware that runs and a buffer of 16 bytes. -/
def mailState (busy fw : Bool) : State :=
  { State.reset with
    dev := { State.reset.dev with mbbusy := busy, fw := fw, mbaddr := 0x70000, mblen := 16, mbresult := some 0 } }

theorem witness_PlatformMoves : ∀ busy fw, ∃ (s : State) (bs : List Byte) (r : Nat), s.dev.mbbusy = busy ∧ s.dev.fw = fw ∧
    mailBuffer s = some bs ∧ s.launches = [] ∧ s.dev.mbresult = some r :=
  fun busy fw => ⟨mailState busy fw, List.replicate 16 0, 0, rfl, rfl, by cases busy <;> cases fw <;> decide +kernel, rfl, rfl⟩

/-- A configuration block is good or not, and newer or not, as the free values say; each case has a state where it is as newest. -/
theorem witness_PlatformMoves_config : ∃ (s u : State) (bs : List Byte), s.dev.mbbusy = false ∧ mailBuffer s = some bs ∧ s.dev.fw = false ∧
    u.dev.mbbusy = false ∧ mailBuffer u = some bs ∧ u.dev.fw = true ∧ Config.cfgField bs 0 ≤ u.dev.cfgSeq := by
  let u : State := { mailState false true with
    dev := { (mailState false true).dev with cfgSeq := Config.cfgField (List.replicate 16 0) 0 } }
  refine ⟨mailState false false, u, List.replicate 16 0, rfl, by decide +kernel, rfl, rfl, ?_, rfl, le_refl _⟩
  show mailBuffer (mailState false true) = _
  decide +kernel

/-- With the attestation key and without it. -/
theorem witness_PlatformMoves_keys : ∀ key : Bool, ∃ (s : State) (bs : List Byte) (l : Launch), s.dev.mbbusy = false ∧
    mailBuffer s = some bs ∧
    launchFind s (Config.quoteField bs 0) (Config.quoteField bs 1) = some l ∧ l.hashes ≠ [] ∧ s.dev.attKey = key := by
  intro key
  let l : Launch := { unplaced 5 0 with
    fn := Config.quoteField (List.replicate 16 0) 0, seq := Config.quoteField (List.replicate 16 0) 1, hashes := [0] }
  refine ⟨{ mailState false true with launches := [l], dev := { (mailState false true).dev with attKey := key } }, List.replicate 16 0, l,
    rfl, ?_,
    ?_, by simp [l], rfl⟩
  · cases key <;> decide +kernel
  · simp [launchFind, isLaunch, l, unplaced]

/-- A LOAD whose resets have ended, and one whose have not. -/
theorem witness_PlatformMoves_result : ∀ flr : Bool, ∃ (s : State) (r : Nat) (bs : List Byte), s.dev.mbresult = some r ∧
    s.dev.mbcmd = 1 ∧ (fnOf s 5).flr = flr ∧ mailBuffer s = some bs ∧ (flr = false → ∀ f < 64, (fnOf s f).flr = false) := by
  intro flr
  refine ⟨{ mailState true true with
    funcs := [(5, { Func.reset with flr := flr })], dev := { (mailState true true).dev with mbcmd := 1 } }, 0, List.replicate 16 0, rfl, rfl,
    ?_, ?_, ?_⟩ <;> cases flr <;> decide +kernel

/-- Before the firmware runs, and after an alarm of level 3, the mailbox alone is served; DEVSTAT and MBSTAT are read elsewhere. -/
theorem witness_PlatformMoves_served : ∃ s t u : State, s.dev.fw = false ∧ t.dev.lock = true ∧ served u = true ∧ u.dev.alarm = 3 ∧
    u.dev.mbstatus = 2 :=
  ⟨State.reset, { State.reset with dev := { State.reset.dev with lock := true, fw := true } },
    { State.reset with dev := { State.reset.dev with fw := true, alarm := 3, mbstatus := 2 } }, rfl, rfl, rfl, rfl, rfl⟩

theorem witness_PlatformMoves_registers : ∃ (s : State) (fn : Nat) (v w x : Word), fn < 64 ∧ served s = true ∧ v.toNat % 4 = 0 ∧
    v.toNat < 2 ^ 56 ∧ w.toNat % 4 ≠ 0 ∧ 2 ^ 56 ≤ x.toNat :=
  ⟨{ State.reset with dev := { State.reset.dev with fw := true } }, 63, 0x4000, 0x4001, 0x100000000000000, by decide, rfl, by decide,
    by decide,
    by decide, by decide⟩

/-- Writes that break a limit: of a launch queue, of a debug block, of the physical function's registers. -/
theorem witness_PlatformMoves_limits : ∃ s : State,
    (∀ p ∈ [((5, 0x1000, 0x801) : Nat × Nat × Word), (5, 0x10E0, 1), (5, 0x1008, 3), (5, 0x1008, 13), (5, 0x3018, 3), (5, 0x3040, 0x800),
      (5, 0x3048, 0x10), (5, 0x3060, 0x10), (5, 0x3068, 21)], BreaksLimit s p.1 p.2.1 p.2.2) ∧
    ∀ p ∈ [((64, 0x103F20, 2) : Nat × Nat × Word), (64, 0x103F28, 0x0010000000010010), (64, 0x100070, 1), (64, 0x100078, 3),
      (64, 0x200, 2201), (64, 0x200, 110), (64, 0x400, 0x10), (64, 0x420, 0x10)], BreaksLimit s p.1 p.2.1 p.2.2 := by
  refine ⟨State.reset, ?_, ?_⟩
  · intro p h
    simp only [List.mem_cons, List.not_mem_nil, or_false] at h
    rcases h with rfl | rfl | rfl | rfl | rfl | rfl | rfl | rfl | rfl <;> refine Or.inl ⟨by decide, ?_⟩
    · exact .inl ⟨0, by decide, by decide, .inl ⟨rfl, .inr (.inl (by decide))⟩⟩
    · exact .inl ⟨7, by decide, by decide, .inl ⟨rfl, .inr (.inl (by decide))⟩⟩
    · exact .inl ⟨0, by decide, by decide, .inr ⟨rfl, by decide, .inl (by decide)⟩⟩
    · exact .inl ⟨0, by decide, by decide, .inr ⟨rfl, by decide, .inr (.inl (by decide))⟩⟩
    · exact .inr (.inl ⟨3, by decide, rfl, by decide⟩)
    · exact .inr (.inr (.inl ⟨rfl, .inr (.inl (by decide))⟩))
    · exact .inr (.inr (.inr (.inl ⟨rfl, .inl (by decide)⟩)))
    · exact .inr (.inr (.inr (.inr (.inl ⟨rfl, .inr (by decide)⟩))))
    · exact .inr (.inr (.inr (.inr (.inr ⟨rfl, .inr (.inr (.inr (by decide)))⟩))))
  · intro p h
    simp only [List.mem_cons, List.not_mem_nil, or_false] at h
    rcases h with rfl | rfl | rfl | rfl | rfl | rfl | rfl | rfl <;> refine Or.inr ⟨rfl, ?_⟩
    · exact .inl ⟨63, by decide, .inl ⟨rfl, .inl (by decide)⟩⟩
    · exact .inl ⟨63, by decide, .inr (.inl ⟨rfl, .inr ⟨2, by decide, by decide, by decide⟩⟩)⟩
    · exact .inl ⟨0, by decide, .inr (.inr (.inl ⟨rfl, .inl (by decide)⟩))⟩
    · exact .inl ⟨0, by decide, .inr (.inr (.inr ⟨rfl, .inr (.inl (by decide))⟩))⟩
    · exact .inr (.inl ⟨rfl, .inr (.inl (by decide))⟩)
    · exact .inr (.inl ⟨rfl, .inr (.inr (by decide))⟩)
    · exact .inr (.inr (.inl ⟨rfl, .inr (.inl (by decide))⟩))
    · exact .inr (.inr (.inr ⟨rfl, .inr (.inl (by decide))⟩))

/-- No sensor, one at level 1, and several at once of which one has level 3. -/
theorem witness_PlatformMoves_sensors : ∃ s : State, sensorsOf 32 = [] ∧ sensorsOf 4 = [2] ∧ s.dev.levels.getD 2 1 = 1 ∧
    sensorsOf 0b10101 = [0, 2, 4] ∧ s.dev.levels.getD 4 1 = 3 :=
  ⟨{ State.reset with dev := { State.reset.dev with levels := [2, 2, 1, 1, 3] } }, by decide, by decide, rfl, by decide, rfl⟩

/-- A traced strand, and one that halted. -/
def tracing : State :=
  { mk 0x31 4 [] with funcs := [(0, { Func.reset with debug := { Debug.reset with tren := true } })] }

theorem witness_DebugAndFetchMoves : ∀ r : Status, r = .halted ∨ r = .halting → ∃ (s : State) (fn : Nat), fn < 64 ∧ served s = true ∧
    s.me.fn = fn ∧ s.me.status = r ∧ ∀ st ∈ s.me :: s.others, st.susp = none :=
  fun r _ => ⟨{ tracing with me := { tracing.me with status := r }, dev := { tracing.dev with fw := true } }, 0, by decide, rfl, rfl, rfl,
    by intro st h; rw [List.mem_singleton.1 h]; rfl⟩

theorem witness_DebugAndFetchMoves_trace : ∃ s u : State, Running s ∧ traced s = true ∧ Running u ∧ traced u = false :=
  ⟨tracing, mk 0x31 4 [], rfl, by decide, rfl, by decide⟩

theorem witness_DebugAndFetchMoves_fetch : ∃ s t : State, Running s ∧ s.me.hm = false ∧ s.me.pc.toNat % 4 ≠ 0 ∧
    Running t ∧ t.me.hm = false ∧ t.me.pc.toNat % 4 = 0 ∧ 2 ^ 56 ≤ t.me.pc.toNat :=
  ⟨{ tracing with me := { tracing.me with pc := 0x1002 } }, { tracing with me := { tracing.me with pc := 0x100000000000000 } }, rfl, rfl,
    by decide, rfl, rfl, by decide, by decide⟩

/-! ### Words, steps and invariants -/

theorem witness_DecodeEncodeAgree : ∃ (w : Nat) (i : Instr), i.wellFormed = true ∧ decodeNat w = .ok i :=
  ⟨0x00D8B502, .bfx 10 11 12, rfl, by decide +kernel⟩

/-- The word of BFX s10, s11, s12 at the strand's PC. -/
def fetching : State := { mk 0x31 4 [] with host := [(0x1000, 0x02), (0x1001, 0xB5), (0x1002, 0xD8)] }

theorem fetching_issues : Issues fetching := by
  refine ⟨rfl, by decide, rfl, rfl, rfl, rfl, fun h => absurd h (by decide), by decide +kernel⟩

theorem witness_StepRunsDecoded : ∃ (s : State) (i : Instr) (pa g : Nat) (r w x : Bool) (t : State),
    let s0 := { s with defer := false, beat := s.beat + 1 }
    Issues s ∧ s.me.pc.toNat % 4 = 0 ∧ s.me.pc.toNat < 2 ^ 56 ∧ translate s s.me.fn s.me.pc.toNat .fetch = .ok pa g r w x ∧
      decodeBytes (wordBytes s pa) = .ok (i, []) ∧ lacksQueue i s0 = false ∧ waits i s0 = false ∧
      noInstr i s0 = false ∧ exec i (issued pa s0) = .next t ∧ brkHit s 2 s.me.pc = false ∧ t.trev = [] ∧
      (∀ g ∈ t.gangs, g.stopping = false) ∧ (∀ st ∈ t.others, st.status ≠ .halting) ∧ Running t ∧ t.me.core = s.me.core := by
  refine ⟨fetching, .bfx 10 11 12, 0x1000, 0x1000, true, true, true, _, fetching_issues, by decide, by decide, by decide +kernel,
    by decide +kernel,
    rfl, rfl, by decide +kernel, rfl, by decide +kernel, rfl, by intro g h; exact absurd h List.not_mem_nil,
    by intro st h; exact absurd h List.not_mem_nil, rfl, rfl⟩

/-- The word of VLD v31, s1, whose register is above the count of vector registers that the program declared, is no instruction. -/
def beyondCount : State :=
  { mk 0x31 4 [] with
    host := (List.range 4).filterMap fun j =>
      let b := BitVec.ofNat 8 (encodeNat (.vld 31 1 0) / 256 ^ j)
      if b = 0 then none else some (0x1000 + j, b)
    me := { strand 0x31 4 [] with vctx := { (strand 0x31 4 []).vctx with cnt := 16 } } }

theorem witness_StepRunsDecoded_none : ∃ (s : State) (i : Instr) (pa g : Nat) (r w x : Bool),
    let s0 := { s with defer := false, beat := s.beat + 1 }
    Issues s ∧ s.me.pc.toNat % 4 = 0 ∧ s.me.pc.toNat < 2 ^ 56 ∧ translate s s.me.fn s.me.pc.toNat .fetch = .ok pa g r w x ∧
      decodeBytes (wordBytes s pa) = .ok (i, []) ∧ lacksQueue i s0 = false ∧ waits i s0 = false ∧ noInstr i s0 = true :=
  ⟨beyondCount, .vld 31 1 0, 0x1000, 0x1000, true, true, true, ⟨rfl, by decide, rfl, rfl, rfl, rfl, fun h => absurd h (by decide),
    by decide +kernel⟩, by decide, by decide, by decide +kernel, by decide +kernel, rfl, rfl, by decide +kernel⟩

theorem witness_StepRunsDecoded_event : ∃ (s : State) (i : Instr) (rest : List Turn), s.agenda = .event i :: rest ∧ encodeNat i = 0 ∧
    (∀ d a b, i ≠ .add d a b) ∧ (∀ w, i ≠ .illegalInstruction w) ∧ i ≠ .instructionFetchFault :=
  ⟨{ fetching with agenda := [.event .budgetWindow] }, .budgetWindow, [], rfl, rfl, by intros; simp, by intros; simp, by simp⟩

theorem witness_MemoryStaysCanonical : ∃ s t : State, MemoryOk s ∧ step s = .next t :=
  ⟨fetching, _, by unfold MemoryOk; decide +kernel, rfl⟩

/-- A line that waits in a buffer, a store in the host path, and the gang of the strand. -/
def waitingStore : State :=
  { fetching with
    me := { fetching.me with wcb := [⟨0, 0, [(4, ⟨1, 255⟩), (5, ⟨2, 255⟩)]⟩], hpath := [⟨[(64, ⟨3, 255⟩)], 0, none⟩] }
    gangs := [gang1] }

theorem witness_WaitingStaysOrdered : ∃ s t : State, WaitingInv s ∧ step s = .next t ∧ s.me.wcb ≠ [] ∧ s.me.hpath ≠ [] ∧ s.gangs ≠ [] := by
  refine ⟨waitingStore, _, ⟨?_, ?_⟩, rfl, by decide, by decide, by decide⟩
  · intro st h
    rw [List.mem_singleton.1 h]
    unfold WaitingOk StoresInOrder
    decide
  · decide

/-! ### Ill-formed terms: for each limit that a word obeys, a term that breaks it alone and its neighbour that keeps it -/

/-- R77: the word 0 is no instruction. -/
theorem smoke_zero_word : (Instr.add 0 0 0).wellFormed = false ∧ (Instr.add 0 0 1).wellFormed = true := by decide

/-- R68: BC = 0 requires BSZ = 0b00, in each layout that has the two fields. -/
theorem smoke_block_size : (Instr.vadd 1 2 3 ⟨1, 0, 0, 0, 0⟩).wellFormed = false ∧ (Instr.vadd 1 2 3 ⟨1, 1, 0, 0, 0⟩).wellFormed = true ∧
    (Instr.vaddVs 1 2 3 ⟨2, 0, 0, 0⟩).wellFormed = false ∧ (Instr.vaddVi 1 2 3 ⟨3, 0, 0, 0⟩).wellFormed = false ∧
    (Instr.vclz 1 2 ⟨1, 0, 0, 0⟩).wellFormed = false ∧ (Instr.vcmp 1 2 3 0 ⟨1, 0, 0, 0, 0⟩).wellFormed = false ∧
    (Instr.vcvtw 1 2 0 ⟨1, 0, 0, 0⟩).wellFormed = false ∧ (Instr.qrgen 1 2 3 ⟨1, 0, 0, 0, 0⟩).wellFormed = false ∧
    (Instr.qrgens 1 2 3 ⟨1, 0, 0, 0⟩).wellFormed = false := by decide

/-- R66: a field that names a mask or scale register is below 8. -/
theorem smoke_mask_register : (Instr.vcmp 8 2 3 0 ⟨0, 0, 0, 0, 0⟩).wellFormed = false ∧
    (Instr.vcmpVs 8 2 3 0 ⟨0, 0, 0, 0⟩).wellFormed = false ∧
    (Instr.mand 8 0 0).wellFormed = false ∧ (Instr.mor 0 8 0).wellFormed = false ∧ (Instr.mxor 0 0 8).wellFormed = false ∧
    (Instr.mnot 0 8).wellFormed = false ∧ (Instr.mffs 31 8).wellFormed = false ∧ (Instr.mpopc 31 8).wellFormed = false ∧
    (Instr.mpopc 31 7).wellFormed = true ∧ (Instr.kset 8 0 0).wellFormed = false ∧ (Instr.kmv 0 1 8 0).wellFormed = false ∧
    (Instr.kcalc 8 0 0 0 0).wellFormed = false ∧ (Instr.viota 0 8 0).wellFormed = false ∧ (Instr.mxv 8 0 0 0 0 0).wellFormed = false ∧
    (Instr.mxv 7 31 0 0 0 0).wellFormed = true := by decide

/-- Tables 3.4 and 3.5: width, scope and operation codes that have no meaning. -/
theorem smoke_codes : (Instr.ld 1 2 0 7).wellFormed = false ∧ (Instr.ld 1 2 0 6).wellFormed = true ∧
    (Instr.amo 1 2 3 6 0 0 0).wellFormed = false ∧ (Instr.amo 1 2 3 5 9 0 0).wellFormed = false ∧
      (Instr.amo 1 2 3 5 8 0 0).wellFormed = true ∧
    (Instr.cas 1 2 3 7 0 0).wellFormed = false ∧ (Instr.fence 0 0).wellFormed = false ∧ (Instr.fence 1 6).wellFormed = false ∧
    (Instr.vfence 7).wellFormed = false ∧ (Instr.vamo 1 2 3 0 9 0 0).wellFormed = false := by decide

/-- Limits that the chapters put on one field of an instruction. -/
theorem smoke_fields : (Instr.vsetl 1 2 1).wellFormed = false ∧ (Instr.vsetl 1 0 1).wellFormed = true ∧ (Instr.vregs 5).wellFormed = false ∧
    (Instr.vcvtn 1 2 2 ⟨0, 0, 0, 0⟩).wellFormed = false ∧ (Instr.vcvti 1 2 4 ⟨0, 0, 0, 0⟩).wellFormed = false ∧
    (Instr.vcvti 1 2 3 ⟨0, 0, 0, 0⟩).wellFormed = true ∧ (Instr.kmv 0 2 0 0).wellFormed = false ∧ (Instr.kmv 0 0 0 1).wellFormed = false ∧
    (Instr.kcalc 0 4 0 0 0).wellFormed = false ∧ (Instr.vslup 0 0 0 6 0 0).wellFormed = false ∧
      (Instr.vsldn 0 0 0 5 0 0).wellFormed = true ∧
    (Instr.rstat 0 0 4).wellFormed = false ∧ (Instr.mwldSp 0 0 16).wellFormed = false ∧ (Instr.mop 0 0 3 0).wellFormed = false ∧
    (Instr.qrtld 0 0 63).wellFormed = true ∧ (Instr.qrtld 0 1 63).wellFormed = false ∧ (Instr.qrseed 0 0 3 0).wellFormed = false ∧
    (Instr.pwld 0 0 1 1 0).wellFormed = false ∧ (Instr.pwld 0 0 1 0 0).wellFormed = true := by decide

/-- An event of the device is no word. -/
theorem smoke_event : (Instr.drain 0 0 0).wellFormed = false ∧ Instr.powerOn.wellFormed = false := by decide

/-! ### The manual's own examples, one step each -/

/-- The next state of an instruction. -/
def after (i : Instr) (s : State) : State := match exec i s with | .next t => t | _ => s

/-- R107: DIV of −7 by 2 gives −3 and REM gives −1, and DIVU of the same word gives 0x7FFF_FFFF_FFFF_FFFC. -/
theorem test_div_examples : let s := mk 0x31 4 [(2, -7), (3, 2)]
    reg (after (.div 1 2 3) s) 1 = -3 ∧ reg (after (.rem 1 2 3) s) 1 = -1 ∧ reg (after (.divu 1 2 3) s) 1 = 0x7FFFFFFFFFFFFFFC := by
  decide +kernel

/-- R105: the examples of BFX, BFI and FSHR. -/
theorem test_bit_field_examples :
    reg (after (.bfx 1 2 3) (mk 0x31 4 [(2, 0xABCDEF), (3, 0xC08)])) 1 = 0xBCD ∧
    reg (after (.bfi 1 2 3) (mk 0x31 4 [(1, -1), (2, 0x123), (3, 0x804)])) 1 = 0xFFFFFFFFFFFFF23F ∧
    reg (after (.fshr 1 2 3 4) (mk 0x31 4 [(2, 1), (3, 0x8000000000000000)])) 1 = 0x1800000000000000 := by decide +kernel

/-- A source that is also the destination, and s0 as the destination. -/
theorem test_jalr_target_first : let t := after (.jalr 2 2 8) (mk 0x31 4 [(2, 0x2000)])
    reg t 2 = 0x1004 ∧ t.me.pc = 0x2008 := by decide +kernel

/-- The state of `mk` with eight registers declared, elements of the bytes given in v1 and v2, and mask m1. -/
def mkv (vs : Word) (vl : Nat) (rs : List (Nat × Word)) (v1 v2 : List Byte) (m1 : List (BitVec 1)) : State :=
  let s := mk vs vl rs
  { s with me := { s.me with vctx := { s.me.vctx with
      cnt := 1, vf := csets zeros (csets zeros [] 32768 v1) 65536 v2, masks := csets zeros [] 65536 m1 } } }

/-- R138: at SEW 8 under sint, VMULH of −128 by −128 gives 64; VBFX with a = 0x32 and b = 0xB4 gives 5. -/
theorem test_vector_integer_examples :
    velem (after (.vmulh 3 1 2 ⟨0, 0, 0, 0, 0⟩) (mkv 0x10 1 [] [0x80] [0x80] [])) 3 0 = 64 ∧
    velem (after (.vbfx 3 1 2 ⟨0, 0, 0, 0, 0⟩) (mkv 0x10 1 [] [0x32] [0xB4] [])) 3 0 = 5 := by decide +kernel

/-- R131: FP32 −2.5 to sint gives −2 under RNE and −3 under RDN; to uint it gives 0 and sets NV. -/
theorem test_vcvti_examples :
    velem (after (.vcvti 3 1 0 ⟨0, 0, 0, 0⟩) (mkv 3 1 [] [0, 0, 0x20, 0xC0] [] [])) 3 0 = 0xFFFFFFFE ∧
    velem (after (.vcvti 3 1 0 ⟨0, 0, 0, 0⟩) (mkv 0x8003 1 [] [0, 0, 0x20, 0xC0] [] [])) 3 0 = 0xFFFFFFFD ∧
    (let t := after (.vcvti 3 1 1 ⟨0, 0, 0, 0⟩) (mkv 3 1 [] [0, 0, 0x20, 0xC0] [] [])
     velem t 3 0 = 0 ∧ t.me.xflags ≠ 0) := by decide +kernel

/-- The example of VTOPK: values, identities and the count. -/
theorem test_vtopk_example :
    let s := mkv 3 6 [(3, 6)]
      [0, 0, 0x40, 0x40, 0, 0, 0xC0, 0x7F, 0, 0, 0xE0, 0x40, 0, 0, 0x40, 0x40, 0, 0, 0x80, 0xBF, 0, 0, 0xE0, 0x40] [] [1, 1, 1, 1, 0, 1]
    let t := after (.vtopk 4 3 1 1 0) { s with me := { s.me with vctx := { s.me.vctx with didx := 100 } } }
    ((List.range 6).map fun i => velem t 4 i) = [0x40E00000, 0x40E00000, 0x40400000, 0x40400000, 0xFF800000, 0xFF800000] ∧
    ((List.range 6).map fun i => velem t 5 i) = [102, 105, 100, 103, 0xFFFFFFFF, 0xFFFFFFFF] ∧ reg t 3 = 4 := by decide +kernel

/-- R334: the example of a peer address: window 1, RBASE 0x20_0000. -/
theorem test_peer_address :
    let w : Window := { Window.reset with valid := true, links := 1, pkg := 5, rvf := 3, rbase := 0x200000, size := 2049 }
    let s := { State.reset with dev := { State.reset.dev with windows := [(1, w)] } }
    runLoc s 0 false 0x880100004000 false = .ok (.peer ((5 * 64 + 3) * 2 ^ 48 + 0x100204000)) := by decide +kernel

/-- R205: the vaults of a partition of three hearth groups; run address 0x5_3000 is stripe 83, which lies in partition vault 11. -/
theorem test_striping : partVaults { Func.reset with map0 := 7 } = [0, 1, 2, 3, 4, 5, 6, 7, 8, 9, 10, 11] ∧ 0x53000 / 4096 % 12 = 11 := by
  decide +kernel

/-- Log 8: the word placed at reset is the one that the next step runs. -/
theorem test_word_after_reset : ∃ t, step (State.reset.withFetchWord 32 0x00700403) = .next t ∧ reg t 8 = 7 ∧ t.me.pc = 0x1004 :=
  ⟨_, rfl, by decide +kernel, by decide +kernel⟩

/-! ### The word of every row of the opcode table that has one -/

/-- Words of spec/opcode_table.json with field values written into their bits (Tables 3.1 and 3.4): ADD to MIN. -/
theorem test_decode_add_to_min :
    decodeNat 0x003CBA80 = .ok (.add 21 11 30) ∧
    decodeNat 0x0046EB00 = .ok (.sub 22 14 3) ∧
    decodeNat 0x00911B80 = .ok (.and 23 17 8) ∧
    decodeNat 0x00DB4C00 = .ok (.or 24 20 13) ∧
    decodeNat 0x01257C80 = .ok (.xor 25 23 18) ∧
    decodeNat 0x016FAD00 = .ok (.sll 26 26 23) ∧
    decodeNat 0x01B9DD80 = .ok (.srl 27 29 28) ∧
    decodeNat 0x01C27E00 = .ok (.sra 28 7 1) ∧
    decodeNat 0x020C3E80 = .ok (.slt 29 3 6) ∧
    decodeNat 0x02566F00 = .ok (.sltu 30 6 11) ∧
    decodeNat 0x02A09F80 = .ok (.min 31 9 16) := by decide

/-- Words of spec/opcode_table.json with field values written into their bits (Tables 3.1 and 3.4): MAX to CLZ. -/
theorem test_decode_max_to_clz :
    decodeNat 0x02EAC480 = .ok (.max 9 12 21) ∧
    decodeNat 0x0334F080 = .ok (.minu 1 15 26) ∧
    decodeNat 0x037F2100 = .ok (.maxu 2 18 31) ∧
    decodeNat 0x00095181 = .ok (.mul 3 21 4) ∧
    decodeNat 0x00538201 = .ok (.mulh 4 24 9) ∧
    decodeNat 0x009DB281 = .ok (.mulhu 5 27 14) ∧
    decodeNat 0x00E7E301 = .ok (.div 6 30 19) ∧
    decodeNat 0x01301381 = .ok (.divu 7 1 24) ∧
    decodeNat 0x017A4401 = .ok (.rem 8 4 29) ∧
    decodeNat 0x01847481 = .ok (.remu 9 7 2) ∧
    decodeNat 0x0000A502 = .ok (.clz 10 10) := by decide

/-- Words of spec/opcode_table.json with field values written into their bits (Tables 3.1 and 3.4): CTZ to SRLI. -/
theorem test_decode_ctz_to_srli :
    decodeNat 0x0040D582 = .ok (.ctz 11 13) ∧
    decodeNat 0x00810602 = .ok (.popc 12 16) ∧
    decodeNat 0x00ED3682 = .ok (.bfx 13 19 22) ∧
    decodeNat 0x01376702 = .ok (.bfi 14 22 27) ∧
    decodeNat 0x2B479782 = .ok (.fshr 15 25 3 21) ∧
    decodeNat 0x7DC1C803 = .ok (.addi 16 28 2012) ∧
    decodeNat 0x7E33F883 = .ok (.andi 17 31 2019) ∧
    decodeNat 0x7EA42903 = .ok (.ori 18 2 2026) ∧
    decodeNat 0x7F165983 = .ok (.xori 19 5 2033) ∧
    decodeNat 0x03888A03 = .ok (.slli 20 8 56) ∧
    decodeNat 0x03FABA83 = .ok (.srli 21 11 63) := by decide

/-- Words of spec/opcode_table.json with field values written into their bits (Tables 3.1 and 3.4): SRAI to BLTU. -/
theorem test_decode_srai_to_bltu :
    decodeNat 0x006CEB03 = .ok (.srai 22 14 6) ∧
    decodeNat 0x80DF1B83 = .ok (.slti 23 17 2061) ∧
    decodeNat 0xCF814C04 = .ok (.lui 24 849940) ∧
    decodeNat 0xCF81BC85 = .ok (.auipc 25 849947) ∧
    decodeNat 0x822BAD06 = .ok (.ld 26 26 2082 5) ∧
    decodeNat 0x52B9DE87 = .ok (.st 29 28 41 2 29) ∧
    decodeNat 0x83001388 = .ok (.beq 7 1 2096) ∧
    decodeNat 0x83726188 = .ok (.bne 3 6 2103) ∧
    decodeNat 0x83E4B308 = .ok (.blt 6 11 2110) ∧
    decodeNat 0x84570488 = .ok (.bge 9 16 2117) ∧
    decodeNat 0x84C95608 = .ok (.bltu 12 21 2124) := by decide

/-- Words of spec/opcode_table.json with field values written into their bits (Tables 3.1 and 3.4): BGEU to ERET. -/
theorem test_decode_bgeu_to_eret :
    decodeNat 0x853BA788 = .ok (.bgeu 15 26 2131) ∧
    decodeNat 0xCF85A109 = .ok (.jal 2 850010) ∧
    decodeNat 0x8611518A = .ok (.jalr 3 21 2145) ∧
    decodeNat 0x9153820B = .ok (.amo 4 24 9 4 8 2 1) ∧
    decodeNat 0xA05DB28C = .ok (.cas 5 27 14 5 0 1) ∧
    decodeNat 0x8760030D = .ok (.sysrd 6 2166) ∧
    decodeNat 0x87D2100D = .ok (.syswr 1 2173) ∧
    decodeNat 0x8844400D = .ok (.sysset 4 2180) ∧
    decodeNat 0x88B6700D = .ok (.sysclr 7 2187) ∧
    decodeNat 0x8920000E = .ok (.trap 2194) ∧
    decodeNat 0x0002000E = .ok (.eret) := by decide

/-- Words of spec/opcode_table.json with field values written into their bits (Tables 3.1 and 3.4): END to MSTOP. -/
theorem test_decode_endStrand_to_mstop :
    decodeNat 0x0004000E = .ok (.endStrand) ∧
    decodeNat 0x0006000E = .ok (.yield) ∧
    decodeNat 0x8AE8000E = .ok (.bkpt 2222) ∧
    decodeNat 0x000A000E = .ok (.wfe) ∧
    decodeNat 0x000DC00E = .ok (.vsave 28) ∧
    decodeNat 0x000FF00E = .ok (.vrest 31) ∧
    decodeNat 0x8CA00910 = .ok (.vsetl 18 0 2250) ∧
    decodeNat 0x00005991 = .ok (.vcfg 19 5) ∧
    decodeNat 0x01000012 = .ok (.vregs 16) ∧
    decodeNat 0x0010BA93 = .ok (.mstart 21 11 1) ∧
    decodeNat 0x00020013 = .ok (.mstop) := by decide

/-- Words of spec/opcode_table.json with field values written into their bits (Tables 3.1 and 3.4): VADD to VRSUB_VS. -/
theorem test_decode_vadd_to_vrsubVs :
    decodeNat 0x0F511BA0 = .ok (.vadd 23 17 8 ⟨1, 1, 3, 0, 1⟩) ∧
    decodeNat 0x269B4C20 = .ok (.vsub 24 20 13 ⟨0, 1, 2, 1, 0⟩) ∧
    decodeNat 0x5D657CA0 = .ok (.vrsub 25 23 18 ⟨3, 1, 1, 0, 1⟩) ∧
    decodeNat 0x74AFAD20 = .ok (.vmin 26 26 23 ⟨2, 1, 0, 1, 0⟩) ∧
    decodeNat 0x8F79DDA0 = .ok (.vmax 27 29 28 ⟨1, 1, 3, 0, 1⟩) ∧
    decodeNat 0xA6827E20 = .ok (.vand 28 7 1 ⟨0, 1, 2, 1, 0⟩) ∧
    decodeNat 0xDD4C3EA0 = .ok (.vor 29 3 6 ⟨3, 1, 1, 0, 1⟩) ∧
    decodeNat 0xF4966F20 = .ok (.vxor 30 6 11 ⟨2, 1, 0, 1, 0⟩) ∧
    decodeNat 0x0F209FA1 = .ok (.vaddVs 31 9 16 ⟨1, 1, 3, 0⟩) ∧
    decodeNat 0x26AAC4A1 = .ok (.vsubVs 9 12 21 ⟨0, 1, 2, 1⟩) ∧
    decodeNat 0x5D34F0A1 = .ok (.vrsubVs 1 15 26 ⟨3, 1, 1, 0⟩) := by decide

/-- Words of spec/opcode_table.json with field values written into their bits (Tables 3.1 and 3.4): VMIN_VS to VAND_VI. -/
theorem test_decode_vminVs_to_vandVi :
    decodeNat 0x74BF2121 = .ok (.vminVs 2 18 31 ⟨2, 1, 0, 1⟩) ∧
    decodeNat 0x8F0951A1 = .ok (.vmaxVs 3 21 4 ⟨1, 1, 3, 0⟩) ∧
    decodeNat 0xA6938221 = .ok (.vandVs 4 24 9 ⟨0, 1, 2, 1⟩) ∧
    decodeNat 0xDD1DB2A1 = .ok (.vorVs 5 27 14 ⟨3, 1, 1, 0⟩) ∧
    decodeNat 0xF4A7E321 = .ok (.vxorVs 6 30 19 ⟨2, 1, 0, 1⟩) ∧
    decodeNat 0x0F3063A2 = .ok (.vaddVi 7 24 6 ⟨1, 1, 3, 0⟩) ∧
    decodeNat 0x26BAD422 = .ok (.vsubVi 8 29 13 ⟨0, 1, 2, 1⟩) ∧
    decodeNat 0x5D0544A2 = .ok (.vrsubVi 9 2 20 ⟨3, 1, 1, 0⟩) ∧
    decodeNat 0x748FB522 = .ok (.vminVi 10 7 27 ⟨2, 1, 0, 1⟩) ∧
    decodeNat 0x8F1825A2 = .ok (.vmaxVi 11 12 2 ⟨1, 1, 3, 0⟩) ∧
    decodeNat 0xA6A29622 = .ok (.vandVi 12 17 9 ⟨0, 1, 2, 1⟩) := by decide

/-- Words of spec/opcode_table.json with field values written into their bits (Tables 3.1 and 3.4): VOR_VI to VMUL_VS. -/
theorem test_decode_vorVi_to_vmulVs :
    decodeNat 0xDD2D06A2 = .ok (.vorVi 13 22 16 ⟨3, 1, 1, 0⟩) ∧
    decodeNat 0xF4B77722 = .ok (.vxorVi 14 27 23 ⟨2, 1, 0, 1⟩) ∧
    decodeNat 0x0F4797A3 = .ok (.vmul 15 25 3 ⟨1, 1, 3, 0, 1⟩) ∧
    decodeNat 0x268BC823 = .ok (.vmulh 16 28 5 ⟨0, 1, 2, 1, 0⟩) ∧
    decodeNat 0x5D55F8A3 = .ok (.vmacc 17 31 10 ⟨3, 1, 1, 0, 1⟩) ∧
    decodeNat 0x749E2923 = .ok (.vnmacc 18 2 15 ⟨2, 1, 0, 1, 0⟩) ∧
    decodeNat 0x8F6859A3 = .ok (.vdiv 19 5 20 ⟨1, 1, 3, 0, 1⟩) ∧
    decodeNat 0xA6B28A23 = .ok (.vrem 20 8 25 ⟨0, 1, 2, 1, 0⟩) ∧
    decodeNat 0xDD7CBAA3 = .ok (.vsll 21 11 30 ⟨3, 1, 1, 0, 1⟩) ∧
    decodeNat 0xF486EB23 = .ok (.vsrl 22 14 3 ⟨2, 1, 0, 1, 0⟩) ∧
    decodeNat 0x0F111BA4 = .ok (.vmulVs 23 17 8 ⟨1, 1, 3, 0⟩) := by decide

/-- Words of spec/opcode_table.json with field values written into their bits (Tables 3.1 and 3.4): VMULH_VS to VSRA. -/
theorem test_decode_vmulhVs_to_vsra :
    decodeNat 0x269B4C24 = .ok (.vmulhVs 24 20 13 ⟨0, 1, 2, 1⟩) ∧
    decodeNat 0x5D257CA4 = .ok (.vmaccVs 25 23 18 ⟨3, 1, 1, 0⟩) ∧
    decodeNat 0x74AFAD24 = .ok (.vnmaccVs 26 26 23 ⟨2, 1, 0, 1⟩) ∧
    decodeNat 0x8F39DDA4 = .ok (.vdivVs 27 29 28 ⟨1, 1, 3, 0⟩) ∧
    decodeNat 0xA6827E24 = .ok (.vremVs 28 7 1 ⟨0, 1, 2, 1⟩) ∧
    decodeNat 0xDD0C3EA4 = .ok (.vsllVs 29 3 6 ⟨3, 1, 1, 0⟩) ∧
    decodeNat 0xF4966F24 = .ok (.vsrlVs 30 6 11 ⟨2, 1, 0, 1⟩) ∧
    decodeNat 0x0F20EFA5 = .ok (.vsllVi 31 16 14 ⟨1, 1, 3, 0⟩) ∧
    decodeNat 0x26AB54A5 = .ok (.vsrlVi 9 21 21 ⟨0, 1, 2, 1⟩) ∧
    decodeNat 0x5D35C0A5 = .ok (.vsraVi 1 26 28 ⟨3, 1, 1, 0⟩) ∧
    decodeNat 0x14BF2126 = .ok (.vsra 2 18 31 ⟨2, 1, 0, 1, 0⟩) := by decide

/-- Words of spec/opcode_table.json with field values written into their bits (Tables 3.1 and 3.4): VCLZ to VCMP. -/
theorem test_decode_vclz_to_vcmp :
    decodeNat 0x2F0801A6 = .ok (.vclz 3 4 ⟨1, 1, 3, 0⟩) ∧
    decodeNat 0x46920226 = .ok (.vpopc 4 9 ⟨0, 1, 2, 1⟩) ∧
    decodeNat 0x7D5DB2A6 = .ok (.vbfx 5 27 14 ⟨3, 1, 1, 0, 1⟩) ∧
    decodeNat 0x94A7E326 = .ok (.vfshr 6 30 19 ⟨2, 1, 0, 1, 0⟩) ∧
    decodeNat 0xAF3003A6 = .ok (.vsqrt 7 24 ⟨1, 1, 3, 0⟩) ∧
    decodeNat 0xC6BA0426 = .ok (.vabs 8 29 ⟨0, 1, 2, 1⟩) ∧
    decodeNat 0xFD0404A6 = .ok (.vneg 9 2 ⟨3, 1, 1, 0⟩) ∧
    decodeNat 0x148EA527 = .ok (.vsraVs 10 10 7 ⟨2, 1, 0, 1⟩) ∧
    decodeNat 0x6F18D5A7 = .ok (.vbfxVs 11 13 12 ⟨1, 1, 3, 0⟩) ∧
    decodeNat 0x86A30627 = .ok (.vfshrVs 12 16 17 ⟨0, 1, 2, 1⟩) ∧
    decodeNat 0xE6AD32A8 = .ok (.vcmp 5 19 22 7 ⟨0, 1, 2, 1, 0⟩) := by decide

/-- Words of spec/opcode_table.json with field values written into their bits (Tables 3.1 and 3.4): VCMP_VS to MOR. -/
theorem test_decode_vcmpVs_to_mor :
    decodeNat 0xDD376329 = .ok (.vcmpVs 6 22 27 6 ⟨3, 1, 1, 0⟩) ∧
    decodeNat 0xB48733AA = .ok (.vcmpVi 7 3 5 19 ⟨2, 1, 0, 1⟩) ∧
    decodeNat 0x068BC82B = .ok (.vsel 16 28 5 ⟨0, 1, 2, 1, 0⟩) ∧
    decodeNat 0x3D1408AB = .ok (.vmv 17 10 ⟨3, 1, 1, 0⟩) ∧
    decodeNat 0x549E092B = .ok (.vclass 18 15 ⟨2, 1, 0, 1⟩) ∧
    decodeNat 0x6F2809AB = .ok (.vrecip 19 20 ⟨1, 1, 3, 0⟩) ∧
    decodeNat 0x80000A2B = .ok (.vidx 20 0) ∧
    decodeNat 0x1D3CBAAC = .ok (.vselVs 21 11 30 ⟨3, 1, 1, 0⟩) ∧
    decodeNat 0x2200EB2C = .ok (.vmvVs 22 14 2) ∧
    decodeNat 0x000013AD = .ok (.mand 7 1 0) ∧
    decodeNat 0x200A402D = .ok (.mor 0 4 5) := by decide

/-- Words of spec/opcode_table.json with field values written into their bits (Tables 3.1 and 3.4): MXOR to KSET. -/
theorem test_decode_mxor_to_kset :
    decodeNat 0x400470AD = .ok (.mxor 1 7 2) ∧
    decodeNat 0x600E212D = .ok (.mandn 2 2 7) ∧
    decodeNat 0x800051AD = .ok (.mnot 3 5) ∧
    decodeNat 0xA0007E2D = .ok (.mffs 28 7) ∧
    decodeNat 0xC0003EAD = .ok (.mpopc 29 3) ∧
    decodeNat 0x1D160F30 = .ok (.vcvtw 30 11 0 ⟨3, 1, 1, 0⟩) ∧
    decodeNat 0x34A00FB1 = .ok (.vcvtn 31 16 1 ⟨2, 1, 0, 1⟩) ∧
    decodeNat 0x0F2A04B2 = .ok (.vcvti 9 21 0 ⟨1, 1, 3, 0⟩) ∧
    decodeNat 0x26B400B3 = .ok (.vcvtf4 1 26 1 ⟨0, 1, 2, 1⟩) ∧
    decodeNat 0x1D3E0134 = .ok (.vcvtdy 2 31 0 ⟨3, 1, 1, 0⟩) ∧
    decodeNat 0x008801B5 = .ok (.kset 3 4 1) := by decide

/-- Words of spec/opcode_table.json with field values written into their bits (Tables 3.1 and 3.4): KMV to VHIST. -/
theorem test_decode_kmv_to_vhist :
    decodeNat 0x20021235 = .ok (.kmv 4 1 1 0) ∧
    decodeNat 0x431C32B5 = .ok (.kcalc 5 3 14 3 0) ∧
    decodeNat 0xA327E338 = .ok (.vslup 6 30 19 5 3 0) ∧
    decodeNat 0x82B013B9 = .ok (.vsldn 7 1 24 4 2 1) ∧
    decodeNat 0x00BA443A = .ok (.vperm 8 4 29 0 1 0) ∧
    decodeNat 0x030404BB = .ok (.vcmpr 9 2 3 0) ∧
    decodeNat 0x228E053B = .ok (.vexpd 10 7 2 1) ∧
    decodeNat 0x410805BB = .ok (.viota 11 4 1) ∧
    decodeNat 0x0163063C = .ok (.vred 12 16 17 0 1 0 1) ∧
    decodeNat 0xE0AD36BD = .ok (.vscan 13 19 22 7 0 1 0) ∧
    decodeNat 0x20B6073E = .ok (.vhist 14 27 0 1 0 1) := by decide

/-- Words of spec/opcode_table.json with field values written into their bits (Tables 3.1 and 3.4): VTOPK to VSTX. -/
theorem test_decode_vtopk_to_vstx :
    decodeNat 0x010797BF = .ok (.vtopk 15 25 3 1 0) ∧
    decodeNat 0x204BC83F = .ok (.vtkmrg 16 28 5 0 1) ∧
    decodeNat 0x0301F8C0 = .ok (.vld 17 31 3) ∧
    decodeNat 0x021E2941 = .ok (.vlds 18 2 15 2) ∧
    decodeNat 0x012859C2 = .ok (.vldx 19 5 20 1 0) ∧
    decodeNat 0x20728A42 = .ok (.vldxo 20 8 25 0 1) ∧
    decodeNat 0x0300BAC3 = .ok (.vldff 21 11 3) ∧
    decodeNat 0x1B00EB44 = .ok (.vldseg 22 14 6 3) ∧
    decodeNat 0x01011BC5 = .ok (.vst 23 17 1) ∧
    decodeNat 0x001B4C46 = .ok (.vsts 24 20 13 0) ∧
    decodeNat 0x03257CC7 = .ok (.vstx 25 23 18 3 0) := by decide

/-- Words of spec/opcode_table.json with field values written into their bits (Tables 3.1 and 3.4): VSTXO to BARARR. -/
theorem test_decode_vstxo_to_bararr :
    decodeNat 0x226FAD47 = .ok (.vstxo 26 26 23 2 1) ∧
    decodeNat 0x0601DDC8 = .ok (.vstseg 27 29 1 2) ∧
    decodeNat 0x00007049 = .ok (.mfset 7) ∧
    decodeNat 0xDD0C3ECC = .ok (.vamo 29 3 6 3 7 1 0) ∧
    decodeNat 0x0140004D = .ok (.fence 2 4) ∧
    decodeNat 0x0052004D = .ok (.vfence 5) ∧
    decodeNat 0x0000C04E = .ok (.iterset 12 0) ∧
    decodeNat 0x0032F04E = .ok (.post 15 3) ∧
    decodeNat 0x0025204E = .ok (.waiti 18 2) ∧
    decodeNat 0x0000004F = .ok (.bar) ∧
    decodeNat 0x0002004F = .ok (.bararr) := by decide

/-- Words of spec/opcode_table.json with field values written into their bits (Tables 3.1 and 3.4): BARWT to RJOIN. -/
theorem test_decode_barwt_to_rjoin :
    decodeNat 0x0004004F = .ok (.barwt) ∧
    decodeNat 0x0001E350 = .ok (.ropen 6 30) ∧
    decodeNat 0x04001050 = .ok (.rclose 1) ∧
    decodeNat 0x68004450 = .ok (.rstat 8 4 3) ∧
    decodeNat 0x02C47051 = .ok (.rdstr 7 2 11) ∧
    decodeNat 0x0480A051 = .ok (.wrstr 10 2) ∧
    decodeNat 0xC0C005D2 = .ok (.qpush 11 1 2 3) ∧
    decodeNat 0x01410653 = .ok (.qpop 12 16 0 5) ∧
    decodeNat 0xE04136D4 = .ok (.rsort 13 19 3 1 1) ∧
    decodeNat 0x63776755 = .ok (.rmerge 14 22 27 0 1 1 13) ∧
    decodeNat 0xC3C797D6 = .ok (.rjoin 15 25 3 1 2 15) := by decide

/-- Words of spec/opcode_table.json with field values written into their bits (Tables 3.1 and 3.4): RPART to MOP. -/
theorem test_decode_rpart_to_mop :
    decodeNat 0x0301C857 = .ok (.rpart 16 28 12) ∧
    decodeNat 0x00C008D8 = .ok (.rwait 17 3) ∧
    decodeNat 0x00002059 = .ok (.cspec 2) ∧
    decodeNat 0x004059E0 = .ok (.mattach 19 5 1) ∧
    decodeNat 0x40000060 = .ok (.mdetach) ∧
    decodeNat 0x03C0BAE1 = .ok (.mwldCfg 21 11 15) ∧
    decodeNat 0x4186E061 = .ok (.mwldSp 14 3 6) ∧
    decodeNat 0x83501BE1 = .ok (.mwldQ 23 1 8 13) ∧
    decodeNat 0xC11B4061 = .ok (.mwldSc 20 13 4) ∧
    decodeNat 0xB96570E2 = .ok (.mxv 1 23 18 1 0 229) ∧
    decodeNat 0x8DEFA063 = .ok (.mop 26 23 2 55) := by decide

/-- Words of spec/opcode_table.json with field values written into their bits (Tables 3.1 and 3.4): MACCRD to QRSEED. -/
theorem test_decode_maccrd_to_qrseed :
    decodeNat 0x2241DDE4 = .ok (.maccrd 27 29 137) ∧
    decodeNat 0x64007E64 = .ok (.maccwr 28 7 144) ∧
    decodeNat 0xA5C03064 = .ok (.maccz 3 151) ∧
    decodeNat 0x00006065 = .ok (.msave 6) ∧
    decodeNat 0x40009065 = .ok (.mrest 9) ∧
    decodeNat 0x0000C4E6 = .ok (.mcensRd 9 12) ∧
    decodeNat 0x4000F0E6 = .ok (.mcensRdclr 1 15) ∧
    decodeNat 0x80000066 = .ok (.mcensClr) ∧
    decodeNat 0xC00151E6 = .ok (.mcensIdx 3 21) ∧
    decodeNat 0x52918068 = .ok (.qrtld 24 20 41) ∧
    decodeNat 0x0843B2E8 = .ok (.qrseed 5 27 2 4) := by decide

/-- Words of spec/opcode_table.json with field values written into their bits (Tables 3.1 and 3.4): QRGEN to PWINJ. -/
theorem test_decode_qrgen_to_pwinj :
    decodeNat 0x14A7E369 = .ok (.qrgen 6 30 19 ⟨2, 1, 0, 1, 0⟩) ∧
    decodeNat 0x2F3013E9 = .ok (.qrgens 7 1 24 ⟨1, 1, 3, 0⟩) ∧
    decodeNat 0x2040446C = .ok (.pwld 8 4 0 1 1) ∧
    decodeNat 0x040074EC = .ok (.pwcntSt 9 7) ∧
    decodeNat 0x240EA56C = .ok (.pwcntHist 10 10 7) ∧
    decodeNat 0x4418D5EC = .ok (.pwcntCnt 11 13 12) ∧
    decodeNat 0x6401006C = .ok (.pwcntFree 16) ∧
    decodeNat 0x002D36ED = .ok (.pwchk 13 19 22) ∧
    decodeNat 0x0437676D = .ok (.pwdrft 14 22 27) ∧
    decodeNat 0x080797ED = .ok (.pwconf 15 25 3) ∧
    decodeNat 0x0C01C86D = .ok (.pwinj 16 28) := by decide

end Sys2Proof.Tests
end

section
/-! Every step answers a next state: what each instruction of the table can answer, and the moves that ask it. -/

namespace Sys2Proof.Machine

theorem put_eq_zero {n : Nat} (x : BitVec n) (lo w : Nat) : put x lo w = 0 ↔ w = 0 ∧ x.toNat * 2 ^ lo = 0 := by
  rw [put, Nat.add_eq_zero_iff]

theorem putSMod_eq_zero {o : SMod} {w : Nat} (h : putSMod o w = 0) : w = 0 := by
  simp only [putSMod, put_eq_zero] at h
  exact h.1.1.1.1

theorem putVMod_eq_zero {o : VMod} {w : Nat} (h : putVMod o w = 0) : w = 0 := by
  simp only [putVMod, put_eq_zero] at h
  exact h.1.1.1.1.1

/-- A row with a word is no event of the agenda. -/
theorem isEvent_of_word {i : Instr} (h : encodeNat i ≠ 0) : isEvent i = false :=
  Bool.and_eq_false_imp.2 fun h0 => absurd (beq_iff_eq.1 h0) h

/-- LD executes as a word, whatever its address comes to. -/
theorem execLd_word (d a : BitVec 5) (i : BitVec 12) (w : BitVec 3) (s : State) : ∃ t, execLd d a i w s = onStrand s t := by
  unfold execLd
  dsimp only
  split
  · split <;> exact ⟨_, rfl⟩
  · exact ⟨_, rfl⟩

theorem execSt_word (a b : BitVec 5) (h : BitVec 7) (w : BitVec 2) (l : BitVec 5) (s : State) :
    ∃ t, execSt a b h w l s = onStrand s t := by
  unfold execSt
  dsimp only
  split <;> exact ⟨_, rfl⟩

theorem execAmo_word (d a b : BitVec 5) (sc : BitVec 3) (o : BitVec 4) (r : BitVec 2) (z : BitVec 1) (s : State) :
    ∃ t, execAmo d a b sc o r z s = onStrand s t := by
  unfold execAmo
  dsimp only
  split <;> exact ⟨_, rfl⟩

theorem execCas_word (d a b : BitVec 5) (sc : BitVec 3) (r : BitVec 2) (z : BitVec 1) (s : State) :
    ∃ t, execCas d a b sc r z s = onStrand s t := by
  unfold execCas
  dsimp only
  split <;> exact ⟨_, rfl⟩

/-- A row of the table is a word, whose meaning asks that a strand runs, or a move or event of the device, which always answers. -/
theorem exec_answers (i : Instr) (s : State) :
    (∃ t, exec i s = .next t) ∨ ((∃ t, exec i s = onStrand s t) ∧ isEvent i = false) := by
  cases i
  case add => exact .inr ⟨⟨_, rfl⟩, Bool.and_false _⟩
  case illegalInstruction | instructionFetchFault => exact .inr ⟨⟨_, rfl⟩, rfl⟩
  case ld => exact .inr ⟨execLd_word .., isEvent_of_word (by simp [encodeNat, put_eq_zero])⟩
  case st => exact .inr ⟨execSt_word .., isEvent_of_word (by simp [encodeNat, put_eq_zero])⟩
  case amo => exact .inr ⟨execAmo_word .., isEvent_of_word (by simp [encodeNat, put_eq_zero])⟩
  case cas => exact .inr ⟨execCas_word .., isEvent_of_word (by simp [encodeNat, put_eq_zero])⟩
  case
    split | fetch | execute | drain | deliver | serve | hostPerform | push | acceptAndProduce | streamRecord | commandComplete | stall |
    streamPageFault | pop | postAndObserve | proof | hearthServe | gangDrain | wfeWake | sliceEnd | waitQuantumExpiry | doorbell |
    launchFetch | gangPlacement | warmSlot | priorityPreemption | resumption | graceExpiry | budgetWindow | budgetExhausted |
    powerInterval | completionWordWrite | queueLevelReset | functionLevelReset | partmapWrite | tenantWrite | scrub | faultRecordWrite |
    faultAnswer | pfFaultAnswer | inv1 | inv2 | pageRetirement | snoop | hjelvorReadRequest | hjelvorReadRecords | hjelvorWriteRecords |
    hjelvorCompletionFlit | hjelvorFenceFlit | hjelvorFenceAck | linkDown | powerOn | load | commit | config | quote | securityAlarm |
    debugResume | smplostRead | trsigWrite | trenClear | registerWrite | resetCompletion | mailboxCompletion | invalidationCompletion =>
    exact .inl ⟨_, rfl⟩
  case
    sub | and | or | xor | sll | srl | sra | slt | sltu | min | max | minu | maxu | mul | mulh | mulhu | div | divu | rem | remu | clz |
    ctz | popc | bfx | bfi | fshr | addi | andi | ori | xori | slli | srli | srai | slti | lui | auipc | beq | bne | blt | bge |
    bltu | bgeu | jal | jalr | sysrd | syswr | sysset | sysclr | trap | eret | endStrand | yield | bkpt | wfe | vsave | vrest |
    vsetl | vcfg | vregs | mstart | mstop | vadd | vsub | vrsub | vmin | vmax | vand | vor | vxor | vaddVs | vsubVs | vrsubVs | vminVs |
    vmaxVs | vandVs | vorVs | vxorVs | vaddVi | vsubVi | vrsubVi | vminVi | vmaxVi | vandVi | vorVi | vxorVi | vmul | vmulh | vmacc |
    vnmacc | vdiv | vrem | vsll | vsrl | vmulVs | vmulhVs | vmaccVs | vnmaccVs | vdivVs | vremVs | vsllVs | vsrlVs | vsllVi | vsrlVi |
    vsraVi | vsra | vclz | vpopc | vbfx | vfshr | vsqrt | vabs | vneg | vsraVs | vbfxVs | vfshrVs | vcmp | vcmpVs | vcmpVi | vsel | vmv |
    vclass | vrecip | vidx | vselVs | vmvVs | mand | mor | mxor | mandn | mnot | mffs | mpopc | vcvtw | vcvtn | vcvti | vcvtf4 | vcvtdy |
    kset | kmv | kcalc | vslup | vsldn | vperm | vcmpr | vexpd | viota | vred | vscan | vhist | vtopk | vtkmrg | vld | vlds | vldx | vldxo |
    vldff | vldseg | vst | vsts | vstx | vstxo | vstseg | mfset | vamo | fence | vfence | iterset | post | waiti | bar | bararr | barwt |
    ropen | rclose | rstat | rdstr | wrstr | qpush | qpop | rsort | rmerge | rjoin | rpart | rwait | cspec | mattach | mdetach | mwldCfg |
    mwldSp | mwldQ | mwldSc | mxv | mop | maccrd | maccwr | maccz | msave | mrest | mcensRd | mcensRdclr | mcensClr | mcensIdx | qrtld |
    qrseed | qrgen | qrgens | pwld | pwcntSt | pwcntHist | pwcntCnt | pwcntFree | pwchk | pwdrft | pwconf | pwinj =>
    exact .inr ⟨⟨_, rfl⟩, isEvent_of_word (by simp [encodeNat, put_eq_zero, putSMod, putVMod])⟩

/-- Any row of the table answers while a strand runs. -/
theorem exec_next_of_running (i : Instr) {s : State} (h : Running s) : ∃ t, exec i s = .next t := by
  obtain he | ⟨⟨t, he⟩, -⟩ := exec_answers i s
  · exact he
  · exact ⟨t, he.trans (onStrand_eq s t h)⟩

/-- An event of the agenda answers whether a strand runs or not. -/
theorem exec_next_of_event {i : Instr} (h : isEvent i = true) (s : State) : ∃ t, exec i s = .next t := by
  obtain he | ⟨-, hn⟩ := exec_answers i s
  · exact he
  · exact absurd h (by simp [hn])

theorem thenMove_next {o : Out} (f : State → State) (h : ∃ t, o = .next t) : ∃ t, thenMove f o = .next t := by
  obtain ⟨t, rfl⟩ := h
  exact ⟨f t, rfl⟩

theorem running_of_ready {s : State} (h : ready s.me = true) : Running s := by
  simp only [ready, Bool.and_eq_true, beq_iff_eq] at h
  exact h.2

@[simp] theorem noteFetch_me (pa : Nat) (s : State) : (noteFetch pa s).me = s.me := by rfl

@[simp] theorem traceEvent_me (s : State) (k : Nat) (pc vcp : Word) (d : Nat) : (traceEvent s k pc vcp d).me = s.me := by
  unfold traceEvent
  split <;> rfl

@[simp] theorem issued_me_status (pa : Nat) (s : State) : (issued pa s).me.status = s.me.status := by simp [issued]

theorem wordMove_next (w pa : Nat) {s : State} (h : Running s) : ∃ t, wordMove w pa s = .next t := by
  have hn : Running (noteFetch pa s) := by simpa [Running] using h
  have hi : Running (issued pa s) := by simpa [Running] using h
  unfold wordMove
  cases decodeNat w with
  | error => exact ⟨_, onStrand_eq _ _ hn⟩
  | ok i =>
    dsimp only
    split_ifs
    · exact ⟨_, rfl⟩
    · exact ⟨_, rfl⟩
    · exact exec_next_of_running i hn
    · exact thenMove_next _ (exec_next_of_running i hi)

theorem fetchTurn_next {s : State} (h : Running s) : ∃ t, fetchTurn s = .next t := by
  unfold fetchTurn
  cases fetchAt s with
  | word w pa =>
    dsimp only
    split_ifs
    · exact ⟨_, rfl⟩
    · exact wordMove_next w pa h
  | _ => exact ⟨_, onStrand_eq _ _ h⟩

theorem wokenMove_next {s : State} (h : Running s) : ∃ t, wokenMove s = .next t := by
  unfold wokenMove
  dsimp only
  split_ifs
  · exact ⟨_, rfl⟩
  · exact fetchTurn_next h

theorem strandMove_next {s : State} (h : Running s) : ∃ t, strandMove s = .next t := by
  unfold strandMove
  split_ifs
  · exact ⟨_, rfl⟩
  · exact ⟨_, rfl⟩
  · exact ⟨_, rfl⟩
  · exact wokenMove_next h
  · exact fetchTurn_next h

theorem issueTurn_next (s : State) : ∃ t, issueTurn s = .next t := by
  unfold issueTurn
  split_ifs with h
  · exact thenMove_next _ (strandMove_next (running_of_ready h))
  · exact ⟨_, rfl⟩

theorem freeTurn_next (s : State) : ∃ t, freeTurn s = .next t := by
  unfold freeTurn
  dsimp only
  split_ifs
  · exact ⟨_, rfl⟩
  · exact ⟨_, rfl⟩
  · exact thenMove_next _ (issueTurn_next _)
  · exact thenMove_next _ (issueTurn_next _)
  · exact issueTurn_next _

theorem coreTurn_next (core : Nat) (s : State) : ∃ t, coreTurn core s = .next t := by
  unfold coreTurn
  dsimp only
  split_ifs
  · exact issueTurn_next _
  · exact ⟨_, rfl⟩

theorem eventTurn_next (i : Instr) (s : State) : ∃ t, eventTurn i s = .next t := by
  unfold eventTurn
  split_ifs with h
  · exact thenMove_next _ (exec_next_of_event h s)
  · exact ⟨_, rfl⟩

/-- A move answers, whichever agent makes it. -/
theorem move_next (s : State) : ∃ t, move s = .next t := by
  unfold move
  split
  · exact eventTurn_next _ _
  · exact coreTurn_next _ _
  · exact freeTurn_next _

end Sys2Proof.Machine

open Sys2Proof.Machine in
/-- Settles O57: a word is executed only for a strand that runs, and a move or event of the device asks for none. -/
theorem stepNeverStops : Obligations.StepNeverStops := move_next
end

section
/-! The state after power-on: what its tables, registers and storage read as. -/

namespace Sys2Proof.Machine

@[simp] theorem cget_nil {w : Nat} (dflt : Nat → BitVec w) (i : Nat) : cget dflt [] i = dflt i := rfl

@[simp] theorem tget_nil {α : Type} (d : α) (k : Nat) : tget d [] k = d := rfl

@[simp] theorem fnOf_reset (f : Nat) : fnOf State.reset f = Func.reset := rfl

@[simp] theorem hearthOf_reset (c : Nat) : hearthOf State.reset c = Hearth.reset := rfl

theorem readQueue_reset (f q r : Nat) : readQueue State.reset f q r = 0 := by
  have hq : queueOf State.reset f q = LQueue.reset := rfl
  unfold readQueue
  rw [hq]
  dsimp only
  split <;> simp [regWord, LQueue.reset, b2n, word]

theorem readDebug_reset (f r : Nat) : readDebug State.reset f r = 0 := by
  have hd : debugOf State.reset f = Debug.reset := rfl
  unfold readDebug
  rw [hd]
  dsimp only
  split <;> simp [regWord, Debug.reset, b2n, word]

theorem readVf_reset (f off : Nat) : readVf State.reset f off = 0 := by
  unfold readVf
  split_ifs
  · exact readQueue_reset ..
  · exact readDebug_reset ..
  · split <;> simp [regWord, Func.reset, word]

theorem readContext_reset (f r : Nat) : readContext State.reset f r = 0 := by
  unfold readContext
  split <;> rfl

theorem readWindow_reset (n r : Nat) : readWindow State.reset n r = 0 := by
  have hw : tget Window.reset State.reset.dev.windows n = Window.reset := rfl
  unfold readWindow
  rw [hw]
  dsimp only
  split <;> simp [regWord, Window.reset, b2n, word]

theorem readRing_reset (r : Nat) : readRing PRing.reset r = 0 := by
  unfold readRing
  split <;> rfl

/-- No group is in a function's map, so no scrub concerns it. -/
theorem partGroups_reset : partGroups Func.reset = [] := by decide +kernel

/-- TIMES alone has a Reset value other than 0 in Table 17.1. -/
theorem readConfig_reset (f r : Nat) :
    readConfig State.reset f r = if r = 0x28 then word (200 * 2 ^ 48 + 100 * 2 ^ 32 + 1000 * 2 ^ 16 + 512) else 0 := by
  unfold readConfig
  dsimp only [fnOf_reset]
  split
  case h_9 => rw [partGroups_reset]; rfl
  case h_10 h28 _ _ _ =>
    rw [if_neg h28]
    split_ifs <;> simp [regWord, poolOf, Func.reset, word]
  all_goals rfl

/-- PWRSET alone of the single registers has a Reset value other than 0; PWRSTAT is a free value. -/
theorem readPfReg_reset (off : Nat) (h : off ≠ 0x208) : readPfReg State.reset off = if off = 0x200 then 2200 else 0 := by
  unfold readPfReg
  split
  case h_4 => exact absurd rfl h
  case h_9 h200 _ _ _ _ _ => rw [if_neg h200]
  all_goals rfl

/-- PWRSTAT shows no reason: its average lies below bit 12. -/
theorem readPfReg_pwrstat_reset : field (readPfReg State.reset 0x208) 63 16 = 0 := by
  have ha := (Config.powerAvg 0).isLt
  have hv : readPfReg State.reset 0x208 = word (Config.powerAvg 0).toNat := by
    simp [readPfReg, regWord, State.reset, Dev.reset]
  rw [hv, field, bits, word, BitVec.toNat_ofNat]
  omega

theorem heldRows_reset (c : Nat) : heldRows State.reset c = 0 := by
  simp [heldRows, State.reset, Strand.reset]

theorem freeRows_reset (c : Nat) : freeRows State.reset c = 256 := by rw [freeRows, heldRows_reset]

theorem atCoherence_reset (l : Loc) : atCoherence State.reset l = 0 := by
  cases l <;> rfl

theorem reg_reset (r : BitVec 5) : reg State.reset r = 0 := by
  simp [reg, State.reset, Strand.reset]

/-- Bytes that are all zero make the number 0. -/
theorem ofBytes_replicate (n : Nat) : ofBytes (List.replicate n 0) = 0 := by
  induction n with
  | zero => rfl
  | succ n ih => rw [List.replicate_succ, ofBytes, ih]; rfl

theorem cgets_nil_zeros (a n : Nat) : cgets zeros ([] : Cells 8) a n = List.replicate n 0 := by
  simp [cgets, upTo, zeros, List.map_const']

theorem elemGet_nil (rb sew v i : Nat) : elemGet [] rb sew v i = 0 := by
  have hz (n : Nat) : ofBytes (List.replicate n 0#8) = 0 := ofBytes_replicate n
  simp [elemGet, cgets_nil_zeros, hz, zeros]

end Sys2Proof.Machine

open Sys2Proof Sys2Proof.Machine Sys2Proof.Claims in
/-- Settles O58: every table of the state after power-on is empty, so that what is read is the value of an unlisted entry. -/
theorem resetState : Obligations.ResetState := by
  unfold Obligations.ResetState
  refine ⟨rfl, rfl, rfl, rfl, rfl, rfl, rfl, rfl, ⟨rfl, rfl⟩, atCoherence_reset,
    fun c => ⟨rfl, fun j => rfl, freeRows_reset c, rfl⟩,
    readVf_reset, readConfig_reset, readContext_reset, readWindow_reset, fun r => ⟨readRing_reset r, readRing_reset r⟩,
    readPfReg_reset, readPfReg_pwrstat_reset, rfl, rfl, rfl, rfl, rfl, rfl, rfl, rfl, rfl,
    fun f => ⟨rfl, rfl, rfl⟩,
    reg_reset, rfl, rfl, rfl, rfl, rfl, rfl, rfl, rfl, rfl, rfl, rfl, rfl,
    ?_, rfl, rfl, rfl, rfl, rfl, rfl, rfl, rfl, fun r c => rfl, rfl, rfl, rfl, rfl, rfl,
    fun d k => elemGet_nil .., ?_, fun k b => rfl, fun k => rfl, fun k => rfl⟩
  · decide
  · intro m k
    simp [mbit, maskBit, State.reset, Strand.reset, VCtx.reset, zeros, BitVec.toNat_eq, Bool.beq_eq_decide_eq]
end

section
/-! Writes of system registers: when the instruction stops at issue, and what a write of each kind of register leaves. -/

namespace Sys2Proof.Machine

open Sys2Proof.Claims

/-! ### SYSWR, SYSSET and SYSCLR as one instruction -/

theorem exec_sysInstr (o : SysOp) (a : BitVec 5) (n : BitVec 12) (s : State) :
    exec (sysInstr o a n) s = onStrand s (sysStore o (sysInstr o a n) a n s) := by
  cases o <;> rfl

theorem apply_eq_sysNew (o : SysOp) : o.apply = sysNew o := by
  cases o <;> rfl

/-- An assigned register that the strand may name does not stop the instruction at issue. -/
theorem sysStop_none {i : Instr} {n : BitVec 12} {s : State} (hr : (sysRead s n.toNat).isSome = true)
    (hc : ctxReg n.toNat = true → s.me.vown = true) (hh : handlerReg n.toNat = true → s.me.hm = true) :
    sysStop i n s = none := by
  have h1 : ¬(sysRead s n.toNat).isNone = true := by simp [Option.isNone_eq_false_iff.2 hr]
  have h2 : ¬(ctxReg n.toNat && !s.me.vown) = true := by
    rw [Bool.and_eq_true, Bool.not_eq_true']
    exact fun ⟨hx, hv⟩ => absurd (hc hx) (by simp [hv])
  have h3 : ¬(handlerReg n.toNat && !s.me.hm) = true := by
    rw [Bool.and_eq_true, Bool.not_eq_true']
    exact fun ⟨hx, hv⟩ => absurd (hh hx) (by simp [hv])
  rw [sysStop, if_neg h1, if_neg h2, if_neg h3]

/-- A value that the register takes is written, and the next instruction follows. -/
theorem exec_sysInstr_taken {o : SysOp} {a : BitVec 5} {n : BitVec 12} {s t : State} (h : Running s)
    (hs : sysStop (sysInstr o a n) n s = none) (hw : sysWrite o n.toNat (reg s a) s = some t) :
    exec (sysInstr o a n) s = .next (advance t) := by
  rw [exec_sysInstr, onStrand_eq _ _ h, sysStore, hs]
  simp only [hw]

/-- A value that the register refuses raises "illegal instruction". -/
theorem exec_sysInstr_refused {o : SysOp} {a : BitVec 5} {n : BitVec 12} {s : State} (h : Running s)
    (hs : sysStop (sysInstr o a n) n s = none) (hw : sysWrite o n.toNat (reg s a) s = none) :
    exec (sysInstr o a n) s = .next (trapFront 1 (word (encodeNat (sysInstr o a n))) s) := by
  rw [exec_sysInstr, onStrand_eq _ _ h, sysStore, hs]
  simp only [hw]

/-! ### The read-write registers, on the strand that holds them -/

/-- The registers whose bits below their width are read-write, any value accepted. -/
def freeRegs : List Nat := [0x006, 0x011, 0x012, 0x013, 0x022, 0x041, 0x401, 0x407, 0x408, 0x409, 0x40A]

/-- Such a register's value. -/
def freeRead (st : Strand) (n : Nat) : Word :=
  match n with
  | 0x006 => st.xflags.setWidth 64
  | 0x011 => st.cspec.get 1
  | 0x012 => st.cspec.get 2
  | 0x013 => st.cspec.get 3
  | 0x022 => st.pwctl.setWidth 64
  | 0x041 => st.vctx.didx.setWidth 64
  | 0x401 => st.tepc
  | 0x407 => st.tscr.get 0
  | 0x408 => st.tscr.get 1
  | 0x409 => st.tscr.get 2
  | 0x40A => st.tscr.get 3
  | _ => 0

/-- The strand with such a register set to the low bits of v; CSPEC1 to CSPEC3 stay as queued commands saw them (R214). -/
def freeWrite (n : Nat) (v : Word) (st : Strand) : Strand :=
  match n with
  | 0x006 => { st with xflags := v.setWidth 6 }
  | 0x011 => { keepSpec st with cspec := st.cspec.set 1 v }
  | 0x012 => { keepSpec st with cspec := st.cspec.set 2 v }
  | 0x013 => { keepSpec st with cspec := st.cspec.set 3 v }
  | 0x022 => { st with pwctl := v.setWidth 32 }
  | 0x041 => { st with vctx := { st.vctx with didx := v.setWidth 32 } }
  | 0x401 => { st with tepc := v }
  | 0x407 => { st with tscr := st.tscr.set 0 v }
  | 0x408 => { st with tscr := st.tscr.set 1 v }
  | 0x409 => { st with tscr := st.tscr.set 2 v }
  | 0x40A => { st with tscr := st.tscr.set 3 v }
  | _ => st

theorem mem_freeRegs {n : Nat} (h : (freeWidth n).isSome = true) : n ∈ freeRegs := by
  unfold freeWidth at h
  split at h
  case h_12 => exact absurd h (by decide)
  all_goals decide

/-- What holds of each of the eleven registers holds of all. -/
theorem free_induction {P : Nat → Prop} (h006 : P 0x006) (h011 : P 0x011) (h012 : P 0x012) (h013 : P 0x013) (h022 : P 0x022)
    (h041 : P 0x041) (h401 : P 0x401) (h407 : P 0x407) (h408 : P 0x408) (h409 : P 0x409) (h40A : P 0x40A) :
    ∀ n ∈ freeRegs, P n := by
  simp only [freeRegs, List.forall_mem_cons]
  exact ⟨h006, h011, h012, h013, h022, h041, h401, h407, h408, h409, h40A, fun _ h => absurd h List.not_mem_nil⟩

theorem sysRead_free (s : State) : ∀ n ∈ freeRegs, sysRead s n = some (freeRead s.me n) := by
  apply free_induction <;> rfl

theorem sysWrite_free (o : SysOp) (v : Word) (s : State) :
    ∀ n ∈ freeRegs, sysWrite o n v s = some (updMe s (freeWrite n (sysNew o (freeRead s.me n) v))) := by
  rw [← apply_eq_sysNew]
  apply free_induction <;> rfl

/-- A written register reads as the low bits of what it received. -/
theorem freeRead_freeWrite (v : Word) (st : Strand) :
    ∀ n ∈ freeRegs, ∀ w, freeWidth n = some w → freeRead (freeWrite n v st) n = word (v.toNat % 2 ^ w) := by
  have hall : v = word (v.toNat % 2 ^ 64) := by rw [Nat.mod_eq_of_lt v.isLt, wordToNat]
  have hlow (w : Nat) (hw : w ≤ 64) : (v.setWidth w).setWidth 64 = word (v.toNat % 2 ^ w) := by
    apply BitVec.eq_of_toNat_eq
    simp [word]
  apply free_induction
  · rintro w ⟨⟩
    exact hlow 6 (by decide)
  case h022 | h041 =>
    rintro w ⟨⟩
    exact hlow 32 (by decide)
  case h401 =>
    rintro w ⟨⟩
    exact hall
  all_goals
    rintro w ⟨⟩
    simpa [freeRead, freeWrite, Vector.get_eq_getElem] using hall

/-- Every other such register keeps its value. -/
theorem freeRead_freeWrite_ne (v : Word) (st : Strand) :
    ∀ n ∈ freeRegs, ∀ m ∈ freeRegs, m ≠ n → freeRead (freeWrite n v st) m = freeRead st m := by
  apply free_induction <;> apply free_induction <;> intro hne <;>
    simp [freeRead, freeWrite, keepSpec, Vector.get_eq_getElem] at hne ⊢

/-- No such register shows PC. -/
theorem freeRead_pc (st : Strand) (pc : Word) : ∀ n ∈ freeRegs, freeRead { st with pc := pc } n = freeRead st n := by
  apply free_induction <;> rfl

/-- What a write of such a register may change in its strand. -/
theorem freeWrite_eq (v : Word) (st : Strand) : ∀ n ∈ freeRegs, ∃ x cs pw te ts du di qu,
    freeWrite n v st =
      { st with
        xflags := x, cspec := cs, pwctl := pw, tepc := te, tscr := ts, dumped := du
        vctx := { st.vctx with didx := di, queue := qu } } := by
  apply free_induction <;> exact ⟨_, _, _, _, _, _, _, _, rfl⟩

/-- A queued command keeps CSPEC as it stands before a write of CSPEC1 to CSPEC3 (R214). -/
def keepEntry (n : Nat) (cspec : Vector Word 4) (e : QEntry) : QEntry :=
  if 0x11 ≤ n ∧ n ≤ 0x13 ∧ isCommand e.instr = true ∧ e.spec = none then { e with spec := some cspec } else e

theorem keepEntry_spec {n : Nat} (h : 0x11 ≤ n ∧ n ≤ 0x13) (cspec : Vector Word 4) :
    keepEntry n cspec = fun e => if isCommand e.instr && e.spec.isNone then { e with spec := some cspec } else e := by
  funext e
  simp [keepEntry, h]

theorem keepEntry_other {n : Nat} (h : ¬(0x11 ≤ n ∧ n ≤ 0x13)) (cspec : Vector Word 4) : keepEntry n cspec = id := by
  funext e
  rw [keepEntry, if_neg fun hn => h ⟨hn.1, hn.2.1⟩, id]

theorem freeWrite_queue (v : Word) (st : Strand) : ∀ n ∈ freeRegs,
    (freeWrite n v st).vctx.queue = st.vctx.queue.map (keepEntry n st.cspec) ∧
      (freeWrite n v st).dumped = st.dumped.map (keepEntry n st.cspec) := by
  apply free_induction
  case h011 | h012 | h013 =>
    rw [keepEntry_spec (by decide)]
    exact ⟨rfl, rfl⟩
  all_goals
    rw [keepEntry_other (by decide), List.map_id, List.map_id]
    exact ⟨rfl, rfl⟩

/-- The strand reads every byte as before where its region, its translation and its waiting stores stay. -/
theorem viewByte_updMe {s : State} {f : Strand → Strand} (hr : ∀ e, reach (updMe s f) e .load = reach s e .load)
    (hf : ∀ l, forwarded (f s.me) l = forwarded s.me l) (e : Nat) : viewByte (updMe s f) e = viewByte s e := by
  have hl (l : Loc) : locByte (settle (updMe s f)) l = locByte (settle s) l := by
    rw [locByte_settle, locByte_settle, updMe_me, hf]
    rfl
  unfold viewByte
  rw [hr]
  simp only [hl]

theorem viewByte_freeWrite (v : Word) (s : State) (e : Nat) {n : Nat} (hn : n ∈ freeRegs) :
    viewByte (updMe s (freeWrite n v)) e = viewByte s e := by
  obtain ⟨x, cs, pw, te, ts, du, di, qu, hf⟩ := freeWrite_eq v s.me n hn
  apply viewByte_updMe
  · intro e
    rw [updMe, hf]
    rfl
  · intro l
    rw [hf]
    cases l <;> rfl

theorem viewByte_advance (s : State) (e : Nat) : viewByte (advance s) e = viewByte s e := viewByte_regs s _ _ e

/-! ### The registers that a strand may name -/

theorem ctxReg_eq : ctxReg = ofContext := rfl

theorem handlerReg_ofHandler {n : Nat} (h : handlerReg n = true) : ofHandler n = true := by
  simp [handlerReg, scratchReg, ofHandler] at h ⊢
  omega

theorem sysStop_of_mayName {i : Instr} {n : BitVec 12} {s : State} (hr : (sysRead s n.toNat).isSome = true)
    (hm : mayName s n.toNat) : sysStop i n s = none :=
  sysStop_none hr hm.1 fun h => hm.2 (handlerReg_ofHandler h)

/-- R275 for the read-write registers. -/
theorem exec_sysInstr_free {o : SysOp} {a : BitVec 5} {n : BitVec 12} {s : State} (h : Running s) (hn : n.toNat ∈ freeRegs)
    (hm : mayName s n.toNat) :
    exec (sysInstr o a n) s =
      .next (advance (updMe s (freeWrite n.toNat (sysNew o (freeRead s.me n.toNat) (reg s a))))) := by
  refine exec_sysInstr_taken h (sysStop_of_mayName ?_ hm) (sysWrite_free o _ s _ hn)
  rw [sysRead_free s _ hn]
  rfl

/-! ### Registers that are read-only, written by a 1 or refuse some values -/

/-- The registers on which every write is without effect. -/
def readOnlyRegs : List Nat :=
  [0x003, 0x007, 0x008, 0x00C, 0x00D, 0x00E, 0x021, 0x023, 0x024, 0x030, 0x040, 0x110, 0x111, 0x200, 0x201, 0x202, 0x203, 0x204, 0x400,
    0x402, 0x404, 0x405, 0x406, 0x700]

theorem readOnly_facts (o : SysOp) (v : Word) (s : State) : ∀ n ∈ readOnlyRegs,
    (sysRead s n).isSome = true ∧ ctxReg n = false ∧ handlerReg n = false ∧ sysWrite o n v s = some s := by
  intro n hn
  fin_cases hn <;> exact ⟨rfl, rfl, rfl, rfl⟩

theorem exec_syswr_readOnly {s : State} (h : Running s) (a : BitVec 5) : ∀ n ∈ readOnlyRegs,
    exec (.syswr a (BitVec.ofNat 12 n)) s = .next (advance s) := by
  intro n hn
  have hlt : ∀ n ∈ readOnlyRegs, n < 2 ^ 12 := by decide
  have he : (BitVec.ofNat 12 n).toNat = n := Nat.mod_eq_of_lt (hlt n hn)
  obtain ⟨hr, hc, hh, hw⟩ := readOnly_facts .wr (reg s a) s n hn
  rw [← he] at hr hc hh hw
  refine exec_sysInstr_taken (o := .wr) h (sysStop_none hr ?_ ?_) hw
  · rw [hc]
    exact nofun
  · rw [hh]
    exact nofun

/-- VSHAPE stops no instruction of the strand that owns its core's vector context. -/
theorem sysStop_vshape {s : State} (hv : s.me.vown = true) (i : Instr) : sysStop i 0x002 s = none :=
  sysStop_none rfl (fun _ => hv) (fun h => absurd h (by decide))

end Sys2Proof.Machine

open Sys2Proof Sys2Proof.Machine Sys2Proof.Claims in
/-- Settles O9: the read-write registers act on their strand alone, each as a field of it; the other registers one by one. -/
theorem systemRegisterWrites : Obligations.SystemRegisterWrites := by
  unfold Obligations.SystemRegisterWrites
  refine ⟨?_, fun s a h => ⟨?_, ?_, ?_, ?_, ?_⟩⟩
  · intro s o a n w h hw hm
    have hn : n.toNat ∈ freeRegs := mem_freeRegs (by rw [hw]; rfl)
    obtain ⟨v, hv⟩ : ∃ v, v = sysNew o (freeRead s.me n.toNat) (reg s a) := ⟨_, rfl⟩
    have hread (m : Nat) (hmem : m ∈ freeRegs) :
        sysRead (advance (updMe s (freeWrite n.toNat v))) m = some (freeRead (freeWrite n.toNat v s.me) m) := by
      rw [sysRead_free _ m hmem]
      exact congrArg some (freeRead_pc _ _ m hmem)
    obtain ⟨x, cs, pw, te, ts, du, di, qu, hf⟩ := freeWrite_eq v s.me _ hn
    refine ⟨advance (updMe s (freeWrite n.toNat v)), freeRead s.me n.toNat, ?_, sysRead_free s _ hn, ?_, ?_, ?_, ?_, ?_, ?_⟩
    · rw [hv]
      exact exec_sysInstr_free h hn hm
    · rw [hread _ hn, ← hv, freeRead_freeWrite v s.me _ hn w hw]
    · rw [advance_me_pc, updMe_me, hf]
    · intro e
      rw [viewByte_advance, viewByte_freeWrite v s e hn]
    · intro m hmem hne
      have hmf := mem_freeRegs hmem
      rw [hread m hmf, sysRead_free s m hmf, freeRead_freeWrite_ne v s.me _ hn m hmf hne]
    · exact freeWrite_queue v s.me _ hn
    · rw [advance, updMe, hf]
  · intro o
    refine ⟨_, exec_sysInstr_taken h (sysStop_none rfl (fun hc => absurd hc (by decide)) (fun hh => absurd hh (by decide))) rfl,
      ?_, rfl, rfl⟩
    rw [← apply_eq_sysNew]
    rfl
  · intro hv hok
    refine ⟨_, exec_sysInstr_taken (o := .wr) (n := 0x002) h (sysStop_vshape hv _) (if_pos hok), rfl, rfl, rfl⟩
  · intro hv hbad
    exact exec_sysInstr_refused (o := .wr) (n := 0x002) h (sysStop_vshape hv _) (if_neg (by simp [SysOp.apply, hbad]))
  · exact ⟨_, exec_sysInstr_taken (o := .wr) (n := 0x020) h
      (sysStop_none rfl (fun hc => absurd hc (by decide)) (fun hh => absurd hh (by decide))) rfl, rfl, rfl, rfl⟩
  · intro n hn
    exact ⟨_, exec_syswr_readOnly h a n hn, rfl, rfl⟩
end

section
/-! The security alarm, and what the stop of a launch leaves of the device's block: all but the bytes at peers, the warm slots, what
an erasure marks and what tenants left elsewhere. -/

namespace Sys2Proof.Machine

/-- A fold whose every step keeps a quantity keeps it. -/
theorem foldl_keeps {σ α β : Type} (g : σ → β) {f : σ → α → σ} (h : ∀ s a, g (f s a) = g s) (l : List α) :
    ∀ s, g (l.foldl f s) = g s := by
  induction l with
  | nil => exact fun _ => rfl
  | cons a t ih => exact fun s => (ih (f s a)).trans (h s a)

/-! ### Operations that leave the device's block alone -/

@[simp] theorem toOwner_dev (x : Late) (f : Strand → Strand) (s : State) : (toOwner x f s).dev = s.dev := rfl

@[simp] theorem performHost_dev (s : State) (x : HStore) : (performHost s x).dev = s.dev := by
  unfold performHost
  cases x.late <;> rfl

@[simp] theorem performLoad_dev (ahead : List HStore) (x : Late) (s : State) : (performLoad ahead x s).dev = s.dev := rfl

@[simp] theorem foldl_performHost_dev (l : List HStore) (s : State) : (l.foldl performHost s).dev = s.dev :=
  foldl_keeps State.dev performHost_dev l s

@[simp] theorem passPath_dev (force : Bool) (p : List HStore) : ∀ ahead s, (passPath force ahead p s).dev = s.dev := by
  induction p with
  | nil => exact fun _ _ => rfl
  | cons x t ih =>
    intro ahead s
    unfold passPath
    cases x.late with
    | none => exact ih ..
    | some l =>
      dsimp only
      split_ifs
      · rw [ih, performLoad_dev]
      · rw [ih, performHost_dev, foldl_performHost_dev]
      · rfl

@[simp] theorem completeOut_dev (s : State) : (completeOut s).dev = s.dev := by
  unfold completeOut
  split_ifs
  · rfl
  · rw [passPath_dev, settle_dev]

@[simp] theorem flushAll_dev (s : State) : (flushAll s).dev = s.dev := by
  unfold flushAll
  rw [foldl_performHost_dev, settle_dev]

@[simp] theorem drainAt_dev (line held : Nat) (s : State) : (drainAt line held s).dev = s.dev := by
  unfold drainAt
  split <;> rfl

@[simp] theorem drainLine_dev (s : State) (line : Nat) : (drainLine s line).dev = s.dev := drainAt_dev ..

@[simp] theorem drainUpTo_dev (held line : Nat) (s : State) : (drainUpTo held line s).dev = s.dev :=
  foldl_keeps State.dev (fun s h => drainAt_dev line h s) _ s

@[simp] theorem makeRoom_dev (held k : Nat) (s : State) : (makeRoom held k s).dev = s.dev := by
  unfold makeRoom drainOldest
  split_ifs
  · rw [drainLine_dev]
  · split
    · rfl
    · rw [drainLine_dev]
  · rfl

@[simp] theorem wcbPutAt_dev (held : Nat) (s : State) (k : Nat) (bs : List PByte) : (wcbPutAt held s k bs).dev = s.dev := by
  unfold wcbPutAt
  dsimp only
  split
  · rfl
  · split_ifs
    · rw [drainLine_dev, makeRoom_dev]
    · rw [makeRoom_dev]

@[simp] theorem sendLate_dev (x : Late) (s : State) : (sendLate x s).dev = s.dev := rfl

@[simp] theorem sendKept_dev (s : State) (x : HStore) : (sendKept s x).dev = s.dev := by
  unfold sendKept
  cases x.late with
  | none => exact wcbPutAt_dev ..
  | some l =>
    dsimp only
    split_ifs
    · rfl
    · rw [sendLate_dev, drainUpTo_dev]

@[simp] theorem sendKeptOf_dev (p : HStore → Bool) (s : State) : (sendKeptOf p s).dev = s.dev :=
  foldl_keeps State.dev sendKept_dev _ _

@[simp] theorem completeAll_dev (s : State) : (completeAll s).dev = s.dev := by
  unfold completeAll
  dsimp only
  split_ifs
  · rw [completeOut_dev]
  · rw [passPath_dev, settle_dev, sendKeptOf_dev, completeOut_dev]

@[simp] theorem hostWriteFn_dev (s : State) (fn va : Nat) (bs : List Byte) : (hostWriteFn s fn va bs).dev = s.dev := by
  refine foldl_keeps State.dev (fun s x => ?_) _ s
  split <;> rfl

@[simp] theorem updDebug_dev (s : State) (fn : Nat) (f : Debug → Debug) : (updDebug s fn f).dev = s.dev := rfl

@[simp] theorem traceWrite_dev (fn : Nat) (bs : List Byte) (s : State) : (traceWrite fn bs s).dev = s.dev := by
  unfold traceWrite
  rw [updDebug_dev, hostWriteFn_dev]

@[simp] theorem traceRecord_dev (fn : Nat) (pc vcp : Word) (kind data : Nat) (s : State) :
    (traceRecord fn pc vcp kind data s).dev = s.dev := by
  unfold traceRecord
  dsimp only
  split_ifs
  · rw [traceWrite_dev]
  · rfl

@[simp] theorem traceOpen_dev (fn : Nat) (pc vcp : Word) (s : State) : (traceOpen fn pc vcp s).dev = s.dev := by
  unfold traceOpen
  rw [traceRecord_dev, updDebug_dev]

@[simp] theorem traceEnd_dev (fn : Nat) (pc vcp : Word) (reason : Nat) (s : State) : (traceEnd fn pc vcp reason s).dev = s.dev := by
  unfold traceEnd
  dsimp only
  split_ifs <;> simp

@[simp] theorem traceClock_dev (fn : Nat) (pc vcp : Word) (s : State) : (traceClock fn pc vcp s).dev = s.dev := by
  have hput (l : List TraceEv) (s : State) :
      (l.foldl (fun s e => traceRecord fn e.pc e.vcp e.kind e.data s) s).dev = s.dev := by
    refine foldl_keeps State.dev (fun s e => ?_) l s
    exact traceRecord_dev ..
  unfold traceClock
  dsimp only
  split_ifs <;> simp [hput]

@[simp] theorem endSession_dev (reason : Nat) (s : State) : (endSession reason s).dev = s.dev := by
  unfold endSession
  dsimp only
  split_ifs <;> simp

@[simp] theorem bankWork_dev (s : State) : (bankWork s).dev = s.dev := rfl

@[simp] theorem swapBy_dev (p : Strand → Bool) (s : State) : (swapBy p s).dev = s.dev := by
  unfold swapBy
  split
  · rfl
  · split <;> rfl

/-! ### The stop of a launch -/

/-- The device's block without what the stop of a launch or an erasure may change. -/
def devKept (d : Dev) : Dev := { d with peer := [], warm := [], erased := [], stash := [] }

theorem onBy_keeps {β : Type} {g : Dev → β} {f : State → State} (h : ∀ s, g (f s).dev = g s.dev) (p : Strand → Bool) (s : State) :
    g (onBy p f s).dev = g s.dev := by
  unfold onBy
  split
  · exact h s
  · split
    · rfl
    · dsimp only
      split
      · exact (h _).trans (congrArg g (swapBy_dev p s))
      · rw [swapBy_dev, h, swapBy_dev]

theorem forGang_keeps {β : Type} {g : Dev → β} {f : State → State} (h : ∀ s, g (f s).dev = g s.dev) (fn seq k : Nat) (s : State) :
    g (forGang fn seq k f s).dev = g s.dev := by
  unfold forGang
  split
  · rfl
  · exact foldl_keeps (fun s => g s.dev) (fun s _ => onBy_keeps h _ s) _ s

theorem rput_kept (s : State) (l : RLoc) (b : Byte) : devKept (rput s l b).dev = devKept s.dev := by
  cases l <;> rfl

theorem scramble_kept (s : State) (fn : Nat) (host : Bool) (a n : Nat) : devKept (scramble s fn host a n).dev = devKept s.dev := by
  refine foldl_keeps (fun s => devKept s.dev) (fun t j => ?_) _ s
  split
  · exact rput_kept ..
  · rfl

theorem abandonCmd_kept (s : State) (c : Cmd) : devKept (abandonCmd s c).dev = devKept s.dev :=
  foldl_keeps (fun s => devKept s.dev) (fun _ _ => scramble_kept ..) _ s

theorem quiesceMe_kept (s : State) : devKept (quiesceMe s).dev = devKept s.dev := by
  unfold quiesceMe
  refine (foldl_keeps (fun s : State => devKept s.dev) abandonCmd_kept _ _).trans ?_
  simp

theorem quiesceGang_kept (x : Gang) (s : State) : devKept (quiesceGang x s).dev = devKept s.dev :=
  forGang_keeps (g := devKept) quiesceMe_kept x.fn x.seq x.gang s

theorem quiesceLaunch_kept (fn seq : Nat) (s : State) : devKept (quiesceLaunch fn seq s).dev = devKept s.dev :=
  foldl_keeps (fun s => devKept s.dev) (fun s x => quiesceGang_kept x s) _ s

theorem failLaunch_kept (fn seq status cause : Nat) (s : State) : devKept (failLaunch fn seq status cause s).dev = devKept s.dev :=
  quiesceLaunch_kept fn seq s

theorem secureFn_kept (fn : Nat) (s : State) : devKept (secureFn fn s).dev = devKept s.dev :=
  foldl_keeps (fun s => devKept s.dev) (fun _ _ => failLaunch_kept ..) _ s

theorem secureFns_kept (l : List Nat) (s : State) : devKept (l.foldl (fun s f => secureFn f s) s).dev = devKept s.dev :=
  foldl_keeps (fun s => devKept s.dev) (fun s f => secureFn_kept f s) l s

theorem eraseVaults_kept (vs : List Nat) (s : State) : devKept (eraseVaults vs s).dev = devKept s.dev := rfl

/-! ### The security alarm (R340, R341) -/

/-- The erasure of tenants' keys marks the tenants, and leaves the rest of what is kept. -/
theorem dropKeys_kept (ts : List Nat) (s : State) :
    devKept (dropKeys ts s).dev = { devKept s.dev with noKey := (s.dev.noKey ++ ts).eraseDups } := rfl

theorem eraseTenants_kept (ts : List Nat) (s : State) :
    devKept (eraseTenants ts s).dev = { devKept s.dev with noKey := (s.dev.noKey ++ ts).eraseDups } := by
  unfold eraseTenants
  rw [eraseVaults_kept, secureFns_kept, dropKeys_kept]

/-- A fold with max: a bound of all its terms, and one of them. -/
theorem foldl_max_spec (l : List Nat) :
    ∀ a, a ≤ l.foldl max a ∧ (∀ x ∈ l, x ≤ l.foldl max a) ∧ (l.foldl max a = a ∨ l.foldl max a ∈ l) := by
  induction l with
  | nil => exact fun a => ⟨le_refl a, nofun, .inl rfl⟩
  | cons y t ih =>
    intro a
    obtain ⟨hle, hall, hmem⟩ := ih (max a y)
    rw [List.foldl_cons]
    refine ⟨(le_max_left a y).trans hle, ?_, ?_⟩
    · intro x hx
      obtain rfl | hx := List.mem_cons.1 hx
      · exact (le_max_right a x).trans hle
      · exact hall x hx
    · obtain hm | hm := hmem
      · rw [hm]
        obtain h | h := max_choice a y
        · exact .inl h
        · exact .inr (by rw [h]; exact List.mem_cons_self ..)
      · exact .inr (List.mem_cons_of_mem _ hm)

theorem alarmAt_one {level : Nat} (h : level < 2) (ts : List Nat) (s : State) :
    alarmAt level ts s = raisePf 0 { s with dev := { s.dev with alarm := max s.dev.alarm level } } := if_pos h

/-- The kept part of the block after the alarm of level 2 or more. -/
theorem alarmAt_kept {level : Nat} (h : 2 ≤ level) (ts : List Nat) (s : State) : ∃ ks, (∀ x ∈ ts, x ∈ ks) ∧
    devKept (alarmAt level ts s).dev =
      { devKept s.dev with
        alarm := max s.dev.alarm level, msix := s.dev.msix ++ [0], noKey := ks
        lock := if level < 3 then s.dev.lock else true
        attKey := if level < 3 then s.dev.attKey else false
        checkKey := if level < 3 then s.dev.checkKey else false } := by
  obtain ⟨u, hu⟩ : ∃ u, u = raisePf 0 { s with dev := { s.dev with alarm := max s.dev.alarm level } } := ⟨_, rfl⟩
  obtain ⟨ns, hns⟩ : ∃ ns, ns = if ts.isEmpty then busyTenants u else ts := ⟨_, rfl⟩
  have hsub : ∀ x ∈ ts, x ∈ (u.dev.noKey ++ ns).eraseDups := by
    intro x hx
    rw [List.mem_eraseDups, List.mem_append, hns, if_neg (by simpa using List.ne_nil_of_mem hx)]
    exact .inr hx
  have hkept := eraseTenants_kept ns u
  unfold alarmAt
  rw [← hu, if_neg (by omega)]
  dsimp only
  rw [← hns]
  by_cases h3 : level < 3
  · refine ⟨_, hsub, ?_⟩
    rw [if_pos h3, hkept, if_pos h3, if_pos h3, if_pos h3, hu]
    rfl
  · obtain ⟨w, hw⟩ : ∃ w, w = (upTo 64).foldl (fun s f => secureFn f s) (eraseTenants ns u) := ⟨_, rfl⟩
    have hwk : devKept w.dev = { devKept u.dev with noKey := (u.dev.noKey ++ ns).eraseDups } := by
      rw [hw, secureFns_kept, hkept]
    have hwn : w.dev.noKey = (u.dev.noKey ++ ns).eraseDups := congrArg Dev.noKey hwk
    refine ⟨(w.dev.noKey ++ (upTo 64).map fun f => (fnOf w f).tenant).eraseDups, fun x hx => ?_, ?_⟩
    · rw [List.mem_eraseDups, List.mem_append, hwn]
      exact .inl (hsub x hx)
    · rw [if_neg h3, if_neg h3, if_neg h3, if_neg h3, ← hw]
      have hd := dropKeys_kept ((upTo 64).map fun f => (fnOf w f).tenant) w
      rw [hwk, hu] at hd
      exact congrArg (fun d : Dev => { d with lock := true, attKey := false, checkKey := false }) hd
/-- R340, R341: what the sensors that strike at once leave. -/
theorem strike_spec (sensors ts : List Nat) (s : State) : ∃ level, 1 ≤ level ∧
    (∀ k ∈ sensors, s.dev.levels.getD k 1 ≤ level) ∧
    (level = 1 ∨ ∃ k ∈ sensors, s.dev.levels.getD k 1 = level) ∧
    (strike sensors ts s).dev.alarm = max s.dev.alarm level ∧ (strike sensors ts s).dev.msix = s.dev.msix ++ [0] ∧
    (strike sensors ts s).dev.sensorLog = s.dev.sensorLog ++ sensors ∧
    (level = 1 → { strike sensors ts s with
      dev := { (strike sensors ts s).dev with alarm := s.dev.alarm, msix := s.dev.msix, sensorLog := s.dev.sensorLog } } = s) ∧
    (2 ≤ level → ∀ x ∈ ts, x ∈ (strike sensors ts s).dev.noKey) ∧
    (3 ≤ level → (strike sensors ts s).dev.lock = true ∧ (strike sensors ts s).dev.attKey = false ∧
      (strike sensors ts s).dev.checkKey = false) := by
  obtain ⟨hle, hall, hmem⟩ := foldl_max_spec (sensors.map fun k => s.dev.levels.getD k 1) 1
  obtain ⟨level, hlevel⟩ : ∃ n, n = (sensors.map fun k => s.dev.levels.getD k 1).foldl max 1 := ⟨_, rfl⟩
  rw [← hlevel] at hle hall hmem
  have hall' : ∀ k ∈ sensors, s.dev.levels.getD k 1 ≤ level := fun k hk => hall _ (List.mem_map_of_mem hk)
  have hmem' : level = 1 ∨ ∃ k ∈ sensors, s.dev.levels.getD k 1 = level := hmem.imp_right List.mem_map.1
  unfold strike
  rw [← hlevel]
  refine ⟨level, hle, hall', hmem', ?_⟩
  by_cases h2 : level < 2
  · rw [alarmAt_one h2]
    exact ⟨rfl, rfl, rfl, fun _ => rfl, fun h => absurd h (by omega), fun h => absurd h (by omega)⟩
  · obtain ⟨ks, hks, hk⟩ :=
      alarmAt_kept (Nat.le_of_not_lt h2) ts { s with dev := { s.dev with sensorLog := s.dev.sensorLog ++ sensors } }
    refine ⟨congrArg Dev.alarm hk, congrArg Dev.msix hk, congrArg Dev.sensorLog hk, fun h => absurd h (by omega), fun _ x hx => ?_,
      fun h3 => ?_⟩
    · exact (congrArg Dev.noKey hk).symm ▸ hks x hx
    · have hn : ¬level < 3 := by omega
      rw [if_neg hn, if_neg hn, if_neg hn] at hk
      exact ⟨congrArg Dev.lock hk, congrArg Dev.attKey hk, congrArg Dev.checkKey hk⟩

end Sys2Proof.Machine
end

section
/-! The mailbox (R337 to R339). -/

namespace Sys2Proof.Machine

open Sys2Proof.Claims

/-! ### Commands -/

theorem onMail_busy {s : State} (h : s.dev.mbbusy = true) (cmd : Nat) (f : State → State × Nat) : onMail cmd f s = s := if_pos h

theorem onMail_idle {s : State} (h : s.dev.mbbusy = false) (cmd : Nat) (f : State → State × Nat) :
    onMail cmd f s = mailed cmd (f s).2 (f s).1 := by simp [onMail, h]

theorem mailed_spec (cmd status : Nat) (s : State) : Mailed (mailed cmd status s) cmd status := ⟨rfl, rfl, rfl⟩

/-- R338: COMMIT writes the image that runs, and where none runs it changes nothing. -/
theorem commitImage_running {s : State} (h : s.dev.fw = true) :
    commitImage s = ({ s with dev := { s.dev with
      flash := s.dev.image, counter := max s.dev.counter (Config.imageVersion s.dev.image) } }, 0) := if_pos h

theorem commitImage_none {s : State} (h : s.dev.fw = false) : commitImage s = (s, 2) := by simp [commitImage, h]

/-- R339: a block that verifies under the image that runs is judged by its sequence number. -/
theorem configBlock_good {s : State} {bs : List Byte} (hb : mailBuffer s = some bs) (hf : s.dev.fw = true)
    (hk : Config.blockOk s.dev.image bs = true) :
    configBlock s = if Config.cfgField bs 0 ≤ s.dev.cfgSeq then (refuseConfig s, 2) else ({ s with dev := applyConfig bs s.dev }, 0) := by
  simp [configBlock, hb, hf, hk]

theorem configBlock_bad {s : State} {bs : List Byte} (hb : mailBuffer s = some bs)
    (hn : ¬(s.dev.fw = true ∧ Config.blockOk s.dev.image bs = true)) : configBlock s = (refuseConfig s, 1) := by
  have hor : (!s.dev.fw || !Config.blockOk s.dev.image bs) = true := by
    rw [Bool.or_eq_true, Bool.not_eq_true', Bool.not_eq_true']
    by_cases hf : s.dev.fw = true
    · exact .inr (Bool.eq_false_of_not_eq_true fun hk => hn ⟨hf, hk⟩)
    · exact .inl (Bool.eq_false_of_not_eq_true hf)
  simp [configBlock, hb, hor]

/-- R337: without the attestation key there is no quote. -/
theorem quoteLaunch_keyless {s : State} {bs : List Byte} {l : Launch} (hb : mailBuffer s = some bs)
    (hl : launchFind s (Config.quoteField bs 0) (Config.quoteField bs 1) = some l) (hk : s.dev.attKey = false) :
    quoteLaunch s = (s, 2) := by
  simp [quoteLaunch, hb, hl, hk]

/-- R337: the quote of a launch whose manifest is kept, cut to the buffer (log 46). -/
theorem quoteLaunch_quote {s : State} {bs : List Byte} {l : Launch} (hb : mailBuffer s = some bs)
    (hl : launchFind s (Config.quoteField bs 0) (Config.quoteField bs 1) = some l) (hh : l.hashes ≠ []) (hk : s.dev.attKey = true) :
    quoteLaunch s =
      ({ s with host := csets zeros s.host s.dev.mbaddr.toNat ((quoteOf s l (Config.quoteNonce bs)).take s.dev.mblen.toNat) }, 0) := by
  simp [quoteLaunch, hb, hl, hh, hk]

/-- A QUOTE writes only where its status is 0. -/
theorem quoteLaunch_host {s : State} (h : (quoteLaunch s).2 ≠ 0) : (quoteLaunch s).1.host = s.host := by
  unfold quoteLaunch at h ⊢
  split
  · rfl
  · split
    · rfl
    · split
      · rfl
      · simp_all

/-- A byte written among consecutive ones reads as it was written. -/
theorem cget_csets_take {m : List Host.Cell} {a n j : Nat} {bs : List Byte} {b : Byte} (hj : j < n) (hb : bs[j]? = some b) :
    cget zeros (csets zeros m a (bs.take n)) (a + j) = b := by
  obtain ⟨hlen, hget⟩ := List.getElem?_eq_some_iff.1 hb
  rw [cget_csets, if_pos ⟨Nat.le_add_right a j, by rw [List.length_take]; omega⟩, Nat.add_sub_cancel_left, List.getD_eq_getElem?_getD,
    List.getElem?_take, if_pos hj, hb, Option.getD_some]

/-! ### LOAD (R338, R313) -/

theorem fnOf_updFn (s : State) (fn f : Nat) (g : Func → Func) :
    fnOf (updFn s fn g) f = if fn = f then g (fnOf s fn) else fnOf s f := tget_tset ..

/-- With no launch to end, the reset of a queue marks the queue alone. -/
theorem resetLaunches_idle {s : State} (h : s.launches = []) (fn q : Nat) : resetLaunches fn q s = s := by
  simp [resetLaunches, unfinished, h]

/-- t is s but for its functions, whose resets in progress are those that p names and those of s. -/
def ResetsBegun (s t : State) (p : Nat → Prop) : Prop :=
  (∃ fs, t = { s with funcs := fs }) ∧ ∀ f, (fnOf t f).flr = true ↔ p f ∨ (fnOf s f).flr = true

theorem updQueue_resets (fn q : Nat) (g : LQueue → LQueue) (s : State) : ResetsBegun s (updQueue fn q g s) fun _ => False := by
  refine ⟨⟨_, rfl⟩, fun f => ?_⟩
  rw [updQueue, fnOf_updFn, false_or]
  split
  case isTrue h => rw [h]
  case isFalse => rfl

theorem ResetsBegun.trans {s t u : State} {p q : Nat → Prop} (h : ResetsBegun s t p) (h' : ResetsBegun t u q) :
    ResetsBegun s u fun f => p f ∨ q f := by
  obtain ⟨⟨fs, ht⟩, hp⟩ := h
  obtain ⟨⟨fs', hu⟩, hq⟩ := h'
  refine ⟨⟨fs', by rw [hu, ht]⟩, fun f => ?_⟩
  rw [hq, hp]
  tauto

theorem ResetsBegun.launches {s t : State} {p : Nat → Prop} (h : ResetsBegun s t p) : t.launches = s.launches := by
  obtain ⟨⟨fs, ht⟩, -⟩ := h
  rw [ht]

theorem resetQueues_begun (fn : Nat) (l : List Nat) : ∀ {s : State}, s.launches = [] →
    ResetsBegun s (l.foldl (fun s q => resetLaunches fn q (updQueue fn q (fun x => { x with busy := true }) s)) s) fun _ => False := by
  induction l with
  | nil => exact fun _ => ⟨⟨_, rfl⟩, fun f => by simp⟩
  | cons q t ih =>
    intro s h
    have hq := updQueue_resets fn q (fun x => { x with busy := true }) s
    have hl : (updQueue fn q (fun x => { x with busy := true }) s).launches = [] := hq.launches.trans h
    rw [List.foldl_cons, resetLaunches_idle hl]
    simpa using hq.trans (ih hl)

theorem resetFunction_begun (fn : Nat) {s : State} (h : s.launches = []) : ResetsBegun s (resetFunction fn s) (· = fn) := by
  obtain ⟨u, hu⟩ : ∃ u, u = (upTo 8).foldl (fun s q => resetLaunches fn q (updQueue fn q (fun x => { x with busy := true }) s)) s :=
    ⟨_, rfl⟩
  have hb := resetQueues_begun fn (upTo 8) h
  rw [← hu] at hb
  have hf : ResetsBegun u (resetFunction fn s) (· = fn) := by
    rw [resetFunction, ← hu]
    refine ⟨⟨_, rfl⟩, fun f => ?_⟩
    rw [fnOf_updFn]
    split
    case isTrue h => simp [h]
    case isFalse h => simp [Ne.symm h]
  simpa using hb.trans hf

/-- A LOAD begins the reset of every function (R338). -/
theorem resetFunctions_begun (l : List Nat) : ∀ {s : State}, s.launches = [] →
    ResetsBegun s (l.foldl (fun s f => resetFunction f s) s) (· ∈ l) := by
  induction l with
  | nil => exact fun _ => ⟨⟨_, rfl⟩, fun f => by simp⟩
  | cons fn t ih =>
    intro s h
    have hf := resetFunction_begun fn h
    simpa using hf.trans (ih (hf.launches.trans h))

/-! ### Completion (R338) -/

theorem runImage_ok {s : State} {bs : List Byte} (hb : mailBuffer s = some bs) (h : imageOk s.dev.counter bs = true) :
    runImage s = ({ s with dev := { s.dev with fw := true, image := bs } }, 0) := by
  simp [runImage, hb, h]

theorem runImage_refused {s : State} {bs : List Byte} (hb : mailBuffer s = some bs) (h : imageOk s.dev.counter bs = false) :
    runImage s = (s, 1) := by
  simp [runImage, hb, h]

theorem runImage_msix (s : State) : (runImage s).1.dev.msix = s.dev.msix := by
  unfold runImage
  split
  · rfl
  · split <;> rfl

theorem endMail_spec (r : Nat) (s : State) : endMail r s =
    { s with dev := { s.dev with mbbusy := false, mbstatus := r, mbresult := none, msix := s.dev.msix ++ [1] } } := rfl

/-- The resets of a LOAD have not all ended. -/
theorem anyReset_iff (s : State) : ((upTo 64).any fun f => (fnOf s f).flr) = true ↔ ∃ f < 64, (fnOf s f).flr = true := by
  simp [upTo]

end Sys2Proof.Machine
end

section
/-! Register writes over CXL.io that break a limit, or that are not served (R7, R330, R335, R341). -/

namespace Sys2Proof.Machine

open Sys2Proof.Claims

/-! ### Where a write goes (R330) -/

theorem registerWrite_vf_refused {fn off : Nat} {v : Word} {s : State} (hf : fn < 64) (h : writeVf fn off v s = none) :
    exec (.registerWrite fn off v) s = .next s := by
  show execRegisterWrite fn off v s = .next s
  simp [execRegisterWrite, hf, h, orSame]

theorem registerWrite_pf_refused {off : Nat} {v : Word} {s : State} (h : writePf off v s = none) :
    exec (.registerWrite 64 off v) s = .next s := by
  show execRegisterWrite 64 off v s = .next s
  simp [execRegisterWrite, h, orSame]

theorem registerWrite_vf_taken {fn off : Nat} {v : Word} {s t : State} (hf : fn < 64) (hs : served s = true)
    (h : writeVf fn off v s = some t) : exec (.registerWrite fn off v) s = .next t := by
  show execRegisterWrite fn off v s = .next t
  simp [execRegisterWrite, hf, hs, h, orSame]

theorem registerWrite_pf_taken {off : Nat} {v : Word} {s t : State} (hs : served s = true) (h : writePf off v s = some t) :
    exec (.registerWrite 64 off v) s = .next t := by
  show execRegisterWrite 64 off v s = .next t
  simp [execRegisterWrite, hs, h, orSame]

theorem writeVf_queue {q r : Nat} (hq : q < 8) (hr : r < 0x20) (fn : Nat) (v : Word) (s : State) :
    writeVf fn (0x1000 + r + 0x20 * q) v s = writeQueue fn q r v s := by
  have h1 : (0x1000 + r + 0x20 * q - 0x1000) / 0x20 = q := by omega
  have h2 : (0x1000 + r + 0x20 * q) % 0x20 = r := by omega
  rw [writeVf.eq_def, if_pos (by omega), h1, h2]

theorem writeVf_debug {r : Nat} (hr : r < 0x98) (fn : Nat) (v : Word) (s : State) :
    writeVf fn (0x3000 + r) v s = writeDebug fn r v s := by
  rw [writeVf.eq_def, if_neg (by omega), if_pos (by omega), Nat.add_sub_cancel_left]

theorem writePf_config {f r : Nat} (hf : f < 64) (hr : r < 0x100) (v : Word) (s : State) :
    writePf (0x100000 + r + 0x100 * f) v s = writeConfig f r v s := by
  have h1 : (0x100000 + r + 0x100 * f - 0x100000) / 0x100 = f := by omega
  have h2 : (0x100000 + r + 0x100 * f) % 0x100 = r := by omega
  rw [writePf, if_neg (by omega), if_neg (by omega), if_neg (by omega), if_neg (by omega), if_pos (by omega), h1, h2]

/-! ### Limits (R7) -/

theorem setIf_none {ok : Bool} (h : ¬ok = true) (t : State) : setIf ok t = none := if_neg h

theorem hostAddr_iff (n : Nat) (v : Word) : hostAddr n v = true ↔ v.toNat % n = 0 ∧ v.toNat < 2 ^ 56 := by
  rw [hostAddr, hostSize, Bool.and_eq_true, beq_iff_eq, decide_eq_true_eq]

theorem bit_toNat (v : Word) (n : Nat) : bit v.toNat n = v.getLsbD n := by
  rw [BitVec.getLsbD, Nat.testBit_eq_decide_div_mod_eq, bit, Bool.beq_eq_decide_eq]

/-- A base that a ring does not take: it is on, or the base is no address of host space. -/
theorem ringBase_refused {on : Bool} {v : Word} (h : on = true ∨ v.toNat % 4096 ≠ 0 ∨ 2 ^ 56 ≤ v.toNat) :
    ¬(!on && hostAddr 4096 v) = true := by
  rw [Bool.and_eq_true, hostAddr_iff, Bool.not_eq_true']
  rintro ⟨hoff, h0, hlt⟩
  obtain h | h := h
  · exact absurd h (by simp [hoff])
  · omega

theorem writeLqbase_refused {s : State} {fn q : Nat} {v : Word} (hb : (queueOf s fn q).busy = false)
    (h : (queueOf s fn q).en = true ∨ v.toNat % 4096 ≠ 0 ∨ 2 ^ 56 ≤ v.toNat) : writeLqbase fn q v s = none := by
  rw [writeLqbase, if_neg (by simp [hb])]
  exact setIf_none (ringBase_refused h) _

theorem writeLqctl_refused {s : State} {fn q : Nat} {v : Word} (hb : (queueOf s fn q).busy = false) (hr : v.getLsbD 8 = false)
    (h : v.toNat % 16 < 4 ∨ 12 < v.toNat % 16 ∨ ((queueOf s fn q).en = true ∧ v.toNat % 16 ≠ (queueOf s fn q).log2n)) :
    writeLqctl fn q v s = none := by
  rw [writeLqctl, if_neg (by simp [hb]), if_neg (by rw [bit_toNat, hr]; exact Bool.false_ne_true)]
  refine setIf_none ?_ _
  rw [field_lo, Bool.and_eq_true, decide_eq_true_eq, Bool.or_eq_true, Bool.not_eq_true', beq_iff_eq]
  rintro ⟨hn, ho⟩
  obtain h | h | ⟨hon, hne⟩ := h
  · omega
  · omega
  · obtain hoff | heq := ho
    · exact absurd hon (by simp [hoff])
    · exact hne heq

theorem setBrk_refused {v : Word} (h : v.toNat % 4 = 3) (fn : Nat) (b : Fin 4) (s : State) : setBrk fn b v s = none := by
  refine setIf_none ?_ _
  rw [bne_iff_ne, field_lo]
  exact fun hne => hne h

theorem writeSmpctl_refused {v : Word} (h : v.toNat / 2 ^ 32 = 0 ∨ v.toNat % 32 < 4 ∨ 16 < v.toNat % 32) (fn : Nat) (s : State) :
    writeSmpctl fn v s = none := by
  refine setIf_none ?_ _
  simp only [Bool.and_eq_true, bne_iff_ne, decide_eq_true_eq]
  simp only [field, bits]
  omega

theorem writeTrctl_refused {v : Word}
    (h : 3 < v.toNat / 2 ^ 28 % 16 ∨ 3 < v.toNat / 2 ^ 24 % 16 ∨ v.toNat % 32 < 4 ∨ 20 < v.toNat % 32) (fn : Nat) (s : State) :
    writeTrctl fn v s = none := by
  refine if_pos ?_
  simp only [Bool.not_eq_true', decide_eq_false_iff_not]
  simp only [field, bits]
  omega

theorem writeTimes_refused {v : Word} (h : v.toNat % 2 ^ 16 < 16 ∨ ∃ k, 1 ≤ k ∧ k < 4 ∧ v.toNat / 2 ^ (16 * k) % 2 ^ 16 = 0)
    (fn : Nat) (s : State) : writeTimes fn v s = none := by
  refine setIf_none ?_ _
  simp only [Bool.and_eq_true, bne_iff_ne, decide_eq_true_eq]
  simp only [field, bits]
  rintro ⟨⟨⟨h3, h2⟩, h1⟩, h0⟩
  obtain h | ⟨k, hk1, hk4, h⟩ := h
  · omega
  · obtain rfl | rfl | rfl : k = 1 ∨ k = 2 ∨ k = 3 := by omega
    · exact h1 h
    · exact h2 h
    · exact h3 h

theorem writeFrsize_refused {v : Word}
    (h : v.toNat / 32 % 2 ^ 11 ≠ 0 ∨ (0 < v.toNat % 32 ∧ v.toNat % 32 < 4) ∨ 16 < v.toNat % 32) (fn : Nat) (s : State) :
    writeFrsize fn v s = none := by
  refine setIf_none ?_ _
  simp only [Bool.and_eq_true, Bool.or_eq_true, beq_iff_eq, decide_eq_true_eq]
  simp only [field, bits]
  omega

theorem writePwrset_refused {s : State} {v : Word}
    (h : v.toNat % 2 ^ 12 < s.dev.lowLimit ∨ 2200 < v.toNat % 2 ^ 12 ∨ v.toNat % 2 ^ 12 % 25 ≠ 0) : writePwrset v s = none := by
  refine setIf_none ?_ _
  simp only [Bool.and_eq_true, beq_iff_eq, decide_eq_true_eq]
  rw [show field v 11 0 = v.toNat % 2 ^ 12 from field_lo v 11]
  omega

theorem writeRing_base_refused {p : PRing} {v : Word} (h : p.en = true ∨ v.toNat % 4096 ≠ 0 ∨ 2 ^ 56 ≤ v.toNat) :
    writeRing 0 v p = none := by
  refine if_pos ?_
  rw [Bool.or_eq_true, Bool.not_eq_true']
  obtain h | h := h
  · exact .inl h
  · exact .inr (Bool.eq_false_of_not_eq_true fun ha => by rw [hostAddr_iff] at ha; omega)

/-- A write to a function's BAR that breaks a limit is refused. -/
theorem writeVf_refused {s : State} {fn off : Nat} {v : Word} (h : BreaksLimit s fn off v) (hf : fn < 64) :
    writeVf fn off v s = none := by
  obtain ⟨-, h⟩ | ⟨h, -⟩ := h
  · obtain ⟨q, hq, hb, ⟨rfl, h⟩ | ⟨rfl, hr, h⟩⟩ | ⟨b, hb, rfl, h⟩ | ⟨rfl, h⟩ | ⟨rfl, h⟩ | ⟨rfl, h⟩ | ⟨rfl, h⟩ := h
    · exact (writeVf_queue hq (r := 0) (by decide) fn v s).trans (writeLqbase_refused hb h)
    · exact (writeVf_queue hq (r := 8) (by decide) fn v s).trans (writeLqctl_refused hb hr h)
    · rw [writeVf_debug (by omega)]
      obtain rfl | rfl | rfl | rfl : b = 0 ∨ b = 1 ∨ b = 2 ∨ b = 3 := by omega
      all_goals exact setBrk_refused h fn _ s
    · exact (writeVf_debug (r := 0x40) (by decide) fn v s).trans (setIf_none (ringBase_refused h) _)
    · exact (writeVf_debug (r := 0x48) (by decide) fn v s).trans (writeSmpctl_refused h fn s)
    · rw [writeVf_debug (r := 0x60) (by decide)]
      refine setIf_none ?_ _
      rw [Bool.and_eq_true, Bool.not_eq_true', aligned, beq_iff_eq]
      rintro ⟨hoff, h0⟩
      obtain h | h := h
      · exact absurd hoff (by simp [h])
      · exact h h0
    · exact (writeVf_debug (r := 0x68) (by decide) fn v s).trans (writeTrctl_refused h fn s)
  · omega

/-- A write to the physical function's BAR that breaks a limit is refused. -/
theorem writePf_refused {s : State} {off : Nat} {v : Word} (h : BreaksLimit s 64 off v) : writePf off v s = none := by
  obtain ⟨h, -⟩ | ⟨-, h⟩ := h
  · omega
  · obtain ⟨f, hf, ⟨rfl, h⟩ | ⟨rfl, h⟩ | ⟨rfl, h⟩ | ⟨rfl, h⟩⟩ | ⟨rfl, h⟩ | ⟨rfl, h⟩ | ⟨rfl, h⟩ := h
    · exact (writePf_config hf (r := 0x20) (by decide) v s).trans (setIf_none (by rw [hostAddr_iff]; omega) _)
    · exact (writePf_config hf (r := 0x28) (by decide) v s).trans (writeTimes_refused h f s)
    · exact (writePf_config hf (r := 0x70) (by decide) v s).trans (setIf_none (by rw [hostAddr_iff]; omega) _)
    · exact (writePf_config hf (r := 0x78) (by decide) v s).trans (writeFrsize_refused h f s)
    · exact writePwrset_refused h
    · show (writeRing 0 v s.dev.retry).map _ = none
      rw [writeRing_base_refused h, Option.map_none]
    · show (writeRing 0 v s.dev.term).map _ = none
      rw [writeRing_base_refused h, Option.map_none]

/-- A write that breaks a limit of R7 changes nothing. -/
theorem registerWrite_breaksLimit {s : State} {fn off : Nat} {v : Word} (h : BreaksLimit s fn off v) :
    exec (.registerWrite fn off v) s = .next s := by
  by_cases hf : fn < 64
  · exact registerWrite_vf_refused hf (writeVf_refused h hf)
  · obtain rfl : fn = 64 := by
      obtain ⟨hlt, -⟩ | ⟨he, -⟩ := h
      · exact absurd hlt hf
      · exact he
    exact registerWrite_pf_refused (writePf_refused h)

end Sys2Proof.Machine
end

section
/-! Power-on, the mailbox, the alarm and the register file of the platform, assembled. -/

namespace Sys2Proof.Machine

open Sys2Proof.Claims

theorem served_false {s : State} (h : s.dev.fw = false ∨ s.dev.lock = true) : served s = false := by
  obtain h | h := h <;> simp [served, h]

/-- R335, R341: while the boot ROM runs, or after an alarm of level 3, no register but the mailbox's is written or read. -/
theorem registerWrite_unserved {s : State} (h : served s = false) {fn off : Nat} (hm : ¬(fn = 64 ∧ 0x1000 ≤ off ∧ off < 0x1020))
    (v : Word) : exec (.registerWrite fn off v) s = .next s ∧ readBar s fn off = none := by
  have hb : ¬(served s || isMailbox fn off) = true := by
    simpa [h, isMailbox] using hm
  exact ⟨congrArg Host.Outcome.next (if_neg hb), if_neg hb⟩

/-- R301: THANDLER of a function takes a multiple of 4 in host space. -/
theorem registerWrite_thandler {s : State} {fn : Nat} {v : Word} (hf : fn < 64) (hs : served s = true) (h4 : v.toNat % 4 = 0)
    (hlt : v.toNat < 2 ^ 56) :
    exec (.registerWrite 64 (0x100020 + 0x100 * fn) v) s = .next (updFn s fn fun f => { f with thandler := v }) := by
  refine registerWrite_pf_taken hs ((writePf_config hf (r := 0x20) (by decide) v s).trans ?_)
  exact if_pos ((hostAddr_iff 4 v).2 ⟨h4, hlt⟩)

theorem registerWrite_inv1 {s : State} {fn : Nat} (hf : fn < 64) (hs : served s = true) (v : Word) :
    exec (.registerWrite fn 0x2000 v) s = .next (updFn s fn fun f => { f with inv1 := v }) :=
  registerWrite_vf_taken hf hs rfl

theorem fnOf_updFn_same (s : State) (fn : Nat) (g : Func → Func) : fnOf (updFn s fn g) fn = g (fnOf s fn) := by
  rw [fnOf_updFn, if_pos rfl]

theorem fnOf_updFn_ne (s : State) {fn f : Nat} (h : f ≠ fn) (g : Func → Func) : fnOf (updFn s fn g) f = fnOf s f := by
  rw [fnOf_updFn, if_neg h.symm]

/-- R332: DEVSTAT. -/
theorem readBar_devstat {s : State} (h : served s = true) : readBar s 64 0 =
    some (word (2 ^ 6 * s.dev.alarm + (if s.dev.lock then 2 ^ 5 else 0) + if s.dev.fw then 1 else 0)) := by
  have hr : readBar s 64 0 = some (regWord [(6, s.dev.alarm), (5, b2n s.dev.lock), (0, b2n s.dev.fw)]) := by
    simp [readBar, h, readPf, readPfReg]
  rw [hr, regWord, Nat.mul_comm (2 ^ 6)]
  cases s.dev.lock <;> cases s.dev.fw <;> simp [b2n]

/-- R338: MBSTAT, which is read at all times. -/
theorem readBar_mbstat (s : State) : readBar s 64 0x1008 = some (word (2 ^ 8 * s.dev.mbstatus + if s.dev.mbbusy then 1 else 0)) := by
  have hr : readBar s 64 0x1008 = some (regWord [(8, s.dev.mbstatus), (0, b2n s.dev.mbbusy)]) := by
    simp [readBar, isMailbox, readPf, readPfReg]
  rw [hr, regWord, Nat.mul_comm (2 ^ 8)]
  cases s.dev.mbbusy <;> simp [b2n]

/-- A LOAD with no launch to end begins the reset of every function, and of nothing else (R338). -/
theorem loadImage_begun {s : State} (h : s.launches = []) : ∃ u, loadImage s = (u, 0) ∧ ResetsBegun s u (· < 64) := by
  refine ⟨_, rfl, ?_⟩
  simpa [upTo] using resetFunctions_begun (upTo 64) h

/-! ### Completion -/

theorem execMailboxCompletion_waits {s : State} {r : Nat} (hr : s.dev.mbresult = some r) (hc : s.dev.mbcmd = 1)
    (h : ∃ f < 64, (fnOf s f).flr = true) : execMailboxCompletion s = .next s := by
  rw [execMailboxCompletion, hr]
  dsimp only
  rw [if_pos hc, if_pos ((anyReset_iff s).2 h)]

theorem execMailboxCompletion_load {s : State} {r : Nat} (hr : s.dev.mbresult = some r) (hc : s.dev.mbcmd = 1)
    (h : ¬∃ f < 64, (fnOf s f).flr = true) : execMailboxCompletion s = .next (endMail (runImage s).2 (runImage s).1) := by
  rw [execMailboxCompletion, hr]
  dsimp only
  rw [if_pos hc, if_neg fun ha => h ((anyReset_iff s).1 ha)]

theorem execMailboxCompletion_other {s : State} {r : Nat} (hr : s.dev.mbresult = some r) (hc : s.dev.mbcmd ≠ 1) :
    execMailboxCompletion s = .next (endMail r s) := by
  rw [execMailboxCompletion, hr]
  dsimp only
  rw [if_neg hc]

end Sys2Proof.Machine

open Sys2Proof Sys2Proof.Machine Sys2Proof.Claims in
/-- Settles O52: clause by clause, the mailbox through its commands' own equations, the alarm through what an erasure leaves of the
device's block, and the register writes through where a write goes. -/
theorem platformMoves : Obligations.PlatformMoves := by
  unfold Obligations.PlatformMoves
  intro s
  refine ⟨?powerOn, ?busy, fun hb => ⟨?commit, ?config, ?load, ?quote⟩, ?completion, ?alarm, ?registers,
    fun _ _ _ => registerWrite_breaksLimit, ?unserved, fun hs _ => readBar_devstat hs, fun _ => readBar_mbstat s⟩
  case powerOn =>
    refine ⟨imageOk s.dev.counter s.dev.flash, ?_, rfl⟩
    simp [imageOk, and_assoc]
  case busy =>
    intro hbusy i hi
    simp only [List.mem_cons, List.not_mem_nil, or_false] at hi
    obtain rfl | rfl | rfl | rfl := hi <;> exact congrArg Host.Outcome.next (onMail_busy hbusy _ _)
  case commit =>
    refine ⟨_, congrArg Host.Outcome.next (onMail_idle hb 2 commitImage), fun hf => ?_, fun hf => ?_⟩
    · rw [commitImage_none hf]
      exact ⟨mailed_spec .., rfl⟩
    · rw [commitImage_running hf]
      exact ⟨mailed_spec .., rfl, rfl⟩
  case config =>
    refine ⟨_, _, congrArg Host.Outcome.next (onMail_idle hb 3 configBlock), mailed_spec .., fun bs hm => ⟨?_, ?_, ?_⟩⟩
    · rintro ⟨hf, hk⟩ hlt
      rw [configBlock_good hm hf hk, if_neg (Nat.not_le_of_lt hlt)]
      exact ⟨rfl, rfl, rfl⟩
    · rintro ⟨hf, hk⟩ hle
      rw [configBlock_good hm hf hk, if_pos hle]
      exact ⟨rfl, rfl, rfl⟩
    · intro hn
      rw [configBlock_bad hm hn]
      exact ⟨rfl, rfl, rfl⟩
  case load =>
    intro hl
    obtain ⟨u, hu, ⟨fs, hfs⟩, hflr⟩ := loadImage_begun hl
    refine ⟨mailed 1 0 u, 0, ?_, mailed_spec .., fun f hf => (hflr f).2 (.inl hf), ?_, ?_⟩
    · show Host.Outcome.next (onMail 1 loadImage s) = _
      rw [onMail_idle hb, hu]
    · rw [hfs]
      rfl
    · rw [hfs]
      rfl
  case quote =>
    refine ⟨_, _, congrArg Host.Outcome.next (onMail_idle hb 4 quoteLaunch), mailed_spec ..,
      fun bs l hm hl hh => ⟨fun hk => ?_, fun hk => ?_⟩, quoteLaunch_host⟩
    · rw [quoteLaunch_keyless hm hl hk]
    · rw [quoteLaunch_quote hm hl hh hk]
      exact ⟨rfl, fun j b hj hq => cget_csets_take hj hq⟩
  case completion =>
    intro r hr
    dsimp only
    refine ⟨fun ⟨hc, hw⟩ => execMailboxCompletion_waits hr hc hw, fun hn => ?_⟩
    by_cases hc : s.dev.mbcmd = 1
    · refine ⟨_, execMailboxCompletion_load hr hc fun hw => hn ⟨hc, hw⟩, rfl, rfl, ?_, fun h => absurd hc h,
        fun _ bs hm => ⟨fun hok => ?_, fun hok => ?_⟩⟩
      · exact congrArg (· ++ [1]) (runImage_msix s)
      · rw [runImage_ok hm hok]
        exact ⟨rfl, rfl, rfl⟩
      · rw [runImage_refused hm hok]
        exact ⟨rfl, rfl, rfl⟩
    · exact ⟨_, execMailboxCompletion_other hr hc, rfl, rfl, rfl, fun _ => ⟨rfl, rfl, rfl⟩, fun h => absurd h hc⟩
  case alarm =>
    intro sensors ts
    refine ⟨fun h => ?_, fun h => ?_⟩
    · exact congrArg Host.Outcome.next (if_pos (by rw [h]; rfl))
    · obtain ⟨level, hstrike⟩ := strike_spec (sensorsOf sensors) ts s
      exact ⟨_, level, congrArg Host.Outcome.next (if_neg (by simpa using h)), hstrike⟩
  case registers =>
    intro fn v hf hs
    refine ⟨fun h4 hlt => ⟨_, registerWrite_thandler hf hs h4 hlt, ?_, fun f hne => fnOf_updFn_ne s hne _⟩,
      _, registerWrite_inv1 hf hs v, ?_, fun f hne => fnOf_updFn_ne s hne _, rfl⟩
    · rw [fnOf_updFn_same]
    · rw [fnOf_updFn_same]
  case unserved =>
    intro h fn q off v
    have hs := served_false h
    refine ⟨fun hm => registerWrite_unserved hs hm v, fun i hi => ?_⟩
    simp only [List.mem_cons, List.not_mem_nil, or_false] at hi
    obtain rfl | rfl | rfl | rfl | rfl | rfl | rfl | rfl | rfl | rfl | rfl := hi <;> exact onBar_refused hs
end

section
/-! The memories stay canonical (R13, R32): what it means of an answer, and the named operations over the state. An operation of the
model has one lemma here, named after it with `_memoryOk`, which follows its branches; where it writes host memory or the
scratchpads, the lemma cites the law of that write (Laws/Cells), and where it writes other fields alone, MemoryOk of the new
state is MemoryOk of the old. -/

namespace Sys2Proof.Machine

/-- What an instruction or a move answers has its memories in canonical form. -/
def OutMemoryOk : Out → Prop
  | .next t => MemoryOk t
  | _ => True

/-- Where there is a state, its memories are in canonical form. -/
def OptMemoryOk : Option State → Prop
  | some t => MemoryOk t
  | none => True

/-- Where there is no error, the state's memories are in canonical form. -/
def ExcMemoryOk {ε : Type} : Except ε State → Prop
  | .ok t => MemoryOk t
  | .error _ => True

/-- The state that an entry's execution leaves has its memories in canonical form. -/
def VRes.MemoryOk : VRes → Prop
  | .done s | .more s _ | .trap s _ _ _ | .susp s _ _ _ _ _ | .held s _ _ | .fired s _ _ => Machine.MemoryOk s

/-- How an entry executes keeps the memories in canonical form. -/
def BodyMemoryOk (b : Body) : Prop := ∀ e n s, MemoryOk s → (b e n s).MemoryOk

theorem VRes.MemoryOk.of_eq {r r' : VRes} (h : r.MemoryOk) (e : r = r') : r'.MemoryOk := e ▸ h

theorem OutMemoryOk.next {o : Out} {t : State} (h : OutMemoryOk o) (e : o = .next t) : MemoryOk t := by
  subst e
  exact h

theorem OptMemoryOk.some {o : Option State} {t : State} (h : OptMemoryOk o) (e : o = .some t) : MemoryOk t := by
  subst e
  exact h

theorem ExcMemoryOk.ok {ε : Type} {o : Except ε State} {t : State} (h : ExcMemoryOk o) (e : o = .ok t) : MemoryOk t := by
  subst e
  exact h

theorem MemoryOk.fst {α : Type} {p : State × α} {t : State} {a : α} (h : MemoryOk p.1) (e : p = (t, a)) : MemoryOk t := by
  subst e
  exact h

theorem MemoryOk.snd {α : Type} {p : α × State} {t : State} {a : α} (h : MemoryOk p.2) (e : p = (a, t)) : MemoryOk t := by
  subst e
  exact h

theorem OptMemoryOk.getD {o : Option State} {s : State} (h : OptMemoryOk o) (hs : MemoryOk s) : MemoryOk (o.getD s) := by
  cases o
  · exact hs
  · exact h

/-! ### Functions -/

theorem foldl_memoryOk {α : Type} {f : State → α → State} (hf : ∀ s a, MemoryOk s → MemoryOk (f s a)) (l : List α) :
    ∀ {s : State}, MemoryOk s → MemoryOk (l.foldl f s) := by
  induction l with
  | nil => exact id
  | cons a t ih => exact fun h => ih (hf _ a h)

theorem State.reset_memoryOk : MemoryOk State.reset := ⟨rfl, rfl⟩

/-! ### Functions, and the walks that the hub caches -/

theorem setFn_memoryOk {s : State} {fn : Nat} {f : Func} (h : MemoryOk s) : MemoryOk (setFn s fn f) := h

theorem updFn_memoryOk {s : State} {fn : Nat} {g : Func → Func} (h : MemoryOk s) : MemoryOk (updFn s fn g) := setFn_memoryOk h

theorem cacheWalk_memoryOk {s : State} {fn va : Nat} (h : MemoryOk s) : MemoryOk (cacheWalk s fn va) := by
  unfold cacheWalk
  dsimp only
  split
  · split
    · exact h
    · split <;> exact h
  · exact h

/-! ### Strands, waiting accesses, stores and traps -/

theorem onStrand_memoryOk {s t : State} (h : MemoryOk t) : OutMemoryOk (onStrand s t) := by
  unfold onStrand
  split
  · exact h
  · exact trivial

theorem onBar_memoryOk {s t : State} (h : MemoryOk s) (ht : MemoryOk t) : OutMemoryOk (onBar s t) := by
  unfold onBar
  show MemoryOk _
  split
  · exact ht
  · exact h

theorem updMe_memoryOk {s : State} {f : Strand → Strand} (h : MemoryOk s) : MemoryOk (updMe s f) := h

theorem updCtx_memoryOk {s : State} {f : VCtx → VCtx} (h : MemoryOk s) : MemoryOk (updCtx s f) := h

theorem setReg_memoryOk {s : State} {r : BitVec 5} {v : Word} (h : MemoryOk s) : MemoryOk (setReg s r v) := by
  unfold setReg
  split <;> exact h

theorem advance_memoryOk {s : State} (h : MemoryOk s) : MemoryOk (advance s) := h

theorem alu_memoryOk {d : BitVec 5} {v : Word} {s : State} (h : MemoryOk s) : OutMemoryOk (alu d v s) :=
  onStrand_memoryOk (advance_memoryOk (setReg_memoryOk h))

theorem swapBy_memoryOk {p : Strand → Bool} {s : State} (h : MemoryOk s) : MemoryOk (swapBy p s) := by
  unfold swapBy
  split
  · exact h
  · split
    · exact h
    · exact h

theorem onBy_memoryOk {p : Strand → Bool} {f : State → State} {s : State} (hf : ∀ t, MemoryOk t → MemoryOk (f t))
    (h : MemoryOk s) :
    MemoryOk (onBy p f s) := by
  unfold onBy
  split
  · exact hf _ h
  · split
    · exact h
    · dsimp only
      split
      · exact hf _ (swapBy_memoryOk h)
      · exact swapBy_memoryOk (hf _ (swapBy_memoryOk h))

theorem onSlot_memoryOk {core slot : Nat} {f : State → State} {s : State} (hf : ∀ t, MemoryOk t → MemoryOk (f t))
    (h : MemoryOk s) :
    MemoryOk (onSlot core slot f s) :=
  onBy_memoryOk hf h

theorem updGang_memoryOk {s : State} {fn seq g : Nat} {f : Gang → Gang} (h : MemoryOk s) : MemoryOk (updGang s fn seq g f) := h

theorem updMyGang_memoryOk {s : State} {f : Gang → Gang} (h : MemoryOk s) : MemoryOk (updMyGang s f) := updGang_memoryOk h

theorem updLaunch_memoryOk {s : State} {fn seq : Nat} {f : Launch → Launch} (h : MemoryOk s) : MemoryOk (updLaunch s fn seq f) :=
  h

theorem noteManifest_memoryOk {s : State} {f : Manifest → Manifest} (h : MemoryOk s) : MemoryOk (noteManifest s f) :=
  updLaunch_memoryOk h

theorem forGang_memoryOk {fn seq g : Nat} {f : State → State} {s : State} (hf : ∀ t, MemoryOk t → MemoryOk (f t))
    (h : MemoryOk s) :
    MemoryOk (forGang fn seq g f s) := by
  unfold forGang
  split
  · exact h
  · exact foldl_memoryOk (fun _ _ => onBy_memoryOk hf) _ h

theorem bump_memoryOk {s : State} (h : MemoryOk s) : MemoryOk (bump s) := h

theorem addActivity_memoryOk {s : State} {fn k n : Nat} (h : MemoryOk s) : MemoryOk (addActivity s fn k n) := updFn_memoryOk h

theorem holdRec_memoryOk {s : State} {ring : Nat} {r : FRec} (h : MemoryOk s) : MemoryOk (holdRec s ring r) := by
  unfold holdRec
  split
  · exact h
  · split
    · exact h
    · exact updFn_memoryOk h

theorem reportTerm_memoryOk {s : State} {fn who : Nat} {p : PFault} {write fetch : Bool} (h : MemoryOk s) :
    MemoryOk (reportTerm s fn who p write fetch) :=
  holdRec_memoryOk (holdRec_memoryOk h)

theorem setNextBatch_memoryOk {s : State} {ring n : Nat} (h : MemoryOk s) : MemoryOk (setNextBatch s ring n) := by
  unfold setNextBatch
  split
  · exact h
  · exact updFn_memoryOk h

theorem reportBatch_memoryOk {s : State} {fn who cause : Nat} {ps : List PFault} {write fetch : Bool} {b : Batch}
    (h : MemoryOk s) :
    MemoryOk (reportBatch s fn who cause ps write fetch b).1 := by
  unfold reportBatch
  dsimp only
  split
  · exact h
  · exact foldl_memoryOk (fun _ _ => setNextBatch_memoryOk) _ (foldl_memoryOk (fun _ _ => holdRec_memoryOk) _ h)

theorem toOwner_memoryOk {x : Late} {f : Strand → Strand} {s : State} (h : MemoryOk s) : MemoryOk (toOwner x f s) := h

theorem serveReq_memoryOk {s : State} {r : NetReq} (h : MemoryOk s) : MemoryOk (serveReq s r) := by
  unfold serveReq
  dsimp only
  split
  · exact ⟨h.1, Memory.wf_reqMem _ h.2⟩
  · exact toOwner_memoryOk ⟨h.1, Memory.wf_reqMem _ h.2⟩

theorem settle_memoryOk {s : State} (h : MemoryOk s) : MemoryOk (settle s) := by
  unfold settle
  split
  · exact h
  · exact foldl_memoryOk (fun _ _ => serveReq_memoryOk) _ h

theorem drainAt_memoryOk {line held : Nat} {s : State} (h : MemoryOk s) : MemoryOk (drainAt line held s) := by
  unfold drainAt
  split <;> exact h

theorem drainLine_memoryOk {s : State} {line : Nat} (h : MemoryOk s) : MemoryOk (drainLine s line) := drainAt_memoryOk h

theorem drainUpTo_memoryOk {held line : Nat} {s : State} (h : MemoryOk s) : MemoryOk (drainUpTo held line s) :=
  foldl_memoryOk (fun _ _ => drainAt_memoryOk) _ h

theorem drainOldest_memoryOk {s : State} (h : MemoryOk s) : MemoryOk (drainOldest s) := by
  unfold drainOldest
  split
  · exact h
  · exact drainLine_memoryOk h

theorem makeRoom_memoryOk {held k : Nat} {s : State} (h : MemoryOk s) : MemoryOk (makeRoom held k s) := by
  unfold makeRoom
  split
  · exact drainLine_memoryOk h
  · split
    · exact drainOldest_memoryOk h
    · exact h

theorem wcbPutAt_memoryOk {held : Nat} {s : State} {k : Nat} {bs : List PByte} (h : MemoryOk s) :
    MemoryOk (wcbPutAt held s k bs) := by
  unfold wcbPutAt
  dsimp only
  split
  · exact h
  · split
    · exact drainLine_memoryOk (makeRoom_memoryOk h)
    · exact makeRoom_memoryOk h

theorem hostPutAt_memoryOk {held : Nat} {s : State} {pa : Nat} {bs : List PByte} (h : MemoryOk s) :
    MemoryOk (hostPutAt held s pa bs) :=
  h

theorem performHost_memoryOk {s : State} {x : HStore} (h : MemoryOk s) : MemoryOk (performHost s x) := by
  unfold performHost
  split
  · exact ⟨Memory.wf_putBytes _ h.1, h.2⟩
  · exact toOwner_memoryOk ⟨Memory.wf_lateMem _ h.1, h.2⟩

theorem performLoad_memoryOk {ahead : List HStore} {x : Late} {s : State} (h : MemoryOk s) : MemoryOk (performLoad ahead x s) :=
  toOwner_memoryOk h

theorem passPath_memoryOk {force : Bool} {p : List HStore} :
    ∀ {ahead : List HStore} {s : State}, MemoryOk s → MemoryOk (passPath force ahead p s) := by
  induction p with
  | nil => exact fun h => h
  | cons x t ih =>
    intro ahead s h
    unfold passPath
    split
    · exact ih h
    · split
      · exact ih (performLoad_memoryOk h)
      · split
        · exact ih (performHost_memoryOk (foldl_memoryOk (fun _ _ => performHost_memoryOk) _ h))
        · exact h

theorem completeOut_memoryOk {s : State} (h : MemoryOk s) : MemoryOk (completeOut s) := by
  unfold completeOut
  split
  · exact h
  · exact passPath_memoryOk (settle_memoryOk h)

theorem storeAt_memoryOk {held : Nat} {s : State} {l : Loc} {bs : List PByte} (h : MemoryOk s) :
    MemoryOk (storeAt held s l bs) := by
  unfold storeAt
  split
  · exact wcbPutAt_memoryOk h
  · exact hostPutAt_memoryOk h

theorem visit_memoryOk {s : State} {e : Nat} {l : Loc} (h : MemoryOk s) : MemoryOk (visit s e l) := by
  unfold visit
  split
  · exact settle_memoryOk h
  · exact cacheWalk_memoryOk (completeOut_memoryOk h)

theorem flushAll_memoryOk {s : State} (h : MemoryOk s) : MemoryOk (flushAll s) :=
  foldl_memoryOk (fun _ _ => performHost_memoryOk) _ ⟨(settle_memoryOk h).1, Memory.wf_foldl _ (fun _ _ => Memory.wf_putBytes _) _
    ((settle_memoryOk h).2)⟩

theorem flushFree_memoryOk {s : State} (h : MemoryOk s) : MemoryOk (flushFree s) :=
  foldl_memoryOk (fun _ _ => performHost_memoryOk) _ ⟨(settle_memoryOk h).1, Memory.wf_foldl _ (fun _ _ => Memory.wf_putBytes _) _
    ((settle_memoryOk h).2)⟩

theorem sendLate_memoryOk {x : Late} {s : State} (h : MemoryOk s) : MemoryOk (sendLate x s) := h

theorem pathLateAt_memoryOk {held : Nat} {x : Late} {s : State} (h : MemoryOk s) : MemoryOk (pathLateAt held x s) := h

theorem sendKept_memoryOk {s : State} {x : HStore} (h : MemoryOk s) : MemoryOk (sendKept s x) := by
  unfold sendKept
  split
  · exact wcbPutAt_memoryOk h
  · split
    · exact sendLate_memoryOk h
    · exact sendLate_memoryOk (drainUpTo_memoryOk h)

theorem sendKeptOf_memoryOk {p : HStore → Bool} {s : State} (h : MemoryOk s) : MemoryOk (sendKeptOf p s) :=
  foldl_memoryOk (fun _ _ => sendKept_memoryOk) _ h

theorem completeAll_memoryOk {s : State} (h : MemoryOk s) : MemoryOk (completeAll s) := by
  unfold completeAll
  dsimp only
  split
  · exact completeOut_memoryOk h
  · exact passPath_memoryOk (settle_memoryOk (sendKeptOf_memoryOk (completeOut_memoryOk h)))

theorem releaseHeld_memoryOk {s : State} (h : MemoryOk s) : MemoryOk (releaseHeld s) := sendKeptOf_memoryOk h

theorem beforeAtomic_memoryOk {held : Nat} {s : State} {l : Loc} (h : MemoryOk s) : MemoryOk (beforeAtomic held s l) := by
  unfold beforeAtomic
  split
  · exact settle_memoryOk (drainUpTo_memoryOk h)
  · exact foldl_memoryOk (fun _ _ => performHost_memoryOk) _ h

theorem writeCoherent_memoryOk {s : State} {l : Loc} {n v : Nat} (h : MemoryOk s) : MemoryOk (writeCoherent s l n v) := by
  unfold writeCoherent
  split
  · exact ⟨h.1, Memory.wf_csets _ _ h.2⟩
  · exact ⟨Memory.wf_csets _ _ h.1, h.2⟩

theorem rmw_memoryOk {held : Nat} {s : State} {l : Loc} {n : Nat} {f : Nat → Option Nat} (h : MemoryOk s) :
    MemoryOk (rmw held s l n f).2 := by
  unfold rmw
  dsimp only
  split
  · exact beforeAtomic_memoryOk h
  · exact writeCoherent_memoryOk (beforeAtomic_memoryOk h)

theorem hostWriteFn_memoryOk {s : State} {fn va : Nat} {bs : List Byte} (h : MemoryOk s) : MemoryOk (hostWriteFn s fn va bs) := by
  unfold hostWriteFn
  refine foldl_memoryOk (fun t x ht => ?_) _ h
  split
  · exact ⟨Memory.wf_cset _ _ ht.1, ht.2⟩
  · exact ht

theorem traceEvent_memoryOk {s : State} {kind : Nat} {pc vcp : Word} {data : Nat} (h : MemoryOk s) :
    MemoryOk (traceEvent s kind pc vcp data) := by
  unfold traceEvent
  split <;> exact h

theorem nestedTrap_memoryOk {w : Word} {s : State} (h : MemoryOk s) : MemoryOk (nestedTrap w s) := h

theorem takeTrap_memoryOk {cause tag : Nat} {vec resume : Bool} {epc tval : Word} {s : State} (h : MemoryOk s) :
    MemoryOk (takeTrap cause tag vec resume epc tval s) := by
  unfold takeTrap
  dsimp only
  split
  · exact nestedTrap_memoryOk (completeAll_memoryOk h)
  · exact traceEvent_memoryOk (completeAll_memoryOk h)

theorem trapFront_memoryOk {cause : Nat} {tval : Word} {s : State} (h : MemoryOk s) : MemoryOk (trapFront cause tval s) :=
  takeTrap_memoryOk h

theorem trapQueue_memoryOk {cause : Nat} {tval : Word} {s : State} (h : MemoryOk s) : MemoryOk (trapQueue cause tval s) :=
  takeTrap_memoryOk h

theorem suspend_memoryOk {vec : Bool} {cause : Nat} {ps : List PFault} {addr : Nat} {write fetch : Bool} {s : State}
    (h : MemoryOk s) :
    MemoryOk (suspend vec cause ps addr write fetch s) :=
  reportBatch_memoryOk h

theorem memFault_memoryOk {r : MRes} {e : Nat} {write fetch : Bool} {s : State} (h : MemoryOk s) :
    MemoryOk (memFault r e write fetch s) := by
  unfold memFault
  split
  · exact h
  · exact trapFront_memoryOk h
  · exact trapFront_memoryOk h
  · exact suspend_memoryOk h
  · exact trapFront_memoryOk (reportTerm_memoryOk h)

theorem endSuspension_memoryOk {s : State} (h : MemoryOk s) : MemoryOk (endSuspension s) := updMe_memoryOk h

theorem terminate_memoryOk {x : Susp} {s : State} (h : MemoryOk s) : MemoryOk (terminate x s) := by
  unfold terminate
  dsimp only
  split
  · exact trapQueue_memoryOk (endSuspension_memoryOk h)
  · exact trapFront_memoryOk (endSuspension_memoryOk h)

theorem returnTrap_memoryOk {s : State} (h : MemoryOk s) : MemoryOk (returnTrap s) := h

theorem atDrain_memoryOk {i : Instr} {k : State → State} {s : State} (hk : ∀ t, MemoryOk t → MemoryOk (k t)) (h : MemoryOk s) :
    MemoryOk (atDrain i k s) := by
  unfold atDrain
  split
  · exact hk _ h
  · split
    · exact hk _ h
    · split
      · exact hk _ (flushAll_memoryOk h)
      · exact h

/-! ### Flits to peers -/

theorem sendFlit_memoryOk {link kind count tag : Nat} {payload : List Byte} {s : State} (h : MemoryOk s) :
    MemoryOk (sendFlit link kind count tag payload s) :=
  h

theorem linkFlit_memoryOk {fn link kind count tag : Nat} {payload : List Byte} {s : State} (h : MemoryOk s) :
    MemoryOk (linkFlit fn link kind count tag payload s) :=
  sendFlit_memoryOk (addActivity_memoryOk h)

theorem sendRecords_memoryOk {fn link kind tag width n : Nat} :
    ∀ {bs : List Byte} {s : State}, MemoryOk s → MemoryOk (sendRecords fn link kind tag width n bs s) := by
  induction n with
  | zero => exact id
  | succ n ih =>
    intro bs s h
    unfold sendRecords
    split
    · exact h
    · exact ih (linkFlit_memoryOk h)

theorem addAsked_memoryOk {x : Asked} {s : State} (h : MemoryOk s) : MemoryOk (addAsked x s) := h

theorem dropAsked_memoryOk {tags : List (Nat × Nat)} {s : State} (h : MemoryOk s) : MemoryOk (dropAsked tags s) := h

theorem sendFences_memoryOk {id : Nat} {s : State} (h : MemoryOk s) : MemoryOk (sendFences id s) := by
  refine foldl_memoryOk (fun t w ht => ?_) _ h
  have hl : MemoryOk (linkFlit t.me.fn w.2 5 0 (fenceTag id w.1) [] t) := linkFlit_memoryOk ht
  exact hl

/-! ### Debugging and trace -/

theorem updDebug_memoryOk {s : State} {fn : Nat} {f : Debug → Debug} (h : MemoryOk s) : MemoryOk (updDebug s fn f) :=
  updFn_memoryOk h

theorem haltGang_memoryOk {fetch : Bool} {s : State} (h : MemoryOk s) : MemoryOk (haltGang fetch s) := h

theorem commitBreak_memoryOk {s : State} (h : MemoryOk s) : MemoryOk (commitBreak s) := by
  unfold commitBreak
  split
  · exact haltGang_memoryOk h
  · exact takeTrap_memoryOk h

theorem frontBreak_memoryOk {fetch : Bool} {s : State} (h : MemoryOk s) : MemoryOk (frontBreak fetch s) := by
  unfold frontBreak
  split
  · exact haltGang_memoryOk h
  · exact takeTrap_memoryOk h

theorem sample_memoryOk {e : QEntry} {s : State} (h : MemoryOk s) : MemoryOk (sample e s) := by
  unfold sample
  dsimp only
  split
  · split
    · exact updDebug_memoryOk h
    · exact updDebug_memoryOk (bump_memoryOk (hostWriteFn_memoryOk h))
  · exact h

theorem traceWrite_memoryOk {fn : Nat} {bs : List Byte} {s : State} (h : MemoryOk s) : MemoryOk (traceWrite fn bs s) :=
  updDebug_memoryOk (hostWriteFn_memoryOk h)

theorem traceRecord_memoryOk {fn : Nat} {pc vcp : Word} {kind data : Nat} {s : State} (h : MemoryOk s) :
    MemoryOk (traceRecord fn pc vcp kind data s) := by
  unfold traceRecord
  dsimp only
  split
  · exact traceWrite_memoryOk h
  · exact updDebug_memoryOk h

theorem traceOpen_memoryOk {fn : Nat} {pc vcp : Word} {s : State} (h : MemoryOk s) : MemoryOk (traceOpen fn pc vcp s) :=
  traceRecord_memoryOk (updDebug_memoryOk h)

theorem traceEnd_memoryOk {fn : Nat} {pc vcp : Word} {reason : Nat} {s : State} (h : MemoryOk s) :
    MemoryOk (traceEnd fn pc vcp reason s) := by
  unfold traceEnd
  dsimp only
  refine updDebug_memoryOk (traceWrite_memoryOk ?_)
  split
  · exact h
  · exact traceWrite_memoryOk h

theorem traceClock_memoryOk {fn : Nat} {pc vcp : Word} {s : State} (h : MemoryOk s) : MemoryOk (traceClock fn pc vcp s) := by
  unfold traceClock
  dsimp only
  split
  · exact h
  · split
    · split
      · exact traceEnd_memoryOk (foldl_memoryOk (fun _ _ => traceRecord_memoryOk) _ h)
      · exact foldl_memoryOk (fun _ _ => traceRecord_memoryOk) _ h
    · split
      · split
        · exact traceEnd_memoryOk (foldl_memoryOk (fun _ _ => traceRecord_memoryOk) _ (traceOpen_memoryOk h))
        · exact foldl_memoryOk (fun _ _ => traceRecord_memoryOk) _ (traceOpen_memoryOk h)
      · exact h

theorem traceFlush_memoryOk {s : State} (h : MemoryOk s) : MemoryOk (traceFlush s) := by
  unfold traceFlush
  dsimp only
  refine foldl_memoryOk (fun t fn ht => ?_) _ h
  split <;> exact traceClock_memoryOk ht

end Sys2Proof.Machine
end

section
/-! The memories stay canonical: the vector-queue instructions. -/

namespace Sys2Proof.Machine

/-! ### The issue of vector-queue instructions -/

theorem queueFront_memoryOk {e : QEntry} {s : State} (h : MemoryOk s) : MemoryOk (queueFront e s) := updCtx_memoryOk h

theorem queueBack_memoryOk {e : QEntry} {s : State} (h : MemoryOk s) : MemoryOk (queueBack e s) := updCtx_memoryOk h

theorem countEntry_memoryOk {e : QEntry} {s : State} (h : MemoryOk s) : MemoryOk (countEntry e s) :=
  traceEvent_memoryOk (sample_memoryOk (updMe_memoryOk h))

theorem breakEntry_memoryOk {e : QEntry} {s : State} (h : MemoryOk s) : MemoryOk (breakEntry e s) := by
  unfold breakEntry
  split
  · exact commitBreak_memoryOk h
  · exact h

theorem commitEntry_memoryOk {e : QEntry} {s : State} (h : MemoryOk s) : MemoryOk (commitEntry e s) :=
  breakEntry_memoryOk (countEntry_memoryOk h)

theorem settleEntry_memoryOk {e : QEntry} {r : VRes} (hr : r.MemoryOk) : MemoryOk (settleEntry e r) := by
  unfold settleEntry
  split
  · exact commitEntry_memoryOk hr
  · exact queueFront_memoryOk hr
  · exact trapQueue_memoryOk (queueFront_memoryOk hr)
  · exact suspend_memoryOk (queueFront_memoryOk hr)
  · exact updMe_memoryOk (queueFront_memoryOk hr)
  · exact breakEntry_memoryOk (trapQueue_memoryOk (countEntry_memoryOk hr))

theorem enter_memoryOk {i : Instr} {a b d : Word} {body : Body} {s : State} (hbody : BodyMemoryOk body) (h : MemoryOk s) :
    MemoryOk (enter i a b d body s) := by
  unfold enter
  dsimp only
  split
  · exact queueBack_memoryOk (advance_memoryOk h)
  · exact settleEntry_memoryOk (hbody _ _ _ (advance_memoryOk h))

theorem issueVec_memoryOk {i : Instr} {regs : List (BitVec 5)} {wrong : VCtx → Bool} {a b d : Word} {body : Body} {s : State}
    (hbody : BodyMemoryOk body) (h : MemoryOk s) :
    MemoryOk (issueVec i regs wrong a b d body s) := by
  unfold issueVec
  split
  · exact trapFront_memoryOk h
  · exact enter_memoryOk hbody h

theorem issueVecIf_memoryOk {i : Instr} {regs : List (BitVec 5)} {wrong : VCtx → Bool} {good : State → Bool} {a b d : Word}
    {body : Body} {s : State} (hbody : BodyMemoryOk body) (h : MemoryOk s) :
    MemoryOk (issueVecIf i regs wrong good a b d body s) := by
  unfold issueVecIf
  split
  · exact trapFront_memoryOk h
  · split
    · exact enter_memoryOk hbody h
    · exact trapFront_memoryOk h

theorem queueDrain_memoryOk {e : QEntry} {k : State → VRes} {s : State} (hk : ∀ t, MemoryOk t → (k t).MemoryOk) (h : MemoryOk s) :
    (queueDrain e k s).MemoryOk := by
  unfold queueDrain
  split
  · exact hk _ h
  · split
    · exact hk _ h
    · split
      · exact hk _ (flushAll_memoryOk h)
      · exact h

theorem groupBody_memoryOk {sew vl : Nat} {run : QEntry → Nat → Nat → State → State}
    (hrun : ∀ a3 a2 a1 t, MemoryOk t → MemoryOk (run a3 a2 a1 t)) :
    BodyMemoryOk (groupBody sew vl run) := by
  intro e n s h
  unfold groupBody
  dsimp only
  split <;> exact hrun _ _ _ _ h

theorem orFlags_memoryOk {fl : Nat} {s : State} (h : MemoryOk s) : MemoryOk (orFlags fl s) := h

theorem elemLoop_memoryOk {rb sew d : Nat} {mpol : Bool} {m z : Nat} {f : VCtx → Nat → FR} {lo hi : Nat} {s : State}
    (h : MemoryOk s) :
    MemoryOk (elemLoop rb sew d mpol m z f lo hi s) :=
  orFlags_memoryOk (updCtx_memoryOk h)

theorem doneReg_memoryOk {d : BitVec 5} {v : Word} {s : State} (h : MemoryOk s) : (doneReg d v s).MemoryOk := setReg_memoryOk h

/-! ### Vector arithmetic, compares and masks -/

theorem mapBody_memoryOk {d b : BitVec 5} {z : BitVec 2} {bc : BitVec 1} {m : BitVec 2}
    {f : QEntry → BitVec 32 → VCtx → Nat → FR} :
    BodyMemoryOk (mapBody d b z bc m f) := by
  intro e n s h
  unfold mapBody
  exact groupBody_memoryOk (fun _ _ _ _ => elemLoop_memoryOk) _ _ _ h

theorem arithBody_memoryOk {o : VOp} {src : ASrc} {d b : BitVec 5} {z : BitVec 2} {bc : BitVec 1} {m : BitVec 2} :
    BodyMemoryOk (arithBody o src d b z bc m) := by
  intro e n s h
  unfold arithBody
  exact mapBody_memoryOk _ _ _ h

theorem vvArith_memoryOk {i : Instr} {o : VOp} {d a b : BitVec 5} {q : VMod} {s : State} (h : MemoryOk s) :
    OutMemoryOk (vvArith i o d a b q s) :=
  onStrand_memoryOk (issueVec_memoryOk arithBody_memoryOk h)

theorem vsArith_memoryOk {i : Instr} {o : VOp} {d a b : BitVec 5} {q : SMod} {s : State} (h : MemoryOk s) :
    OutMemoryOk (vsArith i o d a b q s) :=
  onStrand_memoryOk (issueVec_memoryOk arithBody_memoryOk h)

theorem viArith_memoryOk {i : Instr} {o : VOp} {src : ASrc} {d b : BitVec 5} {q : SMod} {s : State} (h : MemoryOk s) :
    OutMemoryOk (viArith i o src d b q s) :=
  onStrand_memoryOk (issueVec_memoryOk arithBody_memoryOk h)

theorem unArith_memoryOk {i : Instr} {o : VOp} {d b : BitVec 5} {q : SMod} {s : State} (h : MemoryOk s) :
    OutMemoryOk (unArith i o d b q s) :=
  onStrand_memoryOk (issueVec_memoryOk arithBody_memoryOk h)

theorem idxBody_memoryOk {d : BitVec 5} {m : BitVec 2} : BodyMemoryOk (idxBody d m) := by
  intro e n s h
  unfold idxBody
  exact mapBody_memoryOk _ _ _ h

theorem mvsBody_memoryOk {d : BitVec 5} {m : BitVec 2} : BodyMemoryOk (mvsBody d m) := by
  intro e n s h
  unfold mvsBody
  exact mapBody_memoryOk _ _ _ h

theorem selBody_memoryOk {src : ASrc} {d b : BitVec 5} {z : BitVec 2} {bc : BitVec 1} {m : BitVec 2} :
    BodyMemoryOk (selBody src d b z bc m) := by
  intro e n s h
  unfold selBody
  exact mapBody_memoryOk _ _ _ h

theorem cmpRun_memoryOk {cond : Nat} {src : ASrc} {d b : BitVec 5} {z : BitVec 2} {bc : BitVec 1} {m : BitVec 2} {e : QEntry}
    {lo hi : Nat} {s : State} (h : MemoryOk s) :
    MemoryOk (cmpRun cond src d b z bc m e lo hi s) :=
  orFlags_memoryOk (updCtx_memoryOk h)

theorem cmpBody_memoryOk {cond : Nat} {src : ASrc} {d b : BitVec 5} {z : BitVec 2} {bc : BitVec 1} {m : BitVec 2} :
    BodyMemoryOk (cmpBody cond src d b z bc m) := by
  intro e n s h
  unfold cmpBody
  exact groupBody_memoryOk (fun _ _ _ _ => cmpRun_memoryOk) _ _ _ h

theorem maskRun_memoryOk {d : BitVec 5} {f : VCtx → Nat → Bool} {lo hi : Nat} {s : State} (h : MemoryOk s) :
    MemoryOk (maskRun d f lo hi s) :=
  updCtx_memoryOk h

theorem maskBody_memoryOk {d : BitVec 5} {f : VCtx → Nat → Bool} : BodyMemoryOk (maskBody d f) := by
  intro e n s h
  unfold maskBody
  exact groupBody_memoryOk (fun _ _ _ _ => maskRun_memoryOk) _ _ _ h

theorem mandBody_memoryOk {d a b : BitVec 5} : BodyMemoryOk (mandBody d a b) := by
  intro e n s h
  unfold mandBody
  exact maskBody_memoryOk _ _ _ h

theorem morBody_memoryOk {d a b : BitVec 5} : BodyMemoryOk (morBody d a b) := by
  intro e n s h
  unfold morBody
  exact maskBody_memoryOk _ _ _ h

theorem mxorBody_memoryOk {d a b : BitVec 5} : BodyMemoryOk (mxorBody d a b) := by
  intro e n s h
  unfold mxorBody
  exact maskBody_memoryOk _ _ _ h

theorem mandnBody_memoryOk {d a b : BitVec 5} : BodyMemoryOk (mandnBody d a b) := by
  intro e n s h
  unfold mandnBody
  exact maskBody_memoryOk _ _ _ h

theorem mnotBody_memoryOk {d a : BitVec 5} : BodyMemoryOk (mnotBody d a) := by
  intro e n s h
  unfold mnotBody
  exact maskBody_memoryOk _ _ _ h

theorem countBody_memoryOk {d : BitVec 5} {f : VCtx → Nat → Word} : BodyMemoryOk (countBody d f) := by
  intro e n s h
  unfold countBody
  split
  next e1 =>
    exact doneReg_memoryOk ((groupBody_memoryOk (fun _ _ _ _ ht1 => ht1) _ _ _ h).of_eq e1)
  · exact groupBody_memoryOk (fun _ _ _ _ ht => ht) _ _ _ h

theorem mffsBody_memoryOk {d a : BitVec 5} : BodyMemoryOk (mffsBody d a) := by
  intro e n s h
  unfold mffsBody
  exact countBody_memoryOk _ _ _ h

theorem mpopcBody_memoryOk {d a : BitVec 5} : BodyMemoryOk (mpopcBody d a) := by
  intro e n s h
  unfold mpopcBody
  exact countBody_memoryOk _ _ _ h

/-! ### Permutes and reductions -/

theorem optLoop_memoryOk {e : QEntry} {d m : Nat} {f : VCtx → Nat → Option Nat} {s : State} (h : MemoryOk s) :
    MemoryOk (optLoop e d m f s) :=
  updCtx_memoryOk h

theorem slideBody_memoryOk {up : Bool} {d b : BitVec 5} {f : BitVec 3} {m : BitVec 2} : BodyMemoryOk (slideBody up d b f m) := by
  intro e n s h
  unfold slideBody
  exact optLoop_memoryOk h

theorem permBody_memoryOk {d a b : BitVec 5} {m : BitVec 2} : BodyMemoryOk (permBody d a b m) := by
  intro e n s h
  unfold permBody
  exact optLoop_memoryOk h

theorem cmprBody_memoryOk {d b : BitVec 5} {m : BitVec 2} : BodyMemoryOk (cmprBody d b m) := by
  intro e n s h
  unfold cmprBody
  exact updCtx_memoryOk h

theorem expdBody_memoryOk {d b : BitVec 5} {m : BitVec 2} : BodyMemoryOk (expdBody d b m) := by
  intro e n s h
  unfold expdBody
  exact optLoop_memoryOk h

theorem iotaBody_memoryOk {d b : BitVec 5} {m : BitVec 2} : BodyMemoryOk (iotaBody d b m) := by
  intro e n s h
  unfold iotaBody
  exact optLoop_memoryOk h

theorem noteTree_memoryOk {major sub len : Nat} {s : State} (h : MemoryOk s) : MemoryOk (noteTree major sub len s) :=
  noteManifest_memoryOk h

theorem redBody_memoryOk {d a b : BitVec 5} {o : BitVec 3} {m : BitVec 2} : BodyMemoryOk (redBody d a b o m) := by
  intro e n s h
  unfold redBody
  dsimp only
  split
  · exact noteTree_memoryOk h
  · split <;> exact orFlags_memoryOk (updCtx_memoryOk (noteTree_memoryOk h))

theorem scanBody_memoryOk {d a b : BitVec 5} {o : BitVec 3} {m : BitVec 2} : BodyMemoryOk (scanBody d a b o m) := by
  intro e n s h
  unfold scanBody
  dsimp only
  split
  · exact noteTree_memoryOk h
  · split <;> exact orFlags_memoryOk (updCtx_memoryOk (noteTree_memoryOk h))

theorem histBody_memoryOk {d b : BitVec 5} {clr wide : BitVec 1} {m : BitVec 2} : BodyMemoryOk (histBody d b clr wide m) := by
  intro e n s h
  unfold histBody
  exact updCtx_memoryOk h

theorem topWrite_memoryOk {e : QEntry} {d : Nat} {xs : List (Nat × Nat)} {s : State} (h : MemoryOk s) :
    MemoryOk (topWrite e d xs s) :=
  updCtx_memoryOk h

theorem topkBody_memoryOk {d a b : BitVec 5} {m : BitVec 2} : BodyMemoryOk (topkBody d a b m) := by
  intro e n s h
  unfold topkBody
  exact doneReg_memoryOk (orFlags_memoryOk (topWrite_memoryOk h))

theorem tkmrgBody_memoryOk {d a b : BitVec 5} : BodyMemoryOk (tkmrgBody d a b) := by
  intro e n s h
  unfold tkmrgBody
  exact orFlags_memoryOk (topWrite_memoryOk h)

/-! ### Run space -/

theorem rput_memoryOk {s : State} {l : RLoc} {b : Byte} (h : MemoryOk s) : MemoryOk (rput s l b) := by
  unfold rput
  split
  · exact h
  · exact ⟨Memory.wf_cset _ _ h.1, h.2⟩
  · exact h

theorem runWrite_memoryOk {s : State} {fn : Nat} {host : Bool} {a : Nat} {bs : List Byte} (h : MemoryOk s) :
    ExcMemoryOk (runWrite s fn host a bs) := by
  unfold runWrite
  split
  · exact foldl_memoryOk (fun _ _ => rput_memoryOk) _ h
  · exact trivial

theorem scramble_memoryOk {s : State} {fn : Nat} {host : Bool} {a n : Nat} (h : MemoryOk s) :
    MemoryOk (scramble s fn host a n) := by
  unfold scramble
  refine bump_memoryOk (foldl_memoryOk (fun t j ht => ?_) _ h)
  split
  · exact rput_memoryOk ht
  · exact ht

/-! ### Commands of the Kneader -/

theorem updFifo_memoryOk {q : Nat} {f : Fifo → Fifo} {s : State} (h : MemoryOk s) : MemoryOk (updFifo q f s) := updMe_memoryOk h

theorem writeUnits_memoryOk {fn : Nat} {x : Handle} {us : List RUnit} :
    ∀ {s : State} {n : Nat}, MemoryOk s → MemoryOk (writeUnits fn x us s n).1 := by
  induction us with
  | nil => exact id
  | cons u t ih =>
    intro s n h
    unfold writeUnits
    split
    next e => exact ih (runWrite_memoryOk h |>.ok e)
    · exact h

theorem writeAll_memoryOk {fn : Nat} {out : List (Nat × Rec × Nat)} {ds : List (Nat × Cap)} :
    ∀ {s : State}, MemoryOk s → MemoryOk (writeAll fn out ds s).1 := by
  induction ds with
  | nil => exact id
  | cons d t ih =>
    intro s h
    unfold writeAll
    dsimp only
    split
    next e => exact ih (writeUnits_memoryOk h |>.fst e)
    next e => exact writeUnits_memoryOk h |>.fst e

theorem putCmd_memoryOk {q : Nat} {c : Cmd} {s : State} (h : MemoryOk s) : MemoryOk (putCmd q c s) := updFifo_memoryOk h

theorem commandTerm_memoryOk {s : State} {p : PFault} {write : Bool} (h : MemoryOk s) : MemoryOk (commandTerm s p write) :=
  reportTerm_memoryOk h

theorem countRecords_memoryOk {n : Nat} {s : State} (h : MemoryOk s) : MemoryOk (countRecords n s) :=
  addActivity_memoryOk (addActivity_memoryOk h)

theorem placeDone_memoryOk {q : Nat} {c : Cmd} {w : Word} {upd : List (Nat × Nat × Nat × Bool)} {s : State} (h : MemoryOk s) :
    MemoryOk (placeDone q c w upd s) := by
  unfold placeDone
  dsimp only
  refine updMe_memoryOk (updFifo_memoryOk (dropAsked_memoryOk (countRecords_memoryOk ?_)))
  split
  · split
    · exact commandTerm_memoryOk h
    · exact h
  · exact h

theorem complete_memoryOk {q : Nat} {c : Cmd} {status flags : Nat} {got : List Nat} {s : State} (h : MemoryOk s) :
    MemoryOk (complete q c status flags got s) := by
  unfold complete
  dsimp only
  split
  · exact placeDone_memoryOk h
  · exact putCmd_memoryOk h

theorem stallCmd_memoryOk {q : Nat} {c : Cmd} {cause : Nat} {ps : List PFault} {a i : Nat} {write : Bool} {s : State}
    (h : MemoryOk s) :
    MemoryOk (stallCmd q c cause ps a i write s) :=
  putCmd_memoryOk (reportBatch_memoryOk h)

theorem spoilTail_memoryOk {fn : Nat} {h : Handle} {used : Nat} {s : State} (hs : MemoryOk s) :
    MemoryOk (spoilTail fn h used s) :=
  scramble_memoryOk hs

theorem spoilWork_memoryOk {c : Cmd} {s : State} (h : MemoryOk s) : MemoryOk (spoilWork c s) := by
  unfold spoilWork
  split
  · split
    · exact h
    · exact scramble_memoryOk h
  · exact h

theorem endUnwritten_memoryOk {q : Nat} {c : Cmd} {status : Nat} {s : State} (h : MemoryOk s) :
    MemoryOk (endUnwritten q c status s) :=
  complete_memoryOk (spoilWork_memoryOk (foldl_memoryOk (fun _ _ => spoilTail_memoryOk) _ h))

theorem stopReader_memoryOk {q : Nat} {c : Cmd} {i : Nat} {f : RFault} {s : State} (h : MemoryOk s) :
    MemoryOk (stopReader q c i f s) := by
  unfold stopReader
  split
  · exact stallCmd_memoryOk h
  · exact putCmd_memoryOk (commandTerm_memoryOk h)
  · exact putCmd_memoryOk h

theorem stopPass_memoryOk {q : Nat} {c : Cmd} {ps : List RFault} {write : Bool} {f : RFault} {s : State} (h : MemoryOk s) :
    MemoryOk (stopPass q c ps write f s) := by
  unfold stopPass
  split
  · exact stallCmd_memoryOk h
  · exact endUnwritten_memoryOk (commandTerm_memoryOk h)
  · exact endUnwritten_memoryOk h

theorem spoilRest_memoryOk {c : Cmd} {out : List (Nat × Rec × Nat)} {got : List Nat} {s : State} (h : MemoryOk s) :
    MemoryOk (spoilRest c out got s) :=
  spoilWork_memoryOk (foldl_memoryOk (fun _ _ => spoilTail_memoryOk) _ h)

theorem askRead_memoryOk {id : Nat} {s : State} {x : Nat × Cap} (h : MemoryOk s) : MemoryOk (askRead id s x) := by
  unfold askRead
  split
  · exact h
  · exact addAsked_memoryOk (linkFlit_memoryOk h)

theorem askWrite_memoryOk {tag : Nat} {x : Cap} {bs : List Byte} {s : State} (h : MemoryOk s) :
    MemoryOk (askWrite tag x bs s) := by
  unfold askWrite
  split
  · exact h
  · exact addAsked_memoryOk (sendRecords_memoryOk h)

theorem askPeers_memoryOk {c : Cmd} {s : State} (h : MemoryOk s) : MemoryOk (askPeers c s).2 := by
  unfold askPeers
  dsimp only
  split
  · exact h
  · exact foldl_memoryOk (fun _ _ => askRead_memoryOk) _ h

theorem sendTo_memoryOk {c : Cmd} {d : Nat} {bs : List Byte} {s : State} (h : MemoryOk s) : MemoryOk (sendTo c d bs s) := by
  unfold sendTo
  split
  · split
    · exact h
    · exact askWrite_memoryOk h
  · exact h

theorem refusedMove_memoryOk {q : Nat} {c : Cmd} {i : Nat} {s : State} (h : MemoryOk s) : MemoryOk (refusedMove q c i s) := by
  unfold refusedMove
  dsimp only
  split
  · exact putCmd_memoryOk (commandTerm_memoryOk h)
  · exact endUnwritten_memoryOk (commandTerm_memoryOk h)

theorem sendAll_memoryOk {c : Cmd} {out : List (Nat × Rec × Nat)} {got : List Nat} {s : State} (h : MemoryOk s) :
    MemoryOk (sendAll c out got s) :=
  foldl_memoryOk (fun _ _ => sendTo_memoryOk) _ h

theorem passMove_memoryOk {q : Nat} {c : Cmd} {s : State} (h : MemoryOk s) : MemoryOk (passMove q c s) := by
  unfold passMove
  split
  · exact stopPass_memoryOk h
  · split
    · exact stopPass_memoryOk h
    · dsimp only
      split
      next e2 =>
        exact complete_memoryOk (spoilRest_memoryOk (sendAll_memoryOk ((writeAll_memoryOk h).fst e2)))
      · exact stallCmd_memoryOk h
      next e2 =>
        exact complete_memoryOk (spoilRest_memoryOk (sendAll_memoryOk (commandTerm_memoryOk ((writeAll_memoryOk h).fst e2))))
      next e2 =>
        exact complete_memoryOk (spoilRest_memoryOk (sendAll_memoryOk ((writeAll_memoryOk h).fst e2)))

theorem deliverRec_memoryOk {q : Nat} {c : Cmd} {r : Rec} {s : State} (h : MemoryOk s) : MemoryOk (deliverRec q c r s) :=
  updMe_memoryOk (updFifo_memoryOk (putCmd_memoryOk h))

theorem readMove_memoryOk {q : Nat} {c : Cmd} {s : State} (h : MemoryOk s) : OptMemoryOk (readMove q c s) := by
  unfold readMove
  dsimp only
  split
  · exact complete_memoryOk h
  · split
    · exact trivial
    · split
      · split
        · exact complete_memoryOk h
        · split
          · exact complete_memoryOk h
          · split
            · exact trivial
            · split
              · exact deliverRec_memoryOk h
              · exact stopReader_memoryOk h
      · split
        · split
          · exact trivial
          · exact deliverRec_memoryOk h
        · split
          · exact trivial
          · exact stopReader_memoryOk h
        · exact complete_memoryOk h

theorem endWriter_memoryOk {q : Nat} {c : Cmd} {h : Handle} {s : State} (hs : MemoryOk s) : MemoryOk (endWriter q c h s) :=
  complete_memoryOk (spoilTail_memoryOk hs)

theorem writeMove_memoryOk {q : Nat} {c : Cmd} {s : State} (h : MemoryOk s) : OptMemoryOk (writeMove q c s) := by
  unfold writeMove
  split
  · exact trivial
  · dsimp only
    split
    · split
      · exact putCmd_memoryOk h
      · split
        · exact endWriter_memoryOk h
        · exact trivial
    · split
      · split
        · exact endWriter_memoryOk h
        · exact trivial
      · split
        · exact putCmd_memoryOk h
        · split
          next e4 =>
            exact putCmd_memoryOk (sendTo_memoryOk ((runWrite_memoryOk h).ok e4))
          · exact stallCmd_memoryOk h
          · exact putCmd_memoryOk (commandTerm_memoryOk h)
          · exact putCmd_memoryOk h

theorem acceptMove_memoryOk {q : Nat} {c : Cmd} {s : State} (h : MemoryOk s) : MemoryOk (acceptMove q c s) := by
  unfold acceptMove
  split
  · exact complete_memoryOk h
  · split
    · exact complete_memoryOk h
    · exact putCmd_memoryOk (askPeers_memoryOk h)

theorem knead_memoryOk {q : Nat} {s : State} (h : MemoryOk s) : OptMemoryOk (knead q s) := by
  unfold knead
  split
  · exact trivial
  · split
    · split
      · exact placeDone_memoryOk h
      · exact trivial
    · split
      · exact acceptMove_memoryOk h
      · exact trivial
      · exact putCmd_memoryOk h
      · split
        · exact trivial
        · split
          · exact refusedMove_memoryOk h
          · split
            · exact passMove_memoryOk h
            · split
              · exact writeMove_memoryOk h
              · exact readMove_memoryOk h

theorem kneadTill_memoryOk {q : Nat} {enough : Fifo → Bool} {n : Nat} :
    ∀ {s : State}, MemoryOk s → MemoryOk (kneadTill q enough n s) := by
  induction n with
  | zero => exact id
  | succ n ih =>
    intro s h
    unfold kneadTill
    split
    · exact h
    · split
      · exact h
      next e => exact ih ((knead_memoryOk h).some e)

theorem drainFifo_memoryOk {cause : Option Nat} {q : Nat} {s : State} (h : MemoryOk s) : MemoryOk (drainFifo cause q s) := by
  unfold drainFifo
  dsimp only
  split
  · exact updFifo_memoryOk h
  · split
    · exact complete_memoryOk (updFifo_memoryOk (updFifo_memoryOk h))
    · exact updFifo_memoryOk (updFifo_memoryOk h)

theorem drainStreams_memoryOk {cause : Option Nat} {s : State} (h : MemoryOk s) : MemoryOk (drainStreams cause s) := by
  unfold drainStreams
  refine foldl_memoryOk (fun t q ht => ?_) _ h
  split
  · exact drainFifo_memoryOk ht
  · exact ht

theorem acceptAll_memoryOk {s : State} (h : MemoryOk s) : MemoryOk (acceptAll s) := by
  unfold acceptAll
  split
  · exact h
  · refine foldl_memoryOk (fun t q ht => ?_) _ h
    split
    · exact kneadTill_memoryOk ht
    · exact ht

theorem releaseAll_memoryOk {s : State} (h : MemoryOk s) : MemoryOk (releaseAll s) := acceptAll_memoryOk (flushFree_memoryOk h)

/-! ### Conversions -/

theorem convBody_memoryOk {k : Word → Option Conv} {d b : BitVec 5} {q : SMod} : BodyMemoryOk (convBody k d b q) := by
  intro e n s h
  unfold convBody
  split
  · exact h
  · exact groupBody_memoryOk (fun _ _ _ _ => elemLoop_memoryOk) _ _ _ h

theorem blockBody_memoryOk {k : Word → Option Conv} {t : ℤ} {d b : BitVec 5} {v : BitVec 3} {q : SMod} :
    BodyMemoryOk (blockBody k t d b v q) := by
  intro e n s h
  unfold blockBody
  split
  · exact h
  · exact groupBody_memoryOk (fun _ _ _ _ ht1 => elemLoop_memoryOk (updCtx_memoryOk ht1)) _ _ _ h

theorem ksetBody_memoryOk {d b : BitVec 5} : BodyMemoryOk (ksetBody d b) := by
  intro e n s h
  unfold ksetBody
  exact groupBody_memoryOk (fun _ _ _ _ => updCtx_memoryOk) _ _ _ h

theorem kmvBody_memoryOk {d a b : BitVec 5} {m : BitVec 2} : BodyMemoryOk (kmvBody d a b m) := by
  intro e n s h
  unfold kmvBody
  exact groupBody_memoryOk (fun _ _ _ _ => elemLoop_memoryOk) _ _ _ h

theorem kcalcBody_memoryOk {d a b : BitVec 5} {m : BitVec 2} : BodyMemoryOk (kcalcBody d a b m) := by
  intro e n s h
  unfold kcalcBody
  exact groupBody_memoryOk (fun _ _ _ _ => updCtx_memoryOk) _ _ _ h

/-! ### Scalar loads and stores -/

theorem keep_memoryOk {held : Nat} {bytes : List (Nat × PByte)} {late : Option Late} {s : State} (h : MemoryOk s) :
    MemoryOk (keep held bytes late s) :=
  updMe_memoryOk h

theorem putAccess_memoryOk {held : Nat} {l : Loc} {n : Nat} {fwd : List PByte} {kind : LateKind} {s : State} (h : MemoryOk s) :
    MemoryOk (putAccess held l n fwd kind s) := by
  unfold putAccess
  split
  · exact sendLate_memoryOk h
  · exact pathLateAt_memoryOk h

theorem keepAccess_memoryOk {held : Nat} {l : Loc} {n : Nat} {kind : LateKind} {s : State} (h : MemoryOk s) :
    MemoryOk (keepAccess held l n kind s) := by
  unfold keepAccess
  split
  · exact keep_memoryOk h
  · exact pathLateAt_memoryOk h

theorem issueLate_memoryOk {put : State → State} {p : Nat → Pend} {s : State} (hput : ∀ t, MemoryOk t → MemoryOk (put t))
    (h : MemoryOk s) :
    MemoryOk (issueLate put p s) :=
  updMe_memoryOk (hput _ h)

theorem atomicLater_memoryOk {held n : Nat} {l : Loc} {kind : LateKind} {p : Nat → Pend} {s : State} (h : MemoryOk s) :
    MemoryOk (atomicLater held n l kind p s) := by
  unfold atomicLater
  dsimp only
  refine issueLate_memoryOk (fun _ => putAccess_memoryOk) ?_
  split
  · exact drainUpTo_memoryOk h
  · exact h

theorem keepAtomic_memoryOk {n : Nat} {l : Loc} {kind : LateKind} {p : Nat → Pend} {s : State} (h : MemoryOk s) :
    MemoryOk (keepAtomic n l kind p s) :=
  issueLate_memoryOk (fun _ => keepAccess_memoryOk) h

theorem putLoad_memoryOk {l : Loc} {n : Nat} {kind : LateKind} {s : State} (h : MemoryOk s) : MemoryOk (putLoad l n kind s) := by
  unfold putLoad
  dsimp only
  split
  · split
    · exact keepAccess_memoryOk h
    · exact putAccess_memoryOk h
  · exact putAccess_memoryOk h

theorem execLd_memoryOk {d a : BitVec 5} {i : BitVec 12} {w : BitVec 3} {s : State} (h : MemoryOk s) :
    OutMemoryOk (execLd d a i w s) := by
  unfold execLd
  dsimp only
  split
  · split
    · refine onStrand_memoryOk (advance_memoryOk (issueLate_memoryOk (fun _ => putLoad_memoryOk) ?_))
      split
      · exact h
      · exact cacheWalk_memoryOk h
    · exact onStrand_memoryOk (advance_memoryOk (setReg_memoryOk (visit_memoryOk h)))
  · exact onStrand_memoryOk (memFault_memoryOk h)

theorem execSt_memoryOk {a b : BitVec 5} {h : BitVec 7} {w : BitVec 2} {l : BitVec 5} {s : State} (hs : MemoryOk s) :
    OutMemoryOk (execSt a b h w l s) := by
  unfold execSt
  dsimp only
  split
  · refine onStrand_memoryOk ?_
    split
    · exact advance_memoryOk (keep_memoryOk hs)
    · split
      · exact atDrain_memoryOk (fun _ ht => advance_memoryOk (wcbPutAt_memoryOk ht)) hs
      · exact advance_memoryOk (wcbPutAt_memoryOk hs)
  · exact onStrand_memoryOk (advance_memoryOk (hostPutAt_memoryOk (cacheWalk_memoryOk hs)))
  · exact onStrand_memoryOk (memFault_memoryOk hs)

/-! ### Vector loads and stores -/

theorem vecFault_memoryOk {r : MRes} {e prog : Nat} {write : Bool} {s : State} (h : MemoryOk s) :
    (vecFault r e prog write s).MemoryOk := by
  unfold vecFault
  split
  · exact h
  · exact h
  · exact h
  · exact h
  · exact reportTerm_memoryOk h

theorem discardBufs_memoryOk {id : Nat} {l : Loc} {n : Nat} {s : State} (h : MemoryOk s) : MemoryOk (discardBufs id l n s) := by
  unfold discardBufs
  split
  · exact h
  · exact updCtx_memoryOk h

theorem readAfter_memoryOk {id : Nat} {rs : List (Bool × Nat × Nat)} {s : State} (h : MemoryOk s) :
    MemoryOk (readAfter id rs s) :=
  updCtx_memoryOk h

theorem dropBufs_memoryOk {id : Nat} {s : State} (h : MemoryOk s) : MemoryOk (dropBufs id s) := updCtx_memoryOk h

theorem visitAll_memoryOk {s : State} {es : List Elem} (h : MemoryOk s) : MemoryOk (visitAll s es) := by
  unfold visitAll
  refine foldl_memoryOk (fun t x ht => ?_) _ h
  split
  · exact visit_memoryOk ht
  · exact ht

theorem performNow_memoryOk {ordered : Bool} {l : Loc} {s : State} (h : MemoryOk s) : MemoryOk (performNow ordered l s) := by
  unfold performNow
  split
  · exact beforeAtomic_memoryOk h
  · exact h

theorem storeLoop_memoryOk {ordered : Bool} {e : QEntry} {xs : List (Nat × Loc × List PByte)} :
    ∀ {s : State}, MemoryOk s → MemoryOk (storeLoop ordered e xs s).1 := by
  induction xs with
  | nil => exact id
  | cons x t ih =>
    obtain ⟨k, l, bs⟩ := x
    have hput (s : State) (h : MemoryOk s) :
        MemoryOk (performNow ordered l (discardBufs e.id l bs.length (storeAt (fencesBefore e s) s l bs))) :=
      performNow_memoryOk (discardBufs_memoryOk (storeAt_memoryOk h))
    intro s h
    unfold storeLoop
    dsimp only
    split
    · split
      · exact ih (hput _ (flushAll_memoryOk h))
      · exact h
    · exact ih (hput _ h)

theorem takePermit_memoryOk {s : State} (h : MemoryOk s) : MemoryOk (takePermit s) := h

theorem loadBody_memoryOk {f : AForm} {d : BitVec 5} {m : BitVec 2} : BodyMemoryOk (loadBody f d m) := by
  intro e n s h
  unfold loadBody
  dsimp only
  split
  · exact vecFault_memoryOk (updCtx_memoryOk (readAfter_memoryOk (visitAll_memoryOk h)))
  · split
    · exact dropBufs_memoryOk (updCtx_memoryOk (readAfter_memoryOk (visitAll_memoryOk h)))
    · exact updCtx_memoryOk (readAfter_memoryOk (visitAll_memoryOk h))

theorem cacheAll_memoryOk {s : State} {es : List Elem} (h : MemoryOk s) : MemoryOk (cacheAll s es) := by
  unfold cacheAll
  refine foldl_memoryOk (fun t x ht => ?_) _ h
  split
  · exact cacheWalk_memoryOk ht
  · exact ht

theorem storeBody_memoryOk {f : AForm} {ordered : Bool} {d : BitVec 5} {m : BitVec 2} :
    BodyMemoryOk (storeBody f ordered d m) := by
  intro e n s h
  unfold storeBody
  dsimp only
  split
  next e1 =>
    exact (storeLoop_memoryOk (cacheAll_memoryOk (takePermit_memoryOk h))).fst e1
  next e1 =>
    split
    · exact vecFault_memoryOk ((storeLoop_memoryOk (cacheAll_memoryOk (takePermit_memoryOk h))).fst e1)
    · split <;> exact (storeLoop_memoryOk (cacheAll_memoryOk (takePermit_memoryOk h))).fst e1

theorem trimVl_memoryOk {e : QEntry} {j : Nat} {s : State} (h : MemoryOk s) : MemoryOk (trimVl e j s) := updCtx_memoryOk h

theorem vldffBody_memoryOk {d : BitVec 5} {m : BitVec 2} : BodyMemoryOk (vldffBody d m) := by
  intro e n s h
  unfold vldffBody
  dsimp only
  split
  · exact loadBody_memoryOk _ _ _ h
  · split
    · split
      next e3 =>
        exact trimVl_memoryOk ((loadBody_memoryOk _ _ _ h).of_eq e3)
      · exact loadBody_memoryOk _ _ _ h
    · exact loadBody_memoryOk _ _ _ h

theorem writeM7_memoryOk {lo hi : Nat} {faulty : Nat → Bool} {s : State} (h : MemoryOk s) : MemoryOk (writeM7 lo hi faulty s) :=
  updCtx_memoryOk h

theorem endPass_memoryOk {e : QEntry} {f : AForm} {a : Acc} {s : State} (h : MemoryOk s) : (endPass e f a s).MemoryOk := by
  unfold endPass
  dsimp only
  split
  · exact vecFault_memoryOk h
  · split
    · exact h
    · split <;> exact h

theorem nextPass_memoryOk {e : QEntry} {f : AForm} {a : Acc} {hi : Nat} {s : State} (h : MemoryOk s) :
    (nextPass e f a hi s).MemoryOk := by
  unfold nextPass
  split
  · exact h
  · exact endPass_memoryOk h

theorem vldxBody_memoryOk {d b : BitVec 5} {m : BitVec 2} : BodyMemoryOk (vldxBody d b m) := by
  intro e n s h
  unfold vldxBody
  dsimp only
  refine nextPass_memoryOk ?_
  split
  · exact writeM7_memoryOk (updCtx_memoryOk (readAfter_memoryOk (visitAll_memoryOk h)))
  · exact dropBufs_memoryOk (writeM7_memoryOk (updCtx_memoryOk (readAfter_memoryOk (visitAll_memoryOk h))))

theorem vstxBody_memoryOk {d b : BitVec 5} {m : BitVec 2} : BodyMemoryOk (vstxBody d b m) := by
  intro e n s h
  unfold vstxBody
  dsimp only
  split
  next e1 =>
    exact writeM7_memoryOk ((storeLoop_memoryOk (cacheAll_memoryOk (takePermit_memoryOk h))).fst e1)
  next e1 =>
    exact nextPass_memoryOk (writeM7_memoryOk ((storeLoop_memoryOk (cacheAll_memoryOk (takePermit_memoryOk h))).fst e1))

theorem segCache_memoryOk {e : QEntry} {k : Nat} {es : List SElem} {s : State} (h : MemoryOk s) :
    MemoryOk (segCache e k es s) := by
  unfold segCache
  refine foldl_memoryOk (fun t x ht => ?_) _ h
  split
  · exact cacheWalk_memoryOk ht
  · exact ht

theorem ldsegBody_memoryOk {d : BitVec 5} {n : BitVec 3} {m : BitVec 2} : BodyMemoryOk (ldsegBody d n m) := by
  intro e n s h
  unfold ldsegBody
  dsimp only
  split
  · exact vecFault_memoryOk (orFlags_memoryOk (updCtx_memoryOk (readAfter_memoryOk (foldl_memoryOk (fun _ _ => visit_memoryOk) _
      h))))
  · split
    · exact dropBufs_memoryOk (orFlags_memoryOk (updCtx_memoryOk (readAfter_memoryOk (foldl_memoryOk (fun _ _ => visit_memoryOk) _
        h))))
    · exact orFlags_memoryOk (updCtx_memoryOk (readAfter_memoryOk (foldl_memoryOk (fun _ _ => visit_memoryOk) _ h)))

theorem stsegBody_memoryOk {d : BitVec 5} {n : BitVec 3} {m : BitVec 2} : BodyMemoryOk (stsegBody d n m) := by
  intro e n s h
  unfold stsegBody
  dsimp only
  split
  next e1 =>
    exact orFlags_memoryOk ((storeLoop_memoryOk (segCache_memoryOk (takePermit_memoryOk h))).fst e1)
  next e1 =>
    split
    · exact vecFault_memoryOk (orFlags_memoryOk ((storeLoop_memoryOk (segCache_memoryOk (takePermit_memoryOk h))).fst e1))
    · split <;> exact orFlags_memoryOk ((storeLoop_memoryOk (segCache_memoryOk (takePermit_memoryOk h))).fst e1)

theorem placeBody_memoryOk : BodyMemoryOk placeBody := by
  intro e n s h
  unfold placeBody
  exact h

theorem execMfset_memoryOk {a : BitVec 5} {s : State} (h : MemoryOk s) : OutMemoryOk (execMfset a s) := by
  unfold execMfset
  dsimp only
  refine onStrand_memoryOk ?_
  split
  · exact trapFront_memoryOk h
  · split
    · exact enter_memoryOk placeBody_memoryOk (updCtx_memoryOk h)
    · exact trapFront_memoryOk h

/-! ### Runs, streams and FIFOs -/

theorem issueWith_memoryOk {i : Instr} {regs : List (BitVec 5)} {wrong : VCtx → Bool} {more : State → Option (Nat × Word)}
    {upd : State → State} {a b d : Word} {body : Body} {s : State} (hupd : ∀ t, MemoryOk t → MemoryOk (upd t))
    (hbody : BodyMemoryOk body) (h : MemoryOk s) :
    MemoryOk (issueWith i regs wrong more upd a b d body s) := by
  unfold issueWith
  split
  · exact trapFront_memoryOk h
  · split
    · exact trapFront_memoryOk h
    · exact enter_memoryOk hbody (hupd _ h)

theorem countOut_memoryOk {q : Nat} {write : Bool} {s : State} (h : MemoryOk s) : MemoryOk (countOut q write s) :=
  updFifo_memoryOk h

theorem ropenBody_memoryOk {d : BitVec 5} : BodyMemoryOk (ropenBody d) := by
  intro e n s h
  unfold ropenBody
  split
  · exact vecFault_memoryOk h
  · dsimp only
    split
    · exact doneReg_memoryOk (settle_memoryOk h)
    · split
      · exact doneReg_memoryOk (settle_memoryOk h)
      · exact doneReg_memoryOk (updMe_memoryOk (settle_memoryOk h))

theorem rcloseBody_memoryOk : BodyMemoryOk rcloseBody := by
  intro e n s h
  unfold rcloseBody
  exact updMe_memoryOk h

theorem rstatBody_memoryOk {d : BitVec 5} {o : BitVec 3} : BodyMemoryOk (rstatBody d o) := by
  intro e n s h
  unfold rstatBody
  split
  · exact doneReg_memoryOk h
  · exact h

theorem appendCmd_memoryOk {q : Nat} {c : Cmd} {s : State} (h : MemoryOk s) : MemoryOk (appendCmd q c s) := by
  unfold appendCmd
  dsimp only
  split
  · split
    · exact acceptMove_memoryOk (updFifo_memoryOk h)
    · exact updFifo_memoryOk h
  · split
    · exact acceptMove_memoryOk (updFifo_memoryOk h)
    · exact updFifo_memoryOk h

theorem pushBody_memoryOk {q : BitVec 4} {mk : QEntry → State → Except (Nat × MRes) Cmd} : BodyMemoryOk (pushBody q mk) := by
  intro e n s h
  unfold pushBody
  refine queueDrain_memoryOk (fun t ht => ?_) h
  dsimp only
  split
  · exact vecFault_memoryOk (flushFree_memoryOk (completeOut_memoryOk ht))
  · exact appendCmd_memoryOk (flushFree_memoryOk (completeOut_memoryOk ht))

theorem cspecBody_memoryOk : BodyMemoryOk cspecBody := by
  intro e n s h
  unfold cspecBody
  split
  · exact vecFault_memoryOk h
  · split
    · exact noteManifest_memoryOk (updMe_memoryOk (settle_memoryOk h))
    · exact h

theorem takeDone_memoryOk {q : Nat} {w : Word} {upd : List (Nat × Nat × Nat × Bool)} {s : State} (h : MemoryOk s) :
    MemoryOk (takeDone q w upd s) :=
  orFlags_memoryOk (updMe_memoryOk (updFifo_memoryOk h))

theorem rwaitLoop_memoryOk {q n : Nat} : ∀ {s : State}, MemoryOk s → MemoryOk (rwaitLoop q n s).1 := by
  induction n with
  | zero => exact id
  | succ n ih =>
    intro s h
    unfold rwaitLoop
    dsimp only
    split
    · exact updFifo_memoryOk h
    · split
      next e => exact ih ((knead_memoryOk (updFifo_memoryOk h)).some e)
      · split
        · split
          · exact ih (complete_memoryOk (updFifo_memoryOk h))
          · exact updFifo_memoryOk h
        · exact updFifo_memoryOk h

theorem rwaitBody_memoryOk {d : BitVec 5} {q : BitVec 4} : BodyMemoryOk (rwaitBody d q) := by
  intro e n s h
  unfold rwaitBody
  split
  next e1 =>
    exact doneReg_memoryOk (takeDone_memoryOk ((rwaitLoop_memoryOk h).fst e1))
  next e1 =>
    exact (rwaitLoop_memoryOk h).fst e1

theorem pushRecs_memoryOk {q : Nat} {rs : List Rec} {ends : Bool} {s : State} (h : MemoryOk s) :
    MemoryOk (pushRecs q rs ends s) :=
  updFifo_memoryOk h

theorem qpushBody_memoryOk {d : BitVec 5} {en : BitVec 1} {k : BitVec 2} {q : BitVec 4} : BodyMemoryOk (qpushBody d en k q) := by
  intro e n s h
  unfold qpushBody
  split
  · exact h
  · split
    · exact h
    · exact queueDrain_memoryOk (fun _ ht => orFlags_memoryOk (pushRecs_memoryOk (flushFree_memoryOk (completeOut_memoryOk ht))))
        h

theorem popInto_memoryOk {e : QEntry} {fmt : Word} {d k c0 : Nat} {rs : List Rec} {s : State} (h : MemoryOk s) :
    MemoryOk (popInto e fmt d k c0 rs s) :=
  orFlags_memoryOk (updCtx_memoryOk h)

theorem dropRecs_memoryOk {q n : Nat} {s : State} (h : MemoryOk s) : MemoryOk (dropRecs q n s) := updFifo_memoryOk h

theorem streamStop_memoryOk {q n prog : Nat} {s : State} (h : MemoryOk s) : (streamStop q n prog s).MemoryOk := by
  unfold streamStop
  split
  · exact h
  · split
    · exact drainStreams_memoryOk (dropRecs_memoryOk (putCmd_memoryOk h))
    · split <;> exact h

theorem qpopLoop_memoryOk {d a : BitVec 5} {k q n : Nat} :
    ∀ {e : QEntry} {s : State}, MemoryOk s → (qpopLoop d a k q n e s).MemoryOk := by
  induction n with
  | zero => exact id
  | succ n ih =>
    intro e s h
    have hk (f : Fifo → Bool) : MemoryOk (kneadTill q f 1024 s) := kneadTill_memoryOk h
    unfold qpopLoop
    dsimp only
    split
    · exact doneReg_memoryOk h
    · split
      · split
        · exact doneReg_memoryOk (popInto_memoryOk (dropRecs_memoryOk (hk _)))
        · exact ih (popInto_memoryOk (dropRecs_memoryOk (hk _)))
      · split
        · exact doneReg_memoryOk (popInto_memoryOk (dropRecs_memoryOk (hk _)))
        · exact streamStop_memoryOk (hk _)

theorem qpopBody_memoryOk {d a : BitVec 5} {k : BitVec 2} {q : BitVec 4} : BodyMemoryOk (qpopBody d a k q) := by
  intro e n s h
  unfold qpopBody
  exact qpopLoop_memoryOk h

/-! ### Fences, loops and barriers -/

theorem applyRing_memoryOk {f : Gang → Gang} {s : State} (h : MemoryOk s) : MemoryOk (applyRing f s) := updMyGang_memoryOk h

theorem updNode_memoryOk {f : Gang → Member → Member} {s : State} (h : MemoryOk s) : MemoryOk (updNode f s) :=
  updMyGang_memoryOk h

theorem observe_memoryOk {s : State} (h : MemoryOk s) : MemoryOk (observe s) := updMe_memoryOk (updNode_memoryOk h)

theorem observeOne_memoryOk {s : State} (h : MemoryOk s) : MemoryOk (observeOne s) := updNode_memoryOk h

theorem lookAt_memoryOk {s : State} (h : MemoryOk s) : MemoryOk (lookAt s) := by
  unfold lookAt
  split
  · exact h
  · exact observe_memoryOk h

theorem sendLinks_memoryOk {s : State} (h : MemoryOk s) : MemoryOk (sendLinks s) := by
  unfold sendLinks
  split
  · exact h
  · refine foldl_memoryOk (fun t q ht => ?_) _ h
    split
    · exact kneadTill_memoryOk ht
    · exact ht

theorem fenceEnd_memoryOk {pushes : Bool} {sc : BitVec 3} {e : QEntry} {k : State → State} {s : State}
    (hk : ∀ t, MemoryOk t → MemoryOk (k t)) (h : MemoryOk s) :
    (fenceEnd pushes sc e k s).MemoryOk := by
  unfold fenceEnd
  dsimp only
  split
  · split
    · split
      · split
        · exact hk _ (sendFences_memoryOk (sendLinks_memoryOk (acceptAll_memoryOk h)))
        · exact sendFences_memoryOk (sendLinks_memoryOk (acceptAll_memoryOk h))
      · split
        · exact hk _ (sendLinks_memoryOk (acceptAll_memoryOk h))
        · exact sendLinks_memoryOk (acceptAll_memoryOk h)
    · split
      · split
        · exact hk _ (sendFences_memoryOk (sendLinks_memoryOk h))
        · exact sendFences_memoryOk (sendLinks_memoryOk h)
      · split
        · exact hk _ (sendLinks_memoryOk h)
        · exact sendLinks_memoryOk h
  · split
    · split
      · split
        · exact hk _ (sendFences_memoryOk (acceptAll_memoryOk h))
        · exact sendFences_memoryOk (acceptAll_memoryOk h)
      · split
        · exact hk _ (acceptAll_memoryOk h)
        · exact acceptAll_memoryOk h
    · split
      · split
        · exact hk _ (sendFences_memoryOk h)
        · exact sendFences_memoryOk h
      · split
        · exact hk _ h
        · exact h

theorem drainOnce_memoryOk {e : QEntry} {k : State → VRes} {s : State} (hk : ∀ t, MemoryOk t → (k t).MemoryOk) (h : MemoryOk s) :
    (drainOnce e k s).MemoryOk := by
  unfold drainOnce
  split
  · exact queueDrain_memoryOk hk h
  · exact hk _ h

theorem fenceBody_memoryOk {r : BitVec 2} {sc : BitVec 3} : BodyMemoryOk (fenceBody r sc) := by
  intro e n s h
  unfold fenceBody
  split
  · exact fenceEnd_memoryOk (fun _ => observe_memoryOk) (completeOut_memoryOk h)
  · refine drainOnce_memoryOk (fun t ht => fenceEnd_memoryOk (fun t1 ht1 => ?_) (flushAll_memoryOk (completeOut_memoryOk ht))) h
    split
    · exact ht1
    · exact observe_memoryOk ht1

theorem vfenceBody_memoryOk {sc : BitVec 3} : BodyMemoryOk (vfenceBody sc) := by
  intro e n s h
  unfold vfenceBody
  exact drainOnce_memoryOk (fun _ ht => fenceEnd_memoryOk (fun _ => releaseHeld_memoryOk) (flushFree_memoryOk ht)) h

theorem updGangStrands_memoryOk {f : Strand → Strand} {s : State} (h : MemoryOk s) : MemoryOk (updGangStrands f s) := h

theorem gangEvent_memoryOk {s : State} (h : MemoryOk s) : MemoryOk (gangEvent s) := updGangStrands_memoryOk h

theorem setLoop_memoryOk {k : BitVec 2} {l : Loop} {s : State} (h : MemoryOk s) : MemoryOk (setLoop k l s) := applyRing_memoryOk h

theorem heldAt_memoryOk {e : QEntry} {prog : Nat} {s : State} (h : MemoryOk s) : (heldAt e prog s).MemoryOk := by
  unfold heldAt
  show MemoryOk _
  split <;> exact h

theorem whenReleased_memoryOk {e : QEntry} {k : State → VRes} {s : State} (hk : ∀ t, MemoryOk t → (k t).MemoryOk)
    (h : MemoryOk s) :
    (whenReleased e k s).MemoryOk := by
  unfold whenReleased
  dsimp only
  split
  · exact hk _ (releaseAll_memoryOk (completeOut_memoryOk h))
  · exact heldAt_memoryOk (releaseAll_memoryOk (completeOut_memoryOk h))

theorem itersetBody_memoryOk {l : BitVec 2} : BodyMemoryOk (itersetBody l) := by
  intro e n s h
  unfold itersetBody
  exact queueDrain_memoryOk (fun _ => whenReleased_memoryOk (fun _ ht1 => observe_memoryOk (setLoop_memoryOk ht1))) h

theorem postBody_memoryOk {l : BitVec 2} : BodyMemoryOk (postBody l) := by
  intro e n s h
  unfold postBody
  refine queueDrain_memoryOk (fun t ht => whenReleased_memoryOk (fun t1 ht1 => ?_) ht) h
  dsimp only
  split
  · exact ht1
  · split
    · exact heldAt_memoryOk ht1
    · split
      · exact ht1
      · exact observe_memoryOk (gangEvent_memoryOk (setLoop_memoryOk ht1))

theorem waitiBody_memoryOk {l : BitVec 2} : BodyMemoryOk (waitiBody l) := by
  intro e n s h
  unfold waitiBody
  refine queueDrain_memoryOk (fun t ht => ?_) h
  dsimp only
  split
  · exact lookAt_memoryOk ht
  · split
    · exact lookAt_memoryOk ht
    · exact heldAt_memoryOk (lookAt_memoryOk ht)

theorem tryPhase_memoryOk {s : State} (h : MemoryOk s) : MemoryOk (tryPhase s) := by
  unfold tryPhase
  split
  · exact h
  · split
    · exact gangEvent_memoryOk (applyRing_memoryOk h)
    · exact h

theorem arrive_memoryOk {s : State} (h : MemoryOk s) : MemoryOk (arrive s) := tryPhase_memoryOk (applyRing_memoryOk h)

theorem takeGrant_memoryOk {s : State} (h : MemoryOk s) : MemoryOk (takeGrant s) := by
  unfold takeGrant
  split
  · split <;> exact h
  · exact h

theorem bararrBody_memoryOk : BodyMemoryOk bararrBody := by
  intro e n s h
  unfold bararrBody
  refine queueDrain_memoryOk (fun t ht => ?_) h
  split
  · exact ht
  · exact whenReleased_memoryOk (fun _ => arrive_memoryOk) ht

theorem barJudge_memoryOk {e : QEntry} {s : State} (h : MemoryOk s) : (barJudge e s).MemoryOk := by
  unfold barJudge
  split
  · exact observe_memoryOk (takeGrant_memoryOk h)
  · exact heldAt_memoryOk h

theorem barwtBody_memoryOk : BodyMemoryOk barwtBody := by
  intro e n s h
  unfold barwtBody
  exact queueDrain_memoryOk (fun _ => barJudge_memoryOk) h

theorem barBody_memoryOk : BodyMemoryOk barBody := by
  intro e n s h
  unfold barBody
  split
  · refine queueDrain_memoryOk (fun t ht => ?_) h
    split
    · exact ht
    · refine whenReleased_memoryOk (fun t1 ht1 => ?_) ht
      dsimp only
      split
      · exact heldAt_memoryOk (arrive_memoryOk ht1)
      · exact barJudge_memoryOk (arrive_memoryOk ht1)
  · exact queueDrain_memoryOk (fun _ => barJudge_memoryOk) h

/-! ### Atomics -/

theorem atomicNow_memoryOk {d : BitVec 5} {n : Nat} {l : Loc} {kind : LateKind} {s : State} (h : MemoryOk s) :
    MemoryOk (atomicNow d n l kind s) :=
  setReg_memoryOk (rmw_memoryOk (completeOut_memoryOk h))

theorem scalarAtomic_memoryOk {d : BitVec 5} {n : Nat} {r : BitVec 2} {l : Loc} {kind : LateKind} {s : State} (h : MemoryOk s) :
    MemoryOk (scalarAtomic d n r l kind s) := by
  unfold scalarAtomic
  dsimp only
  split
  · split
    · exact releaseAll_memoryOk (completeOut_memoryOk h)
    · split
      · exact advance_memoryOk (keepAtomic_memoryOk (releaseAll_memoryOk (completeOut_memoryOk h)))
      · split
        · split
          · exact advance_memoryOk (atomicLater_memoryOk (releaseAll_memoryOk (completeOut_memoryOk h)))
          · refine advance_memoryOk ?_
            split
            · exact observe_memoryOk (atomicNow_memoryOk (releaseAll_memoryOk (completeOut_memoryOk h)))
            · exact atomicNow_memoryOk (releaseAll_memoryOk (completeOut_memoryOk h))
        · split
          · exact advance_memoryOk (atomicLater_memoryOk (releaseAll_memoryOk (completeOut_memoryOk h)))
          · refine advance_memoryOk ?_
            split
            · exact observe_memoryOk (atomicNow_memoryOk (releaseAll_memoryOk (completeOut_memoryOk h)))
            · exact atomicNow_memoryOk (releaseAll_memoryOk (completeOut_memoryOk h))
  · split
    · exact h
    · split
      · exact advance_memoryOk (keepAtomic_memoryOk h)
      · split
        · split
          · exact advance_memoryOk (atomicLater_memoryOk h)
          · refine advance_memoryOk ?_
            split
            · exact observe_memoryOk (atomicNow_memoryOk h)
            · exact atomicNow_memoryOk h
        · split
          · exact advance_memoryOk (atomicLater_memoryOk h)
          · refine advance_memoryOk ?_
            split
            · exact observe_memoryOk (atomicNow_memoryOk h)
            · exact atomicNow_memoryOk h

theorem execAmo_memoryOk {d a b : BitVec 5} {sc : BitVec 3} {o : BitVec 4} {r : BitVec 2} {z : BitVec 1} {s : State}
    (h : MemoryOk s) :
    OutMemoryOk (execAmo d a b sc o r z s) := by
  unfold execAmo
  dsimp only
  split
  · exact onStrand_memoryOk (atDrain_memoryOk (fun _ => scalarAtomic_memoryOk) h)
  · exact onStrand_memoryOk (memFault_memoryOk h)

theorem execCas_memoryOk {d a b : BitVec 5} {sc : BitVec 3} {r : BitVec 2} {z : BitVec 1} {s : State} (h : MemoryOk s) :
    OutMemoryOk (execCas d a b sc r z s) := by
  unfold execCas
  dsimp only
  split
  · exact onStrand_memoryOk (atDrain_memoryOk (fun _ => scalarAtomic_memoryOk) h)
  · exact onStrand_memoryOk (memFault_memoryOk h)

theorem amoElem_memoryOk {e : QEntry} {d : BitVec 5} {op : Nat} {x : Elem} {s : State} (h : MemoryOk s) :
    MemoryOk (amoElem e d op x s) := by
  unfold amoElem
  split
  · exact updCtx_memoryOk (discardBufs_memoryOk (rmw_memoryOk (visit_memoryOk h)))
  · exact h

theorem amoPart_memoryOk {d b : BitVec 5} {op : Nat} {m : BitVec 2} {e : QEntry} {lo hi : Nat} {s : State} (h : MemoryOk s) :
    MemoryOk (amoPart d b op m e lo hi s) :=
  writeM7_memoryOk (updCtx_memoryOk (foldl_memoryOk (fun _ _ => amoElem_memoryOk) _ h))

theorem amoSend_memoryOk {e : QEntry} {d : BitVec 5} {op : Nat} {s : State} {x : Elem} (h : MemoryOk s) :
    MemoryOk (amoSend e d op s x) := by
  unfold amoSend
  split
  · dsimp only
    refine discardBufs_memoryOk (atomicLater_memoryOk ?_)
    split
    · exact h
    · exact cacheWalk_memoryOk h
  · exact h

theorem amoSends_memoryOk {d b : BitVec 5} {op : Nat} {m : BitVec 2} {e : QEntry} {lo hi : Nat} {s : State} (h : MemoryOk s) :
    MemoryOk (amoSends d b op m e lo hi s) :=
  writeM7_memoryOk (updCtx_memoryOk (foldl_memoryOk (fun _ _ => amoSend_memoryOk) _ h))

theorem amoLater_memoryOk {d b : BitVec 5} {op : Nat} {m : BitVec 2} {k : State → State} (hk : ∀ t, MemoryOk t → MemoryOk (k t)) :
    BodyMemoryOk (amoLater d b op m k) := by
  intro e n s h
  unfold amoLater
  dsimp only
  split
  · exact amoSends_memoryOk h
  · split
    · exact h
    · exact nextPass_memoryOk (hk _ h)

theorem amoBody_memoryOk {d b : BitVec 5} {r : BitVec 2} {op : BitVec 4} {m : BitVec 2} : BodyMemoryOk (amoBody d b r op m) := by
  intro e n s h
  unfold amoBody
  refine queueDrain_memoryOk (fun t ht => ?_) h
  dsimp only
  split
  · refine whenReleased_memoryOk (fun t1 ht1 => ?_) ht
    split
    · refine amoLater_memoryOk (fun t2 ht2 => ?_) _ _ _ ht1
      split
      · exact observe_memoryOk ht2
      · exact ht2
    · refine nextPass_memoryOk ?_
      split
      · split
        · exact observe_memoryOk (amoPart_memoryOk (completeOut_memoryOk ht1))
        · exact amoPart_memoryOk (completeOut_memoryOk ht1)
      · exact amoPart_memoryOk (completeOut_memoryOk ht1)
  · split
    · refine amoLater_memoryOk (fun t1 ht1 => ?_) _ _ _ ht
      split
      · exact observe_memoryOk ht1
      · exact ht1
    · refine nextPass_memoryOk ?_
      split
      · split
        · exact observe_memoryOk (amoPart_memoryOk (completeOut_memoryOk ht))
        · exact amoPart_memoryOk (completeOut_memoryOk ht)
      · exact amoPart_memoryOk (completeOut_memoryOk ht)

/-! ### Branches -/

theorem transfer_memoryOk {t : Word} {s : State} (h : MemoryOk s) : MemoryOk (transfer t s) := traceEvent_memoryOk h

theorem branch_memoryOk {c : Bool} {o : BitVec 12} {s : State} (h : MemoryOk s) : OutMemoryOk (branch c o s) := by
  unfold branch
  refine onStrand_memoryOk ?_
  split
  · exact transfer_memoryOk h
  · exact advance_memoryOk h

/-! ### The Dredger -/

theorem visitWords_memoryOk {n : Nat} {s : State} {e : Nat} (h : MemoryOk s) : MemoryOk (visitWords n s e) := by
  unfold visitWords
  refine foldl_memoryOk (fun t j ht => ?_) _ h
  dsimp only
  split
  · exact visit_memoryOk ht
  · exact ht

theorem visitDim_memoryOk {s : State} {e : Nat} (h : MemoryOk s) : MemoryOk (visitDim s e) := visitWords_memoryOk h

theorem dimLoop_memoryOk {f c : Nat} {e : QEntry} {n : Nat} :
    ∀ {j : Nat} {s : State}, MemoryOk s → (dimLoop f c e n j s).MemoryOk := by
  induction n with
  | zero =>
    intro j s h
    unfold dimLoop
    split <;> exact h
  | succ n ih =>
    intro j s h
    unfold dimLoop
    split
    · exact h
    · dsimp only
      split
      · exact vecFault_memoryOk h
      · exact ih (noteManifest_memoryOk (updCtx_memoryOk (visitDim_memoryOk h)))

theorem qrtldBody_memoryOk {c f : BitVec 6} : BodyMemoryOk (qrtldBody c f) := by
  intro e n s h
  unfold qrtldBody
  exact dimLoop_memoryOk h

theorem qrseedBody_memoryOk {d : BitVec 5} {m : BitVec 2} {n : BitVec 6} : BodyMemoryOk (qrseedBody d m n) := by
  intro e n s h
  unfold qrseedBody
  exact doneReg_memoryOk (noteManifest_memoryOk (updCtx_memoryOk h))

theorem genBody_memoryOk {d b : BitVec 5} {z : BitVec 2} {bc : BitVec 1} {m : BitVec 2} {idx : QEntry → VCtx → Nat → Nat} :
    BodyMemoryOk (genBody d b z bc m idx) := by
  intro e n s h
  unfold genBody
  exact mapBody_memoryOk _ _ _ h

theorem qrgenBody_memoryOk {d a b : BitVec 5} {q : VMod} : BodyMemoryOk (qrgenBody d a b q) := by
  intro e n s h
  unfold qrgenBody
  exact genBody_memoryOk _ _ _ h

theorem qrgensBody_memoryOk {d b : BitVec 5} {q : SMod} : BodyMemoryOk (qrgensBody d b q) := by
  intro e n s h
  unfold qrgensBody
  exact genBody_memoryOk _ _ _ h

/-! ### The Hearth -/

theorem updHearth_memoryOk {core : Nat} {f : Hearth → Hearth} {s : State} (h : MemoryOk s) : MemoryOk (updHearth core f s) := h

theorem releaseRows_memoryOk {s : State} (h : MemoryOk s) : MemoryOk (releaseRows s) := updCtx_memoryOk (updMe_memoryOk h)

theorem grantRows_memoryOk {n : Nat} {s : State} (h : MemoryOk s) : MemoryOk (grantRows n s) := updCtx_memoryOk (updMe_memoryOk h)

theorem shortGrant_memoryOk {e : QEntry} {prog : Nat} {s : State} (h : MemoryOk s) : (shortGrant e prog s).MemoryOk := h

theorem tileFault_memoryOk {v : Word} {prog : Nat} {s : State} (h : MemoryOk s) : (tileFault v prog s).MemoryOk := h

theorem mattachBody_memoryOk {d : BitVec 5} {w : BitVec 1} : BodyMemoryOk (mattachBody d w) := by
  intro e n s h
  unfold mattachBody
  dsimp only
  split
  · exact doneReg_memoryOk h
  · split
    · exact h
    · exact doneReg_memoryOk (grantRows_memoryOk h)

theorem releaseBody_memoryOk : BodyMemoryOk releaseBody := by
  intro e n s h
  unfold releaseBody
  exact releaseRows_memoryOk h

theorem serveUnit_memoryOk {r : HReq} {s : State} (h : MemoryOk s) : MemoryOk (serveUnit r s) := h

theorem servePort_memoryOk {core : Nat} {s : State} (h : MemoryOk s) : MemoryOk (servePort core s) :=
  foldl_memoryOk (fun _ _ => serveUnit_memoryOk) _ (updHearth_memoryOk h)

theorem sendUnit_memoryOk {e : QEntry} {scale : Bool} {slot first : Nat} {bs : List Byte} {s : State} (h : MemoryOk s) :
    MemoryOk (sendUnit e scale slot first bs s) :=
  updHearth_memoryOk h

theorem unitDone_memoryOk {e : QEntry} {s : State} (h : MemoryOk s) : MemoryOk (unitDone e s).2 := servePort_memoryOk h

theorem putUnit_memoryOk {e : QEntry} {scale : Bool} {slot first : Nat} {bs : List Byte} {s : State} (h : MemoryOk s) :
    MemoryOk (putUnit e scale slot first bs s) := by
  unfold putUnit
  dsimp only
  split
  · exact sendUnit_memoryOk h
  · exact servePort_memoryOk (sendUnit_memoryOk h)

theorem cfgBody_memoryOk {d : BitVec 5} {slot : Nat} : BodyMemoryOk (cfgBody d slot) := by
  intro e n s h
  unfold cfgBody
  dsimp only
  split
  · exact doneReg_memoryOk (updHearth_memoryOk (servePort_memoryOk h))
  · split
    · split
      · exact doneReg_memoryOk (updHearth_memoryOk (servePort_memoryOk h))
      · exact doneReg_memoryOk (servePort_memoryOk h)
    · split <;> exact doneReg_memoryOk (servePort_memoryOk h)

theorem tileLoop_memoryOk {scale : Bool} {slot unit step first total : Nat} {e : QEntry} {n : Nat} :
    ∀ {k : Nat} {s : State}, MemoryOk s → (tileLoop scale slot unit step first total e n k s).MemoryOk := by
  induction n with
  | zero =>
    intro k s h
    unfold tileLoop
    split <;> exact h
  | succ n ih =>
    intro k s h
    unfold tileLoop
    split
    · exact h
    · split
      · exact tileFault_memoryOk h
      · split
        · exact vecFault_memoryOk h
        · dsimp only
          split
          · exact putUnit_memoryOk (settle_memoryOk h)
          · exact ih (putUnit_memoryOk (settle_memoryOk h))

theorem tileBody_memoryOk {scale : Bool} {slot unit step first rows total : Nat} :
    BodyMemoryOk (tileBody scale slot unit step first rows total) := by
  intro e n s h
  unfold tileBody
  split
  · exact h
  · split
    next e2 =>
      split
      · exact tileFault_memoryOk ((unitDone_memoryOk h).snd e2)
      · exact tileLoop_memoryOk ((unitDone_memoryOk h).snd e2)

theorem spBody_memoryOk {slot : Nat} : BodyMemoryOk (spBody slot) := by
  intro e n s h
  unfold spBody
  exact tileBody_memoryOk _ _ _ h

theorem scBody_memoryOk {slot : Nat} : BodyMemoryOk (scBody slot) := by
  intro e n s h
  unfold scBody
  exact tileBody_memoryOk _ _ _ h

theorem tileStream_memoryOk {d : BitVec 5} {q slot : Nat} {e : QEntry} {n : Nat} :
    ∀ {k : Nat} {s : State}, MemoryOk s → (tileStream d q slot e n k s).MemoryOk := by
  induction n with
  | zero => exact id
  | succ n ih =>
    intro k s h
    have hk (f : Fifo → Bool) : MemoryOk (kneadTill q f 1024 s) := kneadTill_memoryOk h
    unfold tileStream
    split
    · exact doneReg_memoryOk h
    · split
      · exact tileFault_memoryOk h
      · dsimp only
        split
        · split
          · exact putUnit_memoryOk (dropRecs_memoryOk (hk _))
          · exact ih (putUnit_memoryOk (dropRecs_memoryOk (hk _)))
        · split
          · exact doneReg_memoryOk (dropRecs_memoryOk (hk _))
          · exact streamStop_memoryOk (hk _)

theorem tqBody_memoryOk {d : BitVec 5} {q slot : Nat} : BodyMemoryOk (tqBody d q slot) := by
  intro e n s h
  unfold tqBody
  split
  · exact h
  · split
    next e2 =>
      split
      · exact tileFault_memoryOk ((unitDone_memoryOk h).snd e2)
      · exact tileStream_memoryOk ((unitDone_memoryOk h).snd e2)

theorem countSite_memoryOk {addr : Word} {xs : List AccStep} {s : State} (h : MemoryOk s) : MemoryOk (countSite addr xs s) := h

theorem accUpdate_memoryOk {e : QEntry} {xs : List (Nat × Nat × AccStep)} {s : State} (h : MemoryOk s) :
    MemoryOk (accUpdate e xs s) :=
  countSite_memoryOk (orFlags_memoryOk (updMe_memoryOk h))

theorem mxvLoop_memoryOk {slot row0 r b kreg mvl : Nat} {i4 : Bool} {e : QEntry} {n : Nat} :
    ∀ {j : Nat} {s : State}, MemoryOk s → (mxvLoop slot row0 r b kreg mvl i4 e n j s).MemoryOk := by
  induction n with
  | zero =>
    intro j s h
    unfold mxvLoop
    split <;> exact h
  | succ n ih =>
    intro j s h
    unfold mxvLoop
    split
    · exact h
    · dsimp only
      split
      · exact tileFault_memoryOk h
      · exact ih (accUpdate_memoryOk h)

theorem mxvBody_memoryOk {d b : BitVec 5} {z w : BitVec 1} {r : BitVec 8} : BodyMemoryOk (mxvBody d b z w r) := by
  intro e n s h
  unfold mxvBody
  dsimp only
  split
  · exact shortGrant_memoryOk (servePort_memoryOk h)
  · split
    · exact tileFault_memoryOk (servePort_memoryOk h)
    · refine mxvLoop_memoryOk (noteTree_memoryOk ?_)
      split
      · exact updMe_memoryOk (servePort_memoryOk h)
      · exact servePort_memoryOk h

theorem mopLoop_memoryOk {f : Fmt} {row a b mvl : Nat} {e : QEntry} {n : Nat} :
    ∀ {j : Nat} {s : State}, MemoryOk s → (mopLoop f row a b mvl e n j s).MemoryOk := by
  induction n with
  | zero =>
    intro j s h
    unfold mopLoop
    split <;> exact h
  | succ n ih =>
    intro j s h
    unfold mopLoop
    split
    · exact h
    · exact ih (accUpdate_memoryOk h)

theorem mopBody_memoryOk {a b : BitVec 5} {f : BitVec 2} {r : BitVec 8} : BodyMemoryOk (mopBody a b f r) := by
  intro e n s h
  unfold mopBody
  dsimp only
  split
  · exact shortGrant_memoryOk h
  · exact mopLoop_memoryOk (noteTree_memoryOk h)

theorem rowBody_memoryOk {r : BitVec 8} {f : Nat → State → State} (hf : ∀ a1 t, MemoryOk t → MemoryOk (f a1 t)) :
    BodyMemoryOk (rowBody r f) := by
  intro e n s h
  unfold rowBody
  dsimp only
  split
  · exact shortGrant_memoryOk h
  · split <;> exact foldl_memoryOk (fun _ _ => hf _ _) _ h

theorem maccrdBody_memoryOk {d : BitVec 5} {r : BitVec 8} : BodyMemoryOk (maccrdBody d r) := by
  intro e n s h
  unfold maccrdBody
  exact rowBody_memoryOk (fun _ _ => updCtx_memoryOk) _ _ _ h

theorem maccwrBody_memoryOk {d : BitVec 5} {r : BitVec 8} : BodyMemoryOk (maccwrBody d r) := by
  intro e n s h
  unfold maccwrBody
  exact rowBody_memoryOk (fun _ _ => updMe_memoryOk) _ _ _ h

theorem macczBody_memoryOk {r : BitVec 8} : BodyMemoryOk (macczBody r) := by
  intro e n s h
  unfold macczBody
  exact rowBody_memoryOk (fun _ _ => updMe_memoryOk) _ _ _ h

/-- MSAVE at an area, where no check of it fails. -/
theorem msaveAt_memoryOk {host : Bool} {en : QEntry} {a k : Nat} {s : State} (h : MemoryOk s) {r : State × Option Nat}
    (e : msaveAt host en a k s = .ok r) : MemoryOk r.1 := by
  unfold msaveAt at e
  dsimp only at e
  split at e
  · cases e
  · split at e
    next e' =>
      cases e
      exact (storeLoop_memoryOk h).fst e'
    next e' =>
      cases e
      exact releaseRows_memoryOk ((storeLoop_memoryOk h).fst e')

theorem msaveBody_memoryOk : BodyMemoryOk msaveBody := by
  intro e n s h
  have hp := takePermit_memoryOk h
  unfold msaveBody
  split
  next e => exact msaveAt_memoryOk hp e
  next e => exact msaveAt_memoryOk hp e
  · exact vecFault_memoryOk h

/-- MREST at an area, where no check of it fails. -/
theorem mrestAt_memoryOk {host : Bool} {a : Nat} {w : Word} {s t : State} (h : MemoryOk s) (e : mrestAt host a w s = .ok t) :
    MemoryOk t := by
  unfold mrestAt at e
  split at e
  · cases e
  · split at e
    · cases e
    · dsimp only at e
      split at e
      · cases e
      · split at e
        · cases e
        · split at e
          · cases e
          · cases e
            exact updCtx_memoryOk (updMe_memoryOk (settle_memoryOk h))

theorem mrestBody_memoryOk : BodyMemoryOk mrestBody := by
  intro e n s h
  unfold mrestBody
  split
  next e => exact mrestAt_memoryOk h e
  · exact vecFault_memoryOk h
  · exact h

/-- MSAVE in a pre-emption handler, where no check of it fails. -/
theorem handlerMsaveAt_memoryOk {i : Instr} {a : Nat} {s : State} (h : MemoryOk s) {r : State × Bool}
    (e : handlerMsaveAt i a s = .ok r) : MemoryOk r.1 := by
  have hp := takePermit_memoryOk h
  unfold handlerMsaveAt at e
  dsimp only at e
  split at e
  next e' =>
    cases e
    exact updMe_memoryOk (msaveAt_memoryOk hp e')
  next e' =>
    cases e
    exact updMe_memoryOk (msaveAt_memoryOk hp e')
  · cases e

theorem countIssued_memoryOk {i : Instr} {s : State} (h : MemoryOk s) : MemoryOk (countIssued i s) := countEntry_memoryOk h

theorem execMsave_memoryOk {a : BitVec 5} {s : State} (h : MemoryOk s) : OutMemoryOk (execMsave a s) := by
  refine onStrand_memoryOk ?_
  split
  · split
    next e =>
      have ht := handlerMsaveAt_memoryOk h e
      split
      · exact advance_memoryOk (countIssued_memoryOk ht)
      · exact ht
    · exact memFault_memoryOk h
  · exact issueVec_memoryOk msaveBody_memoryOk h

theorem execMrest_memoryOk {a : BitVec 5} {s : State} (h : MemoryOk s) : OutMemoryOk (execMrest a s) := by
  refine onStrand_memoryOk ?_
  split
  · split
    next e => exact advance_memoryOk (countIssued_memoryOk (mrestAt_memoryOk (completeOut_memoryOk h) e))
    · exact memFault_memoryOk h
    · exact trapFront_memoryOk h
  · exact issueVec_memoryOk mrestBody_memoryOk h

theorem mcensRdBody_memoryOk {d : BitVec 5} : BodyMemoryOk (mcensRdBody d) := by
  intro e n s h
  unfold mcensRdBody
  exact doneReg_memoryOk h

theorem mcensRdclrBody_memoryOk {d : BitVec 5} : BodyMemoryOk (mcensRdclrBody d) := by
  intro e n s h
  unfold mcensRdclrBody
  exact doneReg_memoryOk h

theorem mcensClrBody_memoryOk : BodyMemoryOk mcensClrBody := by
  intro e n s h
  unfold mcensClrBody
  exact h

theorem mcensIdxBody_memoryOk {d : BitVec 5} : BodyMemoryOk (mcensIdxBody d) := by
  intro e n s h
  unfold mcensIdxBody
  exact doneReg_memoryOk h

/-! ### The Proofer -/

theorem putSeq_memoryOk {s : State} {key : Nat} {q : Seq} (h : MemoryOk s) : MemoryOk (putSeq s key q) := h

theorem raiseVector_memoryOk {fn v : Nat} {s : State} (h : MemoryOk s) : MemoryOk (raiseVector fn v s) := updFn_memoryOk h

theorem notifyBit_memoryOk {j : Nat} {s : State} (h : MemoryOk s) : MemoryOk (notifyBit j s) := by
  unfold notifyBit
  split
  · exact h
  · dsimp only
    split
    · exact raiseVector_memoryOk (updMe_memoryOk h)
    · exact updMe_memoryOk h

theorem notifyFlag_memoryOk {n : Nat} {s : State} (h : MemoryOk s) : MemoryOk (notifyFlag n s) := by
  unfold notifyFlag
  split
  · exact h
  · exact updMe_memoryOk h

theorem degraded_memoryOk {j n : Nat} {s : State} (h : MemoryOk s) : MemoryOk (degraded j n s) :=
  notifyFlag_memoryOk (notifyBit_memoryOk h)

theorem act_memoryOk {id e dpos : Nat} {conf : Bool} {s : State} (h : MemoryOk s) : MemoryOk (act id e dpos conf s).1 := by
  unfold act
  dsimp only
  split
  · exact putSeq_memoryOk h
  · exact updMe_memoryOk h
  · split
    · exact putSeq_memoryOk h
    · exact degraded_memoryOk h
  · split
    · exact putSeq_memoryOk h
    · exact degraded_memoryOk h

theorem consumeSeq_memoryOk {id e : Nat} {s : State} (h : MemoryOk s) : MemoryOk (consumeSeq id e s) := putSeq_memoryOk h

theorem fire_memoryOk {id : Nat} {nset : List Nat} {w : Option Nat} {dpos : Nat} {conf : Bool} {s : State} (h : MemoryOk s) :
    MemoryOk (fire id nset w dpos conf s).1 := by
  unfold fire
  dsimp only
  split
  · exact foldl_memoryOk (fun _ _ ht => consumeSeq_memoryOk (notifyBit_memoryOk ht)) _ h
  · exact act_memoryOk (consumeSeq_memoryOk (foldl_memoryOk (fun _ _ ht => consumeSeq_memoryOk (notifyBit_memoryOk ht)) _ h))

theorem joinSeq_memoryOk {id : Nat} {t : BitVec 32} {s : State} (h : MemoryOk s) : MemoryOk (joinSeq id t s) := putSeq_memoryOk h

theorem discardDrafts_memoryOk {id : Nat} {s : State} (h : MemoryOk s) : MemoryOk (discardDrafts id s) := putSeq_memoryOk h

theorem endProof_memoryOk {d : BitVec 5} {id n : Nat} {f : Fired} {s : State} (h : MemoryOk s) :
    (endProof d id n f s).MemoryOk := by
  unfold endProof
  dsimp only
  split <;> exact setReg_memoryOk h

theorem onSeq_memoryOk {k : Nat → Word → State → VRes} (hk : ∀ a2 a1 t, MemoryOk t → (k a2 a1 t).MemoryOk) :
    BodyMemoryOk (onSeq k) := by
  intro e n s h
  unfold onSeq
  split
  · exact hk _ _ _ h
  · exact h

theorem loadSeq_memoryOk {d : BitVec 5} {id : Nat} {ws : List (List Byte)} {s : State} (h : MemoryOk s) :
    (loadSeq d id ws s).MemoryOk :=
  doneReg_memoryOk (putSeq_memoryOk h)

theorem pwldBody_memoryOk {d : BitVec 5} {new : BitVec 1} {q : BitVec 3} : BodyMemoryOk (pwldBody d new q) := by
  intro e n s h
  unfold pwldBody
  dsimp only
  split
  · exact vecFault_memoryOk h
  · split
    · exact noteManifest_memoryOk (visitWords_memoryOk h)
    · split
      · exact doneReg_memoryOk (noteManifest_memoryOk (visitWords_memoryOk h))
      · split
        · exact loadSeq_memoryOk (noteManifest_memoryOk (visitWords_memoryOk h))
        · split
          · exact doneReg_memoryOk (noteManifest_memoryOk (visitWords_memoryOk h))
          · exact loadSeq_memoryOk (noteManifest_memoryOk (visitWords_memoryOk h))

theorem pwcntStBody_memoryOk {d : BitVec 5} : BodyMemoryOk (pwcntStBody d) := by
  intro e n s h
  unfold pwcntStBody
  exact onSeq_memoryOk (fun _ _ _ => doneReg_memoryOk) _ _ _ h

theorem pwcntHistBody_memoryOk {d : BitVec 5} : BodyMemoryOk (pwcntHistBody d) := by
  intro e n s h
  unfold pwcntHistBody
  exact onSeq_memoryOk (fun _ _ _ => doneReg_memoryOk) _ _ _ h

theorem pwcntCntBody_memoryOk {d : BitVec 5} : BodyMemoryOk (pwcntCntBody d) := by
  intro e n s h
  unfold pwcntCntBody
  exact onSeq_memoryOk (fun _ _ _ => doneReg_memoryOk) _ _ _ h

theorem pwcntFreeBody_memoryOk : BodyMemoryOk pwcntFreeBody := by
  intro e n s h
  unfold pwcntFreeBody
  exact onSeq_memoryOk (fun _ _ _ => putSeq_memoryOk) _ _ _ h

theorem pwchkBody_memoryOk {d : BitVec 5} : BodyMemoryOk (pwchkBody d) := by
  intro e n s h
  unfold pwchkBody
  refine onSeq_memoryOk (fun id b t ht => ?_) _ _ _ h
  dsimp only
  split
  · exact endProof_memoryOk ht
  · exact endProof_memoryOk (fire_memoryOk (joinSeq_memoryOk (discardDrafts_memoryOk ht)))

theorem pwdrftBody_memoryOk {d : BitVec 5} : BodyMemoryOk (pwdrftBody d) := by
  intro e n s h
  unfold pwdrftBody
  refine onSeq_memoryOk (fun id b t ht => ?_) _ _ _ h
  dsimp only
  split
  · exact endProof_memoryOk ht
  · split
    · exact ht
    · exact endProof_memoryOk (putSeq_memoryOk ht)

theorem confirm_memoryOk {id : Nat} {xs : List Draft} :
    ∀ {p : Nat} {f : Fired} {s : State}, MemoryOk s → MemoryOk (confirm id p xs f s).1 := by
  induction xs with
  | nil => exact fun h => h
  | cons x t ih =>
    intro p f s h
    unfold confirm
    dsimp only
    split
    · exact fire_memoryOk (joinSeq_memoryOk h)
    · exact ih (fire_memoryOk (joinSeq_memoryOk h))

theorem pwconfBody_memoryOk {d : BitVec 5} : BodyMemoryOk (pwconfBody d) := by
  intro e n s h
  unfold pwconfBody
  exact onSeq_memoryOk (fun _ _ _ ht => endProof_memoryOk (discardDrafts_memoryOk (confirm_memoryOk ht))) _ _ _ h

theorem pwinjBody_memoryOk {d : BitVec 5} : BodyMemoryOk (pwinjBody d) := by
  intro e n s h
  unfold pwinjBody
  refine onSeq_memoryOk (fun id x t ht => ?_) _ _ _ h
  dsimp only
  split
  · exact doneReg_memoryOk ht
  · exact doneReg_memoryOk (putSeq_memoryOk ht)

/-! ### Vector configuration -/

theorem setVl_memoryOk {g : Nat} {s : State} (h : MemoryOk s) : MemoryOk (setVl g s) := updCtx_memoryOk h

theorem vregsBody_memoryOk : BodyMemoryOk vregsBody := by
  intro e n s h
  unfold vregsBody
  exact updCtx_memoryOk h

theorem mstopBody_memoryOk : BodyMemoryOk mstopBody := by
  intro e n s h
  unfold mstopBody
  show MemoryOk _
  split
  · exact releaseRows_memoryOk h
  · exact h

/-! ### The vector instruction queue -/

theorem arithQueue_memoryOk {i : Instr} {b : Body} (e : arithQueue i = some b) : BodyMemoryOk b := by
  cases i
  case vadd | vsub | vrsub | vmin | vmax | vand | vor | vxor | vmul | vmulh | vmacc | vnmacc | vdiv | vrem | vsll | vsrl | vsra
    | vbfx | vfshr | vaddVs | vsubVs | vrsubVs | vminVs | vmaxVs | vandVs | vorVs | vxorVs | vmulVs | vmulhVs | vmaccVs | vnmaccVs
    | vdivVs | vremVs | vsllVs | vsrlVs | vsraVs | vbfxVs | vfshrVs | vaddVi | vsubVi | vrsubVi | vminVi | vmaxVi | vandVi | vorVi
    | vxorVi | vsllVi | vsrlVi | vsraVi | vclz | vpopc | vsqrt | vabs | vneg | vmv | vclass | vrecip =>
    cases e
    exact arithBody_memoryOk
  case vidx =>
    cases e
    exact idxBody_memoryOk
  case vmvVs =>
    cases e
    exact mvsBody_memoryOk
  case vsel | vselVs =>
    cases e
    exact selBody_memoryOk
  case vcmp | vcmpVs | vcmpVi =>
    cases e
    exact cmpBody_memoryOk
  case mand =>
    cases e
    exact mandBody_memoryOk
  case mor =>
    cases e
    exact morBody_memoryOk
  case mxor =>
    cases e
    exact mxorBody_memoryOk
  case mandn =>
    cases e
    exact mandnBody_memoryOk
  case mnot =>
    cases e
    exact mnotBody_memoryOk
  case mffs =>
    cases e
    exact mffsBody_memoryOk
  case mpopc =>
    cases e
    exact mpopcBody_memoryOk
  all_goals cases e

/-- Every instruction of the vector queue keeps the memories in canonical form as it executes. -/
theorem queueBody_memoryOk {i : Instr} {b : Body} (e : queueBody i = some b) : BodyMemoryOk b := by
  by_cases hq : queueBody i = arithQueue i
  · exact arithQueue_memoryOk (hq ▸ e)
  · cases i
    case vcvtw | vcvtn | vcvti =>
      cases e
      exact convBody_memoryOk
    case vcvtf4 | vcvtdy =>
      cases e
      exact blockBody_memoryOk
    case kset =>
      cases e
      exact ksetBody_memoryOk
    case kmv =>
      cases e
      exact kmvBody_memoryOk
    case kcalc =>
      cases e
      exact kcalcBody_memoryOk
    case vslup | vsldn =>
      cases e
      exact slideBody_memoryOk
    case vperm =>
      cases e
      exact permBody_memoryOk
    case vcmpr =>
      cases e
      exact cmprBody_memoryOk
    case vexpd =>
      cases e
      exact expdBody_memoryOk
    case viota =>
      cases e
      exact iotaBody_memoryOk
    case vred =>
      cases e
      exact redBody_memoryOk
    case vscan =>
      cases e
      exact scanBody_memoryOk
    case vhist =>
      cases e
      exact histBody_memoryOk
    case vtopk =>
      cases e
      exact topkBody_memoryOk
    case vtkmrg =>
      cases e
      exact tkmrgBody_memoryOk
    case vld | vlds | vldxo =>
      cases e
      exact loadBody_memoryOk
    case vldx =>
      cases e
      exact vldxBody_memoryOk
    case vldff =>
      cases e
      exact vldffBody_memoryOk
    case vldseg =>
      cases e
      exact ldsegBody_memoryOk
    case vst | vsts | vstxo =>
      cases e
      exact storeBody_memoryOk
    case vstx =>
      cases e
      exact vstxBody_memoryOk
    case vstseg =>
      cases e
      exact stsegBody_memoryOk
    case mfset | vsetl | vcfg | mstart =>
      cases e
      exact placeBody_memoryOk
    case vamo =>
      cases e
      exact amoBody_memoryOk
    case fence =>
      cases e
      exact fenceBody_memoryOk
    case vfence =>
      cases e
      exact vfenceBody_memoryOk
    case iterset =>
      cases e
      exact itersetBody_memoryOk
    case post =>
      cases e
      exact postBody_memoryOk
    case waiti =>
      cases e
      exact waitiBody_memoryOk
    case bar =>
      cases e
      exact barBody_memoryOk
    case bararr =>
      cases e
      exact bararrBody_memoryOk
    case barwt =>
      cases e
      exact barwtBody_memoryOk
    case ropen =>
      cases e
      exact ropenBody_memoryOk
    case rclose =>
      cases e
      exact rcloseBody_memoryOk
    case rstat =>
      cases e
      exact rstatBody_memoryOk
    case rdstr | wrstr | rsort | rmerge | rjoin | rpart =>
      cases e
      exact pushBody_memoryOk
    case qpush =>
      cases e
      exact qpushBody_memoryOk
    case qpop =>
      cases e
      exact qpopBody_memoryOk
    case rwait =>
      cases e
      exact rwaitBody_memoryOk
    case cspec =>
      cases e
      exact cspecBody_memoryOk
    case vregs =>
      cases e
      exact vregsBody_memoryOk
    case mstop =>
      cases e
      exact mstopBody_memoryOk
    case mattach =>
      cases e
      exact mattachBody_memoryOk
    case mdetach =>
      cases e
      exact releaseBody_memoryOk
    case mwldCfg =>
      cases e
      exact cfgBody_memoryOk
    case mwldSp =>
      cases e
      exact spBody_memoryOk
    case mwldQ =>
      cases e
      exact tqBody_memoryOk
    case mwldSc =>
      cases e
      exact scBody_memoryOk
    case mxv =>
      cases e
      exact mxvBody_memoryOk
    case mop =>
      cases e
      exact mopBody_memoryOk
    case maccrd =>
      cases e
      exact maccrdBody_memoryOk
    case maccwr =>
      cases e
      exact maccwrBody_memoryOk
    case maccz =>
      cases e
      exact macczBody_memoryOk
    case msave =>
      cases e
      exact msaveBody_memoryOk
    case mrest =>
      cases e
      exact mrestBody_memoryOk
    case mcensRd =>
      cases e
      exact mcensRdBody_memoryOk
    case mcensRdclr =>
      cases e
      exact mcensRdclrBody_memoryOk
    case mcensClr =>
      cases e
      exact mcensClrBody_memoryOk
    case mcensIdx =>
      cases e
      exact mcensIdxBody_memoryOk
    case qrtld =>
      cases e
      exact qrtldBody_memoryOk
    case qrseed =>
      cases e
      exact qrseedBody_memoryOk
    case qrgen =>
      cases e
      exact qrgenBody_memoryOk
    case qrgens =>
      cases e
      exact qrgensBody_memoryOk
    case pwld =>
      cases e
      exact pwldBody_memoryOk
    case pwcntSt =>
      cases e
      exact pwcntStBody_memoryOk
    case pwcntHist =>
      cases e
      exact pwcntHistBody_memoryOk
    case pwcntCnt =>
      cases e
      exact pwcntCntBody_memoryOk
    case pwcntFree =>
      cases e
      exact pwcntFreeBody_memoryOk
    case pwchk =>
      cases e
      exact pwchkBody_memoryOk
    case pwdrft =>
      cases e
      exact pwdrftBody_memoryOk
    case pwconf =>
      cases e
      exact pwconfBody_memoryOk
    case pwinj =>
      cases e
      exact pwinjBody_memoryOk
    all_goals exact absurd rfl hq

theorem runHead_memoryOk {quota : Nat} {s : State} (h : MemoryOk s) : MemoryOk (runHead quota s) := by
  unfold runHead
  split
  · exact h
  · split
    · exact h
    next e =>
      refine settleEntry_memoryOk ?_
      split
      · exact updCtx_memoryOk h
      · exact queueBody_memoryOk e _ _ _ (updCtx_memoryOk h)

/-! ### Moves of later entries -/

theorem sendWord_memoryOk {e : QEntry} {buf : Nat} {s : State} {xs : List Access} (h : MemoryOk s) :
    MemoryOk (sendWord e buf s xs) := by
  unfold sendWord
  split
  · exact h
  · split
    · exact sendLate_memoryOk h
    · exact pathLateAt_memoryOk (cacheWalk_memoryOk h)
    · exact h

theorem fetchGroup_memoryOk {es : List QEntry} {e : QEntry} {s : State} (h : MemoryOk s) : MemoryOk (fetchGroup es e s) := by
  unfold fetchGroup
  dsimp only
  split
  · exact h
  · exact foldl_memoryOk (fun _ _ => sendWord_memoryOk) _ (updCtx_memoryOk h)

theorem fetchMove_memoryOk {s : State} (h : MemoryOk s) : MemoryOk (fetchMove s) := by
  unfold fetchMove
  split
  · exact h
  · exact fetchGroup_memoryOk h

theorem chainMove_memoryOk {n : Nat} {s : State} (h : MemoryOk s) : MemoryOk (chainMove n s) := by
  unfold chainMove
  dsimp only
  split
  · exact h
  · split
    · split
      · exact h
      next x _ _ _ b e =>
        have hb : (b x 1 s).MemoryOk := queueBody_memoryOk e _ _ _ h
        split
        next e' =>
          split
          · exact updCtx_memoryOk (hb.of_eq e')
          · exact h
        next e' =>
          split
          · exact updCtx_memoryOk (hb.of_eq e')
          · exact h
        · exact h
    · exact h

theorem chainTo_memoryOk {n bound k : Nat} : ∀ {s : State}, MemoryOk s → MemoryOk (chainTo n bound k s) := by
  induction k with
  | zero => exact id
  | succ k ih =>
    intro s h
    unfold chainTo
    split
    · split
      · exact ih (chainMove_memoryOk h)
      · exact h
    · exact h

theorem evenOut_memoryOk {s : State} (h : MemoryOk s) : MemoryOk (evenOut s) := by
  unfold evenOut
  refine foldl_memoryOk (fun t n ht => ?_) _ h
  split
  · split
    · exact ht
    · exact chainTo_memoryOk ht
  · exact ht

end Sys2Proof.Machine
end

section
/-! The memories stay canonical: launches, contexts, system instructions and the moves of the agenda. -/

namespace Sys2Proof.Machine

/-! ### Slots and areas -/

theorem setActive_memoryOk {core slot : Nat} {s : State} (h : MemoryOk s) : MemoryOk (setActive core slot s) := by
  unfold setActive
  dsimp only
  split
  · exact swapBy_memoryOk h
  · exact h

theorem changeSlot_memoryOk {core : Nat} {s : State} (h : MemoryOk s) : MemoryOk (changeSlot core s) := by
  unfold changeSlot
  split
  · exact h
  · exact setActive_memoryOk h

theorem focus_memoryOk {core : Nat} {s : State} (h : MemoryOk s) : MemoryOk (focus core s) := by
  unfold focus
  dsimp only
  split
  · exact swapBy_memoryOk h
  · split
    · exact h
    · exact swapBy_memoryOk h

theorem settleTurn_memoryOk {core : Nat} {s : State} (h : MemoryOk s) : MemoryOk (settleTurn core s) := by
  unfold settleTurn
  split
  · exact h
  · exact changeSlot_memoryOk h

theorem spliceLoc_memoryOk {l : Loc} {n : Nat} {img : Cells 8} {off : Nat} {s : State} (h : MemoryOk s) :
    MemoryOk (spliceLoc l n img off s) := by
  unfold spliceLoc
  split
  · exact ⟨h.1, Memory.wf_csplice _ _ _ _ h.2⟩
  · exact ⟨Memory.wf_csplice _ _ _ _ h.1, h.2⟩

theorem areaWrite_memoryOk {ls : List Loc} {img : Cells 8} {s : State} (h : MemoryOk s) : MemoryOk (areaWrite ls img s) :=
  foldl_memoryOk (fun _ _ => spliceLoc_memoryOk) _ h

theorem dropBytes_memoryOk {l : Loc} {n : Nat} {s : State} (h : MemoryOk s) : MemoryOk (dropBytes l n s) := updMe_memoryOk h

theorem dropArea_memoryOk {ls : List Loc} {s : State} (h : MemoryOk s) : MemoryOk (dropArea ls s) :=
  foldl_memoryOk (fun _ _ => dropBytes_memoryOk) _ h

theorem dropHost_memoryOk {fn va n : Nat} {s : State} (h : MemoryOk s) : MemoryOk (dropHost fn va n s) := dropArea_memoryOk h

theorem hostImage_memoryOk {fn va n : Nat} {img : Cells 8} {s : State} (h : MemoryOk s) : MemoryOk (hostImage fn va n img s) := by
  unfold hostImage
  refine foldl_memoryOk (fun t p ht => ?_) _ h
  split
  · exact ⟨Memory.wf_csplice _ _ _ _ ht.1, ht.2⟩
  · exact ht

/-! ### The end of strands and launches -/

theorem raisePf_memoryOk {v : Nat} {s : State} (h : MemoryOk s) : MemoryOk (raisePf v s) := h

theorem completeLaunch_memoryOk {fn seq status cause : Nat} {s : State} (h : MemoryOk s) :
    MemoryOk (completeLaunch fn seq status cause s) :=
  updLaunch_memoryOk h

theorem abandonCmd_memoryOk {s : State} {c : Cmd} (h : MemoryOk s) : MemoryOk (abandonCmd s c) :=
  foldl_memoryOk (fun _ _ => scramble_memoryOk) _ h

theorem endSession_memoryOk {reason : Nat} {s : State} (h : MemoryOk s) : MemoryOk (endSession reason s) := by
  unfold endSession
  split
  · dsimp only
    split
    · exact traceEnd_memoryOk (traceClock_memoryOk h)
    · exact traceClock_memoryOk h
  · exact h

theorem bankWork_memoryOk {s : State} (h : MemoryOk s) : MemoryOk (bankWork s) :=
  updMe_memoryOk (addActivity_memoryOk (addActivity_memoryOk h))

theorem flushNormal_memoryOk {s : State} (h : MemoryOk s) : MemoryOk (flushNormal s) := by
  unfold flushNormal
  split
  · exact h
  · exact flushAll_memoryOk h

theorem quiesceMe_memoryOk {s : State} (h : MemoryOk s) : MemoryOk (quiesceMe s) :=
  foldl_memoryOk (fun _ _ => abandonCmd_memoryOk) _ (bankWork_memoryOk (endSession_memoryOk (flushAll_memoryOk
    (completeAll_memoryOk h))))

theorem settleHalted_memoryOk {fn : Nat} {s : State} (h : MemoryOk s) : MemoryOk (settleHalted fn s) := updDebug_memoryOk h

theorem quiesceGang_memoryOk {x : Gang} {s : State} (h : MemoryOk s) : MemoryOk (quiesceGang x s) :=
  settleHalted_memoryOk (forGang_memoryOk (fun _ => quiesceMe_memoryOk) h)

theorem quiesceLaunch_memoryOk {fn seq : Nat} {s : State} (h : MemoryOk s) : MemoryOk (quiesceLaunch fn seq s) :=
  foldl_memoryOk (fun _ _ => quiesceGang_memoryOk) _ h

theorem failLaunch_memoryOk {fn seq status cause : Nat} {s : State} (h : MemoryOk s) :
    MemoryOk (failLaunch fn seq status cause s) :=
  completeLaunch_memoryOk (quiesceLaunch_memoryOk h)

theorem drainReads_memoryOk {q : Nat} {s : State} (h : MemoryOk s) : MemoryOk (drainReads q s) := by
  unfold drainReads
  split
  · exact h
  · dsimp only
    split
    · exact complete_memoryOk (updFifo_memoryOk h)
    · exact updFifo_memoryOk h

theorem dropResults_memoryOk {s : State} (h : MemoryOk s) : MemoryOk (dropResults s) := updMe_memoryOk h

theorem driveAll_memoryOk {s : State} (h : MemoryOk s) : MemoryOk (driveAll s) := by
  unfold driveAll
  refine foldl_memoryOk (fun t q ht => ?_) _ h
  split
  · exact dropResults_memoryOk (kneadTill_memoryOk (drainReads_memoryOk ht))
  · exact ht

theorem leaveGang_memoryOk {s : State} (h : MemoryOk s) : MemoryOk (leaveGang s) := by
  unfold leaveGang
  dsimp only
  split
  · exact tryPhase_memoryOk (applyRing_memoryOk h)
  · split
    · split
      · exact updLaunch_memoryOk (tryPhase_memoryOk (applyRing_memoryOk h))
      · split
        · exact completeLaunch_memoryOk (updLaunch_memoryOk (tryPhase_memoryOk (applyRing_memoryOk h)))
        · exact updLaunch_memoryOk (tryPhase_memoryOk (applyRing_memoryOk h))
    · exact tryPhase_memoryOk (applyRing_memoryOk h)

theorem finishEnd_memoryOk {s : State} (h : MemoryOk s) : MemoryOk (finishEnd s) := by
  unfold finishEnd
  dsimp only
  split
  · exact failLaunch_memoryOk (updLaunch_memoryOk (bankWork_memoryOk (endSession_memoryOk h)))
  · exact leaveGang_memoryOk (updLaunch_memoryOk (bankWork_memoryOk (endSession_memoryOk h)))

theorem endMove_memoryOk {s : State} (h : MemoryOk s) : MemoryOk (endMove s) := by
  unfold endMove
  extract_lets u t
  have hu : MemoryOk u := by
    unfold u
    split
    · exact completeAll_memoryOk h
    · exact completeOut_memoryOk h
  clear_value u
  have ht : MemoryOk t := by
    refine driveAll_memoryOk ?_
    split
    · exact drainStreams_memoryOk hu
    · exact hu
  clear_value t
  split
  · exact trapFront_memoryOk ht
  · split
    · exact runHead_memoryOk ht
    · split
      · exact ht
      · split
        · exact ht
        · exact finishEnd_memoryOk (flushAll_memoryOk ht)

theorem endLoop_memoryOk {n : Nat} : ∀ {s : State}, MemoryOk s → MemoryOk (endLoop n s) := by
  induction n with
  | zero => exact id
  | succ n ih =>
    intro s h
    unfold endLoop
    split
    · exact ih (endMove_memoryOk h)
    · exact h

theorem beginEnd_memoryOk {s : State} (h : MemoryOk s) : MemoryOk (beginEnd s) := endLoop_memoryOk (updMe_memoryOk h)

theorem stopQueue_memoryOk {s : State} (h : MemoryOk s) : MemoryOk (stopQueue s) :=
  updMe_memoryOk (evenOut_memoryOk (servePort_memoryOk (completeAll_memoryOk h)))

theorem preemptMe_memoryOk {s : State} (h : MemoryOk s) : MemoryOk (preemptMe s) := by
  unfold preemptMe
  split
  · exact h
  · split
    · exact stopQueue_memoryOk h
    · exact takeTrap_memoryOk (stopQueue_memoryOk h)

theorem preemptGang_memoryOk {x : Gang} {s : State} (h : MemoryOk s) : MemoryOk (preemptGang x s) := by
  unfold preemptGang
  split
  · exact h
  · split
    · exact updGang_memoryOk h
    · exact updGang_memoryOk (forGang_memoryOk (fun _ => preemptMe_memoryOk) h)

theorem haltMe_memoryOk {s : State} (h : MemoryOk s) : MemoryOk (haltMe s) := by
  unfold haltMe
  split
  · exact updMe_memoryOk (evenOut_memoryOk (servePort_memoryOk (completeAll_memoryOk h)))
  · exact h

theorem lateStops_memoryOk {s : State} (h : MemoryOk s) : MemoryOk (lateStops s) :=
  foldl_memoryOk (fun _ _ => preemptGang_memoryOk) _ (foldl_memoryOk (fun _ _ => forGang_memoryOk (fun _ => haltMe_memoryOk)) _ h)

theorem takeOff_memoryOk {s : State} (h : MemoryOk s) : MemoryOk (takeOff s) := by
  unfold takeOff
  dsimp only
  split
  · exact hostImage_memoryOk (dropHost_memoryOk (updMe_memoryOk (flushNormal_memoryOk (completeAll_memoryOk h))))
  · exact updGang_memoryOk (hostImage_memoryOk (dropHost_memoryOk (updMe_memoryOk (flushNormal_memoryOk (completeAll_memoryOk
      h)))))

theorem eraseVaults_memoryOk {vs : List Nat} {s : State} (h : MemoryOk s) : MemoryOk (eraseVaults vs s) := bump_memoryOk h

theorem secureFn_memoryOk {fn : Nat} {s : State} (h : MemoryOk s) : MemoryOk (secureFn fn s) :=
  foldl_memoryOk (fun _ _ => failLaunch_memoryOk) _ h

theorem dropKeys_memoryOk {ts : List Nat} {s : State} (h : MemoryOk s) : MemoryOk (dropKeys ts s) := h

theorem eraseTenants_memoryOk {ts : List Nat} {s : State} (h : MemoryOk s) : MemoryOk (eraseTenants ts s) :=
  eraseVaults_memoryOk (foldl_memoryOk (fun _ _ => secureFn_memoryOk) _ (dropKeys_memoryOk h))

theorem alarmAt_memoryOk {level : Nat} {tenants : List Nat} {s : State} (h : MemoryOk s) :
    MemoryOk (alarmAt level tenants s) := by
  unfold alarmAt
  extract_lets d u v w x d'
  have hu : MemoryOk u := raisePf_memoryOk h
  have hv : MemoryOk v := eraseTenants_memoryOk hu
  have hx : MemoryOk x :=
    eraseVaults_memoryOk (dropKeys_memoryOk (foldl_memoryOk (fun _ _ => secureFn_memoryOk) _ hv))
  clear_value u v x
  split
  · exact hu
  · split
    · exact hv
    · exact hx

theorem strike_memoryOk {sensors tenants : List Nat} {s : State} (h : MemoryOk s) : MemoryOk (strike sensors tenants s) :=
  alarmAt_memoryOk h

theorem sensorAlarm_memoryOk {sensor : Nat} {tenants : List Nat} {s : State} (h : MemoryOk s) :
    MemoryOk (sensorAlarm sensor tenants s) :=
  strike_memoryOk h

theorem myAlarm_memoryOk {sensor : Nat} {s : State} (h : MemoryOk s) : MemoryOk (myAlarm sensor s) := sensorAlarm_memoryOk h

/-! ### Context save and restore -/

theorem saveOut_memoryOk {s : State} (h : MemoryOk s) : MemoryOk (saveOut s) := by
  unfold saveOut
  split
  · exact completeAll_memoryOk h
  · exact completeOut_memoryOk h

theorem vsaveAt_memoryOk {v : Word} {k : State → State} {s : State} (hk : ∀ t, MemoryOk t → MemoryOk (k t)) (h : MemoryOk s) :
    MemoryOk (vsaveAt v k s) := by
  unfold vsaveAt
  split
  · exact hk _ h
  · split
    · exact memFault_memoryOk h
    · dsimp only
      split
      · exact hk _ (settle_memoryOk (onBy_memoryOk (fun _ ht => evenOut_memoryOk (servePort_memoryOk (saveOut_memoryOk ht))) h))
      · exact hk _ (onBy_memoryOk (fun _ => updMe_memoryOk) (areaWrite_memoryOk (dropArea_memoryOk (settle_memoryOk (onBy_memoryOk
          (fun _ ht => evenOut_memoryOk (servePort_memoryOk (saveOut_memoryOk ht))) h)))))

theorem takeCtx_memoryOk {ls : List Loc} {c : VCtx} {stopped : Bool} {s : State} (h : MemoryOk s) :
    MemoryOk (takeCtx ls c stopped s) := by
  unfold takeCtx
  dsimp only
  split
  · exact dropBytes_memoryOk (spliceLoc_memoryOk (updMe_memoryOk h))
  · exact updMe_memoryOk h

theorem vrestAt_memoryOk {v : Word} {k : State → State} {s : State} (hk : ∀ t, MemoryOk t → MemoryOk (k t)) (h : MemoryOk s) :
    MemoryOk (vrestAt v k s) := by
  unfold vrestAt
  split
  · exact trapFront_memoryOk h
  · split
    · exact memFault_memoryOk h
    · dsimp only
      split
      · split
        · exact trapFront_memoryOk (settle_memoryOk h)
        · exact hk _ (takeCtx_memoryOk (settle_memoryOk h))
      · split
        · exact hk _ (takeCtx_memoryOk (settle_memoryOk h))
        · exact trapFront_memoryOk (settle_memoryOk h)

/-! ### System registers and system instructions -/

theorem sysStop_memoryOk {i : Instr} {n : BitVec 12} {s : State} (h : MemoryOk s) : OptMemoryOk (sysStop i n s) := by
  unfold sysStop
  split
  · exact trapFront_memoryOk h
  · split
    · exact trapFront_memoryOk h
    · split
      · dsimp only
        show MemoryOk _
        split
        · exact myAlarm_memoryOk (trapFront_memoryOk h)
        · exact trapFront_memoryOk h
      · exact trivial

theorem signal_memoryOk {v : Word} {s : State} (h : MemoryOk s) : MemoryOk (signal v s) := by
  unfold signal
  split
  · dsimp only
    split
    · refine traceEvent_memoryOk ?_
      split
      · exact traceEvent_memoryOk h
      · exact h
    · split
      · exact traceEvent_memoryOk h
      · exact h
  · exact h

theorem setCspec_memoryOk {k : Fin 4} {v : Word} {s : State} (h : MemoryOk s) : MemoryOk (setCspec k v s) := updMe_memoryOk h

theorem sysWrite_memoryOk {o : SysOp} {n : Nat} {v : Word} {s : State} (h : MemoryOk s) : OptMemoryOk (sysWrite o n v s) := by
  unfold sysWrite
  dsimp only
  split
  · split
    · exact updCtx_memoryOk h
    · exact trivial
  · split
    · exact updCtx_memoryOk h
    · exact trivial
  · exact updMe_memoryOk h
  · exact updMe_memoryOk h
  · split
    · exact setCspec_memoryOk h
    · exact trivial
  · exact setCspec_memoryOk h
  · exact setCspec_memoryOk h
  · exact setCspec_memoryOk h
  · exact updMe_memoryOk h
  · exact updMe_memoryOk h
  · exact updCtx_memoryOk h
  · exact updMe_memoryOk h
  · exact updMe_memoryOk h
  · exact updMe_memoryOk h
  · exact updMe_memoryOk h
  · exact updMe_memoryOk h
  · exact updMe_memoryOk h
  · exact signal_memoryOk h
  · exact h

theorem sysStore_memoryOk {o : SysOp} {i : Instr} {a : BitVec 5} {n : BitVec 12} {s : State} (h : MemoryOk s) :
    MemoryOk (sysStore o i a n s) := by
  unfold sysStore
  split
  next e =>
    exact (sysStop_memoryOk h).some e
  · split
    · exact trapFront_memoryOk h
    next e1 =>
      exact advance_memoryOk ((sysWrite_memoryOk h).some e1)

theorem sysLook_memoryOk {n : Nat} {s : State} (h : MemoryOk s) : MemoryOk (sysLook n s) := by
  unfold sysLook
  split
  · exact lookAt_memoryOk h
  · exact h

theorem execSysrd_memoryOk {d : BitVec 5} {n : BitVec 12} {s : State} (h : MemoryOk s) : OutMemoryOk (execSysrd d n s) := by
  unfold execSysrd
  refine onStrand_memoryOk ?_
  split
  next e =>
    exact (sysStop_memoryOk h).some e
  · exact advance_memoryOk (setReg_memoryOk (sysLook_memoryOk h))

theorem eretEffect_memoryOk {s : State} (h : MemoryOk s) : MemoryOk (eretEffect s) := by
  unfold eretEffect
  split
  · exact trapFront_memoryOk h
  · split
    · exact takeOff_memoryOk h
    · dsimp only
      split
      · split
        · exact terminate_memoryOk (returnTrap_memoryOk h)
        · exact updMe_memoryOk (returnTrap_memoryOk h)
      · exact returnTrap_memoryOk h

theorem execEndStrand_memoryOk {s : State} (h : MemoryOk s) : OutMemoryOk (execEndStrand s) := by
  unfold execEndStrand
  refine onStrand_memoryOk ?_
  split
  · exact trapFront_memoryOk h
  · exact beginEnd_memoryOk h

theorem execVsave_memoryOk {a : BitVec 5} {s : State} (h : MemoryOk s) : OutMemoryOk (execVsave a s) := by
  unfold execVsave
  refine onStrand_memoryOk ?_
  split
  · exact vsaveAt_memoryOk (fun _ => advance_memoryOk) h
  · exact trapFront_memoryOk h

theorem execVrest_memoryOk {a : BitVec 5} {s : State} (h : MemoryOk s) : OutMemoryOk (execVrest a s) := by
  unfold execVrest
  refine onStrand_memoryOk ?_
  split
  · exact vrestAt_memoryOk (fun _ => advance_memoryOk) h
  · exact trapFront_memoryOk h

/-! ### The built-in handler -/

theorem saveScratch_memoryOk {s : State} (h : MemoryOk s) : MemoryOk (saveScratch s) := updMe_memoryOk h

/-- The built-in handler's MSAVE as a function. Unfolded under its argument, the kernel would evaluate the save at the handler's own
register before it compares the two sides. -/
theorem handlerMsave_def : handlerMsave = fun s =>
    match handlerMsaveAt (.msave 4) (matrixArea s.me) s with
    | .ok (s, _) => eretEffect (countIssued (.msave 4) s)
    | .error (ad, r) => memFault r ad true false s := rfl

theorem handlerMsave_memoryOk {s : State} (h : MemoryOk s) : MemoryOk (handlerMsave s) := by
  rw [handlerMsave_def]
  cases e : handlerMsaveAt (.msave 4) (matrixArea s.me) s with
  | ok r =>
    simp only [e]
    exact eretEffect_memoryOk (countIssued_memoryOk (handlerMsaveAt_memoryOk h e))
  | error x =>
    simp only [e]
    exact memFault_memoryOk h

theorem handlerMrest_memoryOk {s : State} (h : MemoryOk s) : MemoryOk (handlerMrest s) := by
  unfold handlerMrest
  split
  next e => exact eretEffect_memoryOk (countIssued_memoryOk (mrestAt_memoryOk h e))
  · exact memFault_memoryOk h
  · exact trapFront_memoryOk h

theorem handlerSwitch_memoryOk {rows : Bool} {s : State} (h : MemoryOk s) : MemoryOk (handlerSwitch rows s) := by
  unfold handlerSwitch
  refine vsaveAt_memoryOk (fun t ht => vrestAt_memoryOk (fun t1 ht1 => ?_) ht) h
  split
  · exact handlerMrest_memoryOk ht1
  · exact eretEffect_memoryOk ht1

theorem endScratch_memoryOk {s : State} (h : MemoryOk s) : MemoryOk (endScratch s) := updMe_memoryOk h

theorem ownerMove_memoryOk {s : State} (h : MemoryOk s) : MemoryOk (ownerMove s) := onBy_memoryOk (fun _ => runHead_memoryOk) h

theorem builtinRun_memoryOk {s : State} (h : MemoryOk s) : MemoryOk (builtinRun s) := by
  unfold builtinRun
  dsimp only
  split
  · exact handlerSwitch_memoryOk (saveScratch_memoryOk h)
  · split
    · split
      · exact handlerSwitch_memoryOk (saveScratch_memoryOk h)
      · split
        · exact vsaveAt_memoryOk (fun _ => handlerMsave_memoryOk) (saveScratch_memoryOk h)
        · exact handlerMsave_memoryOk (saveScratch_memoryOk h)
    · exact beginEnd_memoryOk (endScratch_memoryOk (saveScratch_memoryOk h))

theorem builtin_memoryOk {s : State} (h : MemoryOk s) : MemoryOk (builtin s) := by
  unfold builtin
  dsimp only
  split
  · exact ownerMove_memoryOk h
  · exact builtinRun_memoryOk h

/-! ### The front end -/

theorem noteFetch_memoryOk {pa : Nat} {s : State} (h : MemoryOk s) : MemoryOk (noteFetch pa s) := noteManifest_memoryOk h

theorem execIllegalInstruction_memoryOk {w : BitVec 32} {s : State} (h : MemoryOk s) : OutMemoryOk (execIllegalInstruction w s) :=
  onStrand_memoryOk (trapFront_memoryOk h)

theorem execInstructionFetchFault_memoryOk {s : State} (h : MemoryOk s) : OutMemoryOk (execInstructionFetchFault s) := by
  unfold execInstructionFetchFault
  refine onStrand_memoryOk ?_
  split
  · exact h
  · exact memFault_memoryOk h
  · exact memFault_memoryOk h
  · exact memFault_memoryOk h
  · exact memFault_memoryOk h

theorem waitMove_memoryOk {i : Instr} {s : State} (h : MemoryOk s) : MemoryOk (waitMove i s) := by
  unfold waitMove
  split
  · exact ownerMove_memoryOk h
  · split
    · exact completeOut_memoryOk h
    · split
      · exact drainOldest_memoryOk h
      · split
        · exact runHead_memoryOk h
        · exact h

/-! ### Moves of the agenda -/

theorem execFetch_memoryOk {core slot : Nat} {s : State} (h : MemoryOk s) : OutMemoryOk (execFetch core slot s) := by
  unfold execFetch
  refine onSlot_memoryOk (fun t ht => ?_) h
  split
  · exact fetchMove_memoryOk ht
  · exact ht

theorem headMove_memoryOk {kind : Nat} {s : State} (h : MemoryOk s) : MemoryOk (headMove kind s) := by
  unfold headMove
  split
  · exact h
  · split
    · exact runHead_memoryOk h
    · exact h

theorem entryMove_memoryOk {kind core slot : Nat} {s : State} (h : MemoryOk s) : MemoryOk (entryMove kind core slot s) :=
  onSlot_memoryOk (fun _ => headMove_memoryOk) h

theorem laterMove_memoryOk {kind n : Nat} {s : State} (h : MemoryOk s) : MemoryOk (laterMove kind n s) := by
  unfold laterMove
  split
  · split
    · exact chainMove_memoryOk h
    · exact h
  · exact h

theorem queueMove_memoryOk {kind : Nat} {s : State} (h : MemoryOk s) : MemoryOk (queueMove kind s) := by
  unfold queueMove
  split
  · refine bump_memoryOk ?_
    split
    · exact headMove_memoryOk h
    · exact laterMove_memoryOk h
  · exact h

theorem serveHead_memoryOk {core : Nat} {s : State} (h : MemoryOk s) : MemoryOk (serveHead core s) := by
  unfold serveHead
  split
  · exact h
  · exact serveUnit_memoryOk (updHearth_memoryOk h)

theorem execHearthServe_memoryOk {core slot : Nat} {s : State} (h : MemoryOk s) : OutMemoryOk (execHearthServe core slot s) := by
  unfold execHearthServe
  show MemoryOk _
  split
  · exact entryMove_memoryOk h
  · split
    · exact serveHead_memoryOk h
    · exact h

theorem execDrain_memoryOk {core slot line : Nat} {s : State} (h : MemoryOk s) : OutMemoryOk (execDrain core slot line s) := by
  unfold execDrain
  refine onSlot_memoryOk (fun t ht => ?_) h
  split
  · exact ht
  · exact drainLine_memoryOk ht

theorem deliver_memoryOk {src dst : Nat} {s : State} (h : MemoryOk s) : MemoryOk (deliver src dst s) := by
  unfold deliver
  dsimp only
  split
  · exact h
  · split
    · exact serveReq_memoryOk h
    · exact h

theorem serve_memoryOk {r : NetReq} {s : State} (h : MemoryOk s) : MemoryOk (serve r s) := by
  unfold serve
  split
  · exact ⟨h.1, Memory.wf_reqMem _ h.2⟩
  · exact serveReq_memoryOk h

theorem execServe_memoryOk {core bank port : Nat} {s : State} (h : MemoryOk s) : OutMemoryOk (execServe core bank port s) := by
  unfold execServe
  show MemoryOk _
  split
  · split
    · exact serve_memoryOk h
    · exact h
  · exact h

theorem performHead_memoryOk {s : State} (h : MemoryOk s) : MemoryOk (performHead s) := by
  unfold performHead
  split
  · exact h
  · exact performHost_memoryOk h

theorem hostMove_memoryOk {s : State} (h : MemoryOk s) : MemoryOk (hostMove s) := by
  unfold hostMove
  split
  · refine bump_memoryOk ?_
    split
    · exact performHead_memoryOk h
    · exact performLoad_memoryOk h
  · split
    · exact performHead_memoryOk h
    · exact h

theorem tryKnead_memoryOk {q : Nat} {when' : Phase → Bool} {into : KEnd → Bool} {s : State} (h : MemoryOk s) :
    OptMemoryOk (tryKnead q when' into s) := by
  unfold tryKnead
  split
  next e1 =>
    split
    · exact (knead_memoryOk h).some e1
    · exact trivial
  · exact trivial

theorem kneadMove_memoryOk {core slot q : Nat} {when' : Phase → Bool} {into : KEnd → Bool} {s : State} (h : MemoryOk s) :
    MemoryOk (kneadMove core slot q when' into s) := by
  unfold kneadMove
  dsimp only
  split
  · exact h
  · exact onBy_memoryOk (fun _ ht => (tryKnead_memoryOk ht).getD ht) h

theorem commitScalar_memoryOk {s : State} {i : Instr} {t : State} (ht : MemoryOk t) :
    MemoryOk (commitScalar s i t) := by
  unfold commitScalar
  split
  · refine onBy_memoryOk (fun t1 ht1 => ?_) ht
    split
    · exact frontBreak_memoryOk ht1
    · exact ht1
  · exact ht

theorem performStanding_memoryOk {s : State} (h : MemoryOk s) : MemoryOk (performStanding s) := by
  unfold performStanding
  extract_lets u run scalar t
  have hu : MemoryOk u := updMe_memoryOk h
  have hrun {o : Out} (ho : OutMemoryOk o) : MemoryOk (run o) := by
    cases o
    · exact ho
    · exact hu
    · exact hu
  have hscalar {i : Instr} {o : Out} (ho : OutMemoryOk o) : MemoryOk (scalar i o) := commitScalar_memoryOk (hrun ho)
  clear_value scalar run u
  refine updMe_memoryOk ?_
  unfold t
  cases s.me.stand with
  | none => exact hu
  | some i =>
    cases i
    case st => exact hscalar (execSt_memoryOk hu)
    case amo => exact hscalar (execAmo_memoryOk hu)
    case cas => exact hscalar (execCas_memoryOk hu)
    case endStrand => exact endLoop_memoryOk hu
    case msave =>
      dsimp only
      split
      · exact hrun (execMsave_memoryOk hu)
      · exact runHead_memoryOk hu
    all_goals exact runHead_memoryOk hu

theorem drainTurn_memoryOk {s : State} (h : MemoryOk s) : MemoryOk (drainTurn s) := by
  unfold drainTurn
  dsimp only
  split
  · exact flushAll_memoryOk h
  · exact performStanding_memoryOk (flushAll_memoryOk h)

theorem judgeTurn_memoryOk {s : State} (h : MemoryOk s) : MemoryOk (judgeTurn s) := by
  unfold judgeTurn
  split
  · exact performStanding_memoryOk h
  · exact h

theorem gangDrain_memoryOk {fn seq g : Nat} {s : State} (h : MemoryOk s) : MemoryOk (gangDrain fn seq g s) := by
  unfold gangDrain
  split
  · exact h
  · split
    · exact forGang_memoryOk (fun _ => judgeTurn_memoryOk) (forGang_memoryOk (fun _ => drainTurn_memoryOk) (forGang_memoryOk (fun
        _ => completeOut_memoryOk) h))
    · exact h

theorem execWaitQuantumExpiry_memoryOk {core : Nat} {s : State} (h : MemoryOk s) :
    OutMemoryOk (execWaitQuantumExpiry core s) := by
  unfold execWaitQuantumExpiry
  dsimp only
  show MemoryOk _
  split
  · exact changeSlot_memoryOk h
  · exact h

end Sys2Proof.Machine
end

section
/-! The memories stay canonical: the dispatcher, the hub, the links and the platform. -/

namespace Sys2Proof.Machine

/-! ### Launches, placement and budgets -/

theorem updQueue_memoryOk {fn q : Nat} {f : LQueue → LQueue} {s : State} (h : MemoryOk s) : MemoryOk (updQueue fn q f s) :=
  updFn_memoryOk h

theorem execDoorbell_memoryOk {fn q : Nat} {tail : BitVec 32} {s : State} (h : MemoryOk s) :
    OutMemoryOk (execDoorbell fn q tail s) := by
  unfold execDoorbell
  refine onBar_memoryOk h ?_
  split
  · exact updQueue_memoryOk h
  · exact h

theorem launchFetch_memoryOk {fn q : Nat} {s : State} (h : MemoryOk s) : MemoryOk (launchFetch fn q s) := by
  unfold launchFetch
  split
  · split
    · exact h
    · exact h
  · exact h

theorem passOver_memoryOk {l : Launch} {s : State} (h : MemoryOk s) : MemoryOk (passOver l s) := h

theorem addStrand_memoryOk {st : Strand} {s : State} (h : MemoryOk s) : MemoryOk (addStrand st s) := h

theorem placeGang_memoryOk {l : Launch} {stack : Nat} {places : List (Nat × Nat × Nat)} {lc : Nat} {s : State} (h : MemoryOk s) :
    MemoryOk (placeGang l stack places lc s) :=
  foldl_memoryOk (fun _ _ => addStrand_memoryOk) _ (updLaunch_memoryOk (passOver_memoryOk (foldl_memoryOk (fun _ _ =>
    hostWriteFn_memoryOk) _ h)))

theorem execGangPlacement_memoryOk {fn seq gang stack : Nat} {places : List (Nat × Nat × Nat)} {lc : Nat} {s : State}
    (h : MemoryOk s) :
    OutMemoryOk (execGangPlacement fn seq gang stack places lc s) := by
  unfold execGangPlacement
  show MemoryOk _
  split
  · exact h
  · split
    · exact placeGang_memoryOk h
    · exact h

theorem execWarmSlot_memoryOk {fn seq gang stack : Nat} {places : List (Nat × Nat × Nat)} {s : State} (h : MemoryOk s) :
    OutMemoryOk (execWarmSlot fn seq gang stack places s) := by
  unfold execWarmSlot
  show MemoryOk _
  split
  · exact h
  · dsimp only
    split <;> exact h

theorem waitedSlice_memoryOk {l : Launch} {s : State} (h : MemoryOk s) : MemoryOk (waitedSlice l s) := updLaunch_memoryOk h

theorem execPriorityPreemption_memoryOk {fn seq gang vfn vseq vgang : Nat} {s : State} (h : MemoryOk s) :
    OutMemoryOk (execPriorityPreemption fn seq gang vfn vseq vgang s) := by
  unfold execPriorityPreemption
  show MemoryOk _
  split
  · split
    · exact preemptGang_memoryOk (waitedSlice_memoryOk h)
    · exact h
  · exact h

theorem resumeMe_memoryOk {lc epoch slot : Nat} {s : State} (h : MemoryOk s) : MemoryOk (resumeMe lc epoch slot s) :=
  traceEvent_memoryOk (updMe_memoryOk h)

theorem resumeGang_memoryOk {x : Gang} {lc : Nat} {s : State} (h : MemoryOk s) : MemoryOk (resumeGang x lc s) := by
  unfold resumeGang
  dsimp only
  refine foldl_memoryOk (fun t st ht => ?_) _ (updGang_memoryOk h)
  split
  · exact ht
  · exact updGang_memoryOk (onBy_memoryOk (fun _ => resumeMe_memoryOk) ht)

theorem execResumption_memoryOk {fn seq gang lc : Nat} {s : State} (h : MemoryOk s) :
    OutMemoryOk (execResumption fn seq gang lc s) := by
  unfold execResumption
  show MemoryOk _
  split
  · exact h
  · dsimp only
    split
    · split
      · exact resumeGang_memoryOk h
      · exact sensorAlarm_memoryOk (failLaunch_memoryOk h)
    · exact h

theorem execGraceExpiry_memoryOk {fn seq gang : Nat} {s : State} (h : MemoryOk s) :
    OutMemoryOk (execGraceExpiry fn seq gang s) := by
  unfold execGraceExpiry
  show MemoryOk _
  split
  · exact h
  · split
    · split
      · exact failLaunch_memoryOk h
      · exact h
    · exact h

theorem openWindow_memoryOk {s : State} (h : MemoryOk s) : MemoryOk (openWindow s) := h

theorem preemptAll_memoryOk {p : Gang → Bool} {s : State} (h : MemoryOk s) : MemoryOk (preemptAll p s) :=
  foldl_memoryOk (fun _ _ => preemptGang_memoryOk) _ h

theorem enforceBudget_memoryOk {fn : Nat} {s : State} (h : MemoryOk s) : MemoryOk (enforceBudget fn s) := by
  unfold enforceBudget
  split
  · exact h
  · exact preemptAll_memoryOk h

theorem execBudgetExhausted_memoryOk {fn tbu ebu : Nat} {s : State} (h : MemoryOk s) :
    OutMemoryOk (execBudgetExhausted fn tbu ebu s) := by
  unfold execBudgetExhausted
  show MemoryOk _
  split
  · exact enforceBudget_memoryOk (updFn_memoryOk h)
  · exact h

theorem capGangs_memoryOk {n : Nat} {s : State} (h : MemoryOk s) : MemoryOk (capGangs n s) :=
  foldl_memoryOk (fun _ _ ht => updGang_memoryOk (preemptGang_memoryOk ht)) _ h

theorem execPowerInterval_memoryOk {avg temp lc issue duty : Nat} {s : State} (h : MemoryOk s) :
    OutMemoryOk (execPowerInterval avg temp lc issue duty s) := by
  unfold execPowerInterval
  show MemoryOk _
  dsimp only
  split
  · exact capGangs_memoryOk h
  · exact h

/-! ### Completion, resets and tenants -/

theorem finishLaunch_memoryOk {l : Launch} {s : State} (h : MemoryOk s) : MemoryOk (finishLaunch l s) := h

theorem announce_memoryOk {l : Launch} {s : State} (h : MemoryOk s) : MemoryOk (announce l s) := by
  unfold announce
  split
  · exact raiseVector_memoryOk h
  · exact h

theorem unwritten_memoryOk {l : Launch} {s : State} (h : MemoryOk s) : MemoryOk (unwritten l s) :=
  updLaunch_memoryOk (holdRec_memoryOk h)

theorem recordWritten_memoryOk {r : FRec} {s : State} (h : MemoryOk s) : MemoryOk (recordWritten r s) := by
  unfold recordWritten
  split
  · split
    · exact announce_memoryOk (finishLaunch_memoryOk h)
    · exact h
  · exact h

theorem writeCompletion_memoryOk {l : Launch} {status : Nat} {s : State} (h : MemoryOk s) :
    MemoryOk (writeCompletion l status s) := by
  unfold writeCompletion
  split
  · exact announce_memoryOk (finishLaunch_memoryOk ⟨Memory.wf_csets _ _ h.1, h.2⟩)
  · exact updLaunch_memoryOk (reportBatch_memoryOk h)
  · exact unwritten_memoryOk h

theorem execCompletionWordWrite_memoryOk {fn seq : Nat} {s : State} (h : MemoryOk s) :
    OutMemoryOk (execCompletionWordWrite fn seq s) := by
  unfold execCompletionWordWrite
  show MemoryOk _
  split
  · exact h
  · split
    · exact h
    · split
      · exact h
      · exact writeCompletion_memoryOk h

theorem dropWaiting_memoryOk {l : Launch} {s : State} (h : MemoryOk s) : MemoryOk (dropWaiting l s) := finishLaunch_memoryOk h

theorem resetLaunches_memoryOk {fn q : Nat} {s : State} (h : MemoryOk s) : MemoryOk (resetLaunches fn q s) := by
  unfold resetLaunches
  refine foldl_memoryOk (fun t l ht => ?_) _ h
  dsimp only
  split
  · split
    · exact failLaunch_memoryOk ht
    · exact dropWaiting_memoryOk (failLaunch_memoryOk ht)
  · exact failLaunch_memoryOk ht

theorem execQueueLevelReset_memoryOk {fn q : Nat} {s : State} (h : MemoryOk s) : OutMemoryOk (execQueueLevelReset fn q s) := by
  unfold execQueueLevelReset
  refine onBar_memoryOk h ?_
  split
  · exact resetLaunches_memoryOk (updQueue_memoryOk h)
  · exact h

theorem startScrub_memoryOk {gs ts : List Nat} {s : State} (h : MemoryOk s) : MemoryOk (startScrub gs ts s) := h

theorem resetFunction_memoryOk {fn : Nat} {s : State} (h : MemoryOk s) : MemoryOk (resetFunction fn s) := by
  unfold resetFunction
  exact updFn_memoryOk (foldl_memoryOk (fun _ _ ht => resetLaunches_memoryOk (updQueue_memoryOk ht)) _ h)

theorem execFunctionLevelReset_memoryOk {fn : Nat} {s : State} (h : MemoryOk s) : OutMemoryOk (execFunctionLevelReset fn s) := by
  unfold execFunctionLevelReset
  show MemoryOk _
  split
  · exact resetFunction_memoryOk h
  · exact h

theorem endFunctionReset_memoryOk {fn : Nat} {s : State} (h : MemoryOk s) : MemoryOk (endFunctionReset fn s) :=
  startScrub_memoryOk h

theorem execResetCompletion_memoryOk {fn q : Nat} {s : State} (h : MemoryOk s) : OutMemoryOk (execResetCompletion fn q s) := by
  unfold execResetCompletion
  show MemoryOk _
  split
  · split
    · split
      · exact raiseVector_memoryOk (endFunctionReset_memoryOk h)
      · exact h
    · split
      · exact raiseVector_memoryOk (updQueue_memoryOk h)
      · exact h
  · exact h

theorem tagSeqs_memoryOk {fn : Nat} {s : State} (h : MemoryOk s) : MemoryOk (tagSeqs fn s) := h

theorem passTo_memoryOk {t g : Nat} {s : State} (h : MemoryOk s) : MemoryOk (passTo t g s) := by
  unfold passTo
  dsimp only
  split
  · exact h
  · exact startScrub_memoryOk h

theorem passGroups_memoryOk {fn : Nat} {s : State} (h : MemoryOk s) : MemoryOk (passGroups fn s) :=
  foldl_memoryOk (fun _ _ => passTo_memoryOk) _ h

theorem leaveTenant_memoryOk {fn : Nat} {old s : State} (hs : MemoryOk s) :
    MemoryOk (leaveTenant fn old s) := by
  unfold leaveTenant
  split <;> exact hs

theorem remap_memoryOk {fn : Nat} {f : Func} {s : State} (h : MemoryOk s) : MemoryOk (remap fn f s) := by
  unfold remap
  dsimp only
  split
  · exact h
  · exact passGroups_memoryOk (leaveTenant_memoryOk (tagSeqs_memoryOk (setFn_memoryOk h)))

theorem execPartmapWrite_memoryOk {fn half : Nat} {v : Word} {s : State} (h : MemoryOk s) :
    OutMemoryOk (execPartmapWrite fn half v s) := by
  unfold execPartmapWrite
  refine onBar_memoryOk h ?_
  split
  · exact remap_memoryOk h
  · exact h

theorem execTenantWrite_memoryOk {fn : Nat} {v : Word} {s : State} (h : MemoryOk s) : OutMemoryOk (execTenantWrite fn v s) := by
  unfold execTenantWrite
  refine onBar_memoryOk h ?_
  split
  · exact remap_memoryOk h
  · exact h

theorem scrubGroup_memoryOk {g : Nat} {ts : List Nat} {s : State} (h : MemoryOk s) : MemoryOk (scrubGroup g ts s) :=
  ⟨(settle_memoryOk h).1, Memory.wf_cclear _ _ ((settle_memoryOk h).2)⟩

theorem findAgain_memoryOk {g : Nat} {x : Stash} {s : State} (h : MemoryOk s) : MemoryOk (findAgain g x s) := bump_memoryOk h

theorem spoilStash_memoryOk {g : Nat} {s : State} (h : MemoryOk s) : MemoryOk (spoilStash g s) := h

theorem passGroup_memoryOk {g n : Nat} {s : State} (h : MemoryOk s) : MemoryOk (passGroup g n s) := by
  unfold passGroup
  extract_lets was d u v left d' w
  have hu : MemoryOk u := h
  have hv : MemoryOk v := spoilStash_memoryOk hu
  have hw : MemoryOk w := by
    unfold w
    split
    · exact hv
    · exact hv
  clear_value u v w
  split
  · exact hu
  · split
    · exact findAgain_memoryOk hw
    · exact eraseVaults_memoryOk hw

theorem execScrub_memoryOk {hg : Nat} {s : State} (h : MemoryOk s) : OutMemoryOk (execScrub hg s) := by
  unfold execScrub
  show MemoryOk _
  split
  · dsimp only
    split
    · exact passGroup_memoryOk (scrubGroup_memoryOk h)
    · exact scrubGroup_memoryOk h
  · exact h

/-! ### Fault records, answers and invalidations -/

theorem fnRecord_memoryOk {fn : Nat} {s : State} (h : MemoryOk s) : MemoryOk (fnRecord fn s) := by
  unfold fnRecord
  split
  · exact recordWritten_memoryOk (raiseVector_memoryOk (updFn_memoryOk (hostWriteFn_memoryOk h)))
  · exact h

/-- A ring of the physical function takes a record. -/
theorem pfRecord_memoryOk {p p' : PRing} {s : State} {m : List Host.Cell} (h : MemoryOk s) (e : pfRecord p s = some (m, p')) :
    Memory.wf m = true := by
  unfold pfRecord at e
  split at e
  · cases e
  · split at e
    · cases e
    · obtain ⟨rfl, -⟩ := Prod.mk.inj (Option.some.inj e)
      exact Memory.wf_csets _ _ h.1

theorem writeRecord_memoryOk {ring : Nat} {s : State} (h : MemoryOk s) : MemoryOk (writeRecord ring s) := by
  unfold writeRecord
  split
  · split
    next e => exact raisePf_memoryOk ⟨pfRecord_memoryOk h e, h.2⟩
    · exact h
  · split
    · split
      next e => exact raisePf_memoryOk ⟨pfRecord_memoryOk h e, h.2⟩
      · exact h
    · exact fnRecord_memoryOk h

theorem reportTurn_memoryOk {ring : Nat} {s : State} (h : MemoryOk s) : MemoryOk (reportTurn ring s) := by
  unfold reportTurn
  dsimp only
  split
  · exact writeRecord_memoryOk h
  · exact h

theorem termRecords_memoryOk {fn who : Nat} {ps : List PFault} {write fetch : Bool} {s : State} (h : MemoryOk s) :
    MemoryOk (termRecords fn who ps write fetch s) :=
  foldl_memoryOk (fun _ _ => reportTerm_memoryOk) _ h

theorem answerStrand_memoryOk {n : Nat} {term : Bool} {s : State} (h : MemoryOk s) : MemoryOk (answerStrand n term s) := by
  unfold answerStrand
  split
  · exact h
  · split
    · exact h
    · split
      · dsimp only
        split
        · exact terminate_memoryOk (termRecords_memoryOk h)
        · exact updMe_memoryOk (termRecords_memoryOk h)
      · exact endSuspension_memoryOk h

theorem wakeConsumer_memoryOk {batch : Nat × Nat} {s : State} (h : MemoryOk s) : MemoryOk (wakeConsumer batch s) := by
  unfold wakeConsumer
  split
  · split
    · exact endSuspension_memoryOk h
    · exact h
  · exact h

theorem answerCommand_memoryOk {q n : Nat} {term : Bool} {s : State} (h : MemoryOk s) : MemoryOk (answerCommand q n term s) := by
  unfold answerCommand
  split
  · exact h
  · split
    · exact h
    · split
      · dsimp only
        split
        · exact wakeConsumer_memoryOk (putCmd_memoryOk (termRecords_memoryOk h))
        · exact endUnwritten_memoryOk (termRecords_memoryOk h)
      · exact wakeConsumer_memoryOk (putCmd_memoryOk h)

theorem answerBatch_memoryOk {b : Batch} {n : Nat} {term : Bool} {s : State} (h : MemoryOk s) :
    MemoryOk (answerBatch b n term s) := by
  unfold answerBatch
  split
  · exact onBy_memoryOk (fun _ => answerStrand_memoryOk) h
  · exact onBy_memoryOk (fun _ => answerCommand_memoryOk) h
  · split
    · exact h
    · split
      · exact h
      · split
        · exact unwritten_memoryOk h
        · exact updLaunch_memoryOk h
  · split
    · extract_lets u
      have hu : MemoryOk u := linkFlit_memoryOk (reportTerm_memoryOk h)
      exact hu
    · exact h

theorem answer_memoryOk {ring : Nat} {v : Word} {s : State} (h : MemoryOk s) : MemoryOk (answer ring v s) := by
  unfold answer
  dsimp only
  split
  · exact h
  · exact answerBatch_memoryOk h

theorem execFaultAnswer_memoryOk {fn : Nat} {v : Word} {s : State} (h : MemoryOk s) : OutMemoryOk (execFaultAnswer fn v s) := by
  unfold execFaultAnswer
  refine onBar_memoryOk h ?_
  split
  · exact answer_memoryOk h
  · exact h

theorem execPfFaultAnswer_memoryOk {ring : Nat} {v : Word} {s : State} (h : MemoryOk s) :
    OutMemoryOk (execPfFaultAnswer ring v s) := by
  unfold execPfFaultAnswer
  refine onBar_memoryOk h ?_
  split
  · exact answer_memoryOk h
  · exact h

theorem startInval_memoryOk {x : Inval} {s : State} (h : MemoryOk s) : MemoryOk (startInval x s) := h

theorem execInv1_memoryOk {fn : Nat} {count : Word} {s : State} (h : MemoryOk s) : OutMemoryOk (execInv1 fn count s) := by
  unfold execInv1
  refine onBar_memoryOk h ?_
  split
  · exact startInval_memoryOk h
  · exact h

theorem execInv2_memoryOk {fn : Nat} {count : Word} {s : State} (h : MemoryOk s) : OutMemoryOk (execInv2 fn count s) := by
  unfold execInv2
  refine onBar_memoryOk h ?_
  split
  · exact startInval_memoryOk h
  · exact h

theorem performPaths_memoryOk {fn : Nat} {s : State} (h : MemoryOk s) : MemoryOk (performPaths fn s) := by
  refine foldl_memoryOk (fun t st ht => onBy_memoryOk (fun u hu => ?_) ht) _ h
  have hw : MemoryOk { u with me := { u.me with hpath := [] } } := hu
  exact foldl_memoryOk (fun _ _ => performHost_memoryOk) _ hw

theorem execInvalidationCompletion_memoryOk {s : State} (h : MemoryOk s) : OutMemoryOk (execInvalidationCompletion s) := by
  unfold execInvalidationCompletion
  show MemoryOk _
  split
  · exact h
  · split
    · exact h
    · exact performPaths_memoryOk h

theorem noticeLost_memoryOk {lost : List Nat} {q : Nat} {s : State} (h : MemoryOk s) : MemoryOk (noticeLost lost q s) := by
  unfold noticeLost
  split
  · exact h
  · split
    · exact h
    · split
      · exact h
      · split
        · exact wakeConsumer_memoryOk (putCmd_memoryOk h)
        · exact endUnwritten_memoryOk h

theorem forFifos_memoryOk {p : Strand → Bool} {f : Nat → State → State} {s : State}
    (hf : ∀ a1 t, MemoryOk t → MemoryOk (f a1 t)) (h : MemoryOk s) :
    MemoryOk (forFifos p f s) :=
  foldl_memoryOk (fun _ _ => onBy_memoryOk (fun _ => foldl_memoryOk (fun _ _ => hf _ _) _)) _ h

theorem lossRecord_memoryOk {fn : Nat} {s : State} {a : Nat} (h : MemoryOk s) : MemoryOk (lossRecord fn s a) := holdRec_memoryOk h

theorem execPageRetirement_memoryOk {vault frame spare : Nat} {lost : List Nat} {s : State} (h : MemoryOk s) :
    OutMemoryOk (execPageRetirement vault frame spare lost s) := by
  unfold execPageRetirement
  show MemoryOk _
  extract_lets
  split
  · exact h
  · split
    · exact h
    · extract_lets lines offs u v w
      have hu : MemoryOk u := forFifos_memoryOk (fun _ _ => noticeLost_memoryOk) h
      refine foldl_memoryOk (fun _ _ => lossRecord_memoryOk) _ ?_
      exact hu

/-! ### Peer links -/

theorem taken_memoryOk {f : Flit} {s : State} (h : MemoryOk s) : MemoryOk (taken f s) := h

theorem onFlit_memoryOk {link : Nat} {f : Flit} {kind : Nat} {g : State → State} {s : State}
    (hg : ∀ t, MemoryOk t → MemoryOk (g t)) (h : MemoryOk s) :
    OutMemoryOk (onFlit link f kind g s) := by
  unfold onFlit
  show MemoryOk _
  split
  · exact hg _ h
  · exact h

theorem peerFault_memoryOk {link tag fn cause : Nat} {p : PFault} {write : Bool} {s : State} (h : MemoryOk s) :
    MemoryOk (peerFault link tag fn cause p write s) := by
  unfold peerFault
  split
  · exact h
  · exact reportBatch_memoryOk h

theorem refuseFlit_memoryOk {fn link : Nat} {f : Flit} {s : State} (h : MemoryOk s) : MemoryOk (refuseFlit fn link f s) :=
  linkFlit_memoryOk (taken_memoryOk h)

theorem flitFault_memoryOk {fn link : Nat} {f : Flit} {write : Bool} {e : RFault} {s : State} (h : MemoryOk s) :
    MemoryOk (flitFault fn link f write e s) := by
  unfold flitFault
  split
  · exact peerFault_memoryOk h
  · exact refuseFlit_memoryOk (reportTerm_memoryOk h)
  · exact refuseFlit_memoryOk h

theorem serveRead_memoryOk {link : Nat} {f : Flit} {s : State} (h : MemoryOk s) : MemoryOk (serveRead link f s) := by
  unfold serveRead
  dsimp only
  split
  · exact refuseFlit_memoryOk h
  · split
    · exact flitFault_memoryOk h
    · exact linkFlit_memoryOk (sendRecords_memoryOk (taken_memoryOk h))

theorem updAsked_memoryOk {tag : Nat} {g : Asked → Asked} {s : State} (h : MemoryOk s) : MemoryOk (updAsked tag g s) := h

theorem landRecords_memoryOk {f : Flit} {s : State} (h : MemoryOk s) : MemoryOk (landRecords f s) := by
  unfold landRecords
  split
  · exact h
  · exact updAsked_memoryOk h

theorem writeEach_memoryOk {fn width n : Nat} :
    ∀ {a : Nat} {bs : List Byte} {s : State}, MemoryOk s → ExcMemoryOk (writeEach fn width n a bs s) := by
  induction n with
  | zero => exact id
  | succ n ih =>
    intro a bs s h
    unfold writeEach
    split
    next e => exact ih ((runWrite_memoryOk h).ok e)
    · trivial

theorem serveWrite_memoryOk {link : Nat} {f : Flit} {s : State} (h : MemoryOk s) : MemoryOk (serveWrite link f s) := by
  unfold serveWrite
  extract_lets r landed
  split
  · exact refuseFlit_memoryOk h
  · split
    · exact flitFault_memoryOk h
    next t e =>
      have ht : MemoryOk t := (writeEach_memoryOk h).ok e
      exact linkFlit_memoryOk (taken_memoryOk ht)

theorem execHjelvorCompletionFlit_memoryOk {link : Nat} {flit : Flit} {s : State} (h : MemoryOk s) :
    OutMemoryOk (execHjelvorCompletionFlit link flit s) :=
  onFlit_memoryOk (fun _ ht => taken_memoryOk ht) h

theorem execHjelvorFenceAck_memoryOk {link : Nat} {flit : Flit} {s : State} (h : MemoryOk s) :
    OutMemoryOk (execHjelvorFenceAck link flit s) :=
  onFlit_memoryOk (fun _ ht => ht) h

theorem cutCommand_memoryOk {old : State} {link q : Nat} {s : State} (hs : MemoryOk s) :
    MemoryOk (cutCommand old link q s) := by
  unfold cutCommand
  split
  · exact hs
  · dsimp only
    split
    · exact hs
    · split
      · exact hs
      · split
        · exact wakeConsumer_memoryOk (putCmd_memoryOk (dropAsked_memoryOk (commandTerm_memoryOk hs)))
        · exact endUnwritten_memoryOk (dropAsked_memoryOk (commandTerm_memoryOk hs))

theorem loseLink_memoryOk {old : State} {link : Nat} {s : State} (hs : MemoryOk s) :
    MemoryOk (loseLink old link s) :=
  hs

theorem execLinkDown_memoryOk {link : Nat} {s : State} (h : MemoryOk s) : OutMemoryOk (execLinkDown link s) := by
  unfold execLinkDown
  show MemoryOk _
  split
  · exact forFifos_memoryOk (fun _ _ => cutCommand_memoryOk) (loseLink_memoryOk h)
  · exact h

/-! ### The platform -/

theorem mailed_memoryOk {cmd status : Nat} {s : State} (h : MemoryOk s) : MemoryOk (mailed cmd status s) := h

theorem onMail_memoryOk {cmd : Nat} {f : State → State × Nat} {s : State} (hf : ∀ t, MemoryOk t → MemoryOk (f t).1)
    (h : MemoryOk s) :
    MemoryOk (onMail cmd f s) := by
  unfold onMail
  split
  · exact h
  · exact mailed_memoryOk (hf s h)

theorem runImage_memoryOk {s : State} (h : MemoryOk s) : MemoryOk (runImage s).1 := by
  unfold runImage
  split
  · exact h
  · split <;> exact h

theorem loadImage_memoryOk {s : State} (h : MemoryOk s) : MemoryOk (loadImage s).1 :=
  foldl_memoryOk (fun _ _ => resetFunction_memoryOk) _ h

theorem commitImage_memoryOk {s : State} (h : MemoryOk s) : MemoryOk (commitImage s).1 := by
  unfold commitImage
  split <;> exact h

theorem refuseConfig_memoryOk {s : State} (h : MemoryOk s) : MemoryOk (refuseConfig s) := h

theorem configBlock_memoryOk {s : State} (h : MemoryOk s) : MemoryOk (configBlock s).1 := by
  unfold configBlock
  split
  · exact h
  · split
    · exact refuseConfig_memoryOk h
    · split
      · exact refuseConfig_memoryOk h
      · exact h

theorem quoteLaunch_memoryOk {s : State} (h : MemoryOk s) : MemoryOk (quoteLaunch s).1 := by
  unfold quoteLaunch
  split
  · exact h
  · split
    · exact h
    · split
      · exact h
      · exact ⟨Memory.wf_csets _ _ h.1, h.2⟩

theorem endMail_memoryOk {r : Nat} {s : State} (h : MemoryOk s) : MemoryOk (endMail r s) := raisePf_memoryOk h

theorem execMailboxCompletion_memoryOk {s : State} (h : MemoryOk s) : OutMemoryOk (execMailboxCompletion s) := by
  unfold execMailboxCompletion
  show MemoryOk _
  split
  · exact h
  · split
    · split
      · exact h
      · exact endMail_memoryOk (runImage_memoryOk h)
    · exact endMail_memoryOk h

theorem execSecurityAlarm_memoryOk {sensors : Nat} {tenants : List Nat} {s : State} (h : MemoryOk s) :
    OutMemoryOk (execSecurityAlarm sensors tenants s) := by
  unfold execSecurityAlarm
  show MemoryOk _
  split
  · exact h
  · exact strike_memoryOk h

theorem takeAnswer_memoryOk {s : State} (h : MemoryOk s) : MemoryOk (takeAnswer s) := by
  unfold takeAnswer
  split
  · split
    · exact terminate_memoryOk h
    · exact h
  · exact h

theorem debugResume_memoryOk {fn : Nat} {s : State} (h : MemoryOk s) : MemoryOk (debugResume fn s) :=
  foldl_memoryOk (fun _ _ => onBy_memoryOk fun _ => takeAnswer_memoryOk) _ h

theorem execDebugResume_memoryOk {fn : Nat} {s : State} (h : MemoryOk s) : OutMemoryOk (execDebugResume fn s) := by
  unfold execDebugResume
  refine onBar_memoryOk h ?_
  split
  · exact debugResume_memoryOk h
  · exact h

theorem execSmplostRead_memoryOk {fn : Nat} {s : State} (h : MemoryOk s) : OutMemoryOk (execSmplostRead fn s) := by
  unfold execSmplostRead
  refine onBar_memoryOk h ?_
  split
  · exact updDebug_memoryOk h
  · exact h

theorem execTrsigWrite_memoryOk {v : Word} {s : State} (h : MemoryOk s) : OutMemoryOk (execTrsigWrite v s) := by
  unfold execTrsigWrite
  show MemoryOk _
  split
  · exact signal_memoryOk h
  · exact h

theorem clearTren_memoryOk {fn : Nat} {s : State} (h : MemoryOk s) : MemoryOk (clearTren fn s) := by
  unfold clearTren
  dsimp only
  refine updDebug_memoryOk ?_
  split
  · split
    · exact traceEnd_memoryOk (traceClock_memoryOk h)
    · exact traceClock_memoryOk h
  · split
    · exact traceEnd_memoryOk (traceClock_memoryOk h)
    · exact traceClock_memoryOk h

theorem execTrenClear_memoryOk {fn : Nat} {s : State} (h : MemoryOk s) : OutMemoryOk (execTrenClear fn s) := by
  unfold execTrenClear
  refine onBar_memoryOk h ?_
  split
  · exact clearTren_memoryOk h
  · exact h

/-! ### Register writes -/

theorem orSame_memoryOk {s : State} {x1 : Option State} (h : MemoryOk s) (hx1 : OptMemoryOk x1) : MemoryOk (orSame s x1) := by
  unfold orSame
  split
  · exact hx1
  · exact h

theorem setIf_memoryOk {ok : Bool} {t : State} (h : MemoryOk t) : OptMemoryOk (setIf ok t) := by
  unfold setIf
  split
  · exact h
  · exact trivial

theorem writeLqbase_memoryOk {fn q : Nat} {v : Word} {s : State} (h : MemoryOk s) : OptMemoryOk (writeLqbase fn q v s) := by
  unfold writeLqbase
  dsimp only
  split
  · exact h
  · exact setIf_memoryOk (updQueue_memoryOk h)

theorem writeLqctl_memoryOk {fn q : Nat} {v : Word} {s : State} (h : MemoryOk s) : OptMemoryOk (writeLqctl fn q v s) := by
  unfold writeLqctl
  dsimp only
  split
  · exact h
  · split
    · exact resetLaunches_memoryOk (updQueue_memoryOk h)
    · exact setIf_memoryOk (updQueue_memoryOk h)

theorem writeQueue_memoryOk {fn q r : Nat} {v : Word} {s : State} (h : MemoryOk s) : OptMemoryOk (writeQueue fn q r v s) := by
  unfold writeQueue
  split
  · exact writeLqbase_memoryOk h
  · exact writeLqctl_memoryOk h
  · exact updQueue_memoryOk h
  · exact h

theorem setBrk_memoryOk {fn : Nat} {b : Fin 4} {v : Word} {s : State} (h : MemoryOk s) : OptMemoryOk (setBrk fn b v s) :=
  setIf_memoryOk (updDebug_memoryOk h)

theorem writeDbgctl_memoryOk {fn : Nat} {v : Word} {s : State} (h : MemoryOk s) : MemoryOk (writeDbgctl fn v s) := by
  unfold writeDbgctl
  dsimp only
  split
  · exact debugResume_memoryOk (updDebug_memoryOk h)
  · exact updDebug_memoryOk h

theorem writeSmpctl_memoryOk {fn : Nat} {v : Word} {s : State} (h : MemoryOk s) : OptMemoryOk (writeSmpctl fn v s) :=
  setIf_memoryOk (updDebug_memoryOk h)

theorem writeTrctl_memoryOk {fn : Nat} {v : Word} {s : State} (h : MemoryOk s) : OptMemoryOk (writeTrctl fn v s) := by
  unfold writeTrctl
  dsimp only
  split
  · exact trivial
  · split
    · exact updDebug_memoryOk (clearTren_memoryOk h)
    · exact updDebug_memoryOk h

theorem writeDebug_memoryOk {fn r : Nat} {v : Word} {s : State} (h : MemoryOk s) : OptMemoryOk (writeDebug fn r v s) := by
  unfold writeDebug
  dsimp only
  split
  · exact setBrk_memoryOk h
  · exact setBrk_memoryOk h
  · exact setBrk_memoryOk h
  · exact setBrk_memoryOk h
  · exact writeDbgctl_memoryOk h
  · exact setIf_memoryOk (updDebug_memoryOk h)
  · exact writeSmpctl_memoryOk h
  · exact updDebug_memoryOk h
  · exact setIf_memoryOk (updDebug_memoryOk h)
  · exact writeTrctl_memoryOk h
  · exact updDebug_memoryOk h
  · exact updDebug_memoryOk h
  · exact updDebug_memoryOk h
  · exact updDebug_memoryOk h
  · exact h

theorem writeFrptr_memoryOk {fn : Nat} {v : Word} {s : State} (h : MemoryOk s) : OptMemoryOk (writeFrptr fn v s) :=
  setIf_memoryOk (updFn_memoryOk h)

theorem writeVf_memoryOk {fn off : Nat} {v : Word} {s : State} (h : MemoryOk s) : OptMemoryOk (writeVf fn off v s) := by
  unfold writeVf
  split_ifs
  · exact writeQueue_memoryOk h
  · generalize off - 0x3000 = r
    exact writeDebug_memoryOk h
  · split
    · exact updFn_memoryOk h
    · exact startInval_memoryOk h
    · exact answer_memoryOk h
    · exact writeFrptr_memoryOk h
    · exact h

theorem writePool_memoryOk {fn stack : Nat} {v : Word} {s : State} (h : MemoryOk s) : OptMemoryOk (writePool fn stack v s) := by
  unfold writePool
  dsimp only
  split
  · exact h
  · exact updFn_memoryOk h

theorem writeTimes_memoryOk {fn : Nat} {v : Word} {s : State} (h : MemoryOk s) : OptMemoryOk (writeTimes fn v s) :=
  setIf_memoryOk (updFn_memoryOk h)

theorem writeFrsize_memoryOk {fn : Nat} {v : Word} {s : State} (h : MemoryOk s) : OptMemoryOk (writeFrsize fn v s) :=
  setIf_memoryOk (updFn_memoryOk h)

theorem writeConfig_memoryOk {fn r : Nat} {v : Word} {s : State} (h : MemoryOk s) : OptMemoryOk (writeConfig fn r v s) := by
  unfold writeConfig
  split
  · exact remap_memoryOk h
  · exact remap_memoryOk h
  · exact remap_memoryOk h
  · exact updFn_memoryOk h
  · exact setIf_memoryOk (updFn_memoryOk h)
  · exact writeTimes_memoryOk h
  · exact setIf_memoryOk (updFn_memoryOk h)
  · exact writeFrsize_memoryOk h
  · split
    · exact writePool_memoryOk h
    · exact h

theorem changeContext_memoryOk {fn : Nat} {g : Func → Func} {s : State} (h : MemoryOk s) : MemoryOk (changeContext fn g s) :=
  h

theorem writeContext_memoryOk {fn r : Nat} {v : Word} {s : State} (h : MemoryOk s) : OptMemoryOk (writeContext fn r v s) := by
  unfold writeContext
  split
  · exact changeContext_memoryOk h
  · exact setIf_memoryOk (changeContext_memoryOk h)
  · exact setIf_memoryOk (changeContext_memoryOk h)
  · exact updFn_memoryOk h
  · exact startInval_memoryOk h
  · exact h

theorem writeWindow_memoryOk {n : Nat} {ok : Bool} {w : Window} {s : State} (h : MemoryOk s) :
    MemoryOk (writeWindow n ok w s) := by
  unfold writeWindow
  dsimp only
  split <;> exact h

theorem writeWinReg_memoryOk {n r : Nat} {v : Word} {s : State} (h : MemoryOk s) : MemoryOk (writeWinReg n r v s) := by
  unfold writeWinReg
  dsimp only
  split
  · exact writeWindow_memoryOk h
  · exact writeWindow_memoryOk h
  · exact writeWindow_memoryOk h
  · exact h

theorem writePwrset_memoryOk {v : Word} {s : State} (h : MemoryOk s) : OptMemoryOk (writePwrset v s) := setIf_memoryOk h

theorem writeMbcmd_memoryOk {v : Word} {s : State} (h : MemoryOk s) : OptMemoryOk (writeMbcmd v s) := by
  unfold writeMbcmd
  split
  · exact h
  · split
    · exact onMail_memoryOk (fun _ => loadImage_memoryOk) h
    · exact onMail_memoryOk (fun _ => commitImage_memoryOk) h
    · exact onMail_memoryOk (fun _ => configBlock_memoryOk) h
    · exact onMail_memoryOk (fun _ => quoteLaunch_memoryOk) h
    · exact trivial

theorem writePfReg_memoryOk {off : Nat} {v : Word} {s : State} (h : MemoryOk s) : OptMemoryOk (writePfReg off v s) := by
  unfold writePfReg
  split
  · exact h
  · exact writePwrset_memoryOk h
  · exact answer_memoryOk h
  · exact answer_memoryOk h
  · exact writeMbcmd_memoryOk h
  · exact h
  · exact h
  · exact h

/-- A write of a ring's register changes the device's block alone. -/
theorem writeRing_memoryOk {o : Option PRing} {s : State} {f : PRing → Dev} (h : MemoryOk s) :
    OptMemoryOk (o.map fun p => { s with dev := f p }) := by
  cases o
  · trivial
  · exact h

theorem writePf_memoryOk {off : Nat} {v : Word} {s : State} (h : MemoryOk s) : OptMemoryOk (writePf off v s) := by
  unfold writePf
  split_ifs
  · generalize writeRing (off - 0x400) v s.dev.retry = o
    exact writeRing_memoryOk h
  · generalize writeRing (off - 0x420) v s.dev.term = o
    exact writeRing_memoryOk h
  · exact writeWinReg_memoryOk h
  · generalize (off - 0x80000) / 0x40 = fn
    exact writeContext_memoryOk h
  · generalize (off - 0x100000) / 0x100 = fn
    exact writeConfig_memoryOk h
  · exact writePfReg_memoryOk h

theorem execRegisterWrite_memoryOk {fn off : Nat} {v : Word} {s : State} (h : MemoryOk s) :
    OutMemoryOk (execRegisterWrite fn off v s) := by
  unfold execRegisterWrite
  show MemoryOk _
  split
  · refine orSame_memoryOk h ?_
    split
    · exact writeVf_memoryOk h
    · split
      · exact writePf_memoryOk h
      · exact h
  · exact h

end Sys2Proof.Machine
end

section
/-! The memories stay canonical: any instruction, any move, and so every step. -/

namespace Sys2Proof.Machine

/-! ### Any instruction or move -/

/-- Whatever an instruction or a move answers has its memories in canonical form. -/
theorem exec_memoryOk {i : Instr} {s : State} (h : MemoryOk s) : OutMemoryOk (exec i s) := by
  cases i
  case add | sub | and | or | xor | sll | srl | sra | slt | sltu | min | max | minu | maxu | mul | mulh | mulhu | div | divu
    | rem | remu | clz | ctz | popc | bfx | bfi | fshr | addi | andi | ori | xori | slli | srli | srai | slti | lui | auipc =>
    exact alu_memoryOk h
  case ld => exact execLd_memoryOk h
  case st => exact execSt_memoryOk h
  case beq | bne | blt | bge | bltu | bgeu => exact branch_memoryOk h
  case jal | jalr => exact onStrand_memoryOk (transfer_memoryOk (setReg_memoryOk h))
  case amo => exact execAmo_memoryOk h
  case cas => exact execCas_memoryOk h
  case sysrd => exact execSysrd_memoryOk h
  case syswr | sysset | sysclr => exact onStrand_memoryOk (sysStore_memoryOk h)
  case trap | bkpt => exact onStrand_memoryOk (takeTrap_memoryOk h)
  case eret => exact onStrand_memoryOk (eretEffect_memoryOk h)
  case endStrand => exact execEndStrand_memoryOk h
  case yield => exact onStrand_memoryOk (changeSlot_memoryOk (advance_memoryOk h))
  case wfe => exact onStrand_memoryOk (advance_memoryOk (updMe_memoryOk h))
  case vsave => exact execVsave_memoryOk h
  case vrest => exact execVrest_memoryOk h
  case vsetl =>
    exact onStrand_memoryOk (issueWith_memoryOk (fun _ ht => setReg_memoryOk (setVl_memoryOk ht)) placeBody_memoryOk h)
  case vcfg | mstart =>
    exact onStrand_memoryOk (issueWith_memoryOk (fun _ ht => setReg_memoryOk (updCtx_memoryOk ht)) placeBody_memoryOk h)
  case vregs => exact onStrand_memoryOk (issueWith_memoryOk (fun _ => updCtx_memoryOk) vregsBody_memoryOk h)
  case mstop => exact onStrand_memoryOk (issueWith_memoryOk (fun _ => updCtx_memoryOk) mstopBody_memoryOk h)
  case vadd | vsub | vrsub | vmin | vmax | vand | vor | vxor | vmul | vmulh | vmacc | vnmacc | vdiv | vrem | vsll | vsrl |
    vsra | vbfx | vfshr =>
    exact vvArith_memoryOk h
  case vaddVs | vsubVs | vrsubVs | vminVs | vmaxVs | vandVs | vorVs | vxorVs | vmulVs | vmulhVs | vmaccVs | vnmaccVs |
    vdivVs | vremVs | vsllVs | vsrlVs | vsraVs | vbfxVs | vfshrVs =>
    exact vsArith_memoryOk h
  case vaddVi | vsubVi | vrsubVi | vminVi | vmaxVi | vandVi | vorVi | vxorVi | vsllVi | vsrlVi | vsraVi =>
    exact viArith_memoryOk h
  case vclz | vpopc | vsqrt | vabs | vneg | vmv | vclass | vrecip => exact unArith_memoryOk h
  case vcmp | vcmpVs | vcmpVi => exact onStrand_memoryOk (issueVec_memoryOk cmpBody_memoryOk h)
  case vsel | vselVs => exact onStrand_memoryOk (issueVec_memoryOk selBody_memoryOk h)
  case vidx => exact onStrand_memoryOk (issueVec_memoryOk idxBody_memoryOk h)
  case vmvVs => exact onStrand_memoryOk (issueVec_memoryOk mvsBody_memoryOk h)
  case mand => exact onStrand_memoryOk (issueVec_memoryOk mandBody_memoryOk h)
  case mor => exact onStrand_memoryOk (issueVec_memoryOk morBody_memoryOk h)
  case mxor => exact onStrand_memoryOk (issueVec_memoryOk mxorBody_memoryOk h)
  case mandn => exact onStrand_memoryOk (issueVec_memoryOk mandnBody_memoryOk h)
  case mnot => exact onStrand_memoryOk (issueVec_memoryOk mnotBody_memoryOk h)
  case mffs => exact onStrand_memoryOk (issueVec_memoryOk mffsBody_memoryOk h)
  case mpopc => exact onStrand_memoryOk (issueVec_memoryOk mpopcBody_memoryOk h)
  case vcvtw | vcvtn | vcvti => exact onStrand_memoryOk (issueVec_memoryOk convBody_memoryOk h)
  case vcvtf4 | vcvtdy => exact onStrand_memoryOk (issueVec_memoryOk blockBody_memoryOk h)
  case kset => exact onStrand_memoryOk (issueVec_memoryOk ksetBody_memoryOk h)
  case kmv => exact onStrand_memoryOk (issueVec_memoryOk kmvBody_memoryOk h)
  case kcalc => exact onStrand_memoryOk (issueVec_memoryOk kcalcBody_memoryOk h)
  case vslup | vsldn => exact onStrand_memoryOk (issueVec_memoryOk slideBody_memoryOk h)
  case vperm => exact onStrand_memoryOk (issueVec_memoryOk permBody_memoryOk h)
  case vcmpr => exact onStrand_memoryOk (issueVec_memoryOk cmprBody_memoryOk h)
  case vexpd => exact onStrand_memoryOk (issueVec_memoryOk expdBody_memoryOk h)
  case viota => exact onStrand_memoryOk (issueVec_memoryOk iotaBody_memoryOk h)
  case vred => exact onStrand_memoryOk (issueVec_memoryOk redBody_memoryOk h)
  case vscan => exact onStrand_memoryOk (issueVec_memoryOk scanBody_memoryOk h)
  case vhist => exact onStrand_memoryOk (issueVec_memoryOk histBody_memoryOk h)
  case vtopk => exact onStrand_memoryOk (issueVecIf_memoryOk topkBody_memoryOk h)
  case vtkmrg => exact onStrand_memoryOk (issueVec_memoryOk tkmrgBody_memoryOk h)
  case vld | vlds | vldxo => exact onStrand_memoryOk (issueVec_memoryOk loadBody_memoryOk h)
  case vldx => exact onStrand_memoryOk (issueVec_memoryOk vldxBody_memoryOk h)
  case vldff => exact onStrand_memoryOk (issueVec_memoryOk vldffBody_memoryOk h)
  case vldseg => exact onStrand_memoryOk (issueVec_memoryOk ldsegBody_memoryOk h)
  case vst | vsts | vstxo => exact onStrand_memoryOk (issueVec_memoryOk storeBody_memoryOk h)
  case vstx => exact onStrand_memoryOk (issueVec_memoryOk vstxBody_memoryOk h)
  case vstseg => exact onStrand_memoryOk (issueVec_memoryOk stsegBody_memoryOk h)
  case mfset => exact execMfset_memoryOk h
  case vamo => exact onStrand_memoryOk (issueVec_memoryOk amoBody_memoryOk h)
  case fence => exact onStrand_memoryOk (issueVec_memoryOk fenceBody_memoryOk h)
  case vfence => exact onStrand_memoryOk (issueVec_memoryOk vfenceBody_memoryOk h)
  case iterset => exact onStrand_memoryOk (issueVec_memoryOk itersetBody_memoryOk h)
  case post => exact onStrand_memoryOk (issueVec_memoryOk postBody_memoryOk h)
  case waiti => exact onStrand_memoryOk (issueVec_memoryOk waitiBody_memoryOk h)
  case bar => exact onStrand_memoryOk (issueVec_memoryOk barBody_memoryOk h)
  case bararr => exact onStrand_memoryOk (issueVec_memoryOk bararrBody_memoryOk h)
  case barwt => exact onStrand_memoryOk (issueVec_memoryOk barwtBody_memoryOk h)
  case ropen => exact onStrand_memoryOk (issueVec_memoryOk ropenBody_memoryOk h)
  case rclose => exact onStrand_memoryOk (issueWith_memoryOk (fun _ ht => ht) rcloseBody_memoryOk h)
  case rstat => exact onStrand_memoryOk (issueWith_memoryOk (fun _ ht => ht) rstatBody_memoryOk h)
  case rdstr | wrstr | rsort | rmerge | rjoin | rpart =>
    exact onStrand_memoryOk (issueWith_memoryOk (fun _ => countOut_memoryOk) pushBody_memoryOk h)
  case qpush => exact onStrand_memoryOk (issueWith_memoryOk (fun _ => updFifo_memoryOk) qpushBody_memoryOk h)
  case qpop => exact onStrand_memoryOk (issueWith_memoryOk (fun _ ht => ht) qpopBody_memoryOk h)
  case rwait => exact onStrand_memoryOk (issueWith_memoryOk (fun _ => updFifo_memoryOk) rwaitBody_memoryOk h)
  case cspec => exact onStrand_memoryOk (issueVec_memoryOk cspecBody_memoryOk h)
  case mattach => exact onStrand_memoryOk (issueWith_memoryOk (fun _ ht => ht) mattachBody_memoryOk h)
  case mdetach => exact onStrand_memoryOk (issueVec_memoryOk releaseBody_memoryOk h)
  case mwldCfg => exact onStrand_memoryOk (issueWith_memoryOk (fun _ ht => ht) cfgBody_memoryOk h)
  case mwldSp => exact onStrand_memoryOk (issueWith_memoryOk (fun _ ht => ht) spBody_memoryOk h)
  case mwldQ => exact onStrand_memoryOk (issueWith_memoryOk (fun _ ht => ht) tqBody_memoryOk h)
  case mwldSc => exact onStrand_memoryOk (issueWith_memoryOk (fun _ ht => ht) scBody_memoryOk h)
  case mxv => exact onStrand_memoryOk (issueWith_memoryOk (fun _ ht => ht) mxvBody_memoryOk h)
  case mop => exact onStrand_memoryOk (issueWith_memoryOk (fun _ ht => ht) mopBody_memoryOk h)
  case maccrd => exact onStrand_memoryOk (issueWith_memoryOk (fun _ ht => ht) maccrdBody_memoryOk h)
  case maccwr => exact onStrand_memoryOk (issueWith_memoryOk (fun _ ht => ht) maccwrBody_memoryOk h)
  case maccz => exact onStrand_memoryOk (issueWith_memoryOk (fun _ ht => ht) macczBody_memoryOk h)
  case msave => exact execMsave_memoryOk h
  case mrest => exact execMrest_memoryOk h
  case mcensRd => exact onStrand_memoryOk (issueVec_memoryOk mcensRdBody_memoryOk h)
  case mcensRdclr => exact onStrand_memoryOk (issueVec_memoryOk mcensRdclrBody_memoryOk h)
  case mcensClr => exact onStrand_memoryOk (issueVec_memoryOk mcensClrBody_memoryOk h)
  case mcensIdx => exact onStrand_memoryOk (issueVec_memoryOk mcensIdxBody_memoryOk h)
  case qrtld => exact onStrand_memoryOk (issueVec_memoryOk qrtldBody_memoryOk h)
  case qrseed => exact onStrand_memoryOk (issueVec_memoryOk qrseedBody_memoryOk h)
  case qrgen => exact onStrand_memoryOk (issueVec_memoryOk qrgenBody_memoryOk h)
  case qrgens => exact onStrand_memoryOk (issueVec_memoryOk qrgensBody_memoryOk h)
  case pwld => exact onStrand_memoryOk (issueVec_memoryOk pwldBody_memoryOk h)
  case pwcntSt => exact onStrand_memoryOk (issueVec_memoryOk pwcntStBody_memoryOk h)
  case pwcntHist => exact onStrand_memoryOk (issueWith_memoryOk (fun _ ht => ht) pwcntHistBody_memoryOk h)
  case pwcntCnt => exact onStrand_memoryOk (issueWith_memoryOk (fun _ ht => ht) pwcntCntBody_memoryOk h)
  case pwcntFree => exact onStrand_memoryOk (issueVec_memoryOk pwcntFreeBody_memoryOk h)
  case pwchk => exact onStrand_memoryOk (issueVec_memoryOk pwchkBody_memoryOk h)
  case pwdrft => exact onStrand_memoryOk (issueVec_memoryOk pwdrftBody_memoryOk h)
  case pwconf => exact onStrand_memoryOk (issueVec_memoryOk pwconfBody_memoryOk h)
  case pwinj => exact onStrand_memoryOk (issueVec_memoryOk pwinjBody_memoryOk h)
  case split => exact onSlot_memoryOk (fun _ => updCtx_memoryOk) h
  case fetch => exact execFetch_memoryOk h
  case execute | push | pop => exact onSlot_memoryOk (fun _ => queueMove_memoryOk) h
  case drain => exact execDrain_memoryOk h
  case deliver => exact deliver_memoryOk h
  case serve => exact execServe_memoryOk h
  case hostPerform => exact onSlot_memoryOk (fun _ => hostMove_memoryOk) h
  case acceptAndProduce | streamRecord | commandComplete | stall | streamPageFault => exact kneadMove_memoryOk h
  case postAndObserve => exact onSlot_memoryOk (fun _ ht => headMove_memoryOk (observeOne_memoryOk ht)) h
  case proof => exact entryMove_memoryOk h
  case hearthServe => exact execHearthServe_memoryOk h
  case gangDrain => exact gangDrain_memoryOk h
  case wfeWake => exact onSlot_memoryOk (fun _ => updMe_memoryOk) h
  case sliceEnd => exact changeSlot_memoryOk h
  case waitQuantumExpiry => exact execWaitQuantumExpiry_memoryOk h
  case doorbell => exact execDoorbell_memoryOk h
  case launchFetch => exact launchFetch_memoryOk h
  case gangPlacement => exact execGangPlacement_memoryOk h
  case warmSlot => exact execWarmSlot_memoryOk h
  case priorityPreemption => exact execPriorityPreemption_memoryOk h
  case resumption => exact execResumption_memoryOk h
  case graceExpiry => exact execGraceExpiry_memoryOk h
  case budgetWindow => exact openWindow_memoryOk h
  case budgetExhausted => exact execBudgetExhausted_memoryOk h
  case powerInterval => exact execPowerInterval_memoryOk h
  case completionWordWrite => exact execCompletionWordWrite_memoryOk h
  case queueLevelReset => exact execQueueLevelReset_memoryOk h
  case functionLevelReset => exact execFunctionLevelReset_memoryOk h
  case partmapWrite => exact execPartmapWrite_memoryOk h
  case tenantWrite => exact execTenantWrite_memoryOk h
  case scrub => exact execScrub_memoryOk h
  case faultRecordWrite => exact reportTurn_memoryOk h
  case faultAnswer => exact execFaultAnswer_memoryOk h
  case pfFaultAnswer => exact execPfFaultAnswer_memoryOk h
  case inv1 => exact execInv1_memoryOk h
  case inv2 => exact execInv2_memoryOk h
  case pageRetirement => exact execPageRetirement_memoryOk h
  case snoop => exact h
  case hjelvorReadRequest => exact onFlit_memoryOk (fun _ => serveRead_memoryOk) h
  case hjelvorReadRecords => exact onFlit_memoryOk (fun _ ht => taken_memoryOk (landRecords_memoryOk ht)) h
  case hjelvorWriteRecords => exact onFlit_memoryOk (fun _ => serveWrite_memoryOk) h
  case hjelvorCompletionFlit => exact execHjelvorCompletionFlit_memoryOk h
  case hjelvorFenceFlit => exact onFlit_memoryOk (fun _ ht => sendFlit_memoryOk (taken_memoryOk ht)) h
  case hjelvorFenceAck => exact execHjelvorFenceAck_memoryOk h
  case linkDown => exact execLinkDown_memoryOk h
  case powerOn => exact ⟨h.1, State.reset_memoryOk.2⟩
  case load => exact onMail_memoryOk (fun _ => loadImage_memoryOk) h
  case commit => exact onMail_memoryOk (fun _ => commitImage_memoryOk) h
  case config => exact onMail_memoryOk (fun _ => configBlock_memoryOk) h
  case quote => exact onMail_memoryOk (fun _ => quoteLaunch_memoryOk) h
  case securityAlarm => exact execSecurityAlarm_memoryOk h
  case debugResume => exact execDebugResume_memoryOk h
  case smplostRead => exact execSmplostRead_memoryOk h
  case trsigWrite => exact execTrsigWrite_memoryOk h
  case trenClear => exact execTrenClear_memoryOk h
  case registerWrite => exact execRegisterWrite_memoryOk h
  case illegalInstruction => exact execIllegalInstruction_memoryOk h
  case instructionFetchFault => exact execInstructionFetchFault_memoryOk h
  case resetCompletion => exact execResetCompletion_memoryOk h
  case mailboxCompletion => exact execMailboxCompletion_memoryOk h
  case invalidationCompletion => exact execInvalidationCompletion_memoryOk h

/-! ### One move of the device -/

theorem issued_memoryOk {pa : Nat} {s : State} (h : MemoryOk s) : MemoryOk (issued pa s) :=
  traceEvent_memoryOk (noteFetch_memoryOk h)

theorem closeMove_memoryOk {s : State} (h : MemoryOk s) : MemoryOk (closeMove s) := traceFlush_memoryOk (lateStops_memoryOk h)

theorem afterMove_memoryOk {s t : State} (h : MemoryOk t) : MemoryOk (afterMove s t) := closeMove_memoryOk (settleTurn_memoryOk h)

theorem thenMove_memoryOk {f : State → State} {o : Out} (hf : ∀ t, MemoryOk t → MemoryOk (f t)) (ho : OutMemoryOk o) :
    OutMemoryOk (thenMove f o) := by
  unfold thenMove
  split
  · exact hf _ ho
  · exact trivial
  · exact trivial

theorem wordMove_memoryOk {w pa : Nat} {s : State} (h : MemoryOk s) : OutMemoryOk (wordMove w pa s) := by
  unfold wordMove
  split
  · exact execIllegalInstruction_memoryOk (noteFetch_memoryOk h)
  · split
    · exact trapFront_memoryOk (noteFetch_memoryOk h)
    · split
      · exact waitMove_memoryOk (noteFetch_memoryOk h)
      · split
        · exact exec_memoryOk (noteFetch_memoryOk h)
        · exact thenMove_memoryOk (fun _ => commitScalar_memoryOk) (exec_memoryOk (issued_memoryOk h))

theorem fetchTurn_memoryOk {s : State} (h : MemoryOk s) : OutMemoryOk (fetchTurn s) := by
  unfold fetchTurn
  split
  · split
    · exact frontBreak_memoryOk (noteFetch_memoryOk h)
    · exact wordMove_memoryOk h
  · exact execInstructionFetchFault_memoryOk h

theorem wokenMove_memoryOk {s : State} (h : MemoryOk s) : OutMemoryOk (wokenMove s) := by
  unfold wokenMove
  dsimp only
  split
  · exact frontBreak_memoryOk (updMe_memoryOk h)
  · exact fetchTurn_memoryOk (updMe_memoryOk h)

theorem strandMove_memoryOk {s : State} (h : MemoryOk s) : OutMemoryOk (strandMove s) := by
  unfold strandMove
  split
  · exact h
  · split
    · exact endLoop_memoryOk h
    · split
      · exact builtin_memoryOk h
      · split
        · exact wokenMove_memoryOk h
        · exact fetchTurn_memoryOk h

theorem issueTurn_memoryOk {s : State} (h : MemoryOk s) : OutMemoryOk (issueTurn s) := by
  unfold issueTurn
  split
  · exact thenMove_memoryOk (fun _ => afterMove_memoryOk) (strandMove_memoryOk h)
  · exact h

theorem passTurn_memoryOk {s : State} (h : MemoryOk s) : MemoryOk (passTurn s) := by
  unfold passTurn
  dsimp only
  split
  · refine focus_memoryOk ?_
    split
    · exact changeSlot_memoryOk h
    · exact h
  · split
    · exact changeSlot_memoryOk h
    · exact h

theorem standTurn_memoryOk {s : State} (h : MemoryOk s) : MemoryOk (standTurn s) := by
  unfold standTurn
  split
  · split
    · exact gangDrain_memoryOk h
    · exact passTurn_memoryOk h
  · exact h

theorem did_memoryOk {s : State} {o : Out} (h : MemoryOk s) (ho : OutMemoryOk o) : MemoryOk (did s o) := by
  unfold did
  split
  · exact ho
  · exact h

theorem eachStrand_memoryOk {p : Strand → Bool} {f : State → State} {s : State} (hf : ∀ t, MemoryOk t → MemoryOk (f t))
    (h : MemoryOk s) :
    MemoryOk (eachStrand p f s) :=
  foldl_memoryOk (fun _ _ => onBy_memoryOk hf) _ h

theorem roundStores_memoryOk {s : State} (h : MemoryOk s) : MemoryOk (roundStores s) :=
  eachStrand_memoryOk (fun _ => hostMove_memoryOk) (settle_memoryOk (eachStrand_memoryOk (fun _ => drainOldest_memoryOk) h))

theorem eachInOrder_memoryOk {p : Strand → Bool} {f : State → State} {s : State} (hf : ∀ t, MemoryOk t → MemoryOk (f t))
    (h : MemoryOk s) :
    MemoryOk (eachInOrder p f s) :=
  foldl_memoryOk (fun _ _ => onBy_memoryOk hf) _ h

theorem roundQueues_memoryOk {s : State} (h : MemoryOk s) : MemoryOk (roundQueues s) :=
  eachStrand_memoryOk (fun _ => foldl_memoryOk (fun _ _ ht1 => (knead_memoryOk ht1).getD ht1) _) (eachInOrder_memoryOk (fun _ =>
    runHead_memoryOk) (foldl_memoryOk (fun _ _ => servePort_memoryOk) _ h))

theorem roundHub_memoryOk {s : State} (h : MemoryOk s) : MemoryOk (roundHub s) := by
  unfold roundHub
  dsimp only
  refine foldl_memoryOk (fun _ _ => foldl_memoryOk (fun _ _ => launchFetch_memoryOk) _) _ (did_memoryOk (foldl_memoryOk (fun _ _
    => foldl_memoryOk (fun _ _ ht1 => did_memoryOk ht1 (execResetCompletion_memoryOk ht1)) _) _ (foldl_memoryOk (fun _ _ ht =>
    did_memoryOk ht (execCompletionWordWrite_memoryOk ht)) _ ?_)) (execMailboxCompletion_memoryOk (did_memoryOk (foldl_memoryOk
    (fun _ _ => foldl_memoryOk (fun _ _ ht1 => did_memoryOk ht1 (execResetCompletion_memoryOk ht1)) _) _ (foldl_memoryOk (fun _ _
    ht => did_memoryOk ht (execCompletionWordWrite_memoryOk ht)) _ ?_)) (execInvalidationCompletion_memoryOk (foldl_memoryOk (fun
    _ _ => foldl_memoryOk (fun _ _ ht1 => did_memoryOk ht1 (execResetCompletion_memoryOk ht1)) _) _ (foldl_memoryOk (fun _ _ ht =>
    did_memoryOk ht (execCompletionWordWrite_memoryOk ht)) _ ?_))))))
  · split
    · exact reportTurn_memoryOk h
    · exact h
  · split
    · exact reportTurn_memoryOk h
    · exact h
  · split
    · exact reportTurn_memoryOk h
    · exact h

theorem placeNext_memoryOk {s : State} (h : MemoryOk s) : MemoryOk (placeNext s) := by
  unfold placeNext
  dsimp only
  split
  · exact placeGang_memoryOk h
  · exact h

theorem preemptForLate_memoryOk {s : State} (h : MemoryOk s) : MemoryOk (preemptForLate s) := by
  unfold preemptForLate
  split
  · exact preemptGang_memoryOk h
  · exact h

theorem roundDispatch_memoryOk {s : State} (h : MemoryOk s) : MemoryOk (roundDispatch s) :=
  placeNext_memoryOk (foldl_memoryOk (fun _ _ ht => did_memoryOk ht (execResumption_memoryOk ht)) _ (preemptForLate_memoryOk
    (foldl_memoryOk (fun _ _ => enforceBudget_memoryOk) _ (foldl_memoryOk (fun _ _ ht => did_memoryOk ht (execScrub_memoryOk ht))
    _ h))))

theorem graceTurn_memoryOk {s : State} (h : MemoryOk s) : MemoryOk (graceTurn s) :=
  foldl_memoryOk (fun _ _ ht => did_memoryOk ht (execGraceExpiry_memoryOk ht)) _ h

theorem sliceTurn_memoryOk {s : State} (h : MemoryOk s) : MemoryOk (sliceTurn s) := by
  have hg : MemoryOk (graceTurn s) := graceTurn_memoryOk h
  unfold sliceTurn
  exact passTurn_memoryOk (openWindow_memoryOk hg)

theorem roundTurn_memoryOk {s : State} (h : MemoryOk s) : MemoryOk (roundTurn s) := by
  unfold roundTurn
  dsimp only
  split
  · split
    · exact sliceTurn_memoryOk (roundDispatch_memoryOk (roundHub_memoryOk (roundQueues_memoryOk (roundStores_memoryOk h))))
    · split
      · exact onBy_memoryOk (fun _ => updMe_memoryOk) (sliceTurn_memoryOk (roundDispatch_memoryOk (roundHub_memoryOk
          (roundQueues_memoryOk (roundStores_memoryOk h)))))
      · exact sliceTurn_memoryOk (roundDispatch_memoryOk (roundHub_memoryOk (roundQueues_memoryOk (roundStores_memoryOk h))))
  · split
    · exact roundDispatch_memoryOk (roundHub_memoryOk (roundQueues_memoryOk (roundStores_memoryOk h)))
    · split
      · exact onBy_memoryOk (fun _ => updMe_memoryOk) (roundDispatch_memoryOk (roundHub_memoryOk (roundQueues_memoryOk
          (roundStores_memoryOk h))))
      · exact roundDispatch_memoryOk (roundHub_memoryOk (roundQueues_memoryOk (roundStores_memoryOk h)))

theorem freeTurn_memoryOk {s : State} (h : MemoryOk s) : OutMemoryOk (freeTurn s) := by
  have hb : MemoryOk { s with beat := s.beat + 1 } := h
  unfold freeTurn
  split
  · exact closeMove_memoryOk (roundTurn_memoryOk h)
  · dsimp only
    split
    · split
      · exact closeMove_memoryOk (standTurn_memoryOk hb)
      · refine thenMove_memoryOk (fun t ht => ?_) (issueTurn_memoryOk hb)
        split
        · exact passTurn_memoryOk ht
        · exact ht
    · have hp : MemoryOk (passTurn { s with beat := s.beat + 1 }) := passTurn_memoryOk hb
      generalize passTurn { s with beat := s.beat + 1 } = u at hp ⊢
      exact issueTurn_memoryOk hp

theorem coreTurn_memoryOk {core : Nat} {s : State} (h : MemoryOk s) : OutMemoryOk (coreTurn core s) := by
  unfold coreTurn
  dsimp only
  split
  · exact issueTurn_memoryOk (focus_memoryOk h)
  · exact h

theorem eventTurn_memoryOk {i : Instr} {s : State} (h : MemoryOk s) : OutMemoryOk (eventTurn i s) := by
  unfold eventTurn
  split
  · exact thenMove_memoryOk (fun _ => closeMove_memoryOk) (exec_memoryOk h)
  · exact h

theorem move_memoryOk {s : State} (h : MemoryOk s) : OutMemoryOk (move s) := by
  unfold move
  split
  · exact eventTurn_memoryOk h
  · exact coreTurn_memoryOk h
  · exact freeTurn_memoryOk h

theorem step_memoryOk {s : State} (h : MemoryOk s) : OutMemoryOk (step s) := move_memoryOk h

end Sys2Proof.Machine

open Sys2Proof.Machine in
/-- Settles O59: every operation of the model writes the memories through operations that keep the canonical form, so every
move keeps it. -/
theorem memoryStaysCanonical : Obligations.MemoryStaysCanonical := fun _ _ h e => (step_memoryOk h).next e
end
section
/-! What is outstanding completes without touching the rest of the machine: the part of a state that no arrival, no drain and no
performed store changes. -/

namespace Sys2Proof.Machine

/-- A strand without what arrives at it, what it has out and what its stores wait in. -/
def Strand.still (st : Strand) : Strand :=
  { st with
    regs := Strand.reset.regs, out := [], acquired := false, wcb := [], hpath := [], kept := []
    vctx := { st.vctx with vf := [], bufs := [] } }

/-- The machine without its memories, its requests in flight and what those change of a strand. -/
def State.still (s : State) : State :=
  { s with me := s.me.still, others := s.others.map Strand.still, host := [], spad := [], net := [], nextId := 0 }

@[simp] theorem Strand.still_landed (st : Strand) (x : Landing) : (st.landed x).still = st.still := rfl

@[simp] theorem still_land (x : Late) (bs : List Byte) (st : Strand) : (land x bs st).still = st.still := by
  obtain ⟨y, h⟩ := land_eq x bs st
  rw [h, Strand.still_landed]

theorem still_toOwner {f : Strand → Strand} (hf : ∀ st, (f st).still = st.still) (x : Late) (s : State) :
    (toOwner x f s).still = s.still := by
  have hme : ∀ p : Strand → Bool, (if p s.me then f s.me else s.me).still = s.me.still := fun p => by
    split
    · exact hf s.me
    · rfl
  have hothers : ∀ p : Strand → Bool,
      (s.others.map fun st => if p st then f st else st).map Strand.still = s.others.map Strand.still := by
    intro p
    rw [List.map_map]
    refine List.map_congr_left fun st _ => ?_
    simp only [Function.comp_apply]
    split
    · exact hf st
    · rfl
  simp only [toOwner, State.still, hme, hothers]

@[simp] theorem still_arrival (x : Late) (bs : List Byte) (s : State) : (toOwner x (land x bs) s).still = s.still :=
  still_toOwner (still_land x bs) x s

@[simp] theorem still_serveReq (s : State) (r : NetReq) : (serveReq s r).still = s.still := by
  unfold serveReq
  cases r.late with
  | none => rfl
  | some x => exact still_arrival ..

@[simp] theorem still_settle (s : State) : (settle s).still = s.still := by
  rw [settle_fold, foldl_keeps State.still still_serveReq]
  rfl

@[simp] theorem still_performHost (s : State) (x : HStore) : (performHost s x).still = s.still := by
  unfold performHost
  cases x.late with
  | none => rfl
  | some l => exact still_arrival ..

@[simp] theorem still_performHosts (l : List HStore) (s : State) : (l.foldl performHost s).still = s.still :=
  foldl_keeps State.still still_performHost l s

@[simp] theorem still_performLoad (ahead : List HStore) (x : Late) (s : State) : (performLoad ahead x s).still = s.still :=
  still_arrival ..

@[simp] theorem still_passPath (force : Bool) (p : List HStore) : ∀ ahead s, (passPath force ahead p s).still = s.still := by
  induction p with
  | nil => exact fun _ _ => rfl
  | cons x t ih =>
    intro ahead s
    unfold passPath
    cases x.late with
    | none => exact ih ..
    | some l =>
      dsimp only
      split_ifs
      · rw [ih, still_performLoad]
      · rw [ih, still_performHost, still_performHosts]
      · rfl

@[simp] theorem still_completeOut (s : State) : (completeOut s).still = s.still := by
  unfold completeOut
  split_ifs
  · rfl
  · rw [still_passPath, still_settle]

@[simp] theorem still_drainAt (line held : Nat) (s : State) : (drainAt line held s).still = s.still := by
  unfold drainAt
  split <;> rfl

@[simp] theorem still_drainUpTo (held line : Nat) (s : State) : (drainUpTo held line s).still = s.still :=
  foldl_keeps State.still (fun t h => still_drainAt line h t) _ s

@[simp] theorem still_drainOldest (s : State) : (drainOldest s).still = s.still := by
  unfold drainOldest
  split
  · rfl
  · exact still_drainAt ..

@[simp] theorem still_makeRoom (held k : Nat) (s : State) : (makeRoom held k s).still = s.still := by
  unfold makeRoom
  split_ifs
  · exact still_drainAt ..
  · exact still_drainOldest s
  · rfl

@[simp] theorem still_wcbPutAt (held : Nat) (s : State) (k : Nat) (bs : List PByte) : (wcbPutAt held s k bs).still = s.still := by
  have hput : ∀ (t : State) (w : List WLine), ({ t with me := { t.me with wcb := w } } : State).still = t.still := fun _ _ => rfl
  unfold wcbPutAt
  dsimp only
  split
  · rfl
  · split_ifs
    · rw [drainLine, still_drainAt, hput, still_makeRoom]
    · rw [hput, still_makeRoom]

@[simp] theorem still_sendLate (x : Late) (s : State) : (sendLate x s).still = s.still := rfl

@[simp] theorem still_sendKept (s : State) (x : HStore) : (sendKept s x).still = s.still := by
  unfold sendKept
  cases x.late with
  | none => exact still_wcbPutAt ..
  | some l =>
    dsimp only
    split_ifs
    · rfl
    · rw [still_sendLate, still_drainUpTo]

@[simp] theorem still_sendKeptOf (p : HStore → Bool) (s : State) : (sendKeptOf p s).still = s.still :=
  (foldl_keeps State.still still_sendKept _ _).trans rfl

@[simp] theorem still_completeAll (s : State) : (completeAll s).still = s.still := by
  unfold completeAll
  dsimp only
  split_ifs
  · exact still_completeOut s
  · rw [still_passPath, still_settle, still_sendKeptOf, still_completeOut]

/-! ### What outstanding accesses leave as it is -/

section
variable {s t : State}

theorem hm_of_still (h : t.still = s.still) : t.me.hm = s.me.hm :=
  (congrArg (fun u : State => u.me.hm) h :)
theorem det_of_still (h : t.still = s.still) : t.me.det = s.me.det :=
  (congrArg (fun u : State => u.me.det) h :)
theorem thandler_of_still (h : t.still = s.still) : t.me.thandler = s.me.thandler :=
  (congrArg (fun u : State => u.me.thandler) h :)

theorem traced_of_still (h : t.still = s.still) : traced t = traced s :=
  (congrArg traced h :)

end

/-- With nothing outstanding there is nothing to complete. -/
theorem completeAll_of_nothingOut {s : State} (h : NothingOut s) : completeAll s = s := by
  obtain ⟨hout, hbufs, hkept, hpath⟩ := h
  have hc : completeOut s = s := by simp [completeOut, hout, hbufs]
  have hb : heldBack s.me = [] := by
    rw [heldBack, hkept, List.nil_append, List.dropWhile_eq_nil_iff]
    exact fun x hx => by simp [hpath x hx]
  simp [completeAll, hc, hb]

end Sys2Proof.Machine
end
section
/-! Traps taken and returned from (R278, R280, R281). -/

namespace Sys2Proof.Machine

theorem causeWord_eq (cause tag : Nat) (vec resume : Bool) :
    causeWord cause tag vec resume = word (cause + (if vec then 256 else 0) + (if resume then 512 else 0) + 2 ^ 20 * tag) := by
  unfold causeWord b2n
  congr 1
  cases vec <;> cases resume <;> simp [Nat.mul_comm]

/-- TCAUSE[7:0] is the cause, whatever stands above it. -/
theorem field_causeWord (cause tag : Nat) (vec resume : Bool) : field (causeWord cause tag vec resume) 7 0 = cause % 256 := by
  rw [causeWord_eq, field, bits, word, BitVec.toNat_ofNat]
  cases vec <;> cases resume <;> simp <;> omega

/-- What a strand sees depends on its region, its waiting stores, what is in flight and the memories alone. -/
theorem sameBytes_of_landed {u t : State} (hreach : ∀ a, reach t a .load = reach u a .load) (hsettled : settled t = settled u)
    (hhost : t.host = u.host) (hfwd : ∀ l, forwarded t.me l = forwarded u.me l) : SameBytes u t := by
  intro a
  unfold viewByte
  rw [hreach]
  simp only [locByte_settle, hsettled, hhost, hfwd]

/-- A trap outside handler mode of a strand that is not traced. -/
theorem takeTrap_entered (cause tag : Nat) (vec resume : Bool) (epc tval : Word) {s : State} (hhm : s.me.hm = false)
    (htr : traced s = false) :
    takeTrap cause tag vec resume epc tval s =
      { completeAll s with me := { (completeAll s).me with
          tcause := causeWord cause tag vec resume, tepc := epc, tval := tval, hm := true, pc := s.me.thandler
          status := .run, ending := false } } := by
  have hst := still_completeAll s
  have h1 := (hm_of_still hst).trans hhm
  have h2 := (traced_of_still hst).trans htr
  simp [takeTrap, h1, traceEvent, h2, thandler_of_still hst]

/-- A trap outside handler mode, traced or not: the strand's own state. -/
theorem takeTrap_me (cause tag : Nat) (vec resume : Bool) (epc tval : Word) {s : State} (hhm : s.me.hm = false) :
    ∃ ev, takeTrap cause tag vec resume epc tval s =
      { completeAll s with
        trev := ev
        me := { (completeAll s).me with
          tcause := causeWord cause tag vec resume, tepc := epc, tval := tval, hm := true, pc := s.me.thandler
          status := .run, ending := false } } := by
  have hst := still_completeAll s
  have h1 := (hm_of_still hst).trans hhm
  unfold takeTrap traceEvent
  dsimp only
  rw [if_neg (by simp [h1]), ← thandler_of_still hst]
  split
  · exact ⟨_, rfl⟩
  · exact ⟨_, rfl⟩

/-- A trap in handler mode is not entered. -/
theorem takeTrap_nested (cause tag : Nat) (vec resume : Bool) (epc tval : Word) {s : State} (hhm : s.me.hm = true) :
    takeTrap cause tag vec resume epc tval s = nestedTrap (causeWord cause tag vec resume) (completeAll s) := by
  have h1 := (hm_of_still (still_completeAll s)).trans hhm
  simp [takeTrap, h1]

/-- The trap entry and the trap that is not entered (R278, R280). -/
theorem trapEntered (cause tag : Nat) (vec resume : Bool) (epc tval : Word) (s : State) (hhm : s.me.hm = false)
    (htr : traced s = false) :
    let u := completeAll s
    let t := takeTrap cause tag vec resume epc tval s
    t.me.tcause = word (cause + (if vec then 256 else 0) + (if resume then 512 else 0) + 2 ^ 20 * tag) ∧ t.me.tepc = epc ∧
      t.me.tval = tval ∧ t.me.hm = true ∧ t.me.pc = s.me.thandler ∧ t.me.status = .run ∧ t.me.ending = false ∧ SameBytes u t ∧
      { t with me := { t.me with
          tcause := u.me.tcause, tepc := u.me.tepc, tval := u.me.tval, hm := false, pc := u.me.pc, status := u.me.status,
          ending := u.me.ending } } = u := by
  have h1 := (hm_of_still (still_completeAll s)).trans hhm
  dsimp only
  rw [takeTrap_entered _ _ _ _ _ _ hhm htr]
  refine ⟨causeWord_eq .., rfl, rfl, rfl, rfl, rfl, rfl,
    sameBytes_of_landed (fun _ => rfl) rfl rfl (fun l => by cases l <;> rfl), ?_⟩
  rw [← h1]

theorem trapNested (cause tag : Nat) (vec resume : Bool) (epc tval : Word) (s : State) (hhm : s.me.hm = true) :
    let u := completeAll s
    let t := takeTrap cause tag vec resume epc tval s
    field t.me.tcause 7 0 = cause % 256 ∧ t.me.ending = true ∧ t.me.endOff = true ∧ t.me.status = .run ∧ t.me.qstop = false ∧
      t.me.stand = none ∧ t.me.dumped = [] ∧
      t.me.vctx = (if u.me.qstop = true then { u.me.vctx with queue := [], bufs := [] } else u.me.vctx) ∧
      { t with me := { t.me with
          tcause := u.me.tcause, ending := u.me.ending, endOff := u.me.endOff, status := u.me.status, qstop := u.me.qstop,
          stand := u.me.stand, dumped := u.me.dumped, vctx := u.me.vctx } } = u := by
  dsimp only
  rw [takeTrap_nested _ _ _ _ _ _ hhm]
  exact ⟨field_causeWord .., rfl, rfl, rfl, rfl, rfl, rfl, rfl, rfl⟩

/-- A trap of a tagged instruction (R281). -/
theorem trapTagged (cause : Nat) (tag : BitVec 12) (epc : Word) {s : State} (hhm : s.me.hm = false) :
    let u := completeAll s
    let t := takeTrap cause tag.toNat false false epc 0 s
    t.me.tcause = word (cause + 2 ^ 20 * tag.toNat) ∧ t.me.tepc = epc ∧ t.me.tval = 0 ∧ t.me.hm = true ∧
      t.me.pc = s.me.thandler ∧ t.me.regs = u.me.regs ∧ t.me.vctx = u.me.vctx ∧ SameBytes u t := by
  obtain ⟨ev, h⟩ := takeTrap_me cause tag.toNat false false epc 0 hhm
  dsimp only
  rw [h]
  exact ⟨causeWord_eq .., rfl, rfl, rfl, rfl, rfl, rfl,
    sameBytes_of_landed (fun _ => rfl) rfl rfl (fun l => by cases l <;> rfl)⟩

/-! ### A strand taken off -/

/-- The device's own bytes in host space displace those that wait in the host path, and nothing else of a strand. -/
theorem dropArea_host (ls : List Loc) (h : ∀ l ∈ ls, ∃ pa, l = .host pa) : ∀ s : State,
    ∃ p, (s.me.hpath = [] → p = []) ∧ dropArea ls s = { s with me := { s.me with hpath := p } } := by
  induction ls with
  | nil => exact fun s => ⟨s.me.hpath, id, rfl⟩
  | cons l ls ih =>
    intro s
    obtain ⟨pa, rfl⟩ := h l (by simp)
    obtain ⟨p, hp, he⟩ := ih (fun x hx => h x (by simp [hx])) (dropBytes (.host pa) 4096 s)
    refine ⟨p, fun hs => hp ?_, ?_⟩
    · simp [dropBytes, hs]
    · rw [dropArea, List.foldl_cons]
      exact he

theorem dropHost_frame (fn va n : Nat) (s : State) :
    ∃ p, (s.me.hpath = [] → p = []) ∧ dropHost fn va n s = { s with me := { s.me with hpath := p } } := by
  refine dropArea_host _ (fun l hl => ?_) s
  obtain ⟨p, -, hp⟩ := List.mem_filterMap.1 hl
  split at hp
  · exact ⟨_, (Option.some.inj hp).symm⟩
  · cases hp

theorem hostImage_me (fn va n : Nat) (img : Cells 8) (s : State) : (hostImage fn va n img s).me = s.me :=
  foldl_keeps State.me (fun t p => by split <;> rfl) _ s

theorem hostImage_spad (fn va n : Nat) (img : Cells 8) (s : State) : (hostImage fn va n img s).spad = s.spad :=
  foldl_keeps State.spad (fun t p => by split <;> rfl) _ s

/-- What is left of a strand that is taken off. -/
theorem takeOff_me (s : State) :
    let u := flushNormal (completeAll s)
    ∃ p, (u.me.hpath = [] → p = []) ∧
      (takeOff s).me = { u.me with status := .off, pre := false, hm := false, hpath := p } ∧ (takeOff s).spad = u.spad := by
  intro u
  let v := updMe u fun st => { st with status := .off, pre := false, hm := false }
  obtain ⟨p, hp, he⟩ := dropHost_frame v.me.fn (slotArea v.me) 0x20000 v
  refine ⟨p, hp, ?_⟩
  have hshape : ∀ w : State, ∀ b : Bool, ∀ f, ((if b then w else updGang w w.me.fn w.me.lseq w.me.gang f).me = w.me) ∧
      (if b then w else updGang w w.me.fn w.me.lseq w.me.gang f).spad = w.spad := by
    intro w b f
    cases b <;> exact ⟨rfl, rfl⟩
  unfold takeOff
  dsimp only
  refine ⟨(hshape _ _ _).1.trans ?_, (hshape _ _ _).2.trans ?_⟩
  · rw [hostImage_me]
    exact (congrArg State.me he :)
  · rw [hostImage_spad]
    exact (congrArg State.spad he :)

/-- Performing the host path leaves the waiting stores of a strand alone. -/
theorem performHost_waiting (s : State) (x : HStore) :
    ((performHost s x).me.wcb, (performHost s x).me.hpath) = (s.me.wcb, s.me.hpath) := by
  unfold performHost
  cases x.late with
  | none => rfl
  | some l =>
    obtain ⟨y, hy⟩ := land_eq l (lateBytes s.host l) s.me
    dsimp only [toOwner]
    split
    · rw [hy]; rfl
    · rfl

theorem flushAll_waiting (s : State) : (flushAll s).me.wcb = [] ∧ (flushAll s).me.hpath = [] := by
  have h := foldl_keeps (fun s : State => (s.me.wcb, s.me.hpath)) performHost_waiting (settle s).me.hpath
    { settle s with
      spad := (settle s).me.wcb.foldl (fun m x => putBytes m x.bytes) (settle s).spad
      me := { (settle s).me with wcb := [], hpath := [] } }
  exact Prod.mk.inj h

theorem takeOff_normal {s : State} (h : s.me.det = false) : (takeOff s).me.wcb = [] ∧ (takeOff s).me.hpath = [] := by
  obtain ⟨p, hp, hme, -⟩ := takeOff_me s
  have hdet : (completeAll s).me.det = false := (det_of_still (still_completeAll s)).trans h
  have hf : flushNormal (completeAll s) = flushAll (completeAll s) := by simp [flushNormal, hdet]
  rw [hf] at hp hme
  rw [hme]
  exact ⟨(flushAll_waiting _).1, hp (flushAll_waiting _).2⟩

theorem takeOff_deterministic {s : State} (h : s.me.det = true) :
    (takeOff s).me.wcb = (completeAll s).me.wcb ∧ (takeOff s).spad = (completeAll s).spad := by
  obtain ⟨p, -, hme, hspad⟩ := takeOff_me s
  have hdet : (completeAll s).me.det = true := (det_of_still (still_completeAll s)).trans h
  have hf : flushNormal (completeAll s) = completeAll s := by simp [flushNormal, hdet]
  rw [hf] at hme hspad
  exact ⟨by rw [hme], hspad⟩

theorem takeOff_status (s : State) : (takeOff s).me.status = .off := by
  obtain ⟨p, -, hme, -⟩ := takeOff_me s
  rw [hme]

/-! ### ERET -/

theorem exec_eret {s : State} (h : Running s) : exec .eret s = .next (eretEffect s) := onStrand_eq _ _ h

theorem eretEffect_user {s : State} (h : s.me.hm = false) : eretEffect s = takeTrap 0x12 0 false false s.me.pc 0 s := by
  simp [eretEffect, h, trapFront]

theorem eretEffect_handler {s : State} (h : s.me.hm = true) (hpre : s.me.pre = false) (hsusp : s.me.susp = none) :
    eretEffect s = returnTrap s := by
  have : (returnTrap s).me.susp = none := hsusp
  simp [eretEffect, h, hpre, this]

theorem eretEffect_pre {s : State} (h : s.me.hm = true) (hpre : s.me.pre = true) : eretEffect s = takeOff s := by
  simp [eretEffect, h, hpre]

end Sys2Proof.Machine

open Sys2Proof.Machine in
/-- Settles O10: what is outstanding completes without touching the rest of the machine, so a trap's own writes are all that it
adds; ERET by its three cases. -/
theorem trapsTakenAndReturned : Obligations.TrapsTakenAndReturned := by
  unfold Obligations.TrapsTakenAndReturned
  refine ⟨⟨trapEntered, trapNested⟩, fun s tag hr hhm => ⟨?_, ?_⟩, fun s hr => ⟨?_, ?_, ?_⟩⟩
  · obtain ⟨hc, he, hv, hh, hp, hg, hx, hb⟩ := trapTagged 0x0D tag (s.me.pc + 4) hhm
    exact ⟨_, onStrand_eq _ _ hr, hc, he, hv, hh, hp, hg, hx, hb, completeAll_of_nothingOut⟩
  · exact ⟨_, onStrand_eq _ _ hr, trapTagged 0x0C tag (s.me.pc + 4) hhm⟩
  · intro hhm hpre hsusp
    exact ⟨returnTrap s, by rw [exec_eret hr, eretEffect_handler hhm hpre hsusp], rfl, rfl, rfl, rfl⟩
  · intro hhm
    rw [exec_eret hr, eretEffect_user hhm]
  · intro hhm hpre
    exact ⟨takeOff s, by rw [exec_eret hr, eretEffect_pre hhm hpre], takeOff_status s, takeOff_normal, takeOff_deterministic⟩
end
section
/-! END of a strand that stands at a drain point (R282, R99). -/

namespace Sys2Proof.Machine

/-- A strand that runs in normal mode with nothing to wait for, but for a drain point at which it still stands. -/
def standing : State := { State.reset with me := { Strand.reset with status := .run, stand := some .endStrand } }

/-- END begins there, and the strand waits on. -/
theorem exec_endStrand_standing : exec .endStrand standing = .next { standing with me := { standing.me with ending := true } } := rfl

end Sys2Proof.Machine

open Sys2Proof.Machine in
/-- Refutes O11: an END whose strand still stands at a drain point does not free its slot, and no hypothesis says that it stands at
none. -/
theorem not_endYieldWait : ¬ Obligations.EndYieldWait := by
  unfold Obligations.EndYieldWait
  intro h
  obtain ⟨hend, -⟩ := h standing rfl
  obtain ⟨t, ht, hme, -⟩ := hend rfl rfl rfl rfl rfl rfl rfl
  rw [exec_endStrand_standing] at ht
  cases ht
  exact absurd (congrArg Strand.ending hme) (by decide)
end
section
/-! Stores performed: what a strand saw is what then stands at the point of coherence (R81, R84, R91). -/

namespace Sys2Proof.Machine

/-- No write of a list waits at a location that the list does not name. -/
theorem tfind_of_notMem {l : List (Nat × PByte)} {k : Nat} (h : k ∉ l.map Prod.fst) : tfind l k = ⟨0, 0⟩ := by
  rw [tfind_eq, List.find?_eq_none.2]
  intro b hb he
  exact h (List.mem_map.2 ⟨b, hb, by simpa using he⟩)

/-- Writes to distinct bytes leave at each the byte that stood there with its own write over it. -/
theorem cget_putBytes (bs : List (Nat × PByte)) (y : Nat) : ∀ m : List Host.Cell, (bs.map Prod.fst).Nodup →
    cget zeros (putBytes m bs) y = overlay (cget zeros m y) (tfind bs y) := by
  induction bs with
  | nil => exact fun m _ => (overlay_none _).symm
  | cons b bs ih =>
    intro m hn
    rw [List.map_cons, List.nodup_cons] at hn
    obtain ⟨hb, hn⟩ := hn
    rw [putBytes, List.foldl_cons]
    refine (ih _ hn).trans ?_
    rw [cget_cset]
    by_cases hy : y = b.1
    · subst hy
      rw [if_pos rfl, tfind_of_notMem hb, overlay_none]
      simp [tfind, tget]
    · rw [if_neg hy]
      simp [tfind, tget, Ne.symm hy]

/-- Lines or path entries performed one after another. -/
theorem cget_performed {α : Type} (f : α → List (Nat × PByte)) (l : List α) (y : Nat) (hn : ∀ x ∈ l, ((f x).map Prod.fst).Nodup) :
    ∀ m : List Host.Cell, cget zeros (l.foldl (fun m x => putBytes m (f x)) m) y =
      l.foldl (fun b x => overlay b (tfind (f x) y)) (cget zeros m y) := by
  induction l with
  | nil => exact fun m => rfl
  | cons x l ih =>
    intro m
    rw [List.foldl_cons, ih (fun z hz => hn z (by simp [hz])), cget_putBytes _ _ _ (hn x (by simp)), List.foldl_cons]

/-- A fold over the elements that p names, where the others change nothing. -/
theorem foldl_filter_of_id {α β : Type} (g : β → α → β) (p : α → Bool) (l : List α)
    (h : ∀ x ∈ l, p x = false → ∀ b, g b x = b) :
    ∀ b, (l.filter p).foldl g b = l.foldl g b := by
  induction l with
  | nil => exact fun _ => rfl
  | cons x l ih =>
    intro b
    have ih' := ih fun z hz => h z (by simp [hz])
    cases hp : p x with
    | true => rw [List.filter_cons_of_pos hp, List.foldl_cons, List.foldl_cons, ih']
    | false => rw [List.filter_cons_of_neg (by simp [hp]), List.foldl_cons, h x (by simp) hp, ih']

/-- A path of stores performed. -/
theorem performHosts_stores (l : List HStore) : ∀ s : State, (∀ x ∈ l, x.late = none) →
    l.foldl performHost s = { s with host := l.foldl (fun m x => putBytes m x.bytes) s.host } := by
  induction l with
  | nil => exact fun _ _ => rfl
  | cons x l ih =>
    intro s h
    have hx : performHost s x = { s with host := putBytes s.host x.bytes } := by
      rw [performHost, h x (by simp)]
    rw [List.foldl_cons, hx, ih _ fun z hz => h z (by simp [hz]), List.foldl_cons]

/-- A state with the strand's stores and those on their way performed. -/
def performed (s : State) : State :=
  { s with
    spad := s.me.wcb.foldl (fun m x => putBytes m x.bytes) (settled s)
    host := s.me.hpath.foldl (fun m x => putBytes m x.bytes) s.host
    net := []
    me := { s.me with wcb := [], hpath := [] } }

theorem flushAll_stores {s : State} (hnet : ∀ q ∈ s.net, q.late = none) (hpath : ∀ x ∈ s.me.hpath, x.late = none) :
    flushAll s = performed s := by
  unfold flushAll
  dsimp only
  rw [settle_quiet s hnet, performHosts_stores _ _ hpath]
  rfl

/-- Performed stores stand where the strand saw them. -/
theorem atCoherence_performed {s : State} (h : StoresOk s) (l : Loc) : atCoherence (performed s) l = seen s l := by
  obtain ⟨-, hlines, hpath, -, -⟩ := h
  rw [seen, locByte_settle]
  cases l with
  | spad y =>
    have hnodup : ∀ x ∈ s.me.wcb, (x.bytes.map Prod.fst).Nodup := fun x hx => (hlines x hx).1.imp Nat.ne_of_lt
    refine (cget_performed WLine.bytes s.me.wcb y hnodup (settled s)).trans ?_
    rw [overlay_lines]
    refine (foldl_filter_of_id _ _ _ (fun x hx hp b => ?_) _).symm
    rw [tfind_of_notMem, overlay_none]
    intro hm
    obtain ⟨c, hc, rfl⟩ := List.mem_map.1 hm
    simp [(hlines x hx).2 c hc] at hp
  | host pa =>
    rw [overlay_path]
    exact cget_performed HStore.bytes s.me.hpath pa hpath s.host

end Sys2Proof.Machine
end
section
/-! A store of the scratchpads by a strand with an empty write-combining buffer (R81, R93). -/

namespace Sys2Proof.Machine

/-- An address of the scratchpads reaches its byte by the strand and its gang alone. -/
theorem reach_spad_congr {s t : State} {e k : Nat} {a : Acc} (hl : ∀ r, spadLoc t r = spadLoc s r)
    (h : reach s e a = .ok (.spad k)) : reach t e a = .ok (.spad k) := by
  unfold reach at h ⊢
  split at h
  · split at h <;> cases h
  · rw [hl]
    exact h

/-- A store into an empty buffer opens the one line of it. -/
theorem wcbPutAt_empty (held : Nat) {s : State} (h : s.me.wcb = []) (k : Nat) (bs : List PByte) :
    wcbPutAt held s k bs = { s with me := { s.me with wcb := [lineMerge ⟨k / 256, held, []⟩ (cellsAt k bs)] } } := by
  simp [wcbPutAt, wcbFind, h, makeRoom, reopens, wcbInsert]

/-- What a line that a store has opened has over a byte. -/
theorem tfind_openedLine (k held : Nat) (bs : List PByte) (y : Nat) :
    tfind (lineMerge ⟨k / 256, held, []⟩ (cellsAt k bs)).bytes y =
      match (cellsAt k bs).find? (fun b => b.1 == y) with
      | some c => c.2.after ⟨0, 0⟩
      | none => ⟨0, 0⟩ :=
  tget_merge _ (cellsAt_nodup k bs) [] y

/-- A power of two up to 8 bytes at its own alignment lies in one line. -/
theorem sameLine_of_aligned {k n j : Nat} (w : BitVec 2) (hn : n = 2 ^ w.toNat) (hk : k % n = 0) (hj : j < n) :
    (k + j) / 256 = k / 256 := by
  subst hn
  have hw : w.toNat < 4 := w.isLt
  interval_cases w.toNat <;> omega

/-- What a strand sees with one line in its buffer, of a store that has just entered. -/
theorem locByte_openedLine {s : State} (hnet : s.net = []) (k held : Nat) (bs : List PByte) (hwcb : s.me.wcb =
    [lineMerge ⟨k / 256, held, []⟩ (cellsAt k bs)]) (hpath : s.me.hpath = []) (hl : ∀ j < bs.length, (k + j) / 256 = k / 256) :
    (∀ j, (hj : j < bs.length) → seen s (.spad (k + j)) = overlay (atCoherence s (.spad (k + j))) bs[j]) ∧
      ∀ x, (∀ j < bs.length, x ≠ .spad (k + j)) → seen s x = atCoherence s x := by
  rw [show seen s = locByte s from funext fun l => by rw [seen, settle_nil hnet]]
  constructor
  · intro j hj
    rw [locByte, overlay_lines, hwcb, List.filter_cons_of_pos (by simp [lineMerge, hl j hj])]
    simp only [List.filter_nil, List.foldl_cons, List.foldl_nil, tfind_openedLine, cellsAt_get k bs j hj, overlay_after, overlay_none]
  · intro x hx
    cases x with
    | host pa => rw [locByte, overlay_path, hpath]; rfl
    | spad y =>
      rw [locByte, overlay_lines, hwcb]
      have hnone : tfind (lineMerge ⟨k / 256, held, []⟩ (cellsAt k bs)).bytes y = ⟨0, 0⟩ := by
        rw [tfind_openedLine, cellsAt_none k bs y fun j hj e => hx j hj (by rw [e])]
      by_cases hy : k / 256 = y / 256
      · rw [List.filter_cons_of_pos (by simp [lineMerge, hy])]
        simp only [List.filter_nil, List.foldl_cons, List.foldl_nil, hnone, overlay_none]
      · rw [List.filter_cons_of_neg (by simpa [lineMerge] using hy)]
        rfl

end Sys2Proof.Machine
end
section
/-! The drain of a gang of one strand, and the turns of a core (R22, R99, R283). -/

namespace Sys2Proof.Machine

/-- The strand as it turns to its store with its earlier stores performed. -/
def atTurn (s : State) : State := updMe (performed s) fun st => { st with permit := true, stand := none }

/-- The strand after that store has entered its buffer. -/
def afterTurn (k : Nat) (bs : List PByte) (s : State) : State :=
  { performed s with me := { (performed s).me with
      permit := false, stand := none, pc := s.me.pc + 4
      wcb := [lineMerge ⟨k / 256, fencesAhead s.me, []⟩ (cellsAt k bs)] } }

theorem execSt_atTurn {s : State} {a b : BitVec 5} {h : BitVec 7} {w : BitVec 2} {l : BitVec 5} {k : Nat} (hrun : s.me.status = .run)
    (hkept : s.me.kept = []) (he : (effAddr s a (storeDisp h l)).toNat % 2 ^ w.toNat = 0)
    (hreach : reach s (effAddr s a (storeDisp h l)).toNat .store = .ok (.spad k)) :
    execSt a b h w l (atTurn s) =
      .next (advance (wcbPutAt (fencesAhead s.me) (atTurn s) k ((toBytes (2 ^ w.toNat) (reg s b).toNat).map full))) := by
  have haddr : effAddr (atTurn s) a (storeDisp h l) = effAddr s a (storeDisp h l) := rfl
  have hloc : ∀ r, spadLoc (atTurn s) r = spadLoc s r := fun r => by cases r <;> rfl
  have hres : resolve (atTurn s) (effAddr s a (storeDisp h l)).toNat (2 ^ w.toNat) .store = .ok (.spad k) := by
    rw [resolve, if_neg (not_not_intro he)]
    exact reach_spad_congr hloc hreach
  have hmeets : meetsKept (atTurn s).me k (2 ^ w.toNat) = false := by
    rw [meetsKept, show (atTurn s).me.kept = [] from hkept, List.any_nil]
  have hline : noLine (atTurn s) (fencesAhead (atTurn s).me) k = false := by
    simp [noLine, show (atTurn s).me.wcb = [] from rfl]
  unfold execSt
  dsimp only
  rw [haddr, hres]
  dsimp only
  rw [hmeets, hline]
  exact onStrand_eq _ _ hrun

theorem not_brkHit_of_quiet {s : State} (h : Quiet s) (addr : Word) : brkHit s 2 addr = false := by
  obtain ⟨hbrk, -, -⟩ := h
  rw [brkHit, Bool.and_eq_false_iff]
  refine .inr (List.any_eq_false.2 fun b hb => ?_)
  simp [hbrk b hb]

theorem drainTurn_store {s : State} {a b : BitVec 5} {h : BitVec 7} {w : BitVec 2} {l : BitVec 5} {k : Nat} (hq : Quiet s)
    (hc : Calm s) (hrun : s.me.status = .run) (hstand : s.me.stand = some (.st a b h w l))
    (he : (effAddr s a (storeDisp h l)).toNat % 2 ^ w.toNat = 0)
    (hreach : reach s (effAddr s a (storeDisp h l)).toNat .store = .ok (.spad k)) :
    drainTurn s = afterTurn k ((toBytes (2 ^ w.toNat) (reg s b).toNat).map full) s := by
  obtain ⟨⟨-, -, hkept, -⟩, hnet, -, hpath⟩ := hc
  have hstand' : (performed s).me.stand = some (.st a b h w l) := hstand
  have hbrk : brkHit (performed s) 2 (performed s).me.pc = false := not_brkHit_of_quiet (s := s) hq s.me.pc
  have hjudge : judgedLater (performed s).me = false := by simp [judgedLater, hstand']
  unfold drainTurn
  rw [flushAll_stores hnet fun x hx => (hpath x hx).2]
  dsimp only
  rw [hjudge]
  simp only [Bool.false_eq_true, if_false, performStanding, hstand', commitScalar, hbrk, Bool.and_false]
  rw [show updMe (performed s) (fun st => { st with permit := true, stand := none }) = atTurn s from rfl,
    execSt_atTurn hrun hkept he hreach, wcbPutAt_empty _ rfl]
  rfl

/-- A gang of one strand that has not ended does a gang's operation by that strand. -/
theorem forGang_one {s : State} {g : Gang} {m : Member} {f : State → State} (hg : myGang s = some g) (hm : g.members = [m])
    (hlsn : s.me.lsn = 0) (hrun : s.me.status = .run) : forGang s.me.fn s.me.lseq s.me.gang f s = f s := by
  have hg' : gangFind s s.me.fn s.me.lseq s.me.gang = some g := hg
  have hme : isStrand s.me.fn s.me.lseq s.me.gang 0 s.me = true := by simp [isStrand, hrun, hlsn]
  simp [forGang, hg', hm, upTo, onBy, hme]

theorem gangStands_one {s : State} {g : Gang} {m : Member} (hg : myGang s = some g) (hm : g.members = [m]) (hended : m.ended = false)
    (hlsn : s.me.lsn = 0) (hdet : s.me.det = true) (hrun : s.me.status = .run) (hstand : s.me.stand.isSome = true) :
    gangStands g s = true := by
  have hid : isGang s.me.fn s.me.lseq s.me.gang g = true := List.find?_some (show s.gangs.find? _ = some g from hg)
  simp only [isGang, Bool.and_eq_true, beq_iff_eq] at hid
  obtain ⟨⟨hfn, hseq⟩, hgang⟩ := hid
  have hme : isStrand g.fn g.seq g.gang 0 s.me = true := by simp [isStrand, hrun, hlsn, hfn, hseq, hgang]
  simp [gangStands, liveCount, hm, hended, upTo, hme, hdet, hrun, hstand, stands]

theorem gangDrain_store {s : State} {g : Gang} {m : Member} {a b : BitVec 5} {h : BitVec 7} {w : BitVec 2} {l : BitVec 5} {k : Nat}
    (hg : myGang s = some g) (hm : g.members = [m]) (hended : m.ended = false) (hlsn : s.me.lsn = 0) (hdet : s.me.det = true)
    (hq : Quiet s) (hc : Calm s) (hrun : s.me.status = .run) (hstand : s.me.stand = some (.st a b h w l))
    (he : (effAddr s a (storeDisp h l)).toNat % 2 ^ w.toNat = 0)
    (hreach : reach s (effAddr s a (storeDisp h l)).toNat .store = .ok (.spad k)) :
    gangDrain s.me.fn s.me.lseq s.me.gang s = afterTurn k ((toBytes (2 ^ w.toNat) (reg s b).toNat).map full) s := by
  have hout : completeOut s = s := by
    obtain ⟨⟨hout, hbufs, -, -⟩, -⟩ := hc
    simp [completeOut, hout, hbufs]
  have hg' : gangFind s s.me.fn s.me.lseq s.me.gang = some g := hg
  have hjudged : ∀ bs, judgeTurn (afterTurn k bs s) = afterTurn k bs s := fun bs => by simp [judgeTurn, judgedLater, afterTurn]
  have hlast : ∀ bs, forGang s.me.fn s.me.lseq s.me.gang judgeTurn (afterTurn k bs s) = afterTurn k bs s := fun bs =>
    (forGang_one (s := afterTurn k bs s) (f := judgeTurn) hg hm hlsn hrun).trans (hjudged bs)
  simp only [gangDrain, hg', gangStands_one hg hm hended hlsn hdet hrun (by rw [hstand]; rfl), if_true]
  rw [forGang_one hg hm hlsn hrun, hout, forGang_one hg hm hlsn hrun, drainTurn_store hq hc hrun hstand he hreach, hlast]

theorem seen_afterTurn {s : State} (hs : StoresOk s) (k n : Nat) (v : Nat) (hl : ∀ j < n, (k + j) / 256 = k / 256) :
    (∀ x, atCoherence (afterTurn k ((toBytes n v).map full) s) x = seen s x) ∧
    (∀ j < n, seen (afterTurn k ((toBytes n v).map full) s) (.spad (k + j)) = BitVec.ofNat 8 (v / 256 ^ j)) ∧
    ∀ x, (∀ j < n, x ≠ .spad (k + j)) → seen (afterTurn k ((toBytes n v).map full) s) x = seen s x := by
  have hlen : ((toBytes n v).map full).length = n := by rw [List.length_map, toBytes_len]
  have hcoh : ∀ x, atCoherence (afterTurn k ((toBytes n v).map full) s) x = seen s x := fun x =>
    (show _ = atCoherence (performed s) x by cases x <;> rfl).trans (atCoherence_performed hs x)
  obtain ⟨hin, hout⟩ := locByte_openedLine (s := afterTurn k ((toBytes n v).map full) s) rfl k (fencesAhead s.me) _ rfl rfl
    (by rw [hlen]; exact hl)
  rw [hlen] at hout
  refine ⟨hcoh, fun j hj => ?_, fun x hx => (hout x hx).trans (hcoh x)⟩
  rw [hin j (by rw [hlen]; exact hj), List.getElem_map, overlay_full, toBytes_get n v j hj]

/-! ### Turns -/

theorem swapBy_me {s : State} {core slot : Nat} {st : Strand} (h : strandAt s core slot = some st) :
    (swapBy (isAt core slot) s).me = st ∧
      { swapBy (isAt core slot) s with me := s.me, others := s.others } = s := by
  unfold strandAt at h
  unfold swapBy
  split at h
  next hp => rw [if_pos hp]; exact ⟨Option.some.inj h, rfl⟩
  next hp => rw [if_neg hp, h]; exact ⟨rfl, rfl⟩

@[simp] theorem swapBy_active (p : Strand → Bool) (s : State) : (swapBy p s).active = s.active := by
  unfold swapBy
  split
  · rfl
  · split <;> rfl

theorem changeSlot_of_next {s : State} {core j : Nat} (h : nextReady s core = some j) : changeSlot core s = setActive core j s := by
  rw [changeSlot, h]

theorem activeSlot_setActive (s : State) (core j : Nat) : activeSlot (setActive core j s) core = j := by
  unfold setActive activeSlot
  dsimp only
  split
  · rw [swapBy_active, tget_tset, if_pos rfl]
  · rw [tget_tset, if_pos rfl]

/-- The turn of a core that has the focus, or of one where no strand has: its new active slot issues next. -/
theorem setActive_focus {s : State} {core j : Nat} {st : Strand} (h : strandAt s core j = some st)
    (hf : s.me.core = core ∨ resident s.me = false) :
    (setActive core j s).me = st ∧ { setActive core j s with me := s.me, others := s.others, active := s.active } = s := by
  have hmine : (!resident s.me || s.me.core == core) = true := by rcases hf with hf | hf <;> simp [hf]
  obtain ⟨hme, hrest⟩ := swapBy_me (s := { s with active := tset s.active core j }) (slot := j) (st := st) h
  unfold setActive
  dsimp only
  rw [if_pos hmine]
  exact ⟨hme, (congrArg (fun t : State => { t with active := s.active }) hrest :)⟩

theorem setActive_elsewhere {s : State} {core j : Nat} (hc : s.me.core ≠ core) (hr : resident s.me = true) :
    setActive core j s = { s with active := tset s.active core j } := by
  simp [setActive, hc, hr]

theorem focus_of_active {s : State} {core : Nat} (hc : s.me.core = core) (hslot : s.me.slot = activeSlot s core) (hr : ready s.me = true) :
    focus core s = s := by
  have hres : resident s.me = true := by
    unfold ready at hr
    exact (Bool.and_eq_true _ _ ▸ hr).1
  have hat : isAt core (activeSlot s core) s.me = true := by simp [isAt, hres, hc, hslot]
  have hready : readyAt s core (activeSlot s core) = true := by simp [readyAt, strandAt, hat, hr]
  simp [focus, hready, swapBy, hat]

theorem execWaitQuantumExpiry_waiting {s : State} {core : Nat} (hc : s.me.core = core) (hslot : s.me.slot = activeSlot s core)
    (hr : ready s.me = true) (hw : s.me.ending = true ∨ s.me.stand.isSome = true) :
    execWaitQuantumExpiry core s = .next (changeSlot core s) := by
  have hwait : waiting' s = true := by rcases hw with hw | hw <;> simp [waiting', stands, hw]
  simp [execWaitQuantumExpiry, focus_of_active hc hslot hr, hc, hr, hwait]

/-- A core that has the focus, or no strand has it: the next ready slot issues next. -/
theorem changeSlot_turn {s : State} {core j : Nat} {st : Strand} (hn : nextReady s core = some j) (h : strandAt s core j = some st)
    (hf : s.me.core = core ∨ resident s.me = false) :
    activeSlot (changeSlot core s) core = j ∧ (changeSlot core s).me = st ∧
      { changeSlot core s with me := s.me, others := s.others, active := s.active } = s := by
  rw [changeSlot_of_next hn]
  exact ⟨activeSlot_setActive .., setActive_focus h hf⟩

end Sys2Proof.Machine

open Sys2Proof.Machine in
/-- Settles O46: the drain of a gang of one strand performs its stores and then the store it stands at; a turn is one change of the
core's active slot. -/
theorem gangAndTurnMoves : Obligations.GangAndTurnMoves := by
  unfold Obligations.GangAndTurnMoves
  intro s core slot
  refine ⟨?_, ?_, fun j st hn hst => ⟨?_, ?_, ?_⟩⟩
  · intro g m a b h w l k hg hm hended hlsn hdet hq hc hrun hstand hs e he hreach hk
    obtain ⟨hcoh, hin, hout⟩ := seen_afterTurn hs k (2 ^ w.toNat) (reg s b).toNat fun j hj => sameLine_of_aligned w rfl hk hj
    exact ⟨_, congrArg Host.Outcome.next (gangDrain_store hg hm hended hlsn hdet hq hc hrun hstand he hreach), rfl, rfl, rfl, rfl,
      rfl, rfl, hcoh, hin, hout⟩
  · intro hin hwfe
    have hat : isAt core slot s.me = true := hin
    show execWfeWake core slot s = _
    simp [execWfeWake, onSlot, onBy, hat, hwfe, endWfe, updMe]
  · intro hf
    exact ⟨_, rfl, changeSlot_turn hn hst hf⟩
  · intro hc hr
    refine ⟨_, rfl, ?_⟩
    rw [changeSlot_of_next hn]
    exact ⟨activeSlot_setActive .., by rw [setActive_elsewhere hc hr]⟩
  · intro hc hslot hr hw
    exact ⟨_, execWaitQuantumExpiry_waiting hc hslot hr hw, changeSlot_turn hn hst (.inl hc)⟩
end
section
/-! The write of a line of the write-combining buffer at the banks (R81, R86), and values at memory (R189, R191). -/

namespace Sys2Proof.Machine

open Sys2Proof.Claims

theorem tfind_filter_bank (bs : List (Nat × PByte)) (bank y : Nat) :
    tfind (bs.filter fun b => bankOf b.1 == bank) y = if bankOf y = bank then tfind bs y else ⟨0, 0⟩ := by
  by_cases hy : bankOf y = bank
  · rw [if_pos hy, tfind_eq, tfind_eq, List.find?_filter]
    have hp : (fun b : Nat × PByte => decide ((bankOf b.1 == bank) = true ∧ (b.1 == y) = true)) = fun b => b.1 == y := by
      funext b
      by_cases hb : b.1 = y
      · simp [hb, hy]
      · simp [hb]
    rw [hp]
  · rw [if_neg hy]
    refine tfind_of_notMem fun hm => ?_
    obtain ⟨c, hc, rfl⟩ := List.mem_map.1 hm
    exact hy (by simpa using (List.mem_filter.1 hc).2)

/-- A write made again changes nothing. -/
theorem overlay_overlay (b : Byte) (p : PByte) : overlay (overlay b p) p = overlay b p := by
  unfold overlay
  ext i hi
  simp
  cases p.mask[i] <;> cases b[i] <;> simp

/-- A fold in which one member of a list alone changes anything, and once. -/
theorem foldl_of_one {α β : Type} {g : β → α → β} {a : α} (hidem : ∀ b, g (g b a) a = g b a) (l : List α)
    (h : ∀ x ≠ a, ∀ b, g b x = b) : ∀ b, l.foldl g (g b a) = g b a ∧ (a ∈ l → l.foldl g b = g b a) := by
  induction l with
  | nil => exact fun b => ⟨rfl, fun ha => by cases ha⟩
  | cons x t ih =>
    intro b
    obtain ⟨hdone, hfirst⟩ := ih b
    rw [List.foldl_cons, List.foldl_cons]
    by_cases hx : x = a
    · subst hx
      exact ⟨by rw [hidem, hdone], fun _ => hdone⟩
    · rw [h x hx, h x hx]
      exact ⟨hdone, fun ha => hfirst ((List.mem_cons.1 ha).resolve_left (Ne.symm hx))⟩

/-- The requests that a line drains into write what stood in the line, each byte by the request to its bank. -/
theorem cget_lineReqs (core : Nat) (x : WLine) (hn : (x.bytes.map Prod.fst).Nodup) (m : List Host.Cell) (y : Nat) :
    cget zeros ((lineReqs core x).foldl reqMem m) y = overlay (cget zeros m y) (tfind x.bytes y) := by
  have hfold : (lineReqs core x).foldl reqMem m =
      ((x.bytes.map fun b => bankOf b.1).eraseDups).foldl
        (fun m bank => putBytes m (x.bytes.filter fun b => bankOf b.1 == bank)) m := by
    rw [lineReqs, List.foldl_map]
    rfl
  rw [hfold, cget_performed _ _ _ fun bank _ => hn.sublist (List.filter_sublist.map _)]
  by_cases hy : y ∈ x.bytes.map Prod.fst
  · have hbank : bankOf y ∈ (x.bytes.map fun b => bankOf b.1).eraseDups := by
      obtain ⟨b, hb, rfl⟩ := List.mem_map.1 hy
      exact List.mem_eraseDups.2 (List.mem_map.2 ⟨b, hb, rfl⟩)
    have hother : ∀ bank ≠ bankOf y, ∀ b : Byte,
        overlay b (tfind (x.bytes.filter fun c => bankOf c.1 == bank) y) = b := fun bank hne b => by
      rw [tfind_filter_bank, if_neg (Ne.symm hne), overlay_none]
    refine ((foldl_of_one (g := fun b bank => overlay b (tfind (x.bytes.filter fun c => bankOf c.1 == bank) y))
      (fun b => overlay_overlay b _) _ hother _).2 hbank).trans ?_
    rw [tfind_filter_bank, if_pos rfl]
  · rw [tfind_of_notMem hy, overlay_none]
    refine (foldl_filter_of_id _ (fun _ => false) _ (fun bank _ _ b => ?_) _).symm.trans ?_
    · rw [tfind_filter_bank, tfind_of_notMem hy, ite_self, overlay_none]
    · rw [List.filter_eq_nil_iff.2 (by simp)]
      rfl

/-- The requests of a line lie all in channels or all in port queues. -/
theorem settleOrder_lineReqs {n : List NetReq} (hn : ∀ q ∈ n, q.inChannel = false) (core : Nat) (x : WLine) :
    settleOrder (n ++ lineReqs core x) = n ++ lineReqs core x := by
  have hin : n.filter (fun r => !r.inChannel) = n := List.filter_eq_self.2 fun q hq => by simp [hn q hq]
  have hout : n.filter (fun r => r.inChannel) = [] := List.filter_eq_nil_iff.2 fun q hq => by simp [hn q hq]
  have hreq : ∀ q ∈ lineReqs core x, q.inChannel = (x.line * 256 / spadSize != core) := by
    intro q hq
    obtain ⟨bank, -, rfl⟩ := List.mem_map.1 hq
    rfl
  rw [settleOrder, List.filter_append, List.filter_append, hin, hout, List.nil_append]
  cases hc : x.line * 256 / spadSize != core with
  | true =>
    have hsome : (lineReqs core x).filter (fun r => r.inChannel) = lineReqs core x :=
      List.filter_eq_self.2 fun q hq => (hreq q hq).trans hc
    have hnone : (lineReqs core x).filter (fun r => !r.inChannel) = [] :=
      List.filter_eq_nil_iff.2 fun q hq => by simp [hreq q hq, hc]
    rw [hsome, hnone, List.append_nil]
  | false =>
    have hsome : (lineReqs core x).filter (fun r => !r.inChannel) = lineReqs core x :=
      List.filter_eq_self.2 fun q hq => by simp [hreq q hq, hc]
    have hnone : (lineReqs core x).filter (fun r => r.inChannel) = [] :=
      List.filter_eq_nil_iff.2 fun q hq => by simp [hreq q hq, hc]
    rw [hsome, hnone, List.append_nil]

/-- With nothing in a channel, requests are served as they stand. -/
theorem settled_portsOnly {s : State} (h : PortsOnly s) : settled s = s.net.foldl reqMem s.spad := by
  have hin : s.net.filter (fun r => !r.inChannel) = s.net := List.filter_eq_self.2 fun q hq => by simp [h q hq]
  have hout : s.net.filter (fun r => r.inChannel) = [] := List.filter_eq_nil_iff.2 fun q hq => by simp [h q hq]
  rw [settled, settleOrder, hin, hout, List.append_nil]

/-! ### Numbers and their bytes -/

theorem ofBytes_lt (bs : List Byte) : ofBytes bs < 2 ^ (8 * bs.length) := by
  induction bs with
  | nil => decide
  | cons b t ih =>
    rw [ofBytes, List.length_cons, show 8 * (t.length + 1) = 8 * t.length + 8 from rfl, Nat.pow_add]
    have := b.isLt
    omega

theorem ofBytes_toBytes (n : Nat) : ∀ x, ofBytes (toBytes n x) = x % 2 ^ (8 * n) := by
  induction n with
  | zero => exact fun x => (Nat.mod_one x).symm
  | succ n ih =>
    intro x
    rw [toBytes, ofBytes, ih, BitVec.toNat_ofNat, show 8 * (n + 1) = 8 + 8 * n by omega, Nat.pow_add, Nat.mod_mul]

/-- What is written is read back. -/
theorem cgets_csets {w : Nat} (dflt : Nat → BitVec w) (m : Cells w) (a : Nat) (xs : List (BitVec w)) :
    cgets dflt (csets dflt m a xs) a xs.length = xs := by
  unfold cgets upTo
  refine List.ext_getElem (by simp) fun j hj hx => ?_
  rw [List.getElem_map, List.getElem_range, cget_csets, if_pos ⟨by omega, by omega⟩]
  simp [hx]

theorem toInt_eq_ofNat (n x : Nat) : toInt n x = (BitVec.ofNat n x).toInt := by
  unfold toInt
  dsimp only
  rw [BitVec.toInt_eq_toNat_cond, BitVec.toNat_ofNat]
  cases n with
  | zero => simp [Nat.mod_one]
  | succ n =>
    have hp : 2 ^ (n + 1) = 2 * 2 ^ n := by rw [Nat.pow_succ, Nat.mul_comm]
    rw [if_neg (Nat.succ_ne_zero n), Nat.add_sub_cancel, hp]
    generalize x % (2 * 2 ^ n) = y
    split_ifs <;> omega

/-- The new value of an atomic of Table 3.5 is that of the table, and its bytes hold it. -/
theorem amoNew_eq {op n w b : Nat} (hop : op < 9) (hw : w < 2 ^ (8 * n)) (hb : b < 2 ^ (8 * n)) :
    amoNew op n w b = atomicResult (BitVec.ofNat 4 op) n w b ∧ amoNew op n w b < 2 ^ (8 * n) := by
  have hite : ∀ p : Prop, ∀ _ : Decidable p, ∀ x y : Nat, x < 2 ^ (8 * n) → y < 2 ^ (8 * n) →
      (if p then x else y) < 2 ^ (8 * n) :=
    fun p _ x y hx hy => by split <;> assumption
  interval_cases op
  · exact ⟨rfl, Nat.mod_lt _ (Nat.two_pow_pos _)⟩
  · exact ⟨rfl, Nat.and_lt_two_pow _ hb⟩
  · exact ⟨rfl, Nat.or_lt_two_pow hw hb⟩
  · exact ⟨rfl, Nat.xor_lt_two_pow hw hb⟩
  · refine ⟨?_, hite _ _ _ _ hb hw⟩
    show (if toInt (8 * n) b < toInt (8 * n) w then b else w) =
      if (BitVec.ofNat (8 * n) w).toInt ≤ (BitVec.ofNat (8 * n) b).toInt then w else b
    rw [toInt_eq_ofNat, toInt_eq_ofNat]
    split_ifs <;> omega
  · refine ⟨?_, hite _ _ _ _ hb hw⟩
    show (if toInt (8 * n) w < toInt (8 * n) b then b else w) =
      if (BitVec.ofNat (8 * n) b).toInt ≤ (BitVec.ofNat (8 * n) w).toInt then w else b
    rw [toInt_eq_ofNat, toInt_eq_ofNat]
    split_ifs <;> omega
  · exact ⟨rfl, (Nat.min_le_left w b).trans_lt hw⟩
  · refine ⟨?_, Nat.max_lt.2 ⟨hw, hb⟩⟩
    show max w b = if b ≤ w then w else b
    split_ifs <;> omega
  · exact ⟨rfl, hb⟩

end Sys2Proof.Machine
end
section
/-! Stores, loads and atomics on their way: the moves DRAIN, DELIVER, SERVE and HOST_PERFORM (R36, R85, R86, R91, R93, R99, R191). -/

namespace Sys2Proof.Machine

open Sys2Proof.Claims

theorem onSlot_me {core slot : Nat} {s : State} (h : isAt core slot s.me = true) (f : State → State) :
    onSlot core slot f s = f s := by
  rw [onSlot, onBy, if_pos h]

/-- A write that a list names once is the one that waits there. -/
theorem tfind_of_mem {bs : List (Nat × PByte)} (hn : (bs.map Prod.fst).Nodup) {x : Nat × PByte} (hx : x ∈ bs) :
    tfind bs x.1 = x.2 := by
  induction bs with
  | nil => cases hx
  | cons b bs ih =>
    rw [List.map_cons, List.nodup_cons] at hn
    obtain ⟨hb, hn⟩ := hn
    rcases List.mem_cons.1 hx with rfl | hx
    · simp [tfind, tget]
    · have hne : b.1 ≠ x.1 := fun h => hb (h ▸ List.mem_map_of_mem hx)
      exact (show tfind (b :: bs) x.1 = tfind bs x.1 by simp [tfind, tget, hne]).trans (ih hn hx)

/-- Bytes written each once: those named get their writes, the others stay. -/
theorem cget_putBytes_cases {bs : List (Nat × PByte)} (hn : (bs.map Prod.fst).Nodup) (m : List Host.Cell) :
    (∀ x ∈ bs, cget zeros (putBytes m bs) x.1 = overlay (cget zeros m x.1) x.2) ∧
      ∀ k, (∀ x ∈ bs, x.1 ≠ k) → cget zeros (putBytes m bs) k = cget zeros m k := by
  constructor
  · intro x hx
    rw [cget_putBytes bs x.1 m hn, tfind_of_mem hn hx]
  · intro k hk
    rw [cget_putBytes bs k m hn, tfind_of_notMem, overlay_none]
    intro hm
    obtain ⟨x, hx, rfl⟩ := List.mem_map.1 hm
    exact hk x hx rfl

/-- The first member that a test names, and the list without it. -/
theorem find_split {α : Type} {p : α → Bool} {a b : List α} {r : α} (ha : ∀ x ∈ a, p x = false) (hr : p r = true) :
    (a ++ r :: b).find? p = some r ∧ dropFirst p (a ++ r :: b) = a ++ b := by
  induction a with
  | nil => simp [dropFirst, hr]
  | cons x a ih =>
    obtain ⟨hf, hd⟩ := ih fun y hy => ha y (by simp [hy])
    have hx := ha x (by simp)
    simp [dropFirst, hx, hf, hd]

/-- An arrival at the strand that issues. -/
theorem toOwner_me {x : Late} {s : State} (h : isStrand x.fn x.seq x.gang x.lsn s.me = true) (f : Strand → Strand) :
    (toOwner x f s).me = f s.me := if_pos h

theorem land_load {x : Late} {d : BitVec 5} {w : BitVec 3} (h : x.kind = .load d w) (bs : List Byte) :
    land x bs = landReg x.id d (loadValue w bs) := by
  funext st
  rw [land, h]

/-! ### DRAIN -/

theorem execDrain_eq {core slot line : Nat} {s : State} (h : isAt core slot s.me = true) :
    execDrain core slot line s = .next (if s.me.det then s else drainLine s line) := by
  rw [execDrain, onSlot_me h]

/-- The line that a drain finds stands before the others of its address, which wait for VFENCEs. -/
theorem lines_of_drained {l : List WLine} {line : Nat} (hkeys : (l.map fun x => (x.line, x.held)).Nodup)
    (hheld : (l.map WLine.held).Pairwise (· ≤ ·)) {x : WLine} (hx : wcbFind l line 0 = some x) :
    (l.filter fun z => z.line == line) =
      x :: (l.filter fun y => !(y.line == line && y.held == 0)).filter fun z => z.line == line := by
  have hfree : x.line = line ∧ x.held = 0 := by simpa using List.find?_some hx
  obtain ⟨hline, hx0⟩ := hfree
  induction l with
  | nil => cases hx
  | cons z l ih =>
    rw [List.map_cons, List.nodup_cons] at hkeys
    rw [List.map_cons, List.pairwise_cons] at hheld
    obtain ⟨hz, hkeys⟩ := hkeys
    obtain ⟨hzl, hheld⟩ := hheld
    by_cases hp : z.line = line ∧ z.held = 0
    · obtain ⟨hzline, hz0⟩ := hp
      have hxz : z = x := by simpa [wcbFind, hzline, hz0] using hx
      have hothers : ∀ y ∈ l, ¬(y.line = line ∧ y.held = 0) := fun y hy he =>
        hz (List.mem_map.2 ⟨y, hy, by rw [he.1, he.2, hzline, hz0]⟩)
      have hkeep : l.filter (fun y => !(y.line == line && y.held == 0)) = l :=
        List.filter_eq_self.2 fun y hy => by simpa [imp_iff_not_or] using hothers y hy
      rw [List.filter_cons_of_pos (by simp [hzline]), List.filter_cons_of_neg (by simp [hzline, hz0]), hkeep, hxz]
    · have hx' : wcbFind l line 0 = some x := by
        rw [wcbFind, List.find?_cons_of_neg (by simpa using hp)] at hx
        exact hx
      have hzne : z.line ≠ line := by
        intro he
        have hmem : x ∈ l := List.mem_of_find?_eq_some hx'
        have : z.held ≤ x.held := hzl _ (List.mem_map_of_mem hmem)
        exact hp ⟨he, by omega⟩
      rw [List.filter_cons_of_neg (by simpa using hzne), List.filter_cons_of_pos (by simp [hzne]),
        List.filter_cons_of_neg (by simpa using hzne)]
      exact ih hkeys hheld hx'

theorem drainAt_of_find {line held : Nat} {s : State} {x : WLine} (h : wcbFind s.me.wcb line held = some x) :
    drainAt line held s = { s with
      me := { s.me with wcb := s.me.wcb.filter fun y => !(y.line == line && y.held == held) }
      net := s.net ++ lineReqs s.me.core x } := by
  rw [drainAt, h]

theorem drainAt_of_none {line held : Nat} {s : State} (h : wcbFind s.me.wcb line held = none) : drainAt line held s = s := by
  rw [drainAt, h]

/-- A line that leaves the buffer is seen as before: its bytes are on their way. -/
theorem seen_drainLine {s : State} (hs : StoresOk s) (hp : PortsOnly s) (line : Nat) (l : Loc) :
    seen (drainLine s line) l = seen s l := by
  obtain ⟨hkeys, hlines, -, hheld, -⟩ := hs
  unfold drainLine
  cases hf : wcbFind s.me.wcb line 0 with
  | none => rw [drainAt_of_none hf]
  | some x =>
    rw [drainAt_of_find hf, seen, seen, locByte_settle, locByte_settle]
    cases l with
    | host pa => rfl
    | spad y =>
      have hmem : x ∈ s.me.wcb := List.mem_of_find?_eq_some hf
      have hline : x.line = line := by
        have := List.find?_some hf
        simp only [Bool.and_eq_true, beq_iff_eq] at this
        exact this.1
      have hnodup : (x.bytes.map Prod.fst).Nodup := (hlines x hmem).1.imp Nat.ne_of_lt
      have hsettled : cget zeros (settled { s with
          me := { s.me with wcb := s.me.wcb.filter fun y => !(y.line == line && y.held == 0) }
          net := s.net ++ lineReqs s.me.core x }) y = overlay (cget zeros (settled s) y) (tfind x.bytes y) := by
        rw [settled, settleOrder_lineReqs hp, List.foldl_append, ← settled_portsOnly hp, cget_lineReqs _ _ hnodup]
      dsimp only
      rw [overlay_lines, overlay_lines, hsettled]
      dsimp only
      by_cases hy : line = y / 256
      · subst hy
        rw [lines_of_drained hkeys hheld hf, List.foldl_cons]
      · have hnone : tfind x.bytes y = ⟨0, 0⟩ := by
          refine tfind_of_notMem fun hm => hy ?_
          obtain ⟨b, hb, rfl⟩ := List.mem_map.1 hm
          rw [(hlines x hmem).2 b hb, hline]
        have hfilter : (s.me.wcb.filter fun y => !(y.line == line && y.held == 0)).filter (fun z => z.line == y / 256) =
            s.me.wcb.filter fun z => z.line == y / 256 := by
          rw [List.filter_filter]
          refine List.filter_congr fun z _ => ?_
          by_cases hz : z.line = y / 256
          · simp [hz, Ne.symm hy]
          · simp [hz]
        rw [hnone, overlay_none, hfilter]

theorem drainLine_takes (s : State) (line : Nat) :
    (∀ x, x ∈ (drainLine s line).me.wcb ↔ x ∈ s.me.wcb ∧ ¬(x.line = line ∧ x.held = 0)) ∧
      { drainLine s line with net := s.net, me := { (drainLine s line).me with wcb := s.me.wcb } } = s := by
  unfold drainLine
  cases hf : wcbFind s.me.wcb line 0 with
  | none =>
    rw [drainAt_of_none hf]
    refine ⟨fun x => ⟨fun hx => ⟨hx, fun he => ?_⟩, And.left⟩, rfl⟩
    exact absurd (List.find?_eq_none.1 hf x hx) (by simp [he.1, he.2])
  | some x =>
    rw [drainAt_of_find hf]
    exact ⟨fun z => by simp [List.mem_filter, imp_iff_not_or], rfl⟩

/-! ### DELIVER -/

theorem deliver_request {src dst : Nat} {s : State} {a b : List NetReq} {r : NetReq} (hnet : s.net = a ++ r :: b)
    (ha : ∀ x ∈ a, ¬(x.inChannel = true ∧ x.src = src ∧ x.dst = dst)) (hc : r.inChannel = true) (hsrc : r.src = src)
    (hdst : r.dst = dst) :
    deliver src dst s = if r.reply.isSome then serveReq { s with net := a ++ b } r
      else { s with net := a ++ b ++ [{ r with inChannel := false }] } := by
  obtain ⟨hfind, hdrop⟩ := find_split (p := fun r : NetReq => r.inChannel && r.src == src && r.dst == dst) (a := a) (b := b)
    (r := r) (fun x hx => by simpa [and_assoc] using ha x hx) (by simp [hc, hsrc, hdst])
  unfold deliver
  dsimp only
  rw [hnet, hfind]
  dsimp only
  rw [hdrop]

/-- A reply reaches the strand that asked. -/
theorem serveReq_reply {s : State} {r : NetReq} {bs : List Byte} {x : Late} {d : BitVec 5} {w : BitVec 3} (hr : r.reply = some bs)
    (hx : r.late = some x) (hk : x.kind = .load d w) (hme : isStrand x.fn x.seq x.gang x.lsn s.me = true) :
    (serveReq s r).net = s.net ∧ (serveReq s r).me = landReg x.id d (loadValue w bs) s.me ∧ (serveReq s r).spad = s.spad ∧
      (serveReq s r).host = s.host := by
  have hmem : reqMem s.spad r = s.spad := by rw [reqMem, hr]
  unfold serveReq
  rw [hx, hmem, hr]
  dsimp only
  refine ⟨rfl, ?_, rfl, rfl⟩
  rw [toOwner_me hme, land_load hk]
  rfl

/-! ### SERVE -/

/-- How far a port stands behind the one that was served last. -/
def portRank (last p : Nat) : Nat := (p + 2 - last % 3) % 3

/-- The turn is that of the port with a request that is served soonest. -/
theorem portTurn_eq {s : State} {core bank port : Nat} (hport : port < 3) (hat : s.net.any (atPort core bank port) = true) :
    (∀ p < 3, s.net.any (atPort core bank p) = true →
        portRank (tget 0 s.turns (core * 64 + bank)) port ≤ portRank (tget 0 s.turns (core * 64 + bank)) p) ↔
      portTurn s core bank = some port := by
  unfold portTurn portRank
  generalize tget 0 s.turns (core * 64 + bank) = last
  obtain ⟨l, hl, hlast⟩ : ∃ l, l < 3 ∧ last % 3 = l := ⟨_, Nat.mod_lt _ (by decide), rfl⟩
  have h1 : (last + 1) % 3 = (l + 1) % 3 := by omega
  have h2 : (last + 2) % 3 = (l + 2) % 3 := by omega
  dsimp only
  rw [hlast, h1, h2]
  generalize hq : (fun p => s.net.any (atPort core bank p)) = q at hat ⊢
  have hat' : q port = true := by rw [← hq]; exact hat
  have hany : ∀ p, s.net.any (atPort core bank p) = q p := fun p => by rw [← hq]
  simp only [hany]
  clear hq hany hat h1 h2 hlast
  have hall : (∀ p < 3, q p = true → (port + 2 - l) % 3 ≤ (p + 2 - l) % 3) ↔
      (q 0 = true → (port + 2 - l) % 3 ≤ (0 + 2 - l) % 3) ∧ (q 1 = true → (port + 2 - l) % 3 ≤ (1 + 2 - l) % 3) ∧
        (q 2 = true → (port + 2 - l) % 3 ≤ (2 + 2 - l) % 3) := by
    constructor
    · exact fun h => ⟨h 0 (by decide), h 1 (by decide), h 2 (by decide)⟩
    · rintro ⟨h0, h1, h2⟩ p hp
      interval_cases p
      · exact h0
      · exact h1
      · exact h2
  rw [hall]
  interval_cases l <;> interval_cases port <;> cases h0 : q 0 <;> cases h1 : q 1 <;> cases h2 : q 2 <;> simp_all

/-- The state with the head of a port queue taken in its turn. -/
def takenAt (core bank port : Nat) (net : List NetReq) (s : State) : State :=
  { s with net := net, turns := tset s.turns (core * 64 + bank) port }

theorem turn_takenAt (core bank port : Nat) (net : List NetReq) (s : State) :
    tget 0 (takenAt core bank port net s).turns (core * 64 + bank) = port := by
  rw [takenAt, tget_tset, if_pos rfl]

theorem execServe_eq {core bank port : Nat} {s : State} {a b : List NetReq} {r : NetReq} (hnet : s.net = a ++ r :: b)
    (ha : ∀ x ∈ a, ¬(x.inChannel = false ∧ x.dst = core ∧ x.bank = bank ∧ x.port = port)) (hc : r.inChannel = false)
    (hdst : r.dst = core) (hbank : r.bank = bank) (hport : r.port = port) :
    s.net.any (atPort core bank port) = true ∧
      execServe core bank port s = .next (match portTurn s core bank with
        | some p => if p = port then serve r (takenAt core bank port (a ++ b) s) else s
        | none => s) := by
  have hr : atPort core bank port r = true := by simp [atPort, hc, hdst, hbank, hport]
  obtain ⟨hfind, hdrop⟩ := find_split (p := atPort core bank port) (a := a) (b := b) (r := r)
    (fun x hx => by simpa [atPort, imp_iff_not_or, or_assoc] using ha x hx) hr
  rw [← hnet] at hfind hdrop
  refine ⟨List.any_eq_true.2 ⟨r, List.mem_of_find?_eq_some hfind, hr⟩, ?_⟩
  unfold execServe
  rw [hfind, hdrop]
  cases portTurn s core bank <;> rfl

/-- A port with a request waits for its turn where another is served sooner. -/
theorem portTurn_iff_first {s : State} {core bank port : Nat} (hport : port < 3) (hat : s.net.any (atPort core bank port) = true) :
    (∀ q ∈ s.net, q.inChannel = false → q.dst = core → q.bank = bank → q.port < 3 →
      portRank (tget 0 s.turns (core * 64 + bank)) port ≤ portRank (tget 0 s.turns (core * 64 + bank)) q.port) ↔
      portTurn s core bank = some port := by
  rw [← portTurn_eq hport hat]
  constructor
  · intro h p hp hany
    obtain ⟨q, hq, he⟩ := List.any_eq_true.1 hany
    simp only [atPort, Bool.and_eq_true, Bool.not_eq_true', beq_iff_eq] at he
    obtain ⟨⟨⟨hc, hd⟩, hb⟩, rfl⟩ := he
    exact h q hq hc hd hb hp
  · intro h q hq hc hd hb hp
    exact h q.port hp (List.any_eq_true.2 ⟨q, hq, by simp [atPort, hc, hd, hb]⟩)

theorem execServe_first {core bank port : Nat} {s : State} {a b : List NetReq} {r : NetReq} (hnet : s.net = a ++ r :: b)
    (ha : ∀ x ∈ a, ¬(x.inChannel = false ∧ x.dst = core ∧ x.bank = bank ∧ x.port = port)) (hc : r.inChannel = false)
    (hdst : r.dst = core) (hbank : r.bank = bank) (hrport : r.port = port) (hport : port < 3) :
    let first := ∀ q ∈ s.net, q.inChannel = false → q.dst = core → q.bank = bank → q.port < 3 →
      portRank (tget 0 s.turns (core * 64 + bank)) port ≤ portRank (tget 0 s.turns (core * 64 + bank)) q.port
    (¬first → execServe core bank port s = .next s) ∧
      (first → execServe core bank port s = .next (serve r (takenAt core bank port (a ++ b) s))) := by
  obtain ⟨hat, he⟩ := execServe_eq hnet ha hc hdst hbank hrport
  dsimp only
  rw [portTurn_iff_first hport hat, he]
  constructor
  · intro hne
    cases hp : portTurn s core bank with
    | none => rfl
    | some p =>
      have : p ≠ port := fun h => hne (by rw [hp, h])
      simp [this]
  · intro hp
    simp [hp]

/-- A load's request changes no byte of the scratchpads. -/
theorem reqMem_load {m : List Host.Cell} {r : NetReq} {x : Late} {d : BitVec 5} {w : BitVec 3} (hx : r.late = some x)
    (hk : x.kind = .load d w) : reqMem m r = m := by
  unfold reqMem
  rw [hx]
  cases r.reply with
  | some bs => rfl
  | none => simp [lateMem, hk]

theorem serve_write {r : NetReq} {t : State} (hr : r.reply = none) (hl : r.late = none) :
    serve r t = { t with spad := putBytes t.spad r.bytes } := by
  simp [serve, serveReq, reqMem, hr, hl]

/-- A load by the die fabric: its reply goes back. -/
theorem serve_load_fabric {r : NetReq} {t : State} {x : Late} {d : BitVec 5} {w : BitVec 3} (hp : r.port = 1) (hx : r.late = some x)
    (hk : x.kind = .load d w) :
    serve r t = { t with net := t.net ++
      [{ r with src := r.dst, dst := r.src, inChannel := true, reply := some (lateBytes t.spad x) }] } := by
  simp [serve, hx, hp, reqMem_load hx hk, replyOf]

/-- A load by the crossbar reaches its strand at once. -/
theorem serve_load_crossbar {r : NetReq} {t : State} {x : Late} {d : BitVec 5} {w : BitVec 3} (hp : r.port ≠ 1)
    (hr : r.reply = none) (hx : r.late = some x) (hk : x.kind = .load d w) :
    serve r t = toOwner x (landReg x.id d (loadValue w (lateBytes t.spad x))) t := by
  have hserve : serve r t = serveReq t r := by
    unfold serve
    split
    next h => exact absurd h hp
    · rfl
  rw [hserve, serveReq, hx]
  dsimp only
  rw [reqMem_load hx hk, hr, land_load hk]
  rfl

/-! ### HOST_PERFORM -/

theorem execHostPerform_eq {core slot : Nat} {s : State} (h : isAt core slot s.me = true) :
    execHostPerform core slot s = .next (hostMove s) := by
  rw [execHostPerform, onSlot_me h]

/-- No load stands in a path of stores before its first atomic. -/
theorem firstLoad_none : ∀ (p ahead : List HStore), (∀ y ∈ p, ∀ l, y.late = some l → isLoad l = false) →
    firstLoad ahead p = none
  | [], _, _ => rfl
  | y :: t, ahead, h => by
    unfold firstLoad
    cases hl : y.late with
    | none => exact firstLoad_none t _ fun z hz => h z (by simp [hz])
    | some l => simp [h y (by simp) l hl]

theorem isLoad_of_load {x : Late} {d : BitVec 5} {w : BitVec 3} (hk : x.kind = .load d w) : isLoad x = true := by
  simp [isLoad, hk]

/-- Without a load to pass others, the path's head is performed where it may be. -/
theorem hostMove_head {s : State} (h : firstLoad [] s.me.hpath = none) :
    hostMove s = if headPerforms s.me then performHead s else s := by
  rw [hostMove, h]

theorem hostMove_store {s : State} {e : HStore} {rest : List HStore} (hp : s.me.hpath = e :: rest) (he : e.late = none)
    (hrest : ∀ y ∈ rest, ∀ l, y.late = some l → isLoad l = false) :
    (0 < e.held ∨ s.me.det = true → hostMove s = s) ∧
      (e.held = 0 → s.me.det = false →
        hostMove s = { s with host := putBytes s.host e.bytes, me := { s.me with hpath := rest } }) := by
  have hnone : firstLoad [] s.me.hpath = none := by
    rw [hp]
    refine firstLoad_none _ _ fun y hy l hl => ?_
    rcases List.mem_cons.1 hy with rfl | hy
    · rw [he] at hl
      cases hl
    · exact hrest y hy l hl
  rw [hostMove_head hnone]
  constructor
  · intro h
    have hno : headPerforms s.me = false := by
      unfold headPerforms
      rw [hp]
      rcases h with h | h
      · simp [Nat.ne_of_gt h]
      · simp [h, he]
    rw [hno]
    rfl
  · intro h0 hdet
    have hyes : headPerforms s.me = true := by simp [headPerforms, hp, h0, hdet]
    rw [hyes, if_pos rfl, performHead, hp]
    simp [performHost, he]

/-- A load of the path with the stores ahead of it passed. -/
def passed (ahead rest : List HStore) (x : Late) (s : State) : State :=
  performLoad ahead x { s with me := { s.me with hpath := ahead ++ rest } }

theorem passed_me {ahead rest : List HStore} {x : Late} {d : BitVec 5} {w : BitVec 3} {s : State} (hk : x.kind = .load d w)
    (hme : isStrand x.fn x.seq x.gang x.lsn s.me = true) :
    (passed ahead rest x s).host = s.host ∧
      (passed ahead rest x s).me = landReg x.id d (loadValue w ((List.range x.n).map fun j =>
        overlay (atCoherence s (.host (x.key + j))) (pathBits ahead (x.key + j)))) { s.me with hpath := ahead ++ rest } := by
  refine ⟨rfl, ?_⟩
  unfold passed performLoad
  dsimp only
  rw [land_load hk]
  exact toOwner_me (s := { s with me := { s.me with hpath := ahead ++ rest } }) hme _

theorem hostMove_load {s : State} {rest : List HStore} {e : HStore} {x : Late} {d : BitVec 5} {w : BitVec 3}
    (hp : s.me.hpath = e :: rest) (hx : e.late = some x) (hk : x.kind = .load d w) : hostMove s = bump (passed [] rest x s) := by
  have hfirst : firstLoad [] s.me.hpath = some ([], x, rest) := by simp [hp, firstLoad, hx, isLoad_of_load hk]
  simp [hostMove, hfirst, passed]

theorem hostMove_passing {s : State} {e y : HStore} {ys : List HStore} {x : Late} {d : BitVec 5} {w : BitVec 3}
    (hp : s.me.hpath = e :: y :: ys) (he : e.late = none) (hy : y.late = some x) (hk : x.kind = .load d w) :
    (e.held = 0 ∧ s.me.det = false ∧
        hostMove s = bump { s with host := putBytes s.host e.bytes, me := { s.me with hpath := y :: ys } }) ∨
      hostMove s = bump (passed [e] ys x s) := by
  have hfirst : firstLoad [] s.me.hpath = some ([e], x, ys) := by simp [hp, firstLoad, he, hy, isLoad_of_load hk]
  have hhead : performHead s = { s with host := putBytes s.host e.bytes, me := { s.me with hpath := y :: ys } } := by
    simp [performHead, hp, performHost, he]
  unfold hostMove
  rw [hfirst]
  dsimp only
  split
  next hc =>
    simp only [Bool.and_eq_true, headPerforms, hp, he, Option.isNone_none, Bool.and_true, Bool.not_eq_true', beq_iff_eq] at hc
    obtain ⟨⟨⟨h0, hdet⟩, -⟩, -⟩ := hc
    exact .inl ⟨h0, hdet, by rw [hhead]⟩
  · exact .inr rfl

theorem hostMove_amo {s : State} {e : HStore} {rest : List HStore} {x : Late} {d : BitVec 5} {op b : Nat}
    (hp : s.me.hpath = e :: rest) (hx : e.late = some x) (hk : x.kind = .amo d op b) (h0 : e.held = 0) :
    hostMove s = toOwner x (land x (lateBytes s.host x))
      { s with host := lateMem s.host x, me := { s.me with hpath := rest } } := by
  have hload : isLoad x = false := by simp [isLoad, hk]
  have hfirst : firstLoad [] s.me.hpath = none := by simp [hp, firstLoad, hx, hload]
  have hyes : headPerforms s.me = true := by simp [headPerforms, hp, h0, hx]
  rw [hostMove_head hfirst, hyes, if_pos rfl, performHead, hp]
  simp [performHost, hx]

/-- With nothing forwarded the bytes read are those of memory. -/
theorem lateBytes_of_no_fwd {x : Late} (h : x.fwd.all (· == ⟨0, 0⟩) = true) (m : List Host.Cell) :
    lateBytes m x = cgets zeros m x.key x.n := by
  unfold lateBytes cgets
  refine List.map_congr_left fun j _ => ?_
  have hnone : x.fwd.getD j ⟨0, 0⟩ = ⟨0, 0⟩ := by
    rw [List.getD_eq_getElem?_getD]
    cases hj : x.fwd[j]? with
    | none => rfl
    | some p => exact beq_iff_eq.1 (List.all_eq_true.1 h p (List.mem_of_getElem? hj))
  rw [hnone, overlay_none]

theorem coherent_lt (s : State) (pa n : Nat) : coherent s (.host pa) n < 2 ^ (8 * n) := by
  have h := ofBytes_lt (cgets zeros s.host pa n)
  rwa [show (cgets zeros s.host pa n).length = n by simp [cgets, upTo]] at h

theorem coherent_of_written {m : List Host.Cell} {t : State} {pa n v : Nat} (ht : t.host = csets zeros m pa (toBytes n v))
    (hv : v < 2 ^ (8 * n)) : coherent t (.host pa) n = v := by
  have h := cgets_csets zeros m pa (toBytes n v)
  rw [toBytes_len] at h
  show ofBytes (cgets zeros t.host pa n) = v
  rw [ht, h, ofBytes_toBytes, Nat.mod_eq_of_lt hv]

end Sys2Proof.Machine

open Sys2Proof.Machine Sys2Proof.Claims in
/-- Settles O44, move by move: a drained line goes on as requests that write what stood in it; the head of a channel and of a port
queue in its turn; the head of the host path, or the load that passes the store ahead of it. -/
theorem storeMoves : Obligations.StoreMoves := by
  unfold Obligations.StoreMoves
  intro s
  refine ⟨fun core slot line hin => ⟨fun hdet => ?_, fun hdet hs hp => ?_⟩, fun src dst a r b hnet ha hc hsrc hdst => ⟨?_, ?_⟩,
    fun core bank port a r b hnet ha hc hdst hbank hrport hr hport => ?_, fun core slot e rest hin hpath => ⟨?_, ?_, ?_, ?_⟩⟩
  · exact (execDrain_eq hin).trans (by rw [hdet]; rfl)
  · obtain ⟨hmem, hframe⟩ := drainLine_takes s line
    exact ⟨_, (execDrain_eq hin).trans (by rw [hdet]; rfl), hmem, seen_drainLine hs hp line, hframe⟩
  · intro hr
    refine congrArg Host.Outcome.next ((deliver_request hnet ha hc hsrc hdst).trans ?_)
    rw [hr]
    rfl
  · intro bs x d w hr hx hk hme
    refine ⟨_, congrArg Host.Outcome.next ((deliver_request hnet ha hc hsrc hdst).trans (if_pos (by rw [hr]; rfl))), ?_⟩
    exact serveReq_reply (s := { s with net := a ++ b }) hr hx hk hme
  · obtain ⟨hnot, hfirst⟩ := execServe_first hnet ha hc hdst hbank hrport hport
    refine ⟨hnot, fun h => ⟨fun hl hn => ⟨_, (hfirst h).trans (congrArg _ (serve_write hr hl)), rfl, ?_, rfl, ?_⟩, ?_⟩⟩
    · exact turn_takenAt core bank port (a ++ b) s
    · exact cget_putBytes_cases hn s.spad
    · intro x d w hx hk
      by_cases hp1 : port = 1
      · exact ⟨_, (hfirst h).trans (congrArg _ (serve_load_fabric (hrport.trans hp1) hx hk)), rfl, rfl,
          turn_takenAt core bank port (a ++ b) s, fun _ => ⟨rfl, rfl⟩, fun hne => absurd hp1 hne⟩
      · exact ⟨_, (hfirst h).trans (congrArg _ (serve_load_crossbar (fun h1 => hp1 (hrport.symm.trans h1)) hr hx hk)), rfl, rfl,
          turn_takenAt core bank port (a ++ b) s, fun h1 => absurd h1 hp1,
          fun _ hme => ⟨rfl, toOwner_me (s := takenAt core bank port (a ++ b) s) hme _⟩⟩
  · intro he hrest
    obtain ⟨hstay, hmove⟩ := hostMove_store hpath he hrest
    refine ⟨fun h => (execHostPerform_eq hin).trans (congrArg _ (hstay h)), fun h0 hdet hn => ?_⟩
    exact ⟨_, (execHostPerform_eq hin).trans (congrArg _ (hmove h0 hdet)), rfl, rfl, cget_putBytes_cases hn s.host⟩
  · intro x d w hx hk hme hfwd
    obtain ⟨hhost, hreg⟩ := passed_me (ahead := []) (rest := rest) hk hme
    refine ⟨_, (execHostPerform_eq hin).trans (congrArg _ (hostMove_load hpath hx hk)), hhost, hreg.trans ?_⟩
    simp only [pathBits, List.foldl_nil, overlay_none, List.nil_append]
  · intro x d op b hx hk hme hfwd h0 hop hn hb
    obtain ⟨hval, hlt⟩ := amoNew_eq hop (coherent_lt s x.key x.n) hb
    refine ⟨_, (execHostPerform_eq hin).trans (congrArg _ (hostMove_amo hpath hx hk h0)), ?_, ?_⟩
    · rw [← hval]
      exact coherent_of_written (m := s.host) (by simp only [toOwner, lateMem, hk]; rfl) hlt
    · refine (toOwner_me (s := { s with host := lateMem s.host x, me := { s.me with hpath := rest } }) hme _).trans ?_
      rw [lateBytes_of_no_fwd hfwd, land, hk]
      dsimp only
      rw [amoResult, toInt_eq_ofNat]
      rfl
  · intro y ys x d w hrest he hy hk hme
    subst hrest
    obtain ⟨hhost, hreg⟩ := passed_me (ahead := [e]) (rest := ys) hk hme
    rcases hostMove_passing hpath he hy hk with ⟨h0, hdet, hm⟩ | hm
    · exact ⟨_, (execHostPerform_eq hin).trans (congrArg _ hm), .inl ⟨rfl, rfl, rfl, h0, hdet⟩⟩
    · exact ⟨_, (execHostPerform_eq hin).trans (congrArg _ hm), .inr ⟨hhost, hreg⟩⟩
end
section
/-! FETCH of elements wider than a word of a bank (R87, R157): VSHAPE encodings that Table 6.2 does not have name such widths. -/

namespace Sys2Proof.Machine

open Sys2Proof.Claims

/-- A load of one element under a VSHAPE of 128-bit elements. -/
def wideLoad : QEntry :=
  { id := 0, instr := .vld 1 2 0, addr := 0, prog := 0, a := word localBase, b := 0, d := 0, vshape := 0x50, vl := 1, mvl := 0
    mfcr := 0, cnt := 0, split := true, vlSpan := 0, spec := none, done := false }

/-- Its strand, where byte 8 of the scratchpad is 1 and the other bytes are zero. -/
def wideElement : State :=
  { State.reset with
    spad := [(8, 1)]
    me := { Strand.reset with status := .run, vown := true, spSize := 65536, vctx := { VCtx.reset with queue := [wideLoad] } } }

theorem exec_fetch_wideElement : exec (.fetch 0 0) wideElement = .next (fetchMove wideElement) := rfl

/-- The access reads one 8-byte word of its bank: the element's lower half. -/
theorem vals_fetched_wideElement : (settle (fetchMove wideElement)).me.vctx.bufs.map ElemBuf.vals = [[(0, 0)]] := by decide

/-- The strand sees all 16 bytes of the element. -/
theorem elemSeen_wideElement : elemSeen wideElement 128 (.spad 0) 0 = 2 ^ 64 := by decide

end Sys2Proof.Machine

open Sys2Proof.Machine Sys2Proof.Claims in
/-- Refutes O43: no hypothesis of the clause on FETCH bounds the element width by 64, and of a 128-bit element a FETCH reads the lower
8 bytes. -/
theorem not_queueMoves : ¬ Obligations.QueueMoves := by
  unfold Obligations.QueueMoves
  intro h
  obtain ⟨-, hfetch, -⟩ := h wideElement 0 0 (by unfold InSlot; decide)
  obtain ⟨t, b, ht, -, -, -, ⟨b', hbufs, -, hvals⟩, -, -⟩ := hfetch 1 2 wideLoad [] (fun _ => 0) rfl rfl rfl rfl rfl rfl rfl
    (by decide) (by decide) (by intro q hq; cases hq) (by intro q hq; cases hq) (by decide)
  rw [exec_fetch_wideElement] at ht
  cases ht
  have hlist := vals_fetched_wideElement
  rw [hbufs] at hlist
  have hmem : (0, elemSeen wideElement 128 (.spad 0) 0) ∈ b'.vals := hvals 0 (by decide)
  rw [elemSeen_wideElement, (List.cons.inj hlist).1] at hmem
  exact absurd hmem (by decide)
end
section
/-! Launch queues: doorbells and the fetch of a record (R301, R302, R18, R19). -/

namespace Sys2Proof.Machine

open Sys2Proof.Claims

theorem isQueue_of_lt {fn q : Nat} (hf : fn < 64) (hq : q < 8) : isQueue fn q = true := by simp [isQueue, hf, hq]

/-! ### The registers of one queue changed -/

theorem otherFns_updFn (s : State) (fn : Nat) (g : Func → Func) : OtherFns s (updFn s fn g) fn := fun _ h => fnOf_updFn_ne s h g

theorem otherFns_updQueue (s : State) (fn q : Nat) (f : LQueue → LQueue) : OtherFns s (updQueue fn q f s) fn :=
  otherFns_updFn s fn _

theorem queueOf_updQueue (s : State) (fn q k : Nat) (f : LQueue → LQueue) :
    queueOf (updQueue fn q f s) fn k = if q = k then f (queueOf s fn q) else queueOf s fn k := by
  rw [queueOf, updQueue, fnOf_updFn_same]
  exact tget_tset ..

theorem ringBell_eq (v : BitVec 32) (x : LQueue) :
    ringBell v x = if x.busy = true ∨ x.err = true then x
      else { x with tail := v, err := decide (2 ^ x.log2n < (v - x.head).toNat) } := by
  have hb : (x.busy || x.err) = true ↔ x.busy = true ∨ x.err = true := by simp
  by_cases h : x.busy = true ∨ x.err = true
  · rw [ringBell, if_pos (hb.2 h), if_pos h]
  · rw [ringBell, if_neg (hb.not.2 h), if_neg h]
    rfl

theorem exec_doorbell {s : State} {fn q : Nat} (hf : fn < 64) (hq : q < 8) (hs : served s = true) (v : BitVec 32) :
    exec (.doorbell fn q v) s = .next (updQueue fn q (ringBell v) s) := by
  show onBar s (if isQueue fn q then updQueue fn q (ringBell v) s else s) = _
  rw [isQueue_of_lt hf hq, onBar, hs]
  rfl

/-! ### The fetch of a record -/

/-- A function with the record at HEAD of a queue taken. -/
def takeRecord (fn q : Nat) (s : State) : State :=
  updFn (updQueue fn q (fun x => { x with head := x.head + 1 }) s) fn fun f => { f with nextSeq := seqAfter f.nextSeq }

theorem launchFetch_eq {s : State} {fn q : Nat} {bs : List Byte} (hm : mayFetch s fn q = true)
    (hb : hostReadFn s fn (headEntry (queueOf s fn q)) 64 = some bs) :
    launchFetch fn q s = { takeRecord fn q s with
      launches := s.launches ++ [launchOf s fn q ((List.range 8).map (wordAt bs))]
      dev := { s.dev with noKey := s.dev.noKey.filter fun t => t != (fnOf (takeRecord fn q s) fn).tenant } } := by
  unfold launchFetch
  rw [hm, if_pos rfl, hb]
  rfl

/-- The function after a record is taken: its queue's HEAD and its next sequence number. -/
theorem fnOf_takeRecord (s : State) (fn q : Nat) :
    fnOf (takeRecord fn q s) fn =
      { fnOf (updQueue fn q (fun x => { x with head := x.head + 1 }) s) fn with nextSeq := seqAfter (fnOf s fn).nextSeq } := by
  rw [takeRecord, fnOf_updFn_same, updQueue, fnOf_updFn_same]

theorem queueOf_takeRecord (s : State) (fn q : Nat) :
    queueOf (takeRecord fn q s) fn q = { queueOf s fn q with head := (queueOf s fn q).head + 1 } := by
  rw [queueOf, fnOf_takeRecord]
  exact (queueOf_updQueue s fn q q _).trans (if_pos rfl)

theorem tenant_takeRecord (s : State) (fn q : Nat) : (fnOf (takeRecord fn q s) fn).tenant = (fnOf s fn).tenant := by
  rw [fnOf_takeRecord, updQueue, fnOf_updFn_same]

theorem otherFns_takeRecord (s : State) (fn q : Nat) : OtherFns s (takeRecord fn q s) fn := fun f h =>
  (otherFns_updFn _ fn _ f h).trans (otherFns_updQueue s fn q _ f h)

theorem status_launchOf (s : State) (fn q : Nat) (r : List Word) :
    (launchOf s fn q r).status = if s.dev.lock then some 6
      else if recordOk r = false ∨ dredImage s fn (r.getD 2 0).toNat = none then some 1
      else if unplaceable (fnOf s fn) (field (r.getD 1 0) 30 24) then some 2 else none := by
  simp only [launchOf, Bool.or_eq_true, Bool.not_eq_true', Option.isNone_iff_eq_none]

end Sys2Proof.Machine
end
section
/-! The placement of a gang and the warm slot kept for one (R305, R309). -/

namespace Sys2Proof.Machine

open Sys2Proof.Claims

/-! ### What a placement changes -/

/-- A fold whose every step changes host memory alone does so. -/
theorem foldl_host {α : Type} {f : State → α → State} (h : ∀ t x, ∃ m, f t x = { t with host := m }) (l : List α) :
    ∀ s, ∃ m, l.foldl f s = { s with host := m } := by
  induction l with
  | nil => exact fun s => ⟨s.host, rfl⟩
  | cons x l ih =>
    intro s
    obtain ⟨m, hm⟩ := h s x
    obtain ⟨m', hm'⟩ := ih { s with host := m }
    exact ⟨m', by rw [List.foldl_cons, hm, hm']⟩

theorem hostWriteFn_eq (s : State) (fn va : Nat) (bs : List Byte) : ∃ m, hostWriteFn s fn va bs = { s with host := m } := by
  refine foldl_host (fun t x => ?_) _ s
  split
  · exact ⟨_, rfl⟩
  · exact ⟨t.host, rfl⟩

theorem addStrands_eq (sts : List Strand) : ∀ s : State,
    sts.foldl (fun s st => addStrand st s) s = { s with others := s.others ++ sts } := by
  induction sts with
  | nil => intro s; simp
  | cons st sts ih =>
    intro s
    rw [List.foldl_cons, ih]
    simp [addStrand]

/-- The strands of a gang at its places. -/
def placedStrands (s : State) (l : Launch) (lc : Nat) (ps : List (Nat × Nat × Nat)) : List Strand :=
  ((upTo ps.length).zip ps).map fun x => placedStrand s l lc (freeAreas s l) x.1 x.2

/-- The state with the gang itself placed, before its launch and its strands. -/
def withGang (l : Launch) (stack : Nat) (ps : List (Nat × Nat × Nat)) (lc : Nat) (s : State) (m : List Host.Cell) : State :=
  { s with
    host := m
    gangs := s.gangs ++ [placedGang l stack lc (freeAreas s l) ps]
    dev := { s.dev with warm := s.dev.warm.filter (otherWarm l.fn l.seq l.next) } }

/-- The launch of a placed gang. -/
def nextGang (k : Launch) : Launch := { k with next := k.next + 1, waited := 0, passed := 0 }

theorem placeGang_eq (l : Launch) (stack : Nat) (ps : List (Nat × Nat × Nat)) (lc : Nat) (s : State) :
    ∃ m, placeGang l stack ps lc s =
      { updLaunch (passOver l (withGang l stack ps lc s m)) l.fn l.seq nextGang with others := s.others ++ placedStrands s l lc ps } := by
  obtain ⟨m, hm⟩ := foldl_host (fun t (a : Nat) => hostWriteFn_eq t l.fn ((l.record.getD 5 0).toNat + a * 2 ^ 20) (toBytes 8 0))
    (freeAreas s l) s
  refine ⟨m, ?_⟩
  unfold placeGang
  dsimp only
  rw [hm, addStrands_eq]
  rfl

/-! ### The launch -/

/-- A launch in progress that its number finds is the first in progress of that number. -/
theorem find_inProgress {s : State} {fn : Nat} {l : Launch} (hl : launchFind s fn l.seq = some l) (hw : l.written = false) :
    s.launches.find? (fun k => isLaunch fn l.seq k && !k.written) = some l := by
  rw [launchFind] at hl
  cases hf : s.launches.find? (fun k => isLaunch fn l.seq k && !k.written) with
  | some k =>
    rw [hf] at hl
    exact hl
  | none =>
    rw [hf, Option.none_or] at hl
    have hmem : l ∈ s.launches := List.mem_reverse.1 (List.mem_of_find?_eq_some hl)
    have hno := List.find?_eq_none.1 hf l hmem
    exact absurd (by simp [List.find?_some hl, hw]) hno

theorem fn_of_launchFind {s : State} {fn : Nat} {l : Launch} (hl : launchFind s fn l.seq = some l) (hw : l.written = false) : l.fn = fn := by
  have h := List.find?_some (find_inProgress hl hw)
  simp only [isLaunch, Bool.and_eq_true, beq_iff_eq] at h
  exact h.1.1

/-- A launch by its number after a change that keeps what launches are found by. -/
theorem find_map_launch {fn seq : Nat} {g : Launch → Launch} (hg : ∀ k, (g k).fn = k.fn ∧ (g k).seq = k.seq ∧ (g k).written = k.written)
    (ls : List Launch) : (ls.map g).find? (fun k => isLaunch fn seq k && !k.written) =
      (ls.find? fun k => isLaunch fn seq k && !k.written).map g := by
  have hp : (fun k => isLaunch fn seq k && !k.written) ∘ g = fun k => isLaunch fn seq k && !k.written := by
    funext k
    obtain ⟨hfn, hseq, hw⟩ := hg k
    simp [isLaunch, hfn, hseq, hw]
  rw [List.find?_map, hp]

/-- The launch goes on to its next gang, whoever is passed over. -/
theorem launchFind_placed {v : State} {l : Launch} (hl : v.launches.find? (fun k => isLaunch l.fn l.seq k && !k.written) = some l) :
    launchFind (updLaunch (passOver l v) l.fn l.seq nextGang) l.fn l.seq = some (nextGang l) := by
  have hpass : ∀ k, ∀ c : Bool, (if c then { k with passed := 1 } else k : Launch).fn = k.fn ∧
      (if c then { k with passed := 1 } else k : Launch).seq = k.seq ∧
      (if c then { k with passed := 1 } else k : Launch).written = k.written := by
    intro k c
    cases c <;> exact ⟨rfl, rfl, rfl⟩
  have hnext : ∀ k, ∀ c : Bool, (if c then nextGang k else k).fn = k.fn ∧ (if c then nextGang k else k).seq = k.seq ∧
      (if c then nextGang k else k).written = k.written := by
    intro k c
    cases c <;> exact ⟨rfl, rfl, rfl⟩
  have hself : (isLaunch l.fn l.seq l && !l.written) = true := List.find?_some (p := fun k => isLaunch l.fn l.seq k && !k.written) hl
  have hfind : (updLaunch (passOver l v) l.fn l.seq nextGang).launches.find? (fun k => isLaunch l.fn l.seq k && !k.written) =
      some (nextGang l) := by
    unfold updLaunch passOver
    dsimp only
    rw [find_map_launch fun k => hnext k _, find_map_launch fun k => hpass k _, hl, Option.map_some, Option.map_some]
    simp [hself]
  rw [launchFind, hfind, Option.some_or]

/-! ### The strands -/

theorem ascending_pairwise : ∀ l : List Nat, ascending l = true → l.Pairwise (· < ·)
  | [], _ => .nil
  | [a], _ => List.pairwise_singleton _ a
  | a :: b :: t, h => by
    rw [ascending, Bool.and_eq_true, decide_eq_true_eq] at h
    obtain ⟨hab, ht⟩ := h
    have hbt := ascending_pairwise (b :: t) ht
    refine List.pairwise_cons.2 ⟨fun x hx => ?_, hbt⟩
    rcases List.mem_cons.1 hx with rfl | hx
    · exact hab
    · exact hab.trans ((List.pairwise_cons.1 hbt).1 x hx)

theorem getElem?_placedStrands {s : State} {l : Launch} {lc : Nat} {ps : List (Nat × Nat × Nat)} {j : Nat} {p : Nat × Nat × Nat}
    (hp : ps[j]? = some p) : (placedStrands s l lc ps)[j]? = some (placedStrand s l lc (freeAreas s l) j p) := by
  obtain ⟨hj, rfl⟩ := List.getElem?_eq_some_iff.1 hp
  refine List.getElem?_eq_some_iff.2 ⟨by simpa [placedStrands, upTo] using hj, ?_⟩
  simp [placedStrands, upTo]

theorem isAt_placedStrand (s : State) (l : Launch) (lc : Nat) (areas : List Nat) (j core slot : Nat) (p : Nat × Nat × Nat) :
    isAt core slot (placedStrand s l lc areas j p) = (p.1 == core && p.2.1 == slot) := rfl

/-- On distinct cores the strand of a place is the one that stands there. -/
theorem find_placedStrands {s : State} {l : Launch} {lc : Nat} {ps : List (Nat × Nat × Nat)} (ha : ascending (ps.map fun p => p.1) = true)
    {j : Nat} {p : Nat × Nat × Nat} (hp : ps[j]? = some p) :
    (placedStrands s l lc ps).find? (isAt p.1 p.2.1) = some (placedStrand s l lc (freeAreas s l) j p) := by
  have hget := getElem?_placedStrands (s := s) (l := l) (lc := lc) hp
  obtain ⟨hj, hjp⟩ := List.getElem?_eq_some_iff.1 hget
  refine List.find?_eq_some_iff_getElem.2 ⟨by simp [isAt_placedStrand], j, hj, hjp, fun i hi => ?_⟩
  have hips : i < ps.length := hi.trans (List.getElem?_eq_some_iff.1 hp).1
  have hcore : ps[i].1 < p.1 := by
    have hpair := List.pairwise_map.1 (ascending_pairwise _ ha)
    have h := List.pairwise_iff_getElem.1 hpair i j hips (List.getElem?_eq_some_iff.1 hp).1 hi
    rwa [(List.getElem?_eq_some_iff.1 hp).2] at h
  have hi' := getElem?_placedStrands (s := s) (l := l) (lc := lc) (List.getElem?_eq_getElem hips)
  rw [(List.getElem?_eq_some_iff.1 hi').2, isAt_placedStrand]
  simp [Nat.ne_of_lt hcore]

/-- In a free slot of a placed gang stands its own strand. -/
theorem strandAt_placed {s t : State} {l : Launch} {lc : Nat} {ps : List (Nat × Nat × Nat)} (hme : t.me = s.me)
    (ho : t.others = s.others ++ placedStrands s l lc ps) (ha : ascending (ps.map fun p => p.1) = true) {j : Nat}
    {p : Nat × Nat × Nat} (hp : ps[j]? = some p) (hfree : strandAt s p.1 p.2.1 = none) :
    strandAt t p.1 p.2.1 = some (placedStrand s l lc (freeAreas s l) j p) := by
  unfold strandAt at hfree ⊢
  split at hfree
  · cases hfree
  next hno => rw [hme, if_neg hno, ho, List.find?_append, hfree, Option.none_or, find_placedStrands ha hp]

theorem cnt_placedStrand (s : State) (l : Launch) (lc : Nat) (areas : List Nat) (j : Nat) (p : Nat × Nat × Nat) :
    (placedStrand s l lc areas j p).vctx.cnt = recNreg l := by
  unfold placedStrand
  dsimp only
  split <;> rfl

/-! ### The places -/

/-- What holds of the places of a gang that may be taken. -/
theorem placesFree_iff {s : State} {l : Launch} {stack : Nat} {ps : List (Nat × Nat × Nat)} (h : placesFree s l stack ps = true) :
    ps.length = recS l ∧ ascending (ps.map fun p => p.1) = true ∧ ∀ p ∈ ps, strandAt s p.1 p.2.1 = none := by
  simp only [placesFree, Bool.and_eq_true, decide_eq_true_eq, List.all_eq_true] at h
  obtain ⟨⟨hlen, hasc⟩, hall⟩ := h
  refine ⟨hlen, hasc, fun p hp => ?_⟩
  obtain ⟨⟨-, hslot⟩, -⟩ := hall p hp
  simp only [slotFree, Bool.and_eq_true, Option.isNone_iff_eq_none] at hslot
  obtain ⟨⟨-, hnone⟩, -⟩ := hslot
  exact hnone

/-- What the dispatcher's rules say of a gang that may be placed, as far as the placement itself shows it. -/
theorem mayPlace_spec {s : State} {l : Launch} {stack lc : Nat} {ps : List (Nat × Nat × Nat)} (h : mayPlace s l stack ps lc = true) :
    placesFree s l stack ps = true ∧ (recDet l = false → lc ≤ s.dev.dispLc) := by
  simp only [mayPlace, Bool.and_eq_true] at h
  obtain ⟨⟨⟨⟨⟨⟨⟨-, hgrant⟩, -⟩, -⟩, hplaces⟩, -⟩, -⟩, -⟩ := h
  refine ⟨hplaces, fun hdet => ?_⟩
  simp only [grantOk, hdet, Bool.false_or, Bool.and_eq_true, decide_eq_true_eq] at hgrant
  exact hgrant.2

theorem execGangPlacement_eq {s : State} {fn stack lc : Nat} {l : Launch} {ps : List (Nat × Nat × Nat)}
    (hl : launchFind s fn l.seq = some l) (hm : mayPlace s l stack ps lc = true) :
    execGangPlacement fn l.seq l.next stack ps lc s = .next (placeGang l stack ps lc s) := by
  rw [execGangPlacement, hl]
  dsimp only
  rw [if_pos ⟨rfl, hm⟩]

/-! ### The warm slot -/

theorem otherWarm_eq_false {fn seq g : Nat} {w : Warm} : otherWarm fn seq g w = false ↔ w.fn = fn ∧ w.seq = seq ∧ w.gang = g := by
  simp [otherWarm, and_assoc]

theorem execWarmSlot_kept {s : State} {fn stack : Nat} {l : Launch} {ps : List (Nat × Nat × Nat)} (hl : launchFind s fn l.seq = some l)
    (hp : pending' l = true) (hfree : placesFree s l stack ps = true)
    (hoff : ∀ p ∈ ps, ∀ st ∈ s.me :: s.others, ¬(st.status = .off ∧ st.core = p.1 ∧ st.slot = p.2.1))
    (hwarm : ∀ w ∈ s.dev.warm, ¬(w.fn = fn ∧ w.seq = l.seq ∧ w.gang = l.next)) :
    execWarmSlot fn l.seq l.next stack ps s =
      .next { s with dev := { s.dev with warm := s.dev.warm ++ [⟨fn, l.seq, l.next, ps⟩] } } := by
  have hkept : (ps.any fun p => (s.me :: s.others).any fun st => st.status == .off && st.core == p.1 && st.slot == p.2.1) = false := by
    refine List.any_eq_false.2 fun p hpm hany => ?_
    obtain ⟨st, hst, he⟩ := List.any_eq_true.1 hany
    simp only [Bool.and_eq_true, beq_iff_eq] at he
    exact hoff p hpm st hst ⟨he.1.1, he.1.2, he.2⟩
  have hhas : (s.dev.warm.any fun w => !otherWarm fn l.seq l.next w) = false := by
    refine List.any_eq_false.2 fun w hw he => ?_
    exact hwarm w hw (otherWarm_eq_false.1 (by simpa using he))
  rw [execWarmSlot, hl]
  dsimp only
  rw [if_pos ⟨rfl, hp, hfree, hkept, hhas⟩]

end Sys2Proof.Machine

open Sys2Proof.Machine Sys2Proof.Claims in
/-- Settles O47, move by move: the registers of one queue change, one launch is added, and a placement adds a gang, its strands at free
slots of distinct cores, and counts the gang at its launch. -/
theorem launchQueueing : Obligations.LaunchQueueing := by
  unfold Obligations.LaunchQueueing
  intro s fn q hf hq
  refine ⟨fun hs v => ?_, fun bs hm hb => ?_, fun l stack lc ps hl hw => ⟨fun hm => ?_, fun hp hfree hoff hwarm => ?_⟩⟩
  · refine ⟨_, exec_doorbell hf hq hs v, otherFns_updQueue s fn q _, fun k hk => ?_, ?_⟩
    · exact (queueOf_updQueue s fn q k _).trans (if_neg hk.symm)
    · exact ((queueOf_updQueue s fn q q _).trans (if_pos rfl)).trans (ringBell_eq v _)
  · refine ⟨_, _, congrArg Host.Outcome.next (launchFetch_eq hm hb), rfl, rfl, rfl, rfl, rfl, rfl, rfl, queueOf_takeRecord s fn q, ?_,
      otherFns_takeRecord s fn q, rfl, rfl, ?_, status_launchOf s fn q _⟩
    · exact congrArg Func.nextSeq (fnOf_takeRecord s fn q)
    · rw [← tenant_takeRecord s fn q]
      exact fun hmem => by simpa using (List.mem_filter.1 hmem).2
  · obtain ⟨hplaces, hgrant⟩ := mayPlace_spec hm
    obtain ⟨hlen, hasc, hfree⟩ := placesFree_iff hplaces
    have hfn := fn_of_launchFind hl hw
    subst hfn
    obtain ⟨m, he⟩ := placeGang_eq l stack ps lc s
    refine ⟨_, placedGang l stack lc (freeAreas s l) ps, (execGangPlacement_eq hl hm).trans (congrArg _ he), rfl, rfl, rfl, rfl, rfl,
      (List.length_map ..).trans hlen, rfl, rfl, hgrant, ?_, fun w hwm hown => ?_, fun j p hp => ?_⟩
    · have h := launchFind_placed (v := withGang l stack ps lc s m) (find_inProgress hl hw)
      exact congrArg (Option.map Launch.next) h
    · have h := (List.mem_filter.1 hwm).2
      rw [otherWarm_eq_false.2 hown] at h
      cases h
    · have hmem : p ∈ ps := List.mem_of_getElem? hp
      refine ⟨_, strandAt_placed (s := s) (by rfl) (by rfl) hasc hp (hfree p hmem), rfl, rfl, rfl, rfl, rfl, rfl, rfl, rfl, rfl,
        rfl, rfl, rfl, rfl, rfl, rfl, rfl, rfl, rfl, cnt_placedStrand .., ?_⟩
      exact Option.isNone_iff_eq_none
  · exact execWarmSlot_kept hl hp hfree hoff hwarm
end
section
/-! Decoding and encoding (R63 to R77): each is the other's inverse on the well-formed instructions. -/

namespace Sys2Proof.Laws.WordRoundTrip

/-- The family, assembled over the constructors of `Instr` in their order. -/
theorem statement_of_instr (i : Instr) : Statement i := by
  cases i
  exacts [add _ _ _, sub _ _ _, and _ _ _, or _ _ _, xor _ _ _, sll _ _ _, srl _ _ _, sra _ _ _, slt _ _ _, sltu _ _ _, min _ _ _,
    max _ _ _, minu _ _ _, maxu _ _ _, mul _ _ _, mulh _ _ _, mulhu _ _ _, div _ _ _, divu _ _ _, rem _ _ _, remu _ _ _, clz _ _,
    ctz _ _, popc _ _, bfx _ _ _, bfi _ _ _, fshr _ _ _ _, addi _ _ _, andi _ _ _, ori _ _ _, xori _ _ _, slli _ _ _, srli _ _ _,
    srai _ _ _, slti _ _ _, lui _ _, auipc _ _, ld _ _ _ _, st _ _ _ _ _, beq _ _ _, bne _ _ _, blt _ _ _, bge _ _ _, bltu _ _ _,
    bgeu _ _ _, jal _ _, jalr _ _ _, amo _ _ _ _ _ _ _, cas _ _ _ _ _ _, sysrd _ _, syswr _ _, sysset _ _, sysclr _ _, trap _, eret,
    endStrand, yield, bkpt _, wfe, vsave _, vrest _, vsetl _ _ _, vcfg _ _, vregs _, mstart _ _ _, mstop, vadd _ _ _ _, vsub _ _ _ _,
    vrsub _ _ _ _, vmin _ _ _ _, vmax _ _ _ _, vand _ _ _ _, vor _ _ _ _, vxor _ _ _ _, vaddVs _ _ _ _, vsubVs _ _ _ _, vrsubVs _ _ _ _,
    vminVs _ _ _ _, vmaxVs _ _ _ _, vandVs _ _ _ _, vorVs _ _ _ _, vxorVs _ _ _ _, vaddVi _ _ _ _, vsubVi _ _ _ _, vrsubVi _ _ _ _,
    vminVi _ _ _ _, vmaxVi _ _ _ _, vandVi _ _ _ _, vorVi _ _ _ _, vxorVi _ _ _ _, vmul _ _ _ _, vmulh _ _ _ _, vmacc _ _ _ _,
    vnmacc _ _ _ _, vdiv _ _ _ _, vrem _ _ _ _, vsll _ _ _ _, vsrl _ _ _ _, vmulVs _ _ _ _, vmulhVs _ _ _ _, vmaccVs _ _ _ _,
    vnmaccVs _ _ _ _, vdivVs _ _ _ _, vremVs _ _ _ _, vsllVs _ _ _ _, vsrlVs _ _ _ _, vsllVi _ _ _ _, vsrlVi _ _ _ _, vsraVi _ _ _ _,
    vsra _ _ _ _, vclz _ _ _, vpopc _ _ _, vbfx _ _ _ _, vfshr _ _ _ _, vsqrt _ _ _, vabs _ _ _, vneg _ _ _, vsraVs _ _ _ _,
    vbfxVs _ _ _ _, vfshrVs _ _ _ _, vcmp _ _ _ _ _, vcmpVs _ _ _ _ _, vcmpVi _ _ _ _ _, vsel _ _ _ _, vmv _ _ _, vclass _ _ _,
    vrecip _ _ _, vidx _ _, vselVs _ _ _ _, vmvVs _ _ _, mand _ _ _, mor _ _ _, mxor _ _ _, mandn _ _ _, mnot _ _, mffs _ _, mpopc _ _,
    vcvtw _ _ _ _, vcvtn _ _ _ _, vcvti _ _ _ _, vcvtf4 _ _ _ _, vcvtdy _ _ _ _, kset _ _ _, kmv _ _ _ _, kcalc _ _ _ _ _,
    vslup _ _ _ _ _ _, vsldn _ _ _ _ _ _, vperm _ _ _ _ _ _, vcmpr _ _ _ _, vexpd _ _ _ _, viota _ _ _, vred _ _ _ _ _ _ _,
    vscan _ _ _ _ _ _ _, vhist _ _ _ _ _ _, vtopk _ _ _ _ _, vtkmrg _ _ _ _ _, vld _ _ _, vlds _ _ _ _, vldx _ _ _ _ _, vldxo _ _ _ _ _,
    vldff _ _ _, vldseg _ _ _ _, vst _ _ _, vsts _ _ _ _, vstx _ _ _ _ _, vstxo _ _ _ _ _, vstseg _ _ _ _, mfset _, vamo _ _ _ _ _ _ _,
    fence _ _, vfence _, iterset _ _, post _ _, waiti _ _, bar, bararr, barwt, ropen _ _, rclose _, rstat _ _ _, rdstr _ _ _, wrstr _ _,
    qpush _ _ _ _, qpop _ _ _ _, rsort _ _ _ _ _, rmerge _ _ _ _ _ _ _, rjoin _ _ _ _ _ _, rpart _ _ _, rwait _ _, cspec _,
    mattach _ _ _, mdetach, mwldCfg _ _ _, mwldSp _ _ _, mwldQ _ _ _ _, mwldSc _ _ _, mxv _ _ _ _ _ _, mop _ _ _ _, maccrd _ _ _,
    maccwr _ _ _, maccz _ _, msave _, mrest _, mcensRd _ _, mcensRdclr _ _, mcensClr, mcensIdx _ _, qrtld _ _ _, qrseed _ _ _ _,
    qrgen _ _ _ _, qrgens _ _ _ _, pwld _ _ _ _ _, pwcntSt _ _, pwcntHist _ _ _, pwcntCnt _ _ _, pwcntFree _, pwchk _ _ _, pwdrft _ _ _,
    pwconf _ _ _, pwinj _ _, split _ _, fetch _ _, execute _ _, drain _ _ _, deliver _ _, serve _ _ _, hostPerform _ _, push _ _,
    acceptAndProduce _ _ _, streamRecord _ _ _, commandComplete _ _ _, stall _ _ _, streamPageFault _ _ _, pop _ _, postAndObserve _ _,
    proof _ _, hearthServe _ _, gangDrain _ _ _, wfeWake _ _, sliceEnd _, waitQuantumExpiry _, doorbell _ _ _, launchFetch _ _,
    gangPlacement _ _ _ _ _ _, warmSlot _ _ _ _ _, priorityPreemption _ _ _ _ _ _, resumption _ _ _ _, graceExpiry _ _ _, budgetWindow,
    budgetExhausted _ _ _, powerInterval _ _ _ _ _, completionWordWrite _ _, queueLevelReset _ _, functionLevelReset _,
    partmapWrite _ _ _, tenantWrite _ _, scrub _, faultRecordWrite _, faultAnswer _ _, pfFaultAnswer _ _, inv1 _ _, inv2 _ _,
    pageRetirement _ _ _ _, snoop _, hjelvorReadRequest _ _, hjelvorReadRecords _ _, hjelvorWriteRecords _ _, hjelvorCompletionFlit _ _,
    hjelvorFenceFlit _ _, hjelvorFenceAck _ _, linkDown _, powerOn, load, commit, config, quote, securityAlarm _ _, debugResume _,
    smplostRead _, trsigWrite _, trenClear _, registerWrite _ _ _, illegalInstruction _, instructionFetchFault, resetCompletion _ _,
    mailboxCompletion, invalidationCompletion]

end Sys2Proof.Laws.WordRoundTrip

namespace Sys2Proof

open Laws

/-- R77: a word is accepted where it is not 0, the tables name an instruction for it, and it is the word of that instruction,
which is well formed. -/
theorem decodeNat_eq_ok_iff {w : Nat} {i : Instr} :
    decodeNat w = .ok i ↔ w ≠ 0 ∧ rawDecode w = some i ∧ encodeNat i = w ∧ i.wellFormed = true := by
  unfold decodeNat
  split
  next hz => simp [hz]
  next hz =>
    split
    next hraw => simp [hraw]
    next j hraw =>
      rw [hraw, Option.some.injEq]
      split
      next hne => exact ⟨nofun, fun ⟨_, hj, he, _⟩ => absurd (hj ▸ he) hne⟩
      next he =>
        split
        next hw => exact ⟨fun h => by cases h; exact ⟨hz, rfl, not_not.1 he, hw⟩, fun ⟨_, hj, _⟩ => congrArg _ hj⟩
        next hw => exact ⟨nofun, fun ⟨_, hj, _, hi⟩ => absurd (hj ▸ hi) hw⟩

theorem encodeNat_lt {i : Instr} (h : i.wellFormed = true) : encodeNat i < 2 ^ 32 := (WordRoundTrip.statement_of_instr i h).2.2

theorem encodeNat_ne_zero {i : Instr} (h : i.wellFormed = true) : encodeNat i ≠ 0 := (WordRoundTrip.statement_of_instr i h).2.1

theorem decodeNat_encodeNat {i : Instr} (h : i.wellFormed = true) : decodeNat (encodeNat i) = .ok i :=
  decodeNat_eq_ok_iff.2 ⟨encodeNat_ne_zero h, (WordRoundTrip.statement_of_instr i h).1, rfl, h⟩

/-- R63: four bytes, the lowest address first, hold the word they were taken from. -/
theorem wordOfBytes_ofNat {w : Nat} (h : w < 2 ^ 32) :
    wordOfBytes (BitVec.ofNat 8 w) (BitVec.ofNat 8 (w / 2 ^ 8)) (BitVec.ofNat 8 (w / 2 ^ 16)) (BitVec.ofNat 8 (w / 2 ^ 24)) = w := by
  simp only [wordOfBytes, BitVec.toNat_ofNat]
  omega

/-- The decoder of bytes over the decoder of words as a variable: the kernel, which would else evaluate `decodeNat` at a word that
is not known, multiplying by 2 ^ 24 in unary, then sees nothing to evaluate. -/
theorem decodeBytes_of_decoder {decode : Nat → Except DecodeError Instr} (hd : decodeNat = decode) {b0 b1 b2 b3 : Byte}
    {rest : List Byte} {i : Instr} :
    decodeBytes (b0 :: b1 :: b2 :: b3 :: rest) = .ok (i, rest) ↔ decode (wordOfBytes b0 b1 b2 b3) = .ok i := by
  rw [decodeBytes.eq_def, hd]
  cases h : decode (wordOfBytes b0 b1 b2 b3) <;> simp [h]

/-- A list of bytes decodes as its first four do. -/
theorem decodeBytes_eq_ok_iff {b0 b1 b2 b3 : Byte} {rest : List Byte} {i : Instr} :
    decodeBytes (b0 :: b1 :: b2 :: b3 :: rest) = .ok (i, rest) ↔ decodeNat (wordOfBytes b0 b1 b2 b3) = .ok i :=
  decodeBytes_of_decoder rfl

theorem decodeBytes_encodeBytes {i : Instr} (rest : List Byte) (h : i.wellFormed = true) :
    decodeBytes (encodeBytes i ++ rest) = .ok (i, rest) := by
  rw [encodeBytes, List.cons_append, List.cons_append, List.cons_append, List.cons_append, List.nil_append, decodeBytes_eq_ok_iff,
    wordOfBytes_ofNat (encodeNat_lt h)]
  exact decodeNat_encodeNat h

theorem encodeNat_injective {i j : Instr} (hi : i.wellFormed = true) (hj : j.wellFormed = true) (h : encodeNat i = encodeNat j) :
    i = j := by
  have hd := decodeNat_encodeNat hi
  rw [h, decodeNat_encodeNat hj] at hd
  exact (Except.ok.inj hd).symm

end Sys2Proof

open Sys2Proof in
/-- Settles O54: the family of laws gives the tables' reading of every word that the encoder makes; a word that decodes is compared
with the encoder's own by the decoder itself; and an encoder with a left inverse is injective. -/
theorem decodeEncodeAgree : Obligations.DecodeEncodeAgree := by
  unfold Obligations.DecodeEncodeAgree
  refine ⟨fun i rest h => ⟨decodeNat_encodeNat h, encodeNat_lt h, encodeNat_ne_zero h, decodeBytes_encodeBytes rest h⟩,
    fun w i h => ?_, fun i j => encodeNat_injective⟩
  obtain ⟨_, _, hword, hwf⟩ := decodeNat_eq_ok_iff.1 h
  exact ⟨hwf, hword⟩
end
section
/-- Settles O55, by the evaluation of the decoder on each of the words. -/
theorem specWordsDecode : Obligations.SpecWordsDecode := by
  unfold Obligations.SpecWordsDecode
  decide
end
section
/-! A step that fetches, decodes and executes (R63, R66, R78), and a step of the agenda. -/

namespace Sys2Proof.Machine

open Sys2Proof.Claims

/-! ### The fetch -/

theorem readPhys_word (s : State) (pa : Nat) :
    readPhys s pa 4 = wordOfBytes (cget zeros s.host pa) (cget zeros s.host (pa + 1)) (cget zeros s.host (pa + 2))
      (cget zeros s.host (pa + 3)) := by
  simp only [readPhys, cgets, show upTo 4 = [0, 1, 2, 3] from rfl, List.map_cons, List.map_nil, ofBytes, wordOfBytes, Nat.add_zero]
  omega

/-- The word at PC, where its four bytes decode. -/
theorem decodeNat_readPhys {s : State} {pa : Nat} {i : Instr} (h : decodeBytes (wordBytes s pa) = .ok (i, [])) :
    decodeNat (readPhys s pa 4) = .ok i := by
  rw [readPhys_word]
  exact decodeBytes_eq_ok_iff.1 h

theorem fetchAt_word {s : State} {pa g : Nat} {r w x : Bool} (halign : s.me.pc.toNat % 4 = 0) (hhost : s.me.pc.toNat < hostSize)
    (ht : translate s s.me.fn s.me.pc.toNat .fetch = .ok pa g r w x) : fetchAt s = .word (readPhys s pa 4) pa := by
  unfold fetchAt
  dsimp only
  rw [if_neg (not_not.2 halign), if_neg (Nat.not_le.2 hhost), ht]

/-- The state from which the strand that has the turn back moves: nothing defers what it issues, and one move more of its slice. -/
def onTurn (s : State) : State := { s with defer := false, beat := s.beat + 1 }

@[simp] theorem onTurn_me (s : State) : (onTurn s).me = s.me := rfl

@[simp] theorem fetchAt_onTurn (s : State) : fetchAt (onTurn s) = fetchAt s := rfl

/-! ### The turn of the strand that issues -/

theorem thenMove_thenMove (f g : State → State) (o : Out) : thenMove f (thenMove g o) = thenMove (fun t => f (g t)) o := by
  cases o <;> rfl

theorem thenMove_id (o : Out) : thenMove (fun t => t) o = o := by
  cases o <;> rfl

/-- A strand that nothing holds back moves by what stands at its PC. -/
theorem strandMove_issues {s : State} (h : Issues s) : strandMove (onTurn s) = fetchTurn (onTurn s) := by
  obtain ⟨-, -, -, hstand, hend, hwoke, hhandler, -⟩ := h
  have hb : (s.me.hm && s.me.thandler == 0) = false := by simpa using hhandler
  simp only [strandMove, onTurn_me, stands, hstand, hend, hwoke, hb, Option.isSome_none, Bool.false_eq_true, if_false]

theorem fetchTurn_issues {s : State} {w pa : Nat} (h : Issues s) (hf : fetchAt s = .word w pa) :
    fetchTurn (onTurn s) = wordMove w pa (onTurn s) := by
  obtain ⟨-, -, -, -, -, -, -, hbrk⟩ := h
  have hb : brkHit (onTurn s) 1 s.me.pc = false := hbrk
  simp [fetchTurn, hf, hb]

theorem ready_of_running {s : State} (h : Running s) : ready s.me = true := by
  have h : s.me.status = .run := h
  simp [ready, resident, h]

/-- The strand that waits for nothing keeps its turn. -/
theorem waiting_of_word {s : State} {w pa : Nat} {i : Instr} (h : Issues s) (hf : fetchAt s = .word w pa) (hd : decodeNat w = .ok i)
    (hw : waits i (onTurn s) = false) : waiting' (onTurn s) = false := by
  obtain ⟨-, -, -, hstand, hend, -⟩ := h
  simp [waiting', stands, hstand, hend, hf, hd, hw]

theorem move_of_empty_agenda {s : State} (h : s.agenda = []) : move s = freeTurn { s with defer := false } := by
  unfold move
  split
  next ha => cases h.symm.trans ha
  next ha => cases h.symm.trans ha
  next => rfl

theorem freeTurn_of_ready {s : State} (hround : roundDue s = false) (hready : ready s.me = true) (hstands : stands s.me = false) :
    let t := { s with beat := s.beat + 1 }
    freeTurn s = thenMove (fun u => if waiting' t then passTurn u else u) (issueTurn t) := by
  simp [freeTurn, hround, hready, hstands]

/-- The step of a strand that nothing holds back, and whose word waits for nothing: the move of that word, and the end of its turn. -/
theorem step_of_word {s : State} {w pa : Nat} {i : Instr} (h : Issues s) (hf : fetchAt s = .word w pa) (hd : decodeNat w = .ok i)
    (hw : waits i (onTurn s) = false) : step s = thenMove (afterMove (onTurn s)) (wordMove w pa (onTurn s)) := by
  obtain ⟨hagenda, hround, hrun, hstand, -⟩ := id h
  have hready : ready s.me = true := ready_of_running hrun
  have hissue : issueTurn (onTurn s) = thenMove (afterMove (onTurn s)) (wordMove w pa (onTurn s)) := by
    rw [issueTurn, onTurn_me, if_pos hready, strandMove_issues h, fetchTurn_issues h hf]
  have hfree : freeTurn { s with defer := false } =
      thenMove (fun t => if waiting' (onTurn s) then passTurn t else t) (issueTurn (onTurn s)) :=
    freeTurn_of_ready hround hready (by simp [stands, hstand])
  rw [step, move_of_empty_agenda hagenda, hfree, hissue]
  simp only [waiting_of_word h hf hd hw, Bool.false_eq_true, if_false, thenMove_id]

/-! ### The end of a move where nothing is armed -/

theorem lateStops_of_none {t : State} (hstop : ∀ g ∈ t.gangs, g.stopping = false) (hothers : ∀ st ∈ t.others, st.status ≠ .halting)
    (hrun : Running t) : lateStops t = t := by
  have hlate : t.gangs.filter (haltsLate t) = [] := by
    refine List.filter_eq_nil_iff.2 fun g _ => ?_
    have hme : (t.me.status == .halting) = false := by rw [show t.me.status = .run from hrun]; rfl
    simp only [haltsLate, List.any_cons, hme, Bool.and_false, Bool.false_or, Bool.and_eq_true, List.any_eq_true, beq_iff_eq]
    rintro ⟨-, st, hst, -, hhalting⟩
    exact hothers st hst hhalting
  have hstops : t.gangs.filter Gang.stopping = [] := List.filter_eq_nil_iff.2 fun g hg => by simp [hstop g hg]
  simp [lateStops, hlate, hstops]

theorem traceFlush_of_none {t : State} (h : t.trev = []) : traceFlush t = { t with traceT := t.traceT + 1 } := by
  simp [traceFlush, h]

theorem afterMove_of_quiet {s t : State} (htr : t.trev = []) (hstop : ∀ g ∈ t.gangs, g.stopping = false)
    (hothers : ∀ st ∈ t.others, st.status ≠ .halting) (hrun : Running t) (hcore : t.me.core = s.me.core) :
    afterMove s t = { t with traceT := t.traceT + 1 } := by
  have hsettle : settleTurn s.me.core t = t := by simp [settleTurn, ready_of_running hrun, hcore]
  rw [afterMove, hsettle, closeMove, lateStops_of_none hstop hothers hrun, traceFlush_of_none htr]

theorem commitScalar_of_not_hit {s : State} {i : Instr} (h : brkHit s 2 s.me.pc = false) (t : State) : commitScalar s i t = t := by
  simp [commitScalar, h]

/-! ### The word at PC -/

section
variable {s : State} {w pa : Nat} {i : Instr} (h : Issues s) (hf : fetchAt s = .word w pa) (hd : decodeNat w = .ok i)
  (hq : lacksQueue i (onTurn s) = false) (hw : waits i (onTurn s) = false)
include h hf hd hq hw

/-- A word whose vector or system register does not exist is executed with no event of its issue. -/
theorem step_of_noInstr (hno : noInstr i (onTurn s) = true) :
    step s = thenMove (afterMove (onTurn s)) (exec i (noteFetch pa (onTurn s))) := by
  have hmove : wordMove w pa (onTurn s) = exec i (noteFetch pa (onTurn s)) := by simp [wordMove, hd, hq, hw, hno]
  rw [step_of_word h hf hd hw, hmove]

/-- Every other word counts as issued. -/
theorem step_of_issued (hno : noInstr i (onTurn s) = false) :
    step s = thenMove (fun t => afterMove (onTurn s) (commitScalar (onTurn s) i t)) (exec i (issued pa (onTurn s))) := by
  have hmove : wordMove w pa (onTurn s) = thenMove (commitScalar (onTurn s) i) (exec i (issued pa (onTurn s))) := by
    simp [wordMove, hd, hq, hw, hno]
  rw [step_of_word h hf hd hw, hmove, thenMove_thenMove]

end

/-! ### The agenda -/

theorem step_event {s : State} {i : Instr} {rest : List Turn} (ha : s.agenda = .event i :: rest) (hi : isEvent i = true) :
    step s = thenMove closeMove (exec i { s with agenda := rest, defer := false }) := by
  simp [step, move, ha, eventTurn, hi]

theorem isEvent_of_not_word {i : Instr} (h0 : encodeNat i = 0) (hadd : ∀ d a b, i ≠ .add d a b) (hill : ∀ w, i ≠ .illegalInstruction w)
    (hfault : i ≠ .instructionFetchFault) : isEvent i = true := by
  cases i
  case add d a b => exact absurd rfl (hadd d a b)
  case illegalInstruction w => exact absurd rfl (hill w)
  case instructionFetchFault => exact absurd rfl hfault
  all_goals exact Bool.and_eq_true_iff.2 ⟨beq_iff_eq.2 h0, rfl⟩

end Sys2Proof.Machine

open Sys2Proof Sys2Proof.Machine in
/-- Settles O56: nothing that the step looks at before the fetch, nor the wait after it, keeps the word at PC from its move; with
nothing armed the end of the turn is the trace clock alone. -/
theorem stepRunsDecoded : Obligations.StepRunsDecoded := by
  unfold Obligations.StepRunsDecoded
  intro s i
  refine ⟨fun pa g r w x hs halign hhost ht hbytes hq hw => ?_, fun rest ha h0 hadd hill hfault =>
    step_event ha (isEvent_of_not_word h0 hadd hill hfault)⟩
  have hd := decodeNat_readPhys hbytes
  have hf := fetchAt_word halign hhost ht
  refine ⟨step_of_noInstr hs hf hd hq hw, fun hno => ?_⟩
  have hstep := step_of_issued hs hf hd hq hw hno
  refine ⟨hstep, fun t hexec hbrk htr hstop hothers hrun hcore => ?_⟩
  calc step s = thenMove (fun t => afterMove (onTurn s) (commitScalar (onTurn s) i t)) (.next t) := hstep.trans (congrArg _ hexec)
    _ = .next (afterMove (onTurn s) t) := congrArg (fun u => Host.Outcome.next (afterMove (onTurn s) u)) (commitScalar_of_not_hit hbrk t)
    _ = .next { t with traceT := t.traceT + 1 } := congrArg _ (afterMove_of_quiet htr hstop hothers hrun hcore)
end
section
/-! The issue of a vector arithmetic instruction: its checks in their order (R66, R78, R114, R156). -/

namespace Sys2Proof.Machine

open Sys2Proof.Claims

/-! ### The checks of R78 -/

section
variable {i : Instr} {rs : List (BitVec 5)} {wrong : VCtx → Bool} {s : State}

theorem any_aboveCount_eq_false_iff : rs.any (aboveCount s.me.vctx.cnt) = false ↔ Declared s rs := by
  simp [Declared, aboveCount]

theorem vecChecks_above (h : ∃ r ∈ rs, nregsOf s.me.vctx.cnt ≤ r.toNat) : vecChecks i rs wrong s = some (1, word (encodeNat i)) :=
  if_pos (by simpa [aboveCount] using h)

theorem vecChecks_not_owned (h : Declared s rs) (hown : s.me.vown = false) : vecChecks i rs wrong s = some (9, 0) := by
  simp [vecChecks, any_aboveCount_eq_false_iff.2 h, hown]

theorem vecChecks_wrong (h : Declared s rs) (hown : s.me.vown = true) (hw : wrong s.me.vctx = true) :
    vecChecks i rs wrong s = some (2, word (encodeNat i)) := by
  simp [vecChecks, any_aboveCount_eq_false_iff.2 h, hown, hw]

theorem issueVec_trap {cause : Nat} {tval a b d : Word} {body : Body} (h : vecChecks i rs wrong s = some (cause, tval)) :
    issueVec i rs wrong a b d body s = takeTrap cause 0 false false s.me.pc tval s := by
  simp only [issueVec, h, trapFront]

end

/-! ### The type state of an arithmetic instruction -/

/-- The ETYPE codes that a mnemonic is defined for, as the type table lists them. -/
theorem vopDefined_eq (o : VOp) (et : Nat) : vopDefined o et = definedFor o et := by
  have hint : isInt et = decide (et < 2) := by
    rw [Bool.eq_iff_iff]; simp [isInt]; omega
  have hfloat : isFloat et = (decide (2 ≤ et) && decide (et < 6)) := by
    rw [Bool.eq_iff_iff]; simp [isFloat]; omega
  have hboth : (decide (et < 2) || (decide (2 ≤ et) && decide (et < 6))) = decide (et < 6) := by
    rw [Bool.eq_iff_iff]; simp; omega
  cases o <;> simp only [vopDefined, definedFor, hint, hfloat, hboth]

theorem arithWrong_iff (o : VOp) (rs : List (BitVec 5)) (s : State) :
    arithWrong o rs s.me.vctx = true ↔ definedFor o (etypeOf s.me.vctx.vshape) = false ∨ ¬Grouped s rs ∨
      maxVl s.me.vctx.vshape s.me.vctx.cnt < s.me.vctx.vlGrant := by
  simp [arithWrong, badGroups, overVl, Grouped, vopDefined_eq]

/-- Every arithmetic instruction is issued under the checks of its registers and of its type. -/
theorem exec_of_form {i : Instr} {f : Form} {s : State} (hf : form i = some f) (hr : Running s) :
    ∃ a body, exec i s = .next (issueVec i f.rs (arithWrong f.op f.rs) a 0 0 body s) := by
  unfold form at hf
  split at hf
  case h_58 => nomatch hf
  all_goals
    cases hf
    exact ⟨_, _, onStrand_eq _ _ hr⟩

end Sys2Proof.Machine

open Sys2Proof.Machine in
/-- Settles O14: every arithmetic instruction is issued alike, so that the first check of R78 that fails gives its trap. -/
theorem vectorIssueChecks : Obligations.VectorIssueChecks := by
  unfold Obligations.VectorIssueChecks
  intro i f s hf hr
  obtain ⟨a, body, he⟩ := exec_of_form hf hr
  rw [he]
  exact ⟨fun h => congrArg _ (issueVec_trap (vecChecks_above h)),
    fun h hown => congrArg _ (issueVec_trap (vecChecks_not_owned h hown)),
    fun h hown hw => congrArg _ (issueVec_trap (vecChecks_wrong h hown ((arithWrong_iff ..).2 hw)))⟩
end
section
/-! Trace sessions: the writes of TRSIG and of TREN (R325 to R327). -/

namespace Sys2Proof.Machine

theorem debugOf_updDebug (s : State) (fn : Nat) (f : Debug → Debug) : debugOf (updDebug s fn f) fn = f (debugOf s fn) :=
  congrArg Func.debug (fnOf_updFn_same s fn _)

/-! ### TRSIG (R327) -/

theorem traceEvent_of_traced {s : State} (h : traced s = true) (kind : Nat) (pc vcp : Word) (data : Nat) :
    traceEvent s kind pc vcp data = { s with trev := s.trev ++ [⟨s.me.fn, kind, pc, vcp, data⟩] } := if_pos h

theorem exec_trsigWrite {s : State} (h : Running s) (v : Word) : exec (.trsigWrite v) s = .next (signal v s) := congrArg _ (if_pos h)

theorem signal_of_not_traced {s : State} (h : traced s = false) (v : Word) : signal v s = s := if_neg (by simp [h])

theorem b2n_bit (x n : Nat) : b2n (bit x n) = x / 2 ^ n % 2 := by
  rcases Nat.mod_two_eq_zero_or_one (x / 2 ^ n) with h | h <;> simp [b2n, bit, h]

/-- The event of one bit of TRSIG. -/
theorem traceEvent_if {s : State} (h : traced s = true) (b : Bool) (kind : Nat) : ∃ ev : List TraceEv, ev.length = b2n b ∧
    (if b then traceEvent s kind s.me.pc (vcpOf s.me) 0 else s) = { s with trev := s.trev ++ ev } := by
  cases b
  · exact ⟨[], rfl, by simp⟩
  · exact ⟨_, rfl, traceEvent_of_traced h ..⟩

/-- START and STOP of a write of TRSIG: one event for each bit that is set, and nothing else. -/
theorem signal_of_traced {s : State} (h : traced s = true) (v : Word) :
    { signal v s with trev := s.trev } = s ∧ (signal v s).trev.length = s.trev.length + v.toNat % 2 + v.toNat / 2 % 2 := by
  obtain ⟨start, hstart, hs⟩ := traceEvent_if h (bit v.toNat 0) 7
  obtain ⟨stop, hstop, ht⟩ := traceEvent_if (s := { s with trev := s.trev ++ start }) h (bit v.toNat 1) 8
  have hsignal : signal v s = { s with trev := s.trev ++ start ++ stop } := by
    unfold signal
    dsimp only
    rw [if_pos h, hs]
    exact ht
  rw [hsignal]
  refine ⟨rfl, ?_⟩
  simp only [List.length_append, hstart, hstop, b2n_bit, pow_zero, Nat.div_one, pow_one]

/-! ### TREN (R326) -/

/-- The machine without what recording an event changes: the debug blocks, host memory and the events that wait. -/
def State.sansTrace (s : State) : State := { s with funcs := [], host := [], trev := [] }

theorem sansTrace_updDebug (s : State) (fn : Nat) (f : Debug → Debug) : (updDebug s fn f).sansTrace = s.sansTrace := rfl

theorem sansTrace_hostWriteFn (s : State) (fn va : Nat) (bs : List Byte) : (hostWriteFn s fn va bs).sansTrace = s.sansTrace := by
  obtain ⟨m, hm⟩ := hostWriteFn_eq s fn va bs
  rw [hm]
  rfl

theorem sansTrace_traceWrite (fn : Nat) (bs : List Byte) (s : State) : (traceWrite fn bs s).sansTrace = s.sansTrace :=
  (sansTrace_updDebug ..).trans (sansTrace_hostWriteFn ..)

theorem sansTrace_traceRecord (fn : Nat) (pc vcp : Word) (kind data : Nat) (s : State) :
    (traceRecord fn pc vcp kind data s).sansTrace = s.sansTrace := by
  unfold traceRecord
  dsimp only
  split
  · exact sansTrace_traceWrite ..
  · rfl

theorem sansTrace_traceOpen (fn : Nat) (pc vcp : Word) (s : State) : (traceOpen fn pc vcp s).sansTrace = s.sansTrace :=
  (sansTrace_traceRecord ..).trans (sansTrace_updDebug ..)

theorem sansTrace_traceEnd (fn : Nat) (pc vcp : Word) (reason : Nat) (s : State) :
    (traceEnd fn pc vcp reason s).sansTrace = s.sansTrace := by
  unfold traceEnd
  dsimp only
  rw [sansTrace_updDebug, sansTrace_traceWrite]
  split
  · rfl
  · exact sansTrace_traceWrite ..

theorem sansTrace_traceClock (fn : Nat) (pc vcp : Word) (s : State) : (traceClock fn pc vcp s).sansTrace = s.sansTrace := by
  have hput : ∀ (evs : List TraceEv) (t : State),
      (evs.foldl (fun s e => traceRecord fn e.pc e.vcp e.kind e.data s) t).sansTrace = t.sansTrace :=
    foldl_keeps State.sansTrace fun t e => sansTrace_traceRecord fn e.pc e.vcp e.kind e.data t
  unfold traceClock
  dsimp only
  split_ifs
  · rfl
  · rw [sansTrace_traceEnd, hput]; rfl
  · rw [hput]; rfl
  · rw [sansTrace_traceEnd, hput, sansTrace_traceOpen]; rfl
  · rw [hput, sansTrace_traceOpen]; rfl
  · rfl

theorem debugOf_traceEnd (fn : Nat) (pc vcp : Word) (reason : Nat) (s : State) :
    (debugOf (traceEnd fn pc vcp reason s) fn).sessionOpen = false := by
  unfold traceEnd
  dsimp only
  rw [debugOf_updDebug]

theorem exec_trenClear {s : State} {fn : Nat} (hfn : fn < 64) (h : served s = true) :
    exec (.trenClear fn) s = .next (clearTren fn s) := (onBar_served h).trans (congrArg _ (if_pos hfn))

theorem exec_smplostRead {s : State} {fn : Nat} (hfn : fn < 64) (h : served s = true) :
    exec (.smplostRead fn) s = .next (updDebug s fn fun d => { d with smplost := 0 }) :=
  (onBar_served h).trans (congrArg _ (if_pos hfn))

/-- A session that is open is ended. -/
theorem sessionClosed (fn : Nat) (pc vcp : Word) (reason : Nat) (s : State) :
    let t := if (debugOf s fn).sessionOpen then traceEnd fn pc vcp reason s else s
    (debugOf t fn).sessionOpen = false ∧ t.sansTrace = s.sansTrace := by
  dsimp only
  split
  · exact ⟨debugOf_traceEnd .., sansTrace_traceEnd ..⟩
  next h => exact ⟨Bool.eq_false_iff.2 h, rfl⟩

/-- The strands and the scratchpads stay as they are when TREN is cleared. -/
theorem clearTren_spec (fn : Nat) (s : State) :
    (debugOf (clearTren fn s) fn).tren = false ∧ (debugOf (clearTren fn s) fn).sessionOpen = false ∧
      (clearTren fn s).sansTrace = s.sansTrace := by
  unfold clearTren
  dsimp only
  rw [debugOf_updDebug, sansTrace_updDebug]
  obtain ⟨hopen, hsans⟩ := sessionClosed fn _ _ 3 (traceClock fn _ _ s)
  exact ⟨rfl, hopen, hsans.trans (sansTrace_traceClock ..)⟩

end Sys2Proof.Machine
end
section
/-! The end of a halt (R323): what the answers that are taken then leave, and a halt in which nothing was suspended. -/

namespace Sys2Proof.Machine

/-! ### Gangs and debug blocks -/

/-- The gangs, and the state of the functions. -/
def tables (s : State) : List Gang × List (Nat × Func) := (s.gangs, s.funcs)

theorem tables_takeTrap (cause tag : Nat) (vec resume : Bool) (epc tval : Word) (s : State) :
    tables (takeTrap cause tag vec resume epc tval s) = tables s := by
  have hc : tables (completeAll s) = tables s := (congrArg tables (still_completeAll s) :)
  cases hm : s.me.hm
  · obtain ⟨ev, he⟩ := takeTrap_me cause tag vec resume epc tval hm
    rw [he]
    exact hc
  · rw [takeTrap_nested _ _ _ _ _ _ hm]
    exact hc

theorem tables_takeAnswer (s : State) : tables (takeAnswer s) = tables s := by
  unfold takeAnswer terminate
  dsimp only
  split
  · split_ifs
    · exact tables_takeTrap ..
    · exact tables_takeTrap ..
    · rfl
  · rfl

theorem swapBy_rest (p : Strand → Bool) (s : State) : { swapBy p s with me := s.me, others := s.others } = s := by
  unfold swapBy
  split
  · rfl
  · split <;> rfl

theorem tables_swapBy (p : Strand → Bool) (s : State) : tables (swapBy p s) = tables s := (congrArg tables (swapBy_rest p s) :)

theorem tables_onBy {f : State → State} (hf : ∀ s, tables (f s) = tables s) (p : Strand → Bool) (s : State) :
    tables (onBy p f s) = tables s := by
  unfold onBy
  split
  · exact hf s
  · split
    · rfl
    · dsimp only
      split
      · exact (hf _).trans (tables_swapBy p s)
      · rw [tables_swapBy, hf, tables_swapBy]

/-! ### Nothing suspended -/

/-- No strand is suspended, whatever else holds it. -/
def NoneSuspended (s : State) : Prop := ∀ st ∈ s.me :: s.others, st.susp = none

theorem takeAnswer_of_none {s : State} (h : s.me.susp = none) : takeAnswer s = s := by
  simp only [takeAnswer, h]

theorem mem_of_mem_swapBy {p : Strand → Bool} {s : State} {st : Strand} (h : st ∈ (swapBy p s).me :: (swapBy p s).others) :
    st ∈ s.me :: s.others := by
  unfold swapBy at h
  split at h
  · exact h
  · split at h
    · exact h
    next x hx =>
      rcases List.mem_cons.1 h with rfl | h
      · exact List.mem_cons_of_mem _ (List.mem_of_find?_eq_some hx)
      · dsimp only at h
        split at h
        · exact List.mem_cons_of_mem _ (List.mem_of_mem_filter h)
        · exact (List.filter_sublist.cons_cons _).subset h

theorem NoneSuspended.swapBy {s : State} (h : NoneSuspended s) (p : Strand → Bool) : NoneSuspended (swapBy p s) :=
  fun st hst => h st (mem_of_mem_swapBy hst)

theorem isStrand_self {st : Strand} (h : st.status ≠ .free) : isStrand st.fn st.lseq st.gang st.lsn st = true := by
  simp [isStrand, h]

/-- Two strands of one number: what names the one names the other. -/
theorem isStrand_of_same {a b c d : Nat} {x y : Strand} (hx : isStrand a b c d x = true)
    (hy : isStrand y.fn y.lseq y.gang y.lsn x = true) (hfree : y.status ≠ .free) : isStrand a b c d y = true := by
  simp only [isStrand, Bool.and_eq_true, beq_iff_eq, bne_iff_ne] at hx hy ⊢
  obtain ⟨⟨⟨⟨-, rfl⟩, rfl⟩, rfl⟩, rfl⟩ := hx
  obtain ⟨⟨⟨⟨-, hfn⟩, hseq⟩, hgang⟩, hlsn⟩ := hy
  exact ⟨⟨⟨⟨hfree, hfn.symm⟩, hseq.symm⟩, hgang.symm⟩, hlsn.symm⟩

/-- The focus goes to another strand and comes back. -/
theorem swapBy_back {a b c d : Nat} {s : State} {x : Strand} (hme : isStrand a b c d s.me = false)
    (hx : s.others.find? (isStrand a b c d) = some x) (hfree : s.me.status ≠ .free) :
    (swapBy (isStrand s.me.fn s.me.lseq s.me.gang s.me.lsn) (swapBy (isStrand a b c d) s)).me = s.me := by
  have hthere : swapBy (isStrand a b c d) s =
      { s with me := x, others := s.me :: s.others.filter fun y => !isStrand a b c d y } := by
    simp [swapBy, hme, hx, hfree]
  have hother : isStrand s.me.fn s.me.lseq s.me.gang s.me.lsn x = false := by
    by_contra h
    have hsame := isStrand_of_same (List.find?_some hx) (Bool.of_not_eq_false h) hfree
    rw [hme] at hsame
    cases hsame
  rw [hthere]
  simp [swapBy, hother, isStrand_self hfree]

/-- The memories, and the strand that has the focus, stay as they are, with nothing suspended. -/
def SameFocus (s t : State) : Prop :=
  NoneSuspended t ∧ t.spad = s.spad ∧ t.host = s.host ∧ (s.me.status ≠ .free → t.me = s.me)

theorem SameFocus.refl {s : State} (h : NoneSuspended s) : SameFocus s s := ⟨h, rfl, rfl, fun _ => rfl⟩

theorem SameFocus.trans {s t u : State} (h : SameFocus s t) (h' : SameFocus t u) : SameFocus s u := by
  obtain ⟨-, hspad, hhost, hme⟩ := h
  obtain ⟨hnone, hspad', hhost', hme'⟩ := h'
  exact ⟨hnone, hspad'.trans hspad, hhost'.trans hhost, fun hfree => (hme' (hme hfree ▸ hfree)).trans (hme hfree)⟩

/-- With no strand suspended there is no answer to take. -/
theorem onBy_takeAnswer_of_none {s : State} (h : NoneSuspended s) (a b c d : Nat) :
    SameFocus s (onBy (isStrand a b c d) takeAnswer s) := by
  have hthere := h.swapBy (isStrand a b c d)
  have hrest := swapBy_rest (isStrand a b c d) s
  have hspad : (swapBy (isStrand a b c d) s).spad = s.spad := (congrArg State.spad hrest :)
  have hhost : (swapBy (isStrand a b c d) s).host = s.host := (congrArg State.host hrest :)
  unfold onBy
  split
  · rw [takeAnswer_of_none (h _ List.mem_cons_self)]
    exact .refl h
  next hme =>
    split
    · exact .refl h
    next x hx =>
      dsimp only
      rw [takeAnswer_of_none (hthere _ List.mem_cons_self)]
      split
      next hfree =>
        refine ⟨fun st hst => ?_, hspad, hhost, fun hne => absurd hfree hne⟩
        rcases List.mem_cons.1 hst with rfl | hst
        · exact h _ List.mem_cons_self
        · refine hthere st ?_
          dsimp only at hst
          split at hst
          · exact List.mem_cons_of_mem _ hst
          · exact hst
      next hfree =>
        have hback := swapBy_rest (isStrand s.me.fn s.me.lseq s.me.gang s.me.lsn) (swapBy (isStrand a b c d) s)
        exact ⟨hthere.swapBy _, (congrArg State.spad hback :).trans hspad, (congrArg State.host hback :).trans hhost,
          fun _ => swapBy_back (Bool.eq_false_iff.2 hme) hx hfree⟩

/-- The answers taken by a list of strands. -/
def takeAnswers (l : List Strand) (s : State) : State :=
  l.foldl (fun s st => onBy (isStrand st.fn st.lseq st.gang st.lsn) takeAnswer s) s

theorem tables_takeAnswers (l : List Strand) (s : State) : tables (takeAnswers l s) = tables s :=
  foldl_keeps tables (fun s _ => tables_onBy tables_takeAnswer _ s) l s

theorem takeAnswers_of_none (l : List Strand) : ∀ {s : State}, NoneSuspended s → SameFocus s (takeAnswers l s) := by
  induction l with
  | nil => exact .refl
  | cons st l ih =>
    intro s h
    have hst := onBy_takeAnswer_of_none h st.fn st.lseq st.gang st.lsn
    exact hst.trans (ih hst.1)

/-! ### RESUME (R323) -/

theorem exec_debugResume {s : State} {fn : Nat} (hfn : fn < 64) (h : served s = true) :
    exec (.debugResume fn) s = .next (debugResume fn s) := (onBar_served h).trans (congrArg _ (if_pos hfn))

/-- The gangs and the strands of a function released, before their answers are taken. -/
def unhalted (fn : Nat) (s : State) : State :=
  { updDebug s fn fun d => { d with halted := false } with
    gangs := s.gangs.map fun g => if g.fn == fn then { g with halted := false } else g
    me := unhalt fn s.me
    others := s.others.map (unhalt fn) }

theorem debugResume_eq (fn : Nat) (s : State) : ∃ l, debugResume fn s = takeAnswers l (unhalted fn s) := ⟨_, rfl⟩

theorem unhalt_susp (fn : Nat) (st : Strand) : (unhalt fn st).susp = st.susp := by
  unfold unhalt
  split <;> rfl

theorem unhalt_run {fn : Nat} {st : Strand} (hfn : st.fn = fn) (hst : st.status = .halted ∨ st.status = .halting)
    (hsusp : st.susp = none) : unhalt fn st = { st with status := .run } := by
  rcases hst with hst | hst <;> simp [unhalt, hfn, hst, hsusp]

theorem noneSuspended_unhalted {s : State} (h : NoneSuspended s) (fn : Nat) : NoneSuspended (unhalted fn s) := by
  intro st hst
  rcases List.mem_cons.1 hst with rfl | hst
  · exact (unhalt_susp ..).trans (h _ List.mem_cons_self)
  · obtain ⟨x, hx, rfl⟩ := List.mem_map.1 hst
    exact (unhalt_susp ..).trans (h x (List.mem_cons_of_mem _ hx))

theorem halted_debugResume (fn : Nat) (s : State) :
    (debugOf (debugResume fn s) fn).halted = false ∧ ∀ g ∈ (debugResume fn s).gangs, g.fn = fn → g.halted = false := by
  obtain ⟨l, hl⟩ := debugResume_eq fn s
  have ht : tables (debugResume fn s) = tables (unhalted fn s) := hl ▸ tables_takeAnswers l _
  have hgangs : (debugResume fn s).gangs = (unhalted fn s).gangs := congrArg Prod.fst ht
  have hfuncs : (debugResume fn s).funcs = (unhalted fn s).funcs := congrArg Prod.snd ht
  constructor
  · have hdebug : debugOf (debugResume fn s) fn = debugOf (unhalted fn s) fn :=
      congrArg (fun x => (tget Func.reset x fn).debug) hfuncs
    rw [hdebug]
    exact (congrArg Debug.halted (debugOf_updDebug s fn fun d => { d with halted := false }) :)
  · intro g hg hfn
    rw [hgangs] at hg
    obtain ⟨x, -, rfl⟩ := List.mem_map.1 hg
    by_cases hx : (x.fn == fn) = true
    · rw [if_pos hx]
    · rw [if_neg hx] at hfn
      exact absurd (beq_iff_eq.2 hfn) hx

/-- A halt in which nothing was suspended ends with the strands that were halted running on. -/
theorem debugResume_of_none {s : State} (h : NoneSuspended s) (fn : Nat) :
    (debugResume fn s).spad = s.spad ∧ (debugResume fn s).host = s.host ∧
      (s.me.fn = fn → s.me.status = .halted ∨ s.me.status = .halting → (debugResume fn s).me = { s.me with status := .run }) := by
  obtain ⟨l, hl⟩ := debugResume_eq fn s
  obtain ⟨-, hspad, hhost, hme⟩ := takeAnswers_of_none l (noneSuspended_unhalted h fn)
  rw [hl]
  refine ⟨hspad, hhost, fun hfn hst => ?_⟩
  have hrun : (unhalted fn s).me = { s.me with status := .run } := unhalt_run hfn hst (h _ List.mem_cons_self)
  exact (hme (by simp [hrun])).trans hrun

end Sys2Proof.Machine
end
section
/-! Traps of the fetch (R63, R77). -/

namespace Sys2Proof.Machine

theorem fetchFault_misaligned {s : State} (hr : Running s) (h : s.me.pc.toNat % 4 ≠ 0) :
    exec .instructionFetchFault s = .next (trapFront 3 s.me.pc s) := by
  have hf : fetchAt s = .misaligned := by simp [fetchAt, h]
  refine (onStrand_eq _ _ hr).trans (congrArg _ ?_)
  rw [hf]
  exact congrArg (trapFront 3 · s) (wordToNat _)

theorem fetchFault_access {s : State} (hr : Running s) (halign : s.me.pc.toNat % 4 = 0) (h : hostSize ≤ s.me.pc.toNat) :
    exec .instructionFetchFault s = .next (trapFront 4 s.me.pc s) := by
  have hf : fetchAt s = .access := by simp [fetchAt, halign, h]
  refine (onStrand_eq _ _ hr).trans (congrArg _ ?_)
  rw [hf]
  exact congrArg (trapFront 4 · s) (wordToNat _)

end Sys2Proof.Machine

open Sys2Proof Sys2Proof.Machine in
/-- Settles O53: the end of a halt takes the answers that came during it, which touch no gang and no debug block, and are none where
nothing was suspended; recording an event touches no strand; the traps are those of the front end. -/
theorem debugAndFetchMoves : Obligations.DebugAndFetchMoves := by
  unfold Obligations.DebugAndFetchMoves
  intro s fn hfn
  refine ⟨fun hserved => ⟨?_, ?_, ?_⟩, fun v hr => ⟨fun htr => ?_, fun htr => ?_⟩, fun hr _ => ⟨fun w => onStrand_eq _ _ hr,
    fetchFault_misaligned hr, fetchFault_access hr⟩⟩
  · obtain ⟨hdebug, hgangs⟩ := halted_debugResume fn s
    refine ⟨_, exec_debugResume hfn hserved, hdebug, hgangs, fun hnone => ?_⟩
    obtain ⟨hspad, hhost, hme⟩ := debugResume_of_none hnone fn
    refine ⟨hspad, hhost, fun hf hst => ?_⟩
    rw [hme hf hst]
    exact ⟨rfl, rfl, rfl⟩
  · exact ⟨_, exec_smplostRead hfn hserved, debugOf_updDebug .., fun f hf => fnOf_updFn_ne s hf _, rfl⟩
  · obtain ⟨htren, hopen, hsans⟩ := clearTren_spec fn s
    exact ⟨_, exec_trenClear hfn hserved, htren, hopen, (congrArg State.me hsans :), (congrArg State.spad hsans :)⟩
  · exact (exec_trsigWrite hr v).trans (congrArg _ (signal_of_not_traced htr v))
  · obtain ⟨hrest, hlength⟩ := signal_of_traced htr v
    exact ⟨_, exec_trsigWrite hr v, hrest, hlength⟩
end

section
/-! The scalar arithmetic and immediate instructions (R104, R106, R107): the word that D receives is the low 64 bits of the exact
result. -/

namespace Sys2Proof.Machine

open Sys2Proof.Claims

/-- A word is the low 64 bits of its unsigned value. -/
theorem ofInt_toNat (x : Word) : BitVec.ofInt 64 (x.toNat : Int) = x := by rw [ofIntNat, wordToNat]

/-- The low 64 bits of a sum depend on those of its terms alone. -/
theorem ofInt_add {x y : Word} {m n : Int} (hx : BitVec.ofInt 64 m = x) (hy : BitVec.ofInt 64 n = y) :
    x + y = BitVec.ofInt 64 (m + n) := by
  rw [BitVec.ofInt_add, hx, hy]

theorem ofInt_sub {x y : Word} {m n : Int} (hx : BitVec.ofInt 64 m = x) (hy : BitVec.ofInt 64 n = y) :
    x - y = BitVec.ofInt 64 (m - n) := by
  rw [Int.sub_eq_add_neg, BitVec.ofInt_add, BitVec.ofInt_neg, hx, hy, BitVec.sub_eq_add_neg]

theorem and_eq_ofInt (x y : Word) : x &&& y = BitVec.ofInt 64 (x.toNat &&& y.toNat : Nat) := by
  rw [← BitVec.toNat_and, ofInt_toNat]

theorem or_eq_ofInt (x y : Word) : x ||| y = BitVec.ofInt 64 (x.toNat ||| y.toNat : Nat) := by
  rw [← BitVec.toNat_or, ofInt_toNat]

theorem xor_eq_ofInt (x y : Word) : x ^^^ y = BitVec.ofInt 64 (x.toNat ^^^ y.toNat : Nat) := by
  rw [← BitVec.toNat_xor, ofInt_toNat]

theorem mul_eq_ofInt (x y : Word) : x * y = BitVec.ofInt 64 (x.toInt * y.toInt) := by
  rw [BitVec.ofInt_mul, BitVec.ofInt_toInt, BitVec.ofInt_toInt]

/-- The shift amount is the low six bits of B. -/
theorem shamt_eq (b : Word) : shamt b = b.toNat % 64 := field_lo b 5

/-- A comparison gives 1 or 0. -/
theorem truth_eq_ofInt (p : Prop) [Decidable p] : truth (decide p) = BitVec.ofInt 64 (if p then 1 else 0) := by
  unfold truth
  by_cases h : p <;> simp [h]

theorem toInt_sext {n : Nat} (hn : n ≤ 64) (x : BitVec n) : (sext x).toInt = x.toInt := BitVec.toInt_signExtend_of_le hn

theorem slt_eq_ofInt (x y : Word) : truth (x.slt y) = BitVec.ofInt 64 (if x.toInt < y.toInt then 1 else 0) :=
  truth_eq_ofInt _

theorem sltu_eq_ofInt (x y : Word) : truth (x.ult y) = BitVec.ofInt 64 (if x.toNat < y.toNat then 1 else 0) :=
  truth_eq_ofInt _

theorem min_eq_ofInt (x y : Word) : (if y.slt x then y else x) = BitVec.ofInt 64 (min x.toInt y.toInt) := by
  by_cases h : y.toInt < x.toInt
  · rw [if_pos (BitVec.slt_iff_toInt_lt.2 h), min_eq_right h.le, BitVec.ofInt_toInt]
  · rw [if_neg (mt BitVec.slt_iff_toInt_lt.1 h), min_eq_left (not_lt.1 h), BitVec.ofInt_toInt]

theorem max_eq_ofInt (x y : Word) : (if x.slt y then y else x) = BitVec.ofInt 64 (max x.toInt y.toInt) := by
  by_cases h : x.toInt < y.toInt
  · rw [if_pos (BitVec.slt_iff_toInt_lt.2 h), max_eq_right h.le, BitVec.ofInt_toInt]
  · rw [if_neg (mt BitVec.slt_iff_toInt_lt.1 h), max_eq_left (not_lt.1 h), BitVec.ofInt_toInt]

theorem minu_eq_ofInt (x y : Word) : (if y.ult x then y else x) = BitVec.ofInt 64 (min x.toNat y.toNat : Nat) := by
  by_cases h : y.toNat < x.toNat
  · rw [if_pos (BitVec.ult_iff_toNat_lt.2 h), min_eq_right h.le, ofInt_toNat]
  · rw [if_neg (mt BitVec.ult_iff_toNat_lt.1 h), min_eq_left (not_lt.1 h), ofInt_toNat]

theorem maxu_eq_ofInt (x y : Word) : (if x.ult y then y else x) = BitVec.ofInt 64 (max x.toNat y.toNat : Nat) := by
  by_cases h : x.toNat < y.toNat
  · rw [if_pos (BitVec.ult_iff_toNat_lt.2 h), max_eq_right h.le, ofInt_toNat]
  · rw [if_neg (mt BitVec.ult_iff_toNat_lt.1 h), max_eq_left (not_lt.1 h), ofInt_toNat]

/-- A division by zero gives all ones, the low bits of -1 (Table 5.4). -/
theorem divWord_eq_ofInt (x y : Word) : divWord x y = BitVec.ofInt 64 (if y = 0 then -1 else x.toInt.tdiv y.toInt) := by
  unfold divWord
  split <;> rfl

theorem divuWord_eq_ofInt (x y : Word) : divuWord x y = BitVec.ofInt 64 (if y = 0 then -1 else (x.toNat / y.toNat : Nat)) := by
  unfold divuWord
  split
  · rfl
  · exact (ofIntNat _).symm

theorem remWord_eq_ofInt (x y : Word) : remWord x y = BitVec.ofInt 64 (if y = 0 then x.toInt else x.toInt.tmod y.toInt) := by
  unfold remWord
  split
  · exact BitVec.ofInt_toInt.symm
  · rfl

theorem remuWord_eq_ofInt (x y : Word) :
    remuWord x y = BitVec.ofInt 64 (if y = 0 then x.toInt else (x.toNat % y.toNat : Nat)) := by
  unfold remuWord
  split
  · exact BitVec.ofInt_toInt.symm
  · exact (ofIntNat _).symm

theorem mulhuWord_eq_ofInt (x y : Word) : mulhuWord x y = BitVec.ofInt 64 (x.toNat * y.toNat / 2 ^ 64 : Nat) :=
  (ofIntNat _).symm

/-- LUI's value: the immediate above twelve zeros. -/
theorem upper_eq_ofInt (i : BitVec 20) : sext i <<< 12 = BitVec.ofInt 64 (i.toInt * 2 ^ 12) := by
  rw [shl, BitVec.ofInt_mul, ofInt_toNat, sextI, BitVec.ofInt_mul]

/-- Each of these instructions is a register instruction with the low 64 bits of its exact result. -/
theorem exec_of_aluInt {i : Instr} {s : State} {d : BitVec 5} {x : Int} (h : aluInt s i = some (d, x)) :
    exec i s = alu d (BitVec.ofInt 64 x) s := by
  cases i <;> cases h
  case add.refl => exact congrArg (alu _ · s) (ofInt_add (ofInt_toNat _) (ofInt_toNat _))
  case sub.refl => exact congrArg (alu _ · s) (ofInt_sub (ofInt_toNat _) (ofInt_toNat _))
  case and.refl => exact congrArg (alu _ · s) (and_eq_ofInt _ _)
  case or.refl => exact congrArg (alu _ · s) (or_eq_ofInt _ _)
  case xor.refl => exact congrArg (alu _ · s) (xor_eq_ofInt _ _)
  case sll.refl => exact congrArg (alu _ · s) (by rw [shamt_eq, shl])
  case srl.refl => exact congrArg (alu _ · s) (by rw [shamt_eq, shrw])
  case sra.refl => exact congrArg (alu _ · s) (by rw [shamt_eq, sshr])
  case slt.refl => exact congrArg (alu _ · s) (slt_eq_ofInt _ _)
  case sltu.refl => exact congrArg (alu _ · s) (sltu_eq_ofInt _ _)
  case min.refl => exact congrArg (alu _ · s) (min_eq_ofInt _ _)
  case max.refl => exact congrArg (alu _ · s) (max_eq_ofInt _ _)
  case minu.refl => exact congrArg (alu _ · s) (minu_eq_ofInt _ _)
  case maxu.refl => exact congrArg (alu _ · s) (maxu_eq_ofInt _ _)
  case mul.refl => exact congrArg (alu _ · s) (mul_eq_ofInt _ _)
  case mulh.refl => rfl
  case mulhu.refl => exact congrArg (alu _ · s) (mulhuWord_eq_ofInt _ _)
  case div.refl => exact congrArg (alu _ · s) (divWord_eq_ofInt _ _)
  case divu.refl => exact congrArg (alu _ · s) (divuWord_eq_ofInt _ _)
  case rem.refl => exact congrArg (alu _ · s) (remWord_eq_ofInt _ _)
  case remu.refl => exact congrArg (alu _ · s) (remuWord_eq_ofInt _ _)
  case addi.refl => exact congrArg (alu _ · s) (ofInt_add BitVec.ofInt_toInt rfl)
  case andi.refl | ori.refl | xori.refl => exact congrArg (alu _ · s) BitVec.ofInt_toInt.symm
  case slli.refl => exact congrArg (alu _ · s) (shl _ _)
  case srli.refl => exact congrArg (alu _ · s) (shrw _ _)
  case srai.refl => exact congrArg (alu _ · s) (sshr _ _)
  case slti.refl => exact congrArg (alu _ · s) (by rw [slt_eq_ofInt, toInt_sext (by decide)])
  case lui.refl => exact congrArg (alu _ · s) (upper_eq_ofInt _)
  case auipc.refl => exact congrArg (alu _ · s) (ofInt_add BitVec.ofInt_toInt (upper_eq_ofInt _).symm)

/-- A register instruction writes D, goes to the next word and changes nothing else. -/
theorem alu_writes {s : State} (hr : Running s) (d : BitVec 5) (v : Word) :
    ∃ t, alu d v s = .next t ∧ WritesReg s t d v ∧ t.me.pc = s.me.pc + 4 ∧ SameButRegs s t ∧ SameBytes s t :=
  ⟨_, alu_eq d v s hr, writes_setReg s d v, congrArg (· + 4) (setReg_me_pc s d v), same_setReg s d v, bytes_setReg s d v⟩

end Sys2Proof.Machine

open Sys2Proof.Machine in
/-- Settles O1: each instruction is a register instruction whose value is the low 64 bits of the exact result. -/
theorem scalarResults : Obligations.ScalarResults := by
  unfold Obligations.ScalarResults
  intro i s d x h hr
  rw [exec_of_aluInt h]
  exact alu_writes hr d _
end

section
/-! The bit instructions (R105). -/

namespace Sys2Proof.Machine

open Sys2Proof.Claims

/-- The field that B names: its position and its length. -/
theorem bfPos_eq (b : Word) : bfPos b = b.toNat % 64 := field_lo b 5

theorem bfLen_eq (b : Word) : bfLen b = min (b.toNat / 256 % 128) 64 := rfl

theorem popCount_eq_ones (x : Word) : popCount 64 x.toNat = ones x := popCount_eq 64 x.toNat

/-- A count whose case for no one bits stands apart. -/
theorem word_ite_zero (x : Word) (m n : Nat) :
    word (if x.toNat = 0 then m else n) = BitVec.ofInt 64 (if x = 0 then (m : Int) else n) := by
  by_cases h : x = 0
  · rw [if_pos h, if_pos (by rw [h]; rfl), ofIntNat]
  · rw [if_neg h, if_neg fun h0 => h (BitVec.eq_of_toNat_eq (h0.trans rfl)), ofIntNat]

/-- Each of these instructions is a register instruction with the value of R105. -/
theorem exec_of_bitInt {i : Instr} {s : State} {d : BitVec 5} {x : Int} (h : bitInt s i = some (d, x)) :
    exec i s = alu d (BitVec.ofInt 64 x) s := by
  cases i <;> cases h
  case clz.refl a => exact congrArg (alu _ · s) (by rw [leadZeros_eq 64 _ (reg_lt s a), word_ite_zero]; rfl)
  case ctz.refl a => exact congrArg (alu _ · s) (by rw [trailZeros_eq 64 _ (reg_lt s a), word_ite_zero]; rfl)
  case popc.refl a => exact congrArg (alu _ · s) (by rw [ofIntNat, popCount_eq_ones])
  case bfx.refl a b => exact congrArg (alu _ · s) (by rw [ofIntNat, bfxWord, bfPos_eq, bfLen_eq])
  case fshr.refl a b n => exact congrArg (alu _ · s) (ofIntNat _).symm

/-- A bit of the mask of BFI is set inside the field. -/
theorem getLsbD_bfMask (b : Word) {k : Nat} (hk : k < 64) :
    (bfMask b).getLsbD k = decide (bfPos b ≤ k ∧ k < bfPos b + bfLen b) := by
  rw [bfMask, word, BitVec.getLsbD_ofNat, Nat.testBit_mul_two_pow, Nat.testBit_two_pow_sub_one]
  have hshift : bfPos b ≤ k ∧ k - bfPos b < bfLen b ↔ bfPos b ≤ k ∧ k < bfPos b + bfLen b := by omega
  rw [decide_eq_true hk, Bool.true_and, ← Bool.decide_and]
  exact decide_eq_decide.2 hshift

/-- BFI replaces the bits inside the field by the low bits of A. -/
theorem getLsbD_bfiWord (d a b : Word) {k : Nat} (hk : k < 64) : (bfiWord d a b).getLsbD k =
    if bfPos b ≤ k ∧ k < bfPos b + bfLen b then a.getLsbD (k - bfPos b) else d.getLsbD k := by
  simp only [bfiWord, BitVec.getLsbD_or, BitVec.getLsbD_and, BitVec.getLsbD_not, BitVec.getLsbD_shiftLeft, getLsbD_bfMask b hk, hk]
  split_ifs with h <;> simp [h]

end Sys2Proof.Machine

open Sys2Proof.Machine in
/-- Settles O2: five are register instructions with the value of R105; BFI is one whose value is known bit by bit. -/
theorem bitInstructions : Obligations.BitInstructions := by
  unfold Obligations.BitInstructions
  refine ⟨fun i s d x h hr => exec_of_bitInt h ▸ alu_writes hr d _, fun s d a b hr => ?_⟩
  obtain ⟨t, he, hD, hpc, hrest, hbytes⟩ := alu_writes hr d (bfiWord (reg s d) (reg s a) (reg s b))
  refine ⟨t, _, he, hD, hpc, hrest, hbytes, fun k hk => ?_⟩
  rw [getLsbD_bfiWord _ _ _ hk, bfPos_eq, bfLen_eq]
end

section
/-! Branches and jumps (R112). -/

namespace Sys2Proof.Machine

open Sys2Proof.Claims

/-- A displacement counts words. -/
theorem displacement_eq_ofInt {n : Nat} (o : BitVec n) : sext o <<< 2 = BitVec.ofInt 64 (4 * o.toInt) := by
  rw [shl, BitVec.ofInt_mul, ofInt_toNat, sextI, BitVec.ofInt_mul, BitVec.mul_comm]
  rfl

/-- A transfer moves PC, and a trace session records it. -/
theorem transfer_eq (p : Word) (s : State) :
    ∃ ev, transfer p s = { s with me := { s.me with pc := p }, trev := ev } ∧ (traced s = false → ev = s.trev) := by
  unfold transfer traceEvent
  split
  case isTrue h => exact ⟨_, rfl, fun hn => absurd ((h :).symm.trans hn) nofun⟩
  case isFalse => exact ⟨_, rfl, fun _ => rfl⟩

/-- A strand that is not traced transfers by its PC alone. -/
theorem transfer_untraced {s : State} (h : traced s = false) (p : Word) : transfer p s = { s with me := { s.me with pc := p } } := by
  obtain ⟨ev, ht, hev⟩ := transfer_eq p s
  rw [ht, hev h]

theorem sameBytes_pc (s : State) (p : Word) (ev : List TraceEv) : SameBytes s { s with me := { s.me with pc := p }, trev := ev } :=
  sameBytes_of_landed (fun _ => rfl) rfl rfl fun l => by cases l <;> rfl

/-- A branch goes to its target where its condition holds and to the next word where not, and changes nothing but PC. -/
theorem branch_spec {s : State} (hr : Running s) (b : Bool) (o : BitVec 12) :
    ∃ t, branch b o s = .next t ∧ SameButPc s t ∧ SameBytes s t ∧ (traced s = false → t.trev = s.trev) ∧
      (b = true → t.me.pc = s.me.pc + BitVec.ofInt 64 (4 * o.toInt)) ∧ (¬b = true → t.me.pc = s.me.pc + 4) := by
  refine ⟨_, onStrand_eq s _ hr, ?_⟩
  cases b with
  | true =>
    rw [if_pos rfl, displacement_eq_ofInt]
    obtain ⟨ev, ht, hev⟩ := transfer_eq (s.me.pc + BitVec.ofInt 64 (4 * o.toInt)) s
    rw [ht]
    exact ⟨rfl, sameBytes_pc s _ ev, hev, fun _ => rfl, fun h => absurd rfl h⟩
  | false =>
    rw [if_neg Bool.false_ne_true]
    exact ⟨rfl, viewByte_advance s, fun _ => rfl, nofun, fun _ => rfl⟩

/-- Each branch instruction is a branch on its condition. -/
theorem exec_of_branchInt {i : Instr} {s : State} {c : Prop} {o : BitVec 12} (h : branchInt s i = some (c, o)) :
    ∃ b : Bool, (b = true ↔ c) ∧ exec i s = branch b o s := by
  have hnot {b : Bool} {x y : Int} (hb : b = true ↔ x < y) : (!b) = true ↔ y ≤ x := by
    rw [Bool.not_eq_true', ← Bool.not_eq_true, hb, not_lt]
  cases i <;> cases h
  case beq.refl => exact ⟨_, beq_iff_eq.trans BitVec.toNat_inj.symm, rfl⟩
  case bne.refl => exact ⟨_, bne_iff_ne.trans (not_congr BitVec.toNat_inj.symm), rfl⟩
  case blt.refl => exact ⟨_, BitVec.slt_iff_toInt_lt, rfl⟩
  case bge.refl => exact ⟨_, hnot BitVec.slt_iff_toInt_lt, rfl⟩
  case bltu.refl => exact ⟨_, BitVec.ult_iff_toNat_lt, rfl⟩
  case bgeu.refl => exact ⟨_, (hnot (BitVec.ult_iff_toNat_lt.trans Nat.cast_lt.symm)).trans Nat.cast_le, rfl⟩

theorem traced_setReg (s : State) (d : BitVec 5) (v : Word) : traced (setReg s d v) = traced s := by
  unfold setReg
  split <;> rfl

/-- A jump of a strand that is not traced: D receives the address of the next word, and PC the target. -/
theorem jump_spec {s : State} (hr : Running s) (htr : traced s = false) (d : BitVec 5) (p : Word) :
    ∃ t, onStrand s (transfer p (setReg s d (s.me.pc + 4))) = .next t ∧ t.me.pc = p ∧ WritesReg s t d (s.me.pc + 4) ∧
      SameButRegs s t ∧ SameBytes s t := by
  rw [transfer_untraced ((traced_setReg ..).trans htr)]
  refine ⟨_, onStrand_eq s _ hr, rfl, (writes_setReg s d _ :), (same_setReg s d _ :), fun a => ?_⟩
  calc viewByte { setReg s d (s.me.pc + 4) with me := { (setReg s d (s.me.pc + 4)).me with pc := p } } a
      = viewByte (setReg s d (s.me.pc + 4)) a := viewByte_regs _ p _ a
    _ = viewByte (advance (setReg s d (s.me.pc + 4))) a := (viewByte_advance _ a).symm
    _ = viewByte s a := bytes_setReg s d _ a

end Sys2Proof.Machine

open Sys2Proof Sys2Proof.Machine Sys2Proof.Claims in
/-- Settles O3: every branch is the one operation on its own condition, and both jumps the other on their own target. -/
theorem branchesAndJumps : Obligations.BranchesAndJumps := by
  unfold Obligations.BranchesAndJumps
  refine ⟨fun i s c o h hr => ?_, fun s d a hr htr => ⟨fun o => ?_, fun i => jump_spec hr htr d _⟩⟩
  · obtain ⟨b, hb, he⟩ := exec_of_branchInt h
    rw [he, ← hb]
    exact branch_spec hr b o
  · rw [← displacement_eq_ofInt]
    exact jump_spec hr htr d _
end

section
/-! The checks of a scalar access (R109): what LD and ST do where a check fails. -/

namespace Sys2Proof.Machine

open Sys2Proof.Claims

/-! ### The checks -/

theorem loadBytes_eq : ∀ w : BitVec 3, w.toNat < 7 → loadBytes w = loadSize w := by decide

/-- The model's effective address. -/
theorem address_eq (s : State) (a : BitVec 5) (i : BitVec 12) : (effAddr s a i).toNat = address s a i := rfl

theorem resolve_misaligned {s : State} {e n : Nat} (h : e % n ≠ 0) (a : Acc) : resolve s e n a = .misaligned := if_pos h

theorem resolve_aligned {s : State} {e n : Nat} (h : e % n = 0) (a : Acc) : resolve s e n a = reach s e a := if_neg (not_not.2 h)

theorem reach_nowhere {s : State} {e : Nat} (h : regionOf e = .nowhere) (a : Acc) : reach s e a = .access := by
  simp only [reach, h]
  rfl

/-! ### LD and ST where a check fails -/

theorem exec_ld_fault {s : State} (hr : Running s) {d a : BitVec 5} {i : BitVec 12} {w : BitVec 3} {r : MRes}
    (h : resolve s (address s a i) (loadSize w) .load = r) (hno : ∀ l, r ≠ .ok l) :
    exec (.ld d a i w) s = .next (memFault r (address s a i) false false s) := by
  refine Eq.trans ?_ (onStrand_eq s _ hr)
  show execLd d a i w s = _
  unfold execLd
  dsimp only
  rw [address_eq, h]
  split
  case h_1 l => exact absurd rfl (hno l)
  case h_2 => rfl

theorem exec_st_fault {s : State} (hr : Running s) {a b : BitVec 5} {h : BitVec 7} {v : BitVec 2} {l : BitVec 5} {r : MRes}
    (hres : resolve s (address s a (h ++ l)) (2 ^ v.toNat) .store = r) (hno : ∀ l, r ≠ .ok l) :
    exec (.st a b h v l) s = .next (memFault r (address s a (h ++ l)) true false s) := by
  refine Eq.trans ?_ (onStrand_eq s _ hr)
  show execSt a b h v l s = _
  unfold execSt
  dsimp only
  rw [address_eq, storeDisp, hres]
  split
  case h_1 k => exact absurd rfl (hno _)
  case h_2 pa => exact absurd rfl (hno _)
  case h_3 => rfl

end Sys2Proof.Machine

open Sys2Proof Sys2Proof.Machine Sys2Proof.Claims in
/-- Settles O6: the first check that fails names the trap, whatever the access would have done. -/
theorem accessChecks : Obligations.AccessChecks := by
  unfold Obligations.AccessChecks
  intro s d a b i h l w v hr _
  refine ⟨fun hw hmis => ?_, fun hw hal hno => ?_, fun hmis => ?_, fun hal hno => ?_⟩
  · rw [loadBytes_eq w hw] at hmis
    exact exec_ld_fault hr (resolve_misaligned hmis .load) nofun
  · rw [loadBytes_eq w hw] at hal
    exact exec_ld_fault hr ((resolve_aligned hal .load).trans (reach_nowhere hno .load)) nofun
  · exact exec_st_fault hr (resolve_misaligned hmis .store) nofun
  · exact exec_st_fault hr ((resolve_aligned hal .store).trans (reach_nowhere hno .store)) nofun
end

section
/-! The scalar load (R88, R93, R102, R108, R110). -/

namespace Sys2Proof.Machine

open Sys2Proof.Claims

/-! ### The value -/

/-- The value that the sub-code makes of the bytes (Table 3.4). -/
theorem loadValue_eq {w : BitVec 3} (hw : w.toNat < 7) (bs : List Byte) :
    loadValue w bs = BitVec.ofInt 64 (loaded w (ofBytes bs)) := by
  have hcodes : ∀ w : BitVec 3, w.toNat < 7 → w = 0 ∨ w = 1 ∨ w = 2 ∨ w = 3 ∨ w = 4 ∨ w = 5 ∨ w = 6 := by decide
  obtain rfl | rfl | rfl | rfl | rfl | rfl | rfl := hcodes w hw
  · exact congrArg (BitVec.ofInt 64) (toInt_eq_ofNat 8 _)
  · exact (ofIntNat _).symm
  · exact congrArg (BitVec.ofInt 64) (toInt_eq_ofNat 16 _)
  · exact (ofIntNat _).symm
  · exact congrArg (BitVec.ofInt 64) (toInt_eq_ofNat 32 _)
  · exact (ofIntNat _).symm
  · refine (congrArg (BitVec.ofInt 64) (toInt_eq_ofNat 64 _)).trans ?_
    rw [BitVec.ofInt_toInt]
    exact (ofIntNat _).symm

/-! ### LD by whether its value comes now -/

/-- A load of host space that is performed later has its walk cached. -/
def walked (s : State) (e : Nat) : Loc → State
  | .spad _ => s
  | .host _ => cacheWalk s s.me.fn e

section
variable {s : State} {d a : BitVec 5} {i : BitVec 12} {w : BitVec 3} {l : Loc} (hr : Running s) (hw : w.toNat < 7)
  (hal : address s a i % loadBytes w = 0) (hl : reach s (address s a i) .load = .ok l)
include hr hw hal hl

/-- Where every check passes. -/
theorem exec_ld_ok : exec (.ld d a i w) s = .next (
    if loadLater s l (loadBytes w) then
      advance (issueLate (putLoad l (loadBytes w) (.load d w)) (pendLoad d) (walked s (address s a i) l))
    else
      advance (setReg (visit s (address s a i) l) d (loadValue w (readLoc (visit s (address s a i) l) l (loadBytes w))))) := by
  rw [loadBytes_eq w hw] at hal ⊢
  refine Eq.trans ?_ (onStrand_eq s _ hr)
  show execLd d a i w s = _
  unfold execLd
  dsimp only
  rw [address_eq, resolve_aligned hal, hl]
  dsimp only
  split
  · cases l <;> rfl
  · rfl

theorem exec_ld_later (hlater : loadLater s l (loadBytes w) = true) :
    exec (.ld d a i w) s = .next (advance (issueLate (putLoad l (loadBytes w) (.load d w)) (pendLoad d)
      (walked s (address s a i) l))) := by
  rw [exec_ld_ok hr hw hal hl, if_pos hlater]

theorem exec_ld_now (hnow : loadLater s l (loadBytes w) = false) :
    exec (.ld d a i w) s = .next (advance (setReg (visit s (address s a i) l) d
      (loadValue w (readLoc (visit s (address s a i) l) l (loadBytes w))))) := by
  rw [exec_ld_ok hr hw hal hl, if_neg (by simp [hnow])]

end

/-! ### A load at once -/

/-- v is s after what a data access does besides (Table 4.3): requests in flight served, or its walk cached. The strand stays as it
is and reads every byte as before. -/
structure Visited (s v : State) : Prop where
  me : v.me = s.me
  bytes : SameBytes s v
  seen : ∀ x, seen v x = seen s x
  rest : { v with net := s.net, spad := s.spad, dev := { v.dev with tlb := s.dev.tlb } } = s

theorem visited_spad {s : State} (h : Calm s) (e k : Nat) : Visited s (visit s e (.spad k)) := by
  obtain ⟨-, hnet, -⟩ := h
  have hv : visit s e (.spad k) = { s with spad := settled s, net := [] } := settle_quiet s hnet
  exact ⟨by rw [hv], fun a => viewByte_settle s a, fun x => congrArg (locByte · x) (settle_settle s), by rw [hv]⟩

theorem visited_host {s : State} (h : Calm s) (e pa : Nat) : Visited s (visit s e (.host pa)) := by
  obtain ⟨⟨hout, hbufs, -⟩, -⟩ := h
  have hv : visit s e (.host pa) = cacheWalk s s.me.fn e := by simp [visit, completeOut, hout, hbufs]
  rw [hv]
  obtain ⟨tlb, hc⟩ := cacheWalk_eq s s.me.fn e
  exact ⟨by rw [hc], fun a => viewByte_cacheWalk s _ e a, fun x => locByte_cacheWalk s _ e x, by rw [hc]⟩

theorem visited {s : State} (h : Calm s) (e : Nat) : ∀ l, Visited s (visit s e l)
  | .spad k => visited_spad h e k
  | .host pa => visited_host h e pa

/-- What the access reads is what the strand sees. -/
theorem locByte_visit (s : State) (e : Nat) (l : Loc) (j : Nat) :
    locByte (visit s e l) (l.plus j) = seen (visit s e l) (l.plus j) := by
  cases l with
  | spad k => exact (congrArg (locByte · _) (settle_settle s)).symm
  | host pa =>
    rw [seen, locByte_settle]
    rfl

theorem ofBytes_readLoc_visit {s : State} (h : Calm s) (e : Nat) (l : Loc) (n : Nat) :
    ofBytes (readLoc (visit s e l) l n) = seenNat s l n := by
  simp only [readLoc, seenNat, upTo, locByte_visit, (visited h e l).seen]

/-- Nothing that waits for a VFENCE, and no deferral, keeps the load back. -/
theorem loadLater_calm {s : State} (hd : s.defer = false) (h : Calm s) (l : Loc) (n : Nat) : loadLater s l n = false := by
  obtain ⟨⟨-, -, hkept, hpath⟩, -⟩ := h
  have hb : behindAtomic s.me l n = false := by
    cases l with
    | spad k => simp [behindAtomic, meetsKept, hkept]
    | host pa => simpa [behindAtomic] using hpath
  unfold loadLater
  rw [hb, hd]
  rfl

theorem seen_setReg (s : State) (d : BitVec 5) (v : Word) (x : Loc) : seen (advance (setReg s d v)) x = seen s x := by
  unfold setReg advance seen
  split
  · exact seen_regs s _ s.me.regs x
  · exact seen_regs s _ _ x

/-- D written after a visit: D, PC and what the visit changes apart, nothing is changed. -/
theorem setReg_visited {s v t : State} (h : Visited s v) {d : BitVec 5} {x : Word} (ht : advance (setReg v d x) = t) :
    t.me.pc = s.me.pc + 4 ∧ WritesReg s t d x ∧ SameBytes s t ∧ (∀ l, seen t l = seen s l) ∧
      { t with
        net := s.net, spad := s.spad, dev := { t.dev with tlb := s.dev.tlb },
        me := { t.me with pc := s.me.pc, regs := s.me.regs } } = s := by
  subst ht
  obtain ⟨hme, hbytes, hseen, hrest⟩ := h
  obtain ⟨hD, hother⟩ := writes_setReg v d x
  have hreg (r : BitVec 5) : reg v r = reg s r := by rw [reg, reg, hme]
  have hpc : (setReg v d x).me.pc = s.me.pc := (setReg_me_pc v d x).trans (congrArg Strand.pc hme)
  have hframe : SameButRegs v (advance (setReg v d x)) := same_setReg v d x
  rw [SameButRegs, hme] at hframe
  exact ⟨congrArg (· + 4) hpc, ⟨hD, fun r hr => (hother r hr).trans (hreg r)⟩,
    fun a => (bytes_setReg v d x a).trans (hbytes a), fun l => (seen_setReg v d x l).trans (hseen l),
    (congrArg (fun u : State => { u with net := s.net, spad := s.spad, dev := { u.dev with tlb := s.dev.tlb } }) hframe).trans
      hrest⟩

/-! ### A load whose value comes later -/

/-- What issuing an access may change: the accesses that are kept, in the host path or in flight, and the numbering. -/
theorem putLoad_eq (l : Loc) (n : Nat) (kind : LateKind) (s : State) : ∃ kept hpath net,
    putLoad l n kind s = { s with nextId := s.nextId + 1, net := net, me := { s.me with kept := kept, hpath := hpath } } := by
  unfold putLoad
  cases l with
  | host pa => exact ⟨s.me.kept, _, s.net, rfl⟩
  | spad k =>
    dsimp only
    split
    · exact ⟨_, s.me.hpath, s.net, rfl⟩
    · exact ⟨s.me.kept, s.me.hpath, _, rfl⟩

theorem walked_eq (s : State) (e : Nat) (l : Loc) : ∃ tlb, walked s e l = { s with dev := { s.dev with tlb := tlb } } := by
  cases l with
  | spad k => exact ⟨s.dev.tlb, rfl⟩
  | host pa => exact cacheWalk_eq s s.me.fn e

/-- A load that the agenda defers, and whose value the strand's own waiting stores do not give whole, is performed later. -/
theorem loadLater_deferred {s : State} {l : Loc} {n : Nat} (hd : s.defer = true)
    (hf : ∀ k, l = .spad k → ∃ j < n, (forwarded s.me (.spad (k + j))).mask ≠ 0xFF) : loadLater s l n = true := by
  unfold loadLater
  rw [hd, Bool.true_and, Bool.or_eq_true]
  right
  cases l with
  | host pa => rfl
  | spad k =>
    obtain ⟨j, hj, hmask⟩ := hf k rfl
    rw [Bool.not_eq_true', fwdWhole, List.all_eq_false]
    exact ⟨_, List.mem_map_of_mem (List.mem_range.2 hj), by simpa [Loc.plus] using hmask⟩

theorem waits_of_accessFull {i : Instr} {s : State} (h : accessFull i s = true) : waits i s = true := by
  simp [waits, h]

/-- An instruction that names the destination of an outstanding load waits at issue (R102). -/
theorem waits_of_pending {i : Instr} {s : State} {d : BitVec 5} {id : Nat} (hd : d ≠ 0) (hi : d ∈ scalarRegs i)
    (ho : pendLoad d id ∈ s.me.out) : waits i s = true := by
  have ht : touchesOut i s.me = true := by
    rw [touchesOut, List.any_eq_true]
    refine ⟨d, hi, ?_⟩
    rw [Bool.and_eq_true, List.any_eq_true]
    exact ⟨bne_iff_ne.2 hd, _, ho, by simp [pendLoad]⟩
  exact waits_of_accessFull (by simp [accessFull, ht])

/-- A ninth load waits at issue. -/
theorem waits_ninth {s : State} (h : 8 ≤ (s.me.out.filter Pend.load).length) (e b : BitVec 5) (j : BitVec 12) (v : BitVec 3) :
    waits (.ld e b j v) s = true :=
  waits_of_accessFull (by simp [accessFull, ninthLoad, h])

/-- A load behind an access of its bytes that is kept is kept with it (R88). -/
theorem putLoad_kept {s : State} {k n : Nat} (h : meetsKept s.me k n = true) (kind : LateKind) :
    putLoad (.spad k) n kind s =
      keep (fencesAhead s.me) [] (some (lateOf s k n (List.replicate n ⟨0, 0⟩) kind)) s := if_pos h

/-- Such a load as it is issued: kept behind the queued VFENCEs, and outstanding. -/
theorem issueLate_kept {s : State} {k n : Nat} (h : meetsKept s.me k n = true) (kind : LateKind) (p : Nat → Pend) :
    issueLate (putLoad (.spad k) n kind) p s = { s with
      nextId := s.nextId + 1
      me := { s.me with
        kept := s.me.kept ++ [⟨[], fencesAhead s.me, some (lateOf s k n (List.replicate n ⟨0, 0⟩) kind)⟩]
        out := s.me.out ++ [p s.nextId] } } := by
  rw [issueLate, putLoad_kept h]
  rfl

theorem loadLater_kept {s : State} {k n : Nat} (h : meetsKept s.me k n = true) : loadLater s (.spad k) n = true := by
  rw [loadLater, behindAtomic, h, Bool.true_or]

end Sys2Proof.Machine

open Sys2Proof Sys2Proof.Machine Sys2Proof.Claims in
/-- Settles O4: a load at once writes D after a visit that the strand does not see; one that comes later only adds an access that
waits and what is outstanding, which a later instruction waits for; one behind a kept access is kept with it. -/
theorem loadReads : Obligations.LoadReads := by
  unfold Obligations.LoadReads
  intro s d a i w l hr hw hal hl
  refine ⟨fun hd hcalm => ?_, fun hd hf => ?_, ?_⟩
  · have hvis := visited hcalm (address s a i) l
    have hval : loadValue w (readLoc (visit s (address s a i) l) l (loadBytes w)) =
        BitVec.ofInt 64 (loaded w (seenNat s l (loadBytes w))) := by
      rw [loadValue_eq hw, ofBytes_readLoc_visit hcalm]
    have he := exec_ld_now (d := d) hr hw hal hl (loadLater_calm hd hcalm l _)
    rw [hval] at he
    exact ⟨_, he, setReg_visited hvis rfl⟩
  · have he := exec_ld_later (d := d) hr hw hal hl (loadLater_deferred hd hf)
    obtain ⟨tlb, hwalk⟩ := walked_eq s (address s a i) l
    obtain ⟨kept, hpath, net, hput⟩ := putLoad_eq l (loadBytes w) (.load d w) (walked s (address s a i) l)
    rw [issueLate, hput, hwalk] at he
    refine ⟨_, he, rfl, rfl, rfl, rfl, rfl, fun hd0 e b => ?_, fun h7 e b j v => ?_⟩
    · exact waits_of_pending (id := s.nextId) hd0 (show d ∈ [e, d, b] by simp) (List.mem_append_right _ (List.mem_singleton_self _))
    · refine waits_ninth ?_ e b j v
      show 8 ≤ ((s.me.out ++ [pendLoad d s.nextId]).filter Pend.load).length
      rw [List.filter_append, List.length_append, h7]
      rfl
  · rintro k rfl hk
    have he := exec_ld_later (d := d) hr hw hal hl (loadLater_kept hk)
    rw [walked, issueLate_kept hk] at he
    exact ⟨_, _, he, rfl, rfl, rfl, rfl, rfl, rfl⟩
end
section
/-! A vector-queue instruction of a strand whose queue is empty and whose debug block acts on nothing: it is issued, executes and is
counted in one step (R23, R24, R78, R322, R324). -/

namespace Sys2Proof.Machine

/-! ### A debug block that acts on nothing -/

theorem brkHit_of_quiet {s : State} (h : Quiet s) {kind : Nat} (hkind : kind ≠ 0) (addr : Word) : brkHit s kind addr = false := by
  obtain ⟨hbrk, -, -⟩ := h
  have hany : (myDebug s).brk.toList.any (fun b => field b 1 0 == kind && field b 63 2 == addr.toNat / 4 && addr.toNat % 4 == 0) =
      false := List.any_eq_false.2 fun b hb => by simp [hbrk b hb, hkind.symm]
  rw [brkHit, hany, Bool.and_false]

theorem sample_of_off {s : State} (h : (myDebug s).smpen = false) (e : QEntry) : sample e s = s := if_neg (by simp [h])

theorem traceEvent_of_untraced {s : State} (h : traced s = false) (kind : Nat) (pc vcp : Word) (data : Nat) :
    traceEvent s kind pc vcp data = s := if_neg (by simp [h])

theorem countEntry_of_quiet {s : State} (h : Quiet s) (e : QEntry) : countEntry e s = updMe s (addWork e) := by
  obtain ⟨-, hsmp, htr⟩ := h
  have hoff : (myDebug (updMe s (addWork e))).smpen = false := hsmp
  have huntraced : traced (updMe s (addWork e)) = false := htr
  have hcount : (updMe s fun st => { addWork e st with nsample := if (myDebug s).smpen then st.nsample + 1 else st.nsample }) =
      updMe s (addWork e) := by rw [hsmp]; rfl
  rw [countEntry, hcount, sample_of_off hoff, traceEvent_of_untraced huntraced]

theorem commitEntry_of_quiet {s : State} (h : Quiet s) (e : QEntry) : commitEntry e s = updMe s (addWork e) := by
  have hq : Quiet (updMe s (addWork e)) := h
  rw [commitEntry, countEntry_of_quiet h, breakEntry, brkHit_of_quiet hq two_ne_zero, if_neg Bool.false_ne_true]

/-! ### Readiness -/

theorem QueueReady.quiet {s : State} (h : QueueReady s) : Quiet s := by
  obtain ⟨-, -, -, -, hq⟩ := h
  exact hq

/-- A change of the context that leaves the queue alone. -/
theorem queueReady_updCtx {s : State} (h : QueueReady s) {f : VCtx → VCtx} (hf : (f s.me.vctx).queue = s.me.vctx.queue) :
    QueueReady (updCtx s f) := by
  obtain ⟨hrun, hown, hqueue, hrest⟩ := h
  exact ⟨hrun, hown, hf.trans hqueue, hrest⟩

theorem queueReady_setReg {s : State} (h : QueueReady s) (r : BitVec 5) (v : Word) : QueueReady (setReg s r v) := by
  unfold setReg
  split
  · exact h
  · exact h

/-! ### Issue -/

section
variable {i : Instr} {more : State → Option (Nat × Word)} {upd : State → State} {a b d : Word} {body : Body} {s : State}

/-- An instruction without vector registers and without a type passes the checks of R78 where the context is owned. -/
theorem vecChecks_of_ready (h : QueueReady s) : vecChecks i [] anyType s = none := by
  obtain ⟨-, hown, -⟩ := h
  simp [vecChecks, hown, anyType]

theorem issueWith_of_ready (h : QueueReady s) (hmore : more s = none) :
    issueWith i [] anyType more upd a b d body s = enter i a b d body (upd s) := by
  simp only [issueWith, vecChecks_of_ready h, hmore]

theorem exec_issueWith_trap {cause : Nat} {tval : Word}
    (hexec : exec i s = onStrand s (issueWith i [] anyType more upd a b d body s)) (h : QueueReady s)
    (hmore : more s = some (cause, tval)) : exec i s = .next (takeTrap cause 0 false false s.me.pc tval s) := by
  simp only [hexec, onStrand_eq _ _ h.1, issueWith, vecChecks_of_ready h, hmore, trapFront]

/-- A body that completes leaves its state, with the activity of the entry counted. -/
theorem enter_of_done {t : State} (h : QueueReady s)
    (hbody : body (mkEntry i a b d s) whole (advance { s with nextId := s.nextId + 1 }) = .done t) (ht : Quiet t) :
    enter i a b d body s = updMe t (addWork (mkEntry i a b d s)) := by
  obtain ⟨-, -, hqueue, hdefer, -⟩ := h
  have hnow : ¬(s.defer || !s.me.vctx.queue.isEmpty) = true := by simp [hdefer, hqueue]
  calc enter i a b d body s
    _ = settleEntry (mkEntry i a b d s) (body (mkEntry i a b d s) whole (advance { s with nextId := s.nextId + 1 })) := if_neg hnow
    _ = commitEntry (mkEntry i a b d s) t := by rw [hbody]; rfl
    _ = updMe t (addWork (mkEntry i a b d s)) := commitEntry_of_quiet ht _

end

end Sys2Proof.Machine
end

section
/-! Vector configuration (R115, R120, R122, R126). -/

namespace Sys2Proof.Machine

/-! ### What stands at issue, and what the entry does -/

/-- The state u once an entry has completed: the next number is taken, PC advanced and the activity counted (R248, R308). -/
def afterEntry (lane bit : Nat) (u : State) : State :=
  { u with nextId := u.nextId + 1, me := { u.me with pc := u.me.pc + 4, laneCycles := lane, bitCycles := bit } }

theorem updMe_addWork (e : QEntry) (u : State) :
    ∃ lane bit, updMe (advance { u with nextId := u.nextId + 1 }) (addWork e) = afterEntry lane bit u := ⟨_, _, rfl⟩

section
variable {i : Instr} {more : State → Option (Nat × Word)} {upd : State → State} {a b c : Word} {body : Body} {s : State}

/-- u is the state with both what stands at issue and what the entry does. -/
theorem exec_issueWith_of_done {u : State} (hexec : exec i s = onStrand s (issueWith i [] anyType more upd a b c body s))
    (h : QueueReady s) (hmore : more s = none) (hupd : QueueReady (upd s)) (hu : Quiet u)
    (hbody : body (mkEntry i a b c (upd s)) whole (advance { upd s with nextId := (upd s).nextId + 1 }) =
      .done (advance { u with nextId := u.nextId + 1 })) :
    ∃ lane bit, exec i s = .next (afterEntry lane bit u) := by
  have hq : Quiet (advance { u with nextId := u.nextId + 1 }) := hu
  obtain ⟨lane, bit, hwork⟩ := updMe_addWork (mkEntry i a b c (upd s)) u
  refine ⟨lane, bit, ?_⟩
  rw [hexec, onStrand_eq _ _ h.1, issueWith_of_ready h hmore, enter_of_done hupd hbody hq, hwork]

theorem setReg_eq_regs (s : State) (d : BitVec 5) (v : Word) : ∃ rs, setReg s d v = { s with me := { s.me with regs := rs } } := by
  unfold setReg
  split
  · exact ⟨s.me.regs, rfl⟩
  · exact ⟨_, rfl⟩

/-- VSETL, VCFG and MSTART: the context and D change at issue, and the entry completes with nothing left to do. -/
theorem exec_of_placeBody {f : VCtx → VCtx} {d : BitVec 5} {v : Word}
    (hexec : exec i s = onStrand s (issueWith i [] anyType more upd a b c placeBody s)) (h : QueueReady s) (hmore : more s = none)
    (hupd : upd s = setReg (updCtx s f) d v) (hf : (f s.me.vctx).queue = s.me.vctx.queue) :
    ∃ lane bit rs t, t = afterEntry lane bit { s with me := { s.me with regs := rs, vctx := f s.me.vctx } } ∧
      exec i s = .next t ∧ WritesReg s t d v := by
  have hready : QueueReady (upd s) := hupd ▸ queueReady_setReg (queueReady_updCtx h hf) d v
  obtain ⟨lane, bit, he⟩ := exec_issueWith_of_done hexec h hmore hready hready.quiet rfl
  have hwrites := writes_setReg (updCtx s f) d v
  obtain ⟨rs, hrs⟩ := setReg_eq_regs (updCtx s f) d v
  rw [hrs] at hupd hwrites
  rw [hupd] at he
  exact ⟨lane, bit, rs, _, rfl, he, hwrites⟩

end

/-! ### Counts, limits and matrix mode -/

/-- The four counts of Table 6.3. -/
theorem nregsOf_countCode {n : BitVec 12} (h : n = 4 ∨ n = 8 ∨ n = 16 ∨ n = 32) : nregsOf (countCode n) = n.toNat := by
  rcases h with rfl | rfl | rfl | rfl <;> rfl

theorem mvlGrant_eq (v : Word) (p : BitVec 1) : mvlGrant v (p == 1) = min v.toNat (if p = 1 then 256 else 4096) := by
  simp [mvlGrant]

theorem mvlWord_eq (g : Nat) (p : BitVec 1) : mvlWord g (p == 1) = word (g + (if p = 1 then 2 ^ 13 else 0) + 2 ^ 14) := by
  by_cases hp : p = 1 <;> simp [mvlWord, hp, b2n]

section
variable {s : State}

theorem exec_vregs_of_ready (h : QueueReady s) (n : BitVec 12) : ∃ lane bit, exec (.vregs n) s =
    .next (afterEntry lane bit (updCtx s fun c => { c with cnt := countCode n, vf := [] })) := by
  have hready : QueueReady (updCtx s fun c => { c with cnt := countCode n }) := queueReady_updCtx h rfl
  exact exec_issueWith_of_done rfl h rfl hready h.quiet (by simp only [vregsBody, updCtx, advance])

theorem releaseRows_eq (s : State) : releaseRows s =
    { s with me := { s.me with acc := [], accRows := 0, vctx := { s.me.vctx with mgrant := 0 } } } := by
  simp only [releaseRows, updMe, updCtx]

/-- MSTOP clears MVL at issue, and its entry releases the rows where matrix mode was on. -/
theorem exec_mstop_of_ready {u : State} (h : QueueReady s)
    (hrows : (if matrixOn s.me.vctx.mvl then releaseRows s else s) = u) (hu : Quiet u) :
    ∃ lane bit, exec .mstop s = .next (afterEntry lane bit (updCtx u fun c => { c with mvl := 0 })) := by
  have hready : QueueReady (updCtx s fun c => { c with mvl := 0 }) := queueReady_updCtx h rfl
  refine exec_issueWith_of_done rfl h rfl hready hu ?_
  subst hrows
  unfold mstopBody mkEntry
  split <;> simp only [releaseRows, updCtx, updMe, advance]

end

end Sys2Proof.Machine

open Sys2Proof Sys2Proof.Machine Sys2Proof.Claims in
/-- Settles O13: the configuration and D change at issue, and the entry, which completes in the same step, does no more than zero
the file or release the rows. -/
theorem vectorConfiguration : Obligations.VectorConfiguration := by
  unfold Obligations.VectorConfiguration
  intro s d a h
  refine ⟨fun i => ?_, fun hok => ?_, fun hbad => ?_, fun n hn => ?_, fun p => ?_, ?_⟩
  · obtain ⟨lane, bit, rs, t, rfl, he, hwrites⟩ := exec_of_placeBody (i := .vsetl d a i) rfl h rfl rfl rfl
    exact ⟨_, he, ⟨rfl, rfl, rfl⟩, rfl, hwrites, by simp only [afterEntry]⟩
  · obtain ⟨lane, bit, rs, t, rfl, he, hwrites⟩ := exec_of_placeBody (i := .vcfg d a) rfl h (if_pos hok) rfl rfl
    exact ⟨_, he, ⟨rfl, rfl, rfl⟩, rfl, hwrites, by simp only [afterEntry]⟩
  · exact exec_issueWith_trap rfl h (if_neg (ne_true_of_eq_false hbad))
  · obtain ⟨lane, bit, he⟩ := exec_vregs_of_ready h n
    exact ⟨_, he, ⟨rfl, rfl, rfl⟩, nregsOf_countCode hn, fun x => cget_nil zeros x, by simp only [afterEntry, updCtx]⟩
  · dsimp only
    rw [← mvlGrant_eq, ← mvlWord_eq]
    obtain ⟨lane, bit, rs, t, rfl, he, hwrites⟩ := exec_of_placeBody (i := .mstart d a p) rfl h rfl rfl rfl
    exact ⟨_, he, ⟨rfl, rfl, rfl⟩, rfl, hwrites, by simp only [afterEntry]⟩
  · cases hon : matrixOn s.me.vctx.mvl with
    | true =>
      obtain ⟨lane, bit, he⟩ := exec_mstop_of_ready h ((if_pos hon).trans (releaseRows_eq s)) h.quiet
      exact ⟨_, he, ⟨rfl, rfl, rfl⟩, rfl, fun _ => ⟨rfl, rfl⟩, nofun, by simp only [afterEntry, updCtx]⟩
    | false =>
      obtain ⟨lane, bit, he⟩ := exec_mstop_of_ready h (if_neg (ne_true_of_eq_false hon)) h.quiet
      exact ⟨_, he, ⟨rfl, rfl, rfl⟩, rfl, nofun, fun _ => ⟨rfl, rfl, rfl⟩, by simp only [afterEntry, updCtx]⟩
end

section
/-! What the loop of R148 leaves of the physical file and of XFLAGS, element by element, and the scales that a list of writes
leaves (R132, R138, R148). -/

namespace Sys2Proof.Machine

open Sys2Proof.Claims

/-! ### Elements (R4, R113) -/

/-- An element is a nibble or whole bytes. -/
abbrev Packed (w : Nat) : Prop := w = 4 ∨ 8 ∣ w

theorem cgets_csets_disjoint {w : Nat} (dflt : Nat → BitVec w) (m : Cells w) (xs : List (BitVec w)) {a b n : Nat}
    (h : b + n ≤ a ∨ a + xs.length ≤ b) : cgets dflt (csets dflt m a xs) b n = cgets dflt m b n := by
  refine List.map_congr_left fun j hj => ?_
  have hjn : j < n := List.mem_range.1 hj
  rw [cget_csets, if_neg (by omega)]

theorem elemGet_nibble (vf : Cells 8) (rb v i : Nat) : elemGet vf rb 4 v i =
    if i % 2 = 0 then (cget zeros vf (v * rb + i / 2)).toNat % 16 else (cget zeros vf (v * rb + i / 2)).toNat / 16 := if_pos rfl

theorem elemGet_bytes (vf : Cells 8) (rb v i : Nat) {n : Nat} :
    elemGet vf rb (8 * n) v i = ofBytes (cgets zeros vf (v * rb + i * n) n) := by
  rw [elemGet, if_neg (by omega), Nat.mul_div_cancel_left n (by decide)]

theorem elemSet_bytes (vf : Cells 8) (rb v i x : Nat) {n : Nat} :
    elemSet vf rb (8 * n) v i x = csets zeros vf (v * rb + i * n) (toBytes n x) := by
  rw [elemSet, if_neg (by omega), Nat.mul_div_cancel_left n (by decide)]

/-- A byte of the file after one nibble of it was written. -/
theorem cget_elemSet_nibble (vf : Cells 8) (rb v i x a : Nat) :
    (cget zeros (elemSet vf rb 4 v i x) a).toNat =
      if a = v * rb + i / 2 then
        (if i % 2 = 0 then (cget zeros vf a).toNat / 16 * 16 + x % 16 else (cget zeros vf a).toNat % 16 + x % 16 * 16)
      else (cget zeros vf a).toNat := by
  rw [elemSet, if_pos rfl, cget_cset]
  split
  · next h =>
    subst h
    have hb := (cget zeros vf (v * rb + i / 2)).isLt
    rw [BitVec.toNat_ofNat, Nat.mod_eq_of_lt]
    split <;> omega
  · rfl

/-- An element after an element was written: the low bits of the value, or what it was. -/
theorem elemGet_elemSet {w : Nat} (hw : Packed w) (vf : Cells 8) (rb v i j x : Nat) :
    elemGet (elemSet vf rb w v i x) rb w v j = if j = i then x % 2 ^ w else elemGet vf rb w v j := by
  rcases hw with rfl | ⟨n, rfl⟩
  · have hb := (cget zeros vf (v * rb + j / 2)).isLt
    rw [elemGet_nibble, elemGet_nibble, cget_elemSet_nibble]
    by_cases hij : j = i
    · subst hij
      rw [if_pos rfl, if_pos rfl]
      split_ifs <;> omega
    · rw [if_neg hij]
      split_ifs <;> omega
  · rw [elemGet_bytes, elemGet_bytes, elemSet_bytes]
    by_cases hij : j = i
    · subst hij
      have hread := cgets_csets zeros vf (v * rb + j * n) (toBytes n x)
      rw [toBytes_len] at hread
      rw [if_pos rfl, hread, ofBytes_toBytes]
    · rw [if_neg hij, cgets_csets_disjoint]
      rw [toBytes_len]
      rcases Nat.lt_or_gt_of_ne hij with h | h <;>
        have hle := Nat.mul_le_mul_right n h <;>
        rw [Nat.succ_mul] at hle <;>
        omega

/-- A byte outside the elements below n after one of them was written. -/
theorem cget_elemSet_of_outside {w : Nat} (hw : Packed w) (vf : Cells 8) {rb v i n a : Nat} (x : Nat) (hi : i < n)
    (ha : a < v * rb ∨ v * rb + (n * w + 7) / 8 ≤ a) : cget zeros (elemSet vf rb w v i x) a = cget zeros vf a := by
  rcases hw with rfl | ⟨k, rfl⟩
  · refine BitVec.eq_of_toNat_eq ?_
    rw [cget_elemSet_nibble, if_neg (by omega)]
  · have hend : (i + 1) * k ≤ n * k := Nat.mul_le_mul_right k hi
    rw [Nat.succ_mul] at hend
    have hbytes : (n * (8 * k) + 7) / 8 = n * k := by rw [Nat.mul_left_comm]; omega
    rw [elemSet_bytes, cget_csets, toBytes_len, if_neg (by omega)]

/-! ### Lists of writes -/

/-- Writes of what g gives, for the indices of a list. -/
theorem elemGet_elemsSet {w : Nat} (hw : Packed w) (rb v : Nat) (g : Nat → Option Nat) (j : Nat) :
    ∀ (is : List Nat) (vf : Cells 8), elemGet (elemsSet vf rb w v (is.filterMap fun i => (g i).map (Prod.mk i))) rb w v j =
      if j ∈ is then ((g j).map (· % 2 ^ w)).getD (elemGet vf rb w v j) else elemGet vf rb w v j := by
  intro is
  induction is with
  | nil => intro vf; rfl
  | cons i is ih =>
    intro vf
    cases hg : g i with
    | none =>
      rw [List.filterMap_cons_none (by rw [hg]; rfl), ih]
      by_cases hj : j = i
      · subst hj; simp [hg]
      · simp [hj]
    | some x =>
      rw [List.filterMap_cons_some (b := (i, x)) (by rw [hg]; rfl)]
      show elemGet (elemsSet (elemSet vf rb w v i x) rb w v _) rb w v j = _
      rw [ih, elemGet_elemSet hw]
      by_cases hj : j = i
      · subst hj; simp [hg]
      · simp [hj]

theorem cget_elemsSet_of_outside {w : Nat} (hw : Packed w) {rb v n a : Nat}
    (ha : a < v * rb ∨ v * rb + (n * w + 7) / 8 ≤ a) :
    ∀ (xs : List (Nat × Nat)) (vf : Cells 8), (∀ p ∈ xs, p.1 < n) →
      cget zeros (elemsSet vf rb w v xs) a = cget zeros vf a := by
  intro xs
  induction xs with
  | nil => intro vf _; rfl
  | cons p xs ih =>
    intro vf h
    have hrest := ih (elemSet vf rb w v p.1 p.2) fun q hq => h q (List.mem_cons_of_mem p hq)
    exact hrest.trans (cget_elemSet_of_outside hw vf p.2 (h p List.mem_cons_self) ha)

/-- A scale register after its blocks below n were written. -/
theorem cget_scalesSet (k : Nat) (g : Nat → Nat) (i : Nat) : ∀ (js : List Nat) (ks : Cells 32),
    cget one32 (scalesSet ks k (js.map fun j => (j, g j))) i =
      if i - k * 4096 ∈ js ∧ k * 4096 ≤ i then BitVec.ofNat 32 (g (i - k * 4096)) else cget one32 ks i := by
  intro js
  induction js with
  | nil => intro ks; simp [scalesSet]
  | cons j js ih =>
    intro ks
    show cget one32 (scalesSet (scaleSet ks k j (g j)) k (js.map fun j => (j, g j))) i = _
    rw [ih, scaleSet, cget_cset]
    by_cases hj : i = k * 4096 + j
    · subst hj; simp
    · have hne : k * 4096 ≤ i → i - k * 4096 ≠ j := fun _ _ => hj (by omega)
      by_cases hk : k * 4096 ≤ i
      · simp [hk, hne hk, hj]
      · simp [hk, hj]

/-! ### The loop of R148 -/

theorem mem_span {lo hi i : Nat} : i ∈ span lo hi ↔ lo ≤ i ∧ i < hi := by
  simp only [span, upTo, List.mem_map, List.mem_range]
  exact ⟨by rintro ⟨j, hj, rfl⟩; omega, fun h => ⟨i - lo, by omega, by omega⟩⟩

theorem span_zero (n : Nat) : span 0 n = List.range n := by simp [span, upTo]

/-- What the loop writes to an element. -/
def loopVal (c : VCtx) (mpol : Bool) (m z : Nat) (f : Nat → FR) (i : Nat) : Option Nat :=
  if maskBit c m i then some (f i).v else if mpol then some z else none

theorem loopVals_eq (c : VCtx) (mpol : Bool) (m z : Nat) (f : Nat → FR) (is : List Nat) :
    loopVals c mpol m z f is = is.filterMap fun i => (loopVal c mpol m z f i).map (Prod.mk i) := by
  unfold loopVals loopVal
  congr 1
  funext i
  split_ifs <;> rfl

theorem testBit_loopFlags (c : VCtx) (m : Nat) (f : Nat → FR) (k : Nat) (is : List Nat) :
    (loopFlags c m f is).testBit k = is.any fun i => maskBit c m i && (f i).fl.testBit k := by
  have hfold : ∀ (is : List Nat) (fl : Nat),
      (is.foldl (fun fl i => if maskBit c m i then fl ||| (f i).fl else fl) fl).testBit k =
      (fl.testBit k || is.any fun i => maskBit c m i && (f i).fl.testBit k) := by
    intro is
    induction is with
    | nil => intro fl; simp
    | cons i is ih =>
      intro fl
      rw [List.foldl_cons, ih, List.any_cons]
      cases maskBit c m i <;> simp [Bool.or_assoc]
  rw [loopFlags, hfold, Nat.zero_testBit, Bool.false_or]

/-- A state whose file and flags are those of the loop over all elements below VL. -/
theorem loopResult_of_loopVals {s t : State} {w z : Nat} {d : BitVec 5} {m : BitVec 2} {f : Nat → FR} (hw : Packed w)
    (hcnt : t.me.vctx.cnt = s.me.vctx.cnt)
    (hvf : t.me.vctx.vf = elemsSet s.me.vctx.vf (rbOf s.me.vctx.cnt) w d.toNat
      (loopVals s.me.vctx (mpolOf s.me.vctx.vshape) m.toNat z f (span 0 s.me.vctx.vl)))
    (hfl : t.me.xflags = s.me.xflags ||| BitVec.ofNat 6 (loopFlags s.me.vctx m.toNat f (span 0 s.me.vctx.vl))) :
    LoopResult s t w d m z fun i => some (f i) := by
  have helem (i : Nat) : elemW t w d i = if i < s.me.vctx.vl then
      ((loopVal s.me.vctx (mpolOf s.me.vctx.vshape) m.toNat z f i).map (· % 2 ^ w)).getD (elemW s w d i) else elemW s w d i := by
    rw [elemW, hcnt, hvf, loopVals_eq, elemGet_elemsSet hw]
    simp only [mem_span, Nat.zero_le, true_and, elemW]
  refine ⟨fun i hi hon => ?_, fun i hi hoff => ?_, fun i hi => ?_, fun x hx => ?_, fun k hk => ?_⟩
  · have hmask : maskBit s.me.vctx m.toNat i = true := hon
    rw [helem, if_pos hi, loopVal, if_pos hmask]
    rfl
  · have hmask : maskBit s.me.vctx m.toNat i = false := hoff
    rw [helem, if_pos hi, loopVal, hmask, if_neg Bool.false_ne_true]
    split <;> rfl
  · rw [helem, if_neg (by omega)]
  · refine (congrArg (fun vf => cget zeros vf x) hvf).trans (cget_elemsSet_of_outside hw hx _ _ fun p hp => ?_)
    rw [loopVals_eq, List.mem_filterMap] at hp
    obtain ⟨i, hi, hmap⟩ := hp
    obtain ⟨y, -, rfl⟩ := Option.map_eq_some_iff.1 hmap
    exact (mem_span.1 hi).2
  · rw [hfl, BitVec.getLsbD_or, BitVec.getLsbD_ofNat, testBit_loopFlags, span_zero]
    simp [hk, on]

/-- A state whose scales are those that were written to the blocks below n of register k. -/
theorem scaleResult_of_scalesSet {s t : State} {k n : Nat} {f : Nat → Nat} (hn : n ≤ 4096)
    (hks : t.me.vctx.scales = scalesSet s.me.vctx.scales k ((List.range n).map fun j => (j, f j))) : ScaleResult s t k n f := by
  have hscale (k' j : Nat) : scale t k' j = if k' * 4096 + j - k * 4096 ∈ List.range n ∧ k * 4096 ≤ k' * 4096 + j then
      (BitVec.ofNat 32 (f (k' * 4096 + j - k * 4096))).toNat else scale s k' j := by
    rw [scale, scaleGet, hks, cget_scalesSet]
    split <;> rfl
  refine ⟨fun j hj => ?_, fun k' j hj hout => ?_⟩
  · rw [hscale, if_pos ⟨List.mem_range.2 (by omega), by omega⟩, Nat.add_sub_cancel_left, BitVec.toNat_ofNat]
  · rw [hscale, if_neg]
    rintro ⟨hmem, hle⟩
    rw [List.mem_range] at hmem
    rcases hout with hne | hge
    · exact hne (by omega)
    · omega

end Sys2Proof.Machine
end

section
/-! A vector instruction with vector registers, of a strand whose queue is empty: its checks pass, its element groups execute
whole in the step that issues it, and what an entry leaves that runs the loop of R148 or writes scales (R27, R78, R114, R132,
R143). -/

namespace Sys2Proof.Machine

open Sys2Proof.Claims

/-! ### Widths, groups and limits -/

/-- The widths 4, 8, 16, … of elements, up to 512 for the encodings that Table 6.2 does not have. -/
theorem sewOf_eq (vs : Word) : ∃ k < 8, sewOf vs = 4 * 2 ^ k := by
  have hfield : field vs 6 4 < 8 := Nat.mod_lt _ (by decide)
  unfold sewOf
  split
  · exact ⟨_, hfield, rfl⟩
  · exact ⟨_, hfield, rfl⟩
  · exact ⟨4, by decide, rfl⟩
  · exact ⟨3, by decide, rfl⟩
  · exact ⟨2, by decide, rfl⟩
  · exact ⟨2, by decide, rfl⟩
  · exact ⟨0, by decide, rfl⟩
  · exact ⟨1, by decide, rfl⟩

theorem packed_pow (k : Nat) : Packed (4 * 2 ^ k) := by
  cases k with
  | zero => exact .inl rfl
  | succ k => exact .inr ⟨2 ^ k, by omega⟩

/-- The groups that hold n elements have room for them. -/
theorem le_groupsOf_mul_epg (vs : Word) (n : Nat) : n ≤ groupsOf (sewOf vs) n * epg (sewOf vs) := by
  obtain ⟨k, hk, hw⟩ := sewOf_eq vs
  rw [hw, groupsOf, epg, ceilDiv, if_neg (by decide)]
  interval_cases k <;> simp only [Nat.reducePow, Nat.reduceMul, Nat.reduceDiv] <;> omega

theorem groupsOf_le {vs : Word} {n : Nat} (h : n ≤ 65536) : groupsOf (sewOf vs) n ≤ whole := by
  obtain ⟨k, hk, hw⟩ := sewOf_eq vs
  have hsew : sewOf vs ≤ 512 := by
    rw [hw]
    exact Nat.mul_le_mul_left 4 (Nat.pow_le_pow_right (by decide) (by omega : k ≤ 7))
  have hbits : n * sewOf vs ≤ 65536 * 512 := Nat.mul_le_mul h hsew
  rw [groupsOf, ceilDiv, if_neg (by decide), whole]
  omega

theorem VlOk.le {s : State} (h : VlOk s) : s.me.vctx.vl ≤ 65536 := by
  obtain ⟨hvl, -, hmask⟩ := h
  exact hvl.trans hmask

theorem VlOk.overVl {s : State} (h : VlOk s) : overVl s.me.vctx = false := by
  obtain ⟨-, hgrant, -⟩ := h
  exact decide_eq_false hgrant.not_gt

theorem badGroups_of_grouped {s : State} {rs : List (BitVec 5)} (hvl : VlOk s) (h : Grouped s rs) :
    badGroups s.me.vctx rs = false := by
  rw [badGroups, hvl.overVl, Bool.or_false, List.any_eq_false]
  exact fun r hr => Bool.eq_false_iff.1 (h r hr)

/-- The blocks of a group are blocks of a scale register (R132). -/
theorem blocks_le {vs : Word} {n : Nat} (h : n ≤ 65536) : ceilDiv n (blkOf vs) ≤ 4096 := by
  have hblk : 16 ≤ blkOf vs := Nat.le_mul_of_pos_right 16 (Nat.two_pow_pos _)
  rw [ceilDiv, if_neg (by omega)]
  exact (Nat.div_le_iff_le_mul_add_pred (by omega)).2 (by omega)

/-! ### The entry -/

/-- All element groups at once. -/
theorem groupBody_whole {run : QEntry → Nat → Nat → State → State} {e : QEntry} {quota : Nat} (s : State) (hprog : e.prog = 0)
    (hquota : groupsOf (sewOf e.vshape) e.vl ≤ quota) :
    groupBody (sewOf e.vshape) e.vl run e quota s = .done (run e 0 e.vl s) := by
  have hg : min (groupsOf (sewOf e.vshape) e.vl) (e.prog + quota) = groupsOf (sewOf e.vshape) e.vl := by omega
  rw [groupBody, hg, hprog, Nat.min_eq_left (le_groupsOf_mul_epg e.vshape e.vl), Nat.zero_mul]
  exact if_pos rfl

/-- Whole blocks at once. -/
theorem blocksQuota_le {n unit : Nat} (h : n ≤ whole) (hunit : 0 < unit) : n ≤ ceilDiv (0 + whole) unit * unit - 0 := by
  have hlast := Nat.div_add_mod (0 + whole + unit - 1) unit
  have hmod := Nat.mod_lt (0 + whole + unit - 1) hunit
  rw [ceilDiv, if_neg hunit.ne', Nat.mul_comm]
  omega

theorem blockUnit_pos (v : BitVec 3) (vs : Word) : 0 < blockUnit v vs := by
  unfold blockUnit
  split <;> omega

/-- The checks of R78 pass. -/
theorem vecChecks_of_declared {i : Instr} {regs : List (BitVec 5)} {wrong : VCtx → Bool} {s : State} (h : QueueReady s)
    (hregs : Declared s regs) (hwrong : wrong s.me.vctx = false) : vecChecks i regs wrong s = none := by
  obtain ⟨-, hown, -⟩ := h
  have hany : regs.any (aboveCount s.me.vctx.cnt) = false :=
    List.any_eq_false.2 fun r hr => by simpa [aboveCount] using hregs r hr
  simp [vecChecks, hany, hown, hwrong]

/-- u is the state with what the entry does. -/
theorem exec_issueVec_of_done {i : Instr} {regs : List (BitVec 5)} {wrong : VCtx → Bool} {a b c : Word} {body : Body}
    {s u : State} (hexec : exec i s = onStrand s (issueVec i regs wrong a b c body s)) (h : QueueReady s) (hregs : Declared s regs)
    (hwrong : wrong s.me.vctx = false) (hu : Quiet u)
    (hbody : body (mkEntry i a b c s) whole (advance { s with nextId := s.nextId + 1 }) =
      .done (advance { u with nextId := u.nextId + 1 })) :
    ∃ lane bit, exec i s = .next (afterEntry lane bit u) := by
  have hq : Quiet (advance { u with nextId := u.nextId + 1 }) := hu
  obtain ⟨lane, bit, hwork⟩ := updMe_addWork (mkEntry i a b c s) u
  refine ⟨lane, bit, ?_⟩
  rw [hexec, onStrand_eq _ _ h.1, issueVec, vecChecks_of_declared h hregs hwrong]
  exact congrArg _ ((enter_of_done h hbody hq).trans hwork)

/-- What the loop of R148 leaves of a state where a function of the element index gives the values. -/
def looped (w : Nat) (d : BitVec 5) (m : BitVec 2) (z : Nat) (f : Nat → FR) (s : State) : State :=
  let c := s.me.vctx
  let is := span 0 c.vl
  { s with me := { s.me with
      xflags := s.me.xflags ||| BitVec.ofNat 6 (loopFlags c m.toNat f is)
      vctx := { c with vf := elemsSet c.vf (rbOf c.cnt) w d.toNat (loopVals c (mpolOf c.vshape) m.toNat z f is) } } }

theorem elemLoop_eq_looped (w : Nat) (d : BitVec 5) (m : BitVec 2) (z : Nat) (f : VCtx → Nat → FR) (s : State) :
    elemLoop (rbOf s.me.vctx.cnt) w d.toNat (mpolOf s.me.vctx.vshape) m.toNat z f 0 s.me.vctx.vl s =
      looped w d m z (f s.me.vctx) s := rfl

section
variable {i : Instr} {regs : List (BitVec 5)} {wrong : VCtx → Bool} {body : Body} {s : State}
  (hexec : exec i s = onStrand s (issueVec i regs wrong 0 0 0 body s)) (h : QueueReady s) (hregs : Declared s regs)
  (hwrong : wrong s.me.vctx = false)
include hexec h hregs hwrong

/-- An entry that gives the scales a value and then runs the loop of R148. -/
theorem exec_of_elemLoop {w z : Nat} {d : BitVec 5} {m : BitVec 2} {f : Nat → FR} {ks : Cells 32} (hw : Packed w)
    (hbody : ∀ u : State, u = advance { s with nextId := s.nextId + 1 } → body (mkEntry i 0 0 0 s) whole u =
      .done (elemLoop (rbOf s.me.vctx.cnt) w d.toNat (mpolOf s.me.vctx.vshape) m.toNat z (fun _ => f) 0 s.me.vctx.vl
        (updCtx u fun c => { c with scales := ks }))) :
    ∃ t, exec i s = .next t ∧ Completed s t ∧ LoopResult s t w d m z (fun i => some (f i)) ∧ t.me.vctx.scales = ks ∧
      SameButFile (updCtx s fun c => { c with scales := ks }) t := by
  have hu : Quiet (looped w d m z f (updCtx s fun c => { c with scales := ks })) := by
    simp only [looped, updCtx]
    exact h.quiet
  have hloop := elemLoop_eq_looped w d m z (fun _ => f)
    (updCtx (advance { s with nextId := s.nextId + 1 }) fun c => { c with scales := ks })
  obtain ⟨lane, bit, he⟩ := exec_issueVec_of_done hexec h hregs hwrong hu ((hbody _ rfl).trans (congrArg VRes.done hloop))
  exact ⟨_, he, ⟨rfl, rfl, rfl⟩, loopResult_of_loopVals hw rfl rfl rfl, rfl,
    by simp only [SameButFile, sinceEntry, afterEntry, looped, updCtx]⟩

/-- An entry that writes blocks of a scale register. -/
theorem exec_of_scalesSet {k n : Nat} {f : Nat → Nat} (hn : n ≤ 4096)
    (hbody : ∀ u : State, u = advance { s with nextId := s.nextId + 1 } → body (mkEntry i 0 0 0 s) whole u =
      .done (updCtx u fun c => { c with scales := scalesSet c.scales k ((List.range n).map fun j => (j, f j)) })) :
    ∃ t, exec i s = .next t ∧ Completed s t ∧ SameButScales s t ∧ ScaleResult s t k n f := by
  obtain ⟨lane, bit, he⟩ := exec_issueVec_of_done
    (u := updCtx s fun c => { c with scales := scalesSet c.scales k ((List.range n).map fun j => (j, f j)) }) hexec h hregs hwrong
    h.quiet (hbody _ rfl)
  exact ⟨_, he, ⟨rfl, rfl, rfl⟩, by simp only [SameButScales, sinceEntry, afterEntry, updCtx],
    scaleResult_of_scalesSet hn rfl⟩

end

end Sys2Proof.Machine
end

section
/-! The conversions and the scale instructions of a ready strand: which words they are, how wide their results are, and what
each leaves of the file and of the scales (R140 to R145, Table 7.8). -/

namespace Sys2Proof.Machine

open Sys2Proof.Claims

/-! ### Types of conversions (Table 7.8) -/

theorem packed_sewOf (vs : Word) : Packed (sewOf vs) := by
  obtain ⟨k, -, hk⟩ := sewOf_eq vs
  exact hk ▸ packed_pow k

theorem packed_double (vs : Word) : Packed (2 * sewOf vs) := by
  obtain ⟨k, -, hk⟩ := sewOf_eq vs
  have hpow : 2 * sewOf vs = 4 * 2 ^ (k + 1) := by rw [hk]; ring
  exact hpow ▸ packed_pow (k + 1)

theorem packed_half {vs : Word} (h : 8 ≤ sewOf vs) : Packed (sewOf vs / 2) := by
  obtain ⟨k, -, hk⟩ := sewOf_eq vs
  cases k with
  | zero => omega
  | succ k =>
    have hpow : sewOf vs / 2 = 4 * 2 ^ k := by rw [hk, Nat.pow_succ]; omega
    exact hpow ▸ packed_pow k

/-- The types that Table 7.8 names by VSHAPE have its element width. -/
theorem width_tyOf (vs : Word) : (tyOf vs).width = sewOf vs := by
  unfold tyOf sewOf
  generalize etypeOf vs = et
  rcases Nat.lt_or_ge et 10 with h | h
  · interval_cases et <;> rfl
  · obtain ⟨n, rfl⟩ := Nat.exists_eq_add_of_le' h
    rfl

theorem packed_flt {f : Fmt} (hf : f ∈ formats) : Packed (Ty.flt f).width := by
  revert f; decide

theorem convW_packed {vs : Word} {v : Nat} {x : Conv} (h : convW vs v = some x) : Packed x.dst.width := by
  unfold convW at h
  dsimp only at h
  split at h
  iterate 2
    · obtain ⟨-, ⟨⟩⟩ := Option.ite_none_right_eq_some.1 h
      exact packed_double vs
  all_goals cases h
  all_goals exact packed_flt (by decide)

theorem convN_packed {vs : Word} {v : Nat} {x : Conv} (h : convN vs v = some x) : Packed x.dst.width := by
  unfold convN at h
  dsimp only at h
  split at h
  iterate 4
    · obtain ⟨hw, ⟨⟩⟩ := Option.ite_none_right_eq_some.1 h
      exact packed_half hw
  all_goals cases h
  all_goals exact packed_flt (by decide)

theorem convI_packed {vs : Word} {v : Nat} {x : Conv} (h : convI vs v = some x) : Packed x.dst.width := by
  unfold convI at h
  obtain ⟨-, h⟩ := Option.ite_none_right_eq_some.1 h
  split at h
  all_goals cases h
  · exact packed_sewOf vs
  · exact packed_sewOf vs
  · exact (width_tyOf vs).symm ▸ packed_sewOf vs
  · exact (width_tyOf vs).symm ▸ packed_sewOf vs

/-- The conversions of Table 7.8. -/
theorem convForm_cases {vs : Word} {i : Instr} {d b : BitVec 5} {q : SMod} {x : Conv}
    (h : convForm vs i = some (d, b, q, x)) : ∃ v,
    (i = .vcvtw d b v q ∧ convW vs v.toNat = some x) ∨ (i = .vcvtn d b v q ∧ convN vs v.toNat = some x) ∨
      (i = .vcvti d b v q ∧ convI vs v.toNat = some x) := by
  unfold convForm at h
  split at h
  · next d b v q =>
    obtain ⟨x, hx, ⟨⟩⟩ := Option.map_eq_some_iff.1 h
    exact ⟨v, .inl ⟨rfl, hx⟩⟩
  · next d b v q =>
    obtain ⟨x, hx, ⟨⟩⟩ := Option.map_eq_some_iff.1 h
    exact ⟨v, .inr (.inl ⟨rfl, hx⟩)⟩
  · next d b v q =>
    obtain ⟨x, hx, ⟨⟩⟩ := Option.map_eq_some_iff.1 h
    exact ⟨v, .inr (.inr ⟨rfl, hx⟩)⟩
  · cases h

/-- The block conversions, to E2M1 and to Dyad8. -/
theorem blockForm_cases {vs : Word} {i : Instr} {d b : BitVec 5} {v : BitVec 3} {q : SMod} {x : Conv} {o : Int}
    (h : blockForm vs i = some (d, b, v, q, x, o)) :
    (i = .vcvtf4 d b v q ∧ convF4 vs = some x ∧ o = 2) ∨ (i = .vcvtdy d b v q ∧ convDy vs = some x ∧ o = 0) := by
  unfold blockForm at h
  split at h
  · obtain ⟨x, hx, ⟨⟩⟩ := Option.map_eq_some_iff.1 h
    exact .inl ⟨rfl, hx, rfl⟩
  · obtain ⟨x, hx, ⟨⟩⟩ := Option.map_eq_some_iff.1 h
    exact .inr ⟨rfl, hx, rfl⟩
  · cases h

theorem convF4_packed {vs : Word} {x : Conv} (h : convF4 vs = some x) : Packed x.dst.width := by
  obtain ⟨-, ⟨⟩⟩ := Option.ite_none_right_eq_some.1 h
  exact packed_flt (by decide)

theorem convDy_packed {vs : Word} {x : Conv} (h : convDy vs = some x) : Packed x.dst.width := by
  obtain ⟨-, ⟨⟩⟩ := Option.ite_none_right_eq_some.1 h
  exact .inr ⟨1, rfl⟩

/-! ### Conversions (R140 to R142) -/

/-- The scales that a block conversion leaves: those of each block's values with F3 = 0. -/
def blockScales (t : Int) (b : BitVec 5) (v : BitVec 3) (q : SMod) (i : Instr) (s : State) : Cells 32 :=
  if v = 0 then
    scalesSet s.me.vctx.scales (kselOf s.me.vctx.vshape)
      ((List.range (ceilDiv s.me.vctx.vl (blkOf s.me.vctx.vshape))).map fun j =>
        (j, pscale t (blockVals (.flt fp32) b q.z q.c q.m.toNat (mkEntry i 0 0 0 s) s.me.vctx j)))
  else s.me.vctx.scales

theorem scaleResult_of_blockScales {s u : State} {t : Int} {b : BitVec 5} {q : SMod} {i : Instr} (hvl : VlOk s)
    (h : u.me.vctx.scales = blockScales t b 0 q i s) :
    ScaleResult s u (kselOf s.me.vctx.vshape) (ceilDiv s.me.vctx.vl (blkOf s.me.vctx.vshape))
      fun j => pscale t (blockVals (.flt fp32) b q.z q.c q.m.toNat (mkEntry i 0 0 0 s) s.me.vctx j) :=
  scaleResult_of_scalesSet (blocks_le hvl.le) h

section
variable {i : Instr} {s : State} {d b : BitVec 5} {q : SMod} {x : Conv} (h : QueueReady s) (hvl : VlOk s)
  (hregs : Declared s [d, b]) (hb : Grouped s [b]) (hd : badGroup s.me.vctx.cnt x.group d.toNat = false)
  (hover : overlap d.toNat x.group b.toNat (lmulOf s.me.vctx.vshape) = false)

section
variable {k : Word → Option Conv} (hk : k s.me.vctx.vshape = some x) (hw : Packed x.dst.width)
include hvl hb hd hover hk

/-- The checks of R140 pass. -/
theorem convWrong_of_grouped : convWrong k d b s.me.vctx = false := by
  have hgroup := hb b (List.mem_singleton_self b)
  simp only [convWrong, hk, hgroup, hd, hover, hvl.overVl, Bool.or_self]

include h hregs hw

theorem exec_of_convBody
    (hexec : exec i s = onStrand s (issueVec i [d, b] (convWrong k d b) 0 0 0 (convBody k d b q) s)) :
    ∃ t, exec i s = .next t ∧ Completed s t ∧ SameButFile s t ∧ LoopResult s t x.dst.width d q.m x.dst.zero fun n =>
      some (convert x.src x.dst (satOf s.me.vctx.vshape) (env s n).mode (velem s b (rep q.z q.c n))) := by
  have hbody (u : State) (hu : u = advance { s with nextId := s.nextId + 1 }) :
      convBody k d b q (mkEntry i 0 0 0 s) whole u = .done (elemLoop (rbOf s.me.vctx.cnt) x.dst.width d.toNat
        (mpolOf s.me.vctx.vshape) q.m.toNat x.dst.zero
        (fun _ n => convert x.src x.dst (satOf s.me.vctx.vshape) (env s n).mode (velem s b (rep q.z q.c n)))
        0 s.me.vctx.vl (updCtx u fun c => { c with scales := s.me.vctx.scales })) := by
    have hke : k (mkEntry i 0 0 0 s).vshape = some x := hk
    simp only [convBody, hke]
    rw [groupBody_whole u rfl (groupsOf_le hvl.le), hu]
    rfl
  obtain ⟨t, he, hcomp, hloop, -, hfile⟩ :=
    exec_of_elemLoop hexec h hregs (convWrong_of_grouped hvl hb hd hover hk) hw hbody
  exact ⟨t, he, hcomp, hfile, hloop⟩

theorem exec_of_blockBody {t : Int} {v : BitVec 3}
    (hexec : exec i s = onStrand s (issueVec i [d, b] (convWrong k d b) 0 0 0 (blockBody k t d b v q) s)) :
    ∃ u, exec i s = .next u ∧ Completed s u ∧ u.me.vctx.scales = blockScales t b v q i s ∧
      LoopResult s u x.dst.width d q.m x.dst.zero (fun n =>
        some (scaledElem x (scale u (kselOf s.me.vctx.vshape) (n / blkOf s.me.vctx.vshape)) (env s n).mode
          (velem s b (rep q.z q.c n)))) ∧
      SameButFile (updCtx s fun c => { c with scales := blockScales t b v q i s }) u := by
  have hbody (u : State) (hu : u = advance { s with nextId := s.nextId + 1 }) :
      blockBody k t d b v q (mkEntry i 0 0 0 s) whole u = .done (elemLoop (rbOf s.me.vctx.cnt) x.dst.width d.toNat
        (mpolOf s.me.vctx.vshape) q.m.toNat x.dst.zero
        (fun _ n => scaledElem x (scaleGet { s.me.vctx with scales := blockScales t b v q i s } (kselOf s.me.vctx.vshape)
          (n / blkOf s.me.vctx.vshape)) (env s n).mode (velem s b (rep q.z q.c n)))
        0 s.me.vctx.vl (updCtx u fun c => { c with scales := blockScales t b v q i s })) := by
    have hke : k (mkEntry i 0 0 0 s).vshape = some x := hk
    have hquota := blocksQuota_le (groupsOf_le (vs := s.me.vctx.vshape) hvl.le) (blockUnit_pos v s.me.vctx.vshape)
    simp only [blockBody, hke]
    rw [groupBody_whole u rfl hquota, hu, Nat.zero_div, span_zero]
    rfl
  obtain ⟨u, he, hcomp, hloop, hscales, hfile⟩ :=
    exec_of_elemLoop hexec h hregs (convWrong_of_grouped hvl hb hd hover hk) hw hbody
  refine ⟨u, he, hcomp, hscales, ?_, hfile⟩
  simp only [scale, scaleGet, hscales] at hloop ⊢
  exact hloop

end

include h hvl hregs hb hd hover

theorem exec_convForm (hform : convForm s.me.vctx.vshape i = some (d, b, q, x)) :
    ∃ t, exec i s = .next t ∧ Completed s t ∧ SameButFile s t ∧ LoopResult s t x.dst.width d q.m x.dst.zero fun n =>
      some (convert x.src x.dst (satOf s.me.vctx.vshape) (env s n).mode (velem s b (rep q.z q.c n))) := by
  obtain ⟨v, ⟨rfl, hx⟩ | ⟨rfl, hx⟩ | ⟨rfl, hx⟩⟩ := convForm_cases hform
  · exact exec_of_convBody h hvl hregs hb hd hover (k := fun vs => convW vs v.toNat) hx (convW_packed hx) rfl
  · exact exec_of_convBody h hvl hregs hb hd hover (k := fun vs => convN vs v.toNat) hx (convN_packed hx) rfl
  · exact exec_of_convBody h hvl hregs hb hd hover (k := fun vs => convI vs v.toNat) hx (convI_packed hx) rfl

theorem exec_blockForm {v : BitVec 3} {o : Int} (hform : blockForm s.me.vctx.vshape i = some (d, b, v, q, x, o)) :
    ∃ u, exec i s = .next u ∧ Completed s u ∧ u.me.vctx.scales = blockScales o b v q i s ∧
      LoopResult s u x.dst.width d q.m x.dst.zero (fun n =>
        some (scaledElem x (scale u (kselOf s.me.vctx.vshape) (n / blkOf s.me.vctx.vshape)) (env s n).mode
          (velem s b (rep q.z q.c n)))) ∧
      SameButFile (updCtx s fun c => { c with scales := blockScales o b v q i s }) u := by
  obtain ⟨rfl, hx, rfl⟩ | ⟨rfl, hx, rfl⟩ := blockForm_cases hform
  · exact exec_of_blockBody h hvl hregs hb hd hover hx (convF4_packed hx) rfl
  · exact exec_of_blockBody h hvl hregs hb hd hover hx (convDy_packed hx) rfl

end

/-! ### Scale instructions (R145) -/

section
variable {s : State} {d b : BitVec 5}

theorem ksetBody_eq (i : Instr) (u : State) (hu : u = advance { s with nextId := s.nextId + 1 }) (hvl : VlOk s) :
    ksetBody d b (mkEntry i 0 0 0 s) whole u = .done (updCtx u fun c => { c with
      scales := scalesSet c.scales d.toNat ((List.range s.me.vctx.vl).map fun j =>
        (j, elemGet s.me.vctx.vf (rbOf s.me.vctx.cnt) 32 b.toNat j)) }) := by
  rw [ksetBody, groupBody_whole u rfl (groupsOf_le hvl.le), hu, span_zero]
  rfl

theorem kmvBody_eq (i : Instr) (a : BitVec 5) (m : BitVec 2) (u : State) (hu : u = advance { s with nextId := s.nextId + 1 })
    (hvl : VlOk s) :
    kmvBody d a b m (mkEntry i 0 0 0 s) whole u = .done (elemLoop (rbOf s.me.vctx.cnt) 32 d.toNat (mpolOf s.me.vctx.vshape)
      m.toNat 0 (fun _ j => ⟨scale s b.toNat (if a = 0 then j else j / blkOf s.me.vctx.vshape), 0⟩)
        0 s.me.vctx.vl (updCtx u fun c => { c with scales := s.me.vctx.scales })) := by
  rw [kmvBody, groupBody_whole u rfl (groupsOf_le hvl.le), hu]
  rfl

theorem kcalcBody_eq (i : Instr) (a : BitVec 5) (m : BitVec 2) (u : State) (hu : u = advance { s with nextId := s.nextId + 1 })
    (hvl : VlOk s) :
    kcalcBody d a b m (mkEntry i 0 0 0 s) whole u = .done (updCtx u fun c => { c with
      scales := scalesSet c.scales d.toNat ((List.range (ceilDiv s.me.vctx.vl (blkOf s.me.vctx.vshape))).map fun j =>
        (j, pscale (kcalcTarget a) (blockVals (tyOf s.me.vctx.vshape) b 0 0 m.toNat (mkEntry i 0 0 0 s) s.me.vctx j))) }) := by
  have hquota := blocksQuota_le (groupsOf_le (vs := s.me.vctx.vshape) hvl.le) (blockUnit_pos 0 s.me.vctx.vshape)
  rw [kcalcBody, groupBody_whole u rfl hquota, hu, Nat.zero_div, span_zero]
  rfl

end

end Sys2Proof.Machine
end

section
/-! The exact values of the formats: what reading a pattern and splitting a fraction at a format's grid give (R128, R130). -/

namespace Sys2Proof.Machine

open Sys2Proof.Claims

/-! ### Fractions -/

theorem scaled_pos (x : Nat) (k : Int) : 0 < (scaled x k).2 := by
  unfold scaled
  split
  · exact Nat.one_pos
  · exact Nat.two_pow_pos _

theorem scaled_value (x : Nat) (k : Int) : ((scaled x k).1 : ℚ) = x * 2 ^ k * (scaled x k).2 := by
  unfold scaled
  split
  · next h =>
    obtain ⟨j, rfl⟩ := Int.eq_ofNat_of_zero_le h
    simp
  · next h =>
    obtain ⟨j, rfl⟩ : ∃ j : Nat, k = -j := ⟨(-k).toNat, by omega⟩
    simp

/-- A scaled number is below a fraction where the number is. -/
theorem lt_scaled_iff {n x : Nat} {k : Int} : n * (scaled x k).2 < (scaled x k).1 ↔ (n : ℚ) < x * 2 ^ k := by
  have hpos : (0 : ℚ) < (scaled x k).2 := Nat.cast_pos.2 (scaled_pos x k)
  rw [← Nat.cast_lt (α := ℚ), Nat.cast_mul, scaled_value, mul_lt_mul_iff_left₀ hpos]

/-- log2Frac is the floor of the logarithm. -/
theorem log2Frac_eq {n d : Nat} (hn : 0 < n) (hd : 0 < d) : log2Frac n d = Int.log 2 ((n : ℚ) / d) := by
  have hnq : (0 : ℚ) < n := Nat.cast_pos.2 hn
  have hdq : (0 : ℚ) < d := Nat.cast_pos.2 hd
  have hq : (0 : ℚ) < n / d := div_pos hnq hdq
  have hnlo : (2 : ℚ) ^ (n.log2 : Int) ≤ n := by rw [zpow_natCast]; exact_mod_cast Nat.log2_self_le hn.ne'
  have hnhi : (n : ℚ) < 2 ^ ((n.log2 : Int) + 1) := by
    rw [← Nat.cast_succ, zpow_natCast]; exact_mod_cast Nat.lt_log2_self
  have hdlo : (2 : ℚ) ^ (d.log2 : Int) ≤ d := by rw [zpow_natCast]; exact_mod_cast Nat.log2_self_le hd.ne'
  have hdhi : (d : ℚ) < 2 ^ ((d.log2 : Int) + 1) := by
    rw [← Nat.cast_succ, zpow_natCast]; exact_mod_cast Nat.lt_log2_self
  set k : Int := (n.log2 : Int) - d.log2 with hk
  have hlo : (2 : ℚ) ^ (k - 1) ≤ n / d := by
    rw [le_div_iff₀ hdq]
    calc (2 : ℚ) ^ (k - 1) * d
      _ ≤ 2 ^ (k - 1) * 2 ^ ((d.log2 : Int) + 1) := by gcongr
      _ = 2 ^ (n.log2 : Int) := by rw [← zpow_add₀ two_ne_zero]; congr 1; omega
      _ ≤ n := hnlo
  have hhi : (n : ℚ) / d < 2 ^ (k + 1) := by
    rw [div_lt_iff₀ hdq]
    calc (n : ℚ)
      _ < 2 ^ ((n.log2 : Int) + 1) := hnhi
      _ = 2 ^ (k + 1) * 2 ^ (d.log2 : Int) := by rw [← zpow_add₀ two_ne_zero]; congr 1; omega
      _ ≤ 2 ^ (k + 1) * d := by gcongr
  have hle := (Int.zpow_le_iff_le_log (b := 2) one_lt_two hq).1 (by exact_mod_cast hlo)
  have hlt := (Int.lt_zpow_iff_log_lt (b := 2) one_lt_two hq).1 (by exact_mod_cast hhi)
  have htest : n * (scaled d k).2 < (scaled d k).1 ↔ Int.log 2 ((n : ℚ) / d) < k := by
    rw [lt_scaled_iff, ← Int.lt_zpow_iff_log_lt one_lt_two hq, div_lt_iff₀ hdq, mul_comm]
    rfl
  show (if n * (scaled d k).2 < (scaled d k).1 then k - 1 else k) = _
  split <;> omega

/-! ### The grid of a format (R128) -/

/-- The unit of the subnormal codes is 2 to this power. -/
def Fmt.minExp (f : Fmt) : Int := 1 - f.bias - f.m

/-- Multiples of a power of two up to twice 2^m are the values of codes. -/
theorem magQ_grid (f : Fmt) {j k : Nat} (hk : k ≤ 2 * 2 ^ f.m) (hj : j = 0 ∨ 2 ^ f.m ≤ k) :
    magQ f (j * 2 ^ f.m + k) = k * 2 ^ (f.minExp + j) := by
  have hpos := Nat.two_pow_pos f.m
  rcases Nat.lt_or_ge k (2 ^ f.m) with hlt | hge
  · obtain rfl : j = 0 := by omega
    rw [Nat.zero_mul, Nat.zero_add, magQ, if_pos hlt, Fmt.minExp, Nat.cast_zero, Int.add_zero]
  have hcode (i r : Nat) (hr : r < 2 ^ f.m) :
      magQ f ((i + 1) * 2 ^ f.m + r) = ((2 ^ f.m + r : Nat) : ℚ) * 2 ^ (f.minExp + i) := by
    have hle : 2 ^ f.m ≤ (i + 1) * 2 ^ f.m + r := by rw [Nat.succ_mul]; omega
    have hdiv : ((i + 1) * 2 ^ f.m + r) / 2 ^ f.m = i + 1 := by
      rw [Nat.mul_comm, Nat.mul_add_div hpos, Nat.div_eq_of_lt hr, Nat.add_zero]
    rw [magQ, if_neg hle.not_gt, Nat.mul_add_mod_of_lt hr, hdiv, Fmt.minExp]
    congr 2
    push_cast
    ring
  obtain ⟨r, rfl⟩ := Nat.exists_eq_add_of_le hge
  rw [← Nat.add_assoc, ← Nat.succ_mul]
  rcases Nat.lt_or_ge r (2 ^ f.m) with hr | hr
  · exact hcode j r hr
  · obtain rfl : r = 2 ^ f.m := by omega
    have := hcode (j + 1) 0 hpos
    rw [← Nat.succ_mul]
    refine this.trans ?_
    rw [Nat.add_zero, Nat.cast_succ, ← Int.add_assoc, zpow_add_one₀ two_ne_zero, Nat.cast_add]
    ring

theorem magQ_zero (f : Fmt) : magQ f 0 = 0 := by
  rw [magQ, if_pos (Nat.two_pow_pos _), Nat.cast_zero, zero_mul]

/-- The smallest normal magnitude. -/
theorem magQ_minNormal (f : Fmt) : magQ f (2 ^ f.m) = 2 ^ (1 - (f.bias : Int)) := by
  have h := magQ_grid f (j := 0) (k := 2 ^ f.m) (by omega) (.inl rfl)
  rw [Nat.zero_mul, Nat.zero_add] at h
  rw [h, Fmt.minExp, Nat.cast_pow, Nat.cast_two, ← zpow_natCast, ← zpow_add₀ two_ne_zero]
  congr 1
  omega

/-- The binade of 2^k in units of the subnormals' binade. -/
def Fmt.binade (f : Fmt) (k : Int) : Nat := (k - f.m - f.minExp).toNat

theorem split_eq (f : Fmt) (n d : Nat) : f.split n d =
    let j := f.binade (log2Frac n d)
    let s := scaled d (f.minExp + j)
    (j * 2 ^ f.m + n * s.2 / s.1, n * s.2 % s.1, s.1, decide (log2Frac n d < 1 - (f.bias : Int))) := by
  have hunit : (if log2Frac n d - f.m < 1 - (f.bias : Int) - f.m then 1 - (f.bias : Int) - f.m else log2Frac n d - f.m) =
      f.minExp + f.binade (log2Frac n d) := by
    unfold Fmt.binade Fmt.minExp
    split <;> omega
  have hbinade : f.minExp + f.binade (log2Frac n d) - (1 - (f.bias : Int) - f.m) = (f.binade (log2Frac n d) : Nat) := by
    unfold Fmt.minExp
    omega
  simp only [Fmt.split, hunit, hbinade, Int.toNat_natCast]

/-- A fraction is of the order of its binade's unit. -/
theorem binade_bounds (f : Fmt) {q : ℚ} (hq : 0 < q) {j : Nat} (hj : f.binade (Int.log 2 q) = j) :
    ⌊q / 2 ^ (f.minExp + j)⌋₊ < 2 * 2 ^ f.m ∧ (j = 0 ∨ 2 ^ f.m ≤ ⌊q / 2 ^ (f.minExp + j)⌋₊) := by
  have hunit : (0 : ℚ) < 2 ^ (f.minExp + j) := zpow_pos two_pos _
  rw [Fmt.binade] at hj
  constructor
  · rw [Nat.floor_lt (by positivity), div_lt_iff₀ hunit]
    calc q
      _ < 2 ^ (Int.log 2 q + 1) := by exact_mod_cast Int.lt_zpow_succ_log_self one_lt_two q
      _ ≤ 2 ^ ((f.m + 1 : Nat) + (f.minExp + j)) := zpow_le_zpow_right₀ one_le_two (by push_cast; omega)
      _ = ((2 * 2 ^ f.m : Nat) : ℚ) * 2 ^ (f.minExp + j) := by
        rw [zpow_add₀ two_ne_zero, zpow_natCast, pow_succ']
        push_cast
        rfl
  · refine or_iff_not_imp_left.2 fun hj0 => Nat.le_floor ?_
    rw [le_div_iff₀ hunit]
    calc ((2 ^ f.m : Nat) : ℚ) * 2 ^ (f.minExp + j)
      _ = 2 ^ (f.m + (f.minExp + j)) := by
        rw [zpow_add₀ two_ne_zero (f.m : Int), zpow_natCast, Nat.cast_pow, Nat.cast_two]
      _ ≤ 2 ^ Int.log 2 q := zpow_le_zpow_right₀ one_le_two (by omega)
      _ ≤ q := by exact_mod_cast Int.zpow_log_le_self one_lt_two hq

/-- The multiple of a unit that a fraction reaches, and the part of a unit above it. -/
theorem div_unit {n d : Nat} (hd : 0 < d) (u : Int) : 0 < (scaled d u).1 ∧
    n * (scaled d u).2 / (scaled d u).1 = ⌊(n / d : ℚ) / 2 ^ u⌋₊ ∧
    (n / d : ℚ) = (⌊(n / d : ℚ) / 2 ^ u⌋₊ + ((n * (scaled d u).2 % (scaled d u).1 : Nat) : ℚ) / (scaled d u).1) * 2 ^ u := by
  have hdq : (0 : ℚ) < d := Nat.cast_pos.2 hd
  have hs : (0 : ℚ) < (scaled d u).2 := Nat.cast_pos.2 (scaled_pos d u)
  have hunit : (0 : ℚ) < 2 ^ u := zpow_pos two_pos u
  have hw : (0 : ℚ) < (scaled d u).1 := by rw [scaled_value]; positivity
  have hquot : (n / d : ℚ) / 2 ^ u = ((n * (scaled d u).2 : Nat) : ℚ) / (scaled d u).1 := by
    rw [scaled_value, Nat.cast_mul]
    field_simp
  have hdiv : ((n * (scaled d u).2 : Nat) : ℚ) =
      (n * (scaled d u).2 / (scaled d u).1 : Nat) * (scaled d u).1 + (n * (scaled d u).2 % (scaled d u).1 : Nat) := by
    exact_mod_cast (Nat.div_add_mod' _ _).symm
  refine ⟨Nat.cast_pos.1 hw, by rw [hquot, Nat.floor_div_eq_div], ?_⟩
  rw [← div_eq_iff hunit.ne', hquot, Nat.floor_div_eq_div, div_eq_iff hw.ne', add_mul, div_mul_cancel₀ _ hw.ne']
  exact hdiv

/-- The fraction n/d lies from the magnitude of a code to that of the next, and r/w is the part between them. -/
theorem split_spec (f : Fmt) {n d c r w : Nat} {tiny : Bool} (hn : 0 < n) (hd : 0 < d) (h : f.split n d = (c, r, w, tiny)) :
    r < w ∧ magQ f c < magQ f (c + 1) ∧ (n : ℚ) / d = magQ f c + (magQ f (c + 1) - magQ f c) * (r / w) ∧
      (tiny = true ↔ (n : ℚ) / d < magQ f (2 ^ f.m)) := by
  have hq : (0 : ℚ) < n / d := div_pos (Nat.cast_pos.2 hn) (Nat.cast_pos.2 hd)
  have hspec := split_eq f n d
  rw [h, log2Frac_eq hn hd] at hspec
  generalize hj : f.binade (Int.log 2 (n / d : ℚ)) = j at hspec
  obtain ⟨hk2, hk1⟩ := binade_bounds f hq hj
  obtain ⟨hw, hk, hval⟩ := div_unit (n := n) hd (f.minExp + j)
  obtain ⟨rfl, rfl, rfl, rfl⟩ : _ ∧ _ ∧ _ ∧ _ := by simpa only [Prod.mk.injEq] using hspec
  have hlo := magQ_grid f hk2.le hk1
  have hhi := magQ_grid f (j := j) (k := ⌊(n / d : ℚ) / 2 ^ (f.minExp + j)⌋₊ + 1) hk2 (hk1.imp_right Nat.le_succ_of_le)
  have hunit : (0 : ℚ) < 2 ^ (f.minExp + (j : Int)) := zpow_pos two_pos _
  rw [hk, Nat.add_assoc, hlo, hhi, Nat.cast_succ]
  refine ⟨Nat.mod_lt _ hw, by linarith, ?_, ?_⟩
  · rw [add_one_mul, add_sub_cancel_left, mul_comm (2 ^ (f.minExp + (j : Int))), ← add_mul]
    exact hval
  · rw [decide_eq_true_iff, magQ_minNormal, ← Int.lt_zpow_iff_log_lt one_lt_two hq]
    rfl

end Sys2Proof.Machine
end

section
/-! Patterns of the formats as they are read (R128 to R130). -/

namespace Sys2Proof.Machine

open Sys2Proof.Claims

/-- v is the finite value ±q, neg its sign. -/
def FV.Is (v : FV) (neg : Bool) (q : ℚ) : Prop := ∃ n d : Nat, v = .fin neg n d ∧ 0 < d ∧ q = n / d

/-- What the formats of Table 7.1 have in common. -/
theorem width_of_formats {f : Fmt} (hf : f ∈ formats) : f.width = f.e + f.m + 1 ∧ 0 < f.e := by
  revert f; decide

theorem ieee_iff_withInf {f : Fmt} (hf : f ∈ formats) : f.special = .ieee ↔ f ∈ withInf := by
  revert f; decide

theorem clamps_iff {f : Fmt} (hf : f ∈ formats) : f.clamps = true ↔ f ∈ [e4m3, e5m2, e2m1] := by
  revert f; decide

theorem none_iff_e2m1 {f : Fmt} (hf : f ∈ formats) : f.special = .none ↔ f = e2m1 := by
  revert f; decide

theorem withInf_subset {f : Fmt} (hf : f ∈ withInf) : f ∈ formats := by
  revert f; decide

theorem infCode_eq {f : Fmt} (hf : f ∈ withInf) : f.infCode = f.maxCode + 1 := by
  revert f; decide

theorem bit_eq_testBit (x n : Nat) : bit x n = x.testBit n := by
  rw [bit, Nat.testBit_eq_decide_div_mod_eq, Bool.beq_eq_decide_eq]

theorem bits_eq (x hi lo : Nat) (h : lo ≤ hi + 1) : bits x hi lo = x % 2 ^ (hi + 1) / 2 ^ lo := by
  obtain ⟨k, hk⟩ := Nat.exists_eq_add_of_le h
  rw [hk, Nat.pow_add, Nat.mod_mul_right_div_self, bits, hk, Nat.add_sub_cancel_left]

/-- The magnitude code of a pattern. -/
def Fmt.code (f : Fmt) (x : Nat) : Nat := x % 2 ^ (f.width - 1)

section
variable {f : Fmt} {x : Nat}

theorem exponent_eq (hf : f ∈ formats) : bits x (f.width - 2) f.m = f.code x / 2 ^ f.m := by
  obtain ⟨hwidth, he⟩ := width_of_formats hf
  rw [bits_eq x _ _ (by omega), Fmt.code, show f.width - 2 + 1 = f.width - 1 by omega]

theorem mantissa_eq (hf : f ∈ formats) : x % 2 ^ f.m = f.code x % 2 ^ f.m := by
  obtain ⟨hwidth, -⟩ := width_of_formats hf
  exact (Nat.mod_mod_of_dvd _ (pow_dvd_pow 2 (by omega))).symm

theorem exponent_lt (hf : f ∈ formats) : f.code x / 2 ^ f.m < 2 ^ f.e := by
  obtain ⟨hwidth, -⟩ := width_of_formats hf
  rw [Nat.div_lt_iff_lt_mul (Nat.two_pow_pos _), ← Nat.pow_add, Fmt.code, show f.width - 1 = f.e + f.m by omega]
  exact Nat.mod_lt _ (Nat.two_pow_pos _)

/-- The magnitude codes of the infinity and of the NaNs have the greatest exponent. -/
theorem le_maxCode_iff (hf : f ∈ formats) : f.code x ≤ f.maxCode ↔
    ¬(f.special = .ieee ∧ f.code x / 2 ^ f.m = 2 ^ f.e - 1) ∧
    ¬(f.special = .e4m3 ∧ f.code x / 2 ^ f.m = 2 ^ f.e - 1 ∧ f.code x % 2 ^ f.m = 2 ^ f.m - 1) := by
  obtain ⟨-, he⟩ := width_of_formats hf
  have hexp := exponent_lt (x := x) hf
  have hman := Nat.mod_lt (f.code x) (Nat.two_pow_pos f.m)
  have hcode := Nat.div_add_mod' (f.code x) (2 ^ f.m)
  have he2 : 2 ≤ 2 ^ f.e := Nat.le_self_pow he.ne' 2
  have htop : (2 ^ f.e - 1) * 2 ^ f.m + 2 ^ f.m = 2 ^ (f.e + f.m) := by
    rw [← Nat.succ_mul, Nat.pow_add]; congr 1; omega
  have hone : 1 * 2 ^ f.m ≤ (2 ^ f.e - 1) * 2 ^ f.m := Nat.mul_le_mul_right _ (by omega)
  rw [Fmt.maxCode]
  by_cases h : f.code x / 2 ^ f.m = 2 ^ f.e - 1
  · rw [h] at hcode
    simp only [h, true_and]
    cases f.special <;> simp <;> omega
  · have hlt : (f.code x / 2 ^ f.m + 1) * 2 ^ f.m ≤ (2 ^ f.e - 1) * 2 ^ f.m := Nat.mul_le_mul_right _ (by omega)
    rw [Nat.succ_mul] at hlt
    cases f.special <;> simp [h] <;> omega

/-- The value of a magnitude code as a fraction. -/
def Fmt.fraction (f : Fmt) (c : Nat) : Nat × Nat :=
  if c / 2 ^ f.m = 0 then scaled (c % 2 ^ f.m) f.minExp
  else scaled (2 ^ f.m + c % 2 ^ f.m) (((c / 2 ^ f.m : Nat) : Int) - f.bias - f.m)

theorem fraction_pos (f : Fmt) (c : Nat) : 0 < (f.fraction c).2 := by
  unfold Fmt.fraction
  split <;> exact scaled_pos _ _

theorem magQ_eq_fraction (f : Fmt) (c : Nat) : magQ f c = (f.fraction c).1 / (f.fraction c).2 := by
  have hval (n : Nat) (k : Int) : ((scaled n k).1 / (scaled n k).2 : ℚ) = n * 2 ^ k := by
    rw [scaled_value, mul_div_cancel_right₀ _ (Nat.cast_ne_zero.2 (scaled_pos n k).ne')]
  rw [magQ, Fmt.fraction]
  by_cases h : c < 2 ^ f.m
  · rw [if_pos h, if_pos (Nat.div_eq_of_lt h), Nat.mod_eq_of_lt h, hval, Fmt.minExp]
  · have hne : c / 2 ^ f.m ≠ 0 := (Nat.div_pos (not_lt.1 h) (Nat.two_pow_pos _)).ne'
    rw [if_neg h, if_neg hne, hval]

/-- Reading, by the magnitude code of the pattern. -/
theorem read_eq (hf : f ∈ formats) : f.read x =
    if f.special = .ieee && f.code x / 2 ^ f.m = 2 ^ f.e - 1 then
      if f.code x % 2 ^ f.m = 0 then .inf (x.testBit (f.width - 1)) else .nan (!(f.code x % 2 ^ f.m).testBit (f.m - 1))
    else if f.special = .e4m3 && f.code x / 2 ^ f.m = 2 ^ f.e - 1 && f.code x % 2 ^ f.m = 2 ^ f.m - 1 then .nan false
    else .fin (x.testBit (f.width - 1)) (f.fraction (f.code x)).1 (f.fraction (f.code x)).2 := by
  rw [Fmt.read, exponent_eq hf, mantissa_eq (x := x) hf, bit_eq_testBit, bit_eq_testBit]
  rfl

/-- A pattern whose magnitude code is no greater than the greatest finite one reads as the value of its code. -/
theorem read_of_finite (hf : f ∈ formats) (h : f.code x ≤ f.maxCode) :
    (f.read x).Is (x.testBit (f.width - 1)) (magQ f (f.code x)) := by
  obtain ⟨hieee, he4m3⟩ := (le_maxCode_iff hf).1 h
  refine ⟨_, _, ?_, fraction_pos f (f.code x), magQ_eq_fraction f (f.code x)⟩
  rw [read_eq hf, if_neg (by simpa using hieee), if_neg (by simpa [and_assoc] using he4m3)]

theorem read_of_inf (hf : f ∈ withInf) (h : f.code x = f.maxCode + 1) : f.read x = .inf (x.testBit (f.width - 1)) := by
  have hmem := withInf_subset hf
  rw [← infCode_eq hf, Fmt.infCode] at h
  have htop : f.code x / 2 ^ f.m = 2 ^ f.e - 1 := by rw [h, Nat.mul_div_cancel _ (Nat.two_pow_pos _)]
  have hman : f.code x % 2 ^ f.m = 0 := by rw [h, Nat.mul_mod_left]
  rw [read_eq hmem, if_pos (by simp [htop, (ieee_iff_withInf hmem).2 hf]), if_pos hman]

theorem mantissa_pos (hf : f ∈ formats) : 0 < f.m := by
  revert f; decide

theorem read_of_nan (hf : f ∈ formats) (h : f.maxCode < f.code x) (hinf : f ∈ withInf → f.code x ≠ f.maxCode + 1) :
    f.read x = .nan (signals f x) := by
  have hnot := mt (le_maxCode_iff hf).2 h.not_ge
  rw [not_and_or, not_not, not_not] at hnot
  rw [signals, read_eq hf]
  rcases hnot with ⟨hieee, htop⟩ | ⟨he4m3, htop, hman⟩
  · have hmem := (ieee_iff_withInf hf).1 hieee
    have hman : f.code x % 2 ^ f.m ≠ 0 := fun h0 => hinf hmem (by
      rw [← infCode_eq hmem, Fmt.infCode, ← htop]
      exact (Nat.div_mul_cancel (Nat.dvd_of_mod_eq_zero h0)).symm)
    rw [if_pos (by simp [hieee, htop]), if_neg hman, ← mantissa_eq hf, Nat.testBit_mod_two_pow,
      decide_eq_true (Nat.sub_lt (mantissa_pos hf) Nat.one_pos), decide_eq_true hmem, Bool.true_and, Bool.true_and]
  · have hmem : f ∉ withInf := fun hm => absurd ((ieee_iff_withInf hf).2 hm) (by rw [he4m3]; decide)
    rw [if_neg (by simp [he4m3]), if_pos (by simp [he4m3, htop, hman]), decide_eq_false hmem, Bool.false_and]

end
/-! ### Integers and Dyad8 -/

theorem intRead_eq (sg : Bool) (w x : Nat) : intRead sg w x = asInt w sg x := by
  rw [intRead, asInt, toInt_eq_ofNat]

/-- A term of a Dyad8 byte in units of 2^−6. -/
theorem dyadTerm_value (neg : Bool) {c : Nat} (hc : c < 8) :
    (if c = 7 then (0 : ℚ) else (if neg then -1 else 1) / 2 ^ c) = dyadTerm neg c / 64 := by
  cases neg <;> interval_cases c <;> norm_num [dyadTerm]

theorem dyadQ_eq (x : Nat) : dyadQ x = dyadInt x / 64 := by
  have ha : bits x 6 4 = x / 16 % 8 := rfl
  have hb : bits x 2 0 = x % 8 := by simp [bits]
  rw [dyadQ, dyadInt, ha, hb, bit_eq_testBit, bit_eq_testBit]
  simp only [dyadTerm_value _ (Nat.mod_lt _ (by decide : 0 < 8))]
  rw [Int.cast_add, add_div]

theorem dyadRead_is (x : Nat) : (dyadRead x).Is (decide (dyadQ x < 0)) |dyadQ x| := by
  refine ⟨(dyadInt x).natAbs, 64, ?_, by decide, ?_⟩
  · have hneg : dyadInt x < 0 ↔ dyadQ x < 0 := by
      rw [dyadQ_eq, div_lt_iff₀ (by norm_num), zero_mul, Int.cast_lt_zero]
    rw [dyadRead, decide_eq_decide.2 hneg]
  · rw [dyadQ_eq, abs_div, Nat.cast_natAbs, Int.cast_abs]
    norm_num

/-- A pattern that reads as a finite value is read as it. -/
theorem read_of_reads {t : Ty} {x : Nat} {neg : Bool} {q : ℚ} (h : Reads t x neg q) : (t.read x).Is neg q := by
  cases t with
  | int sg w =>
    obtain ⟨-, rfl, rfl⟩ := h
    refine ⟨(asInt w sg x).natAbs, 1, ?_, Nat.one_pos, by rw [Nat.cast_one, div_one]⟩
    rw [Ty.read, intRead_eq]
  | flt f =>
    obtain ⟨hf, -, hfin, rfl, rfl⟩ := h
    exact read_of_finite hf hfin
  | dyad =>
    obtain ⟨-, rfl, rfl⟩ := h
    exact dyadRead_is x

end Sys2Proof.Machine
end

section
/-! Exact values rounded and resolved, said by the values of the formats (R10, R130, R131, R134, R136, R137). -/

namespace Sys2Proof.Machine

open Sys2Proof.Claims

/-! ### Between two neighbours (R10) -/

/-- q lies the part r/w of the way from lo to hi. -/
structure Between (lo hi q : ℚ) (r w : Nat) : Prop where
  lt : r < w
  gap : lo < hi
  eq : q = lo + (hi - lo) * (r / w)

section
variable {lo hi q : ℚ} {r w : Nat}

theorem Between.part (h : Between lo hi q r w) : (q - lo) / (hi - lo) = (r : ℚ) / w := by
  rw [h.eq, add_sub_cancel_left, mul_div_cancel_left₀ _ (sub_pos.2 h.gap).ne']

theorem Between.width_pos (h : Between lo hi q r w) : (0 : ℚ) < w := Nat.cast_pos.2 (Nat.zero_lt_of_lt h.lt)

theorem Between.rest (h : Between lo hi q r w) : (hi - q) / (hi - lo) = ((w - r : Nat) : ℚ) / w := by
  have hrest : hi - q = (hi - lo) - (q - lo) := by ring
  rw [hrest, sub_div, h.part, div_self (sub_pos.2 h.gap).ne', Nat.cast_sub h.lt.le, sub_div, div_self h.width_pos.ne']

theorem Between.le (h : Between lo hi q r w) : lo ≤ q := by
  rw [h.eq]
  exact le_add_of_nonneg_right (mul_nonneg (sub_pos.2 h.gap).le (by positivity))

theorem Between.lt_hi (h : Between lo hi q r w) : q < hi := by
  have hlt : (r : ℚ) / w < 1 := (div_lt_one h.width_pos).2 (Nat.cast_lt.2 h.lt)
  have := mul_lt_of_lt_one_right (sub_pos.2 h.gap) hlt
  rw [h.eq]
  linarith

theorem Between.eq_lo_iff (h : Between lo hi q r w) : q = lo ↔ r = 0 := by
  rw [h.eq, add_eq_left, mul_eq_zero, or_iff_right (sub_pos.2 h.gap).ne', div_eq_zero_iff, or_iff_left h.width_pos.ne',
    Nat.cast_eq_zero]

/-- q against the midpoint. -/
theorem Between.mid (h : Between lo hi q r w) : (lo + hi < 2 * q ↔ w < 2 * r) ∧ (lo + hi = 2 * q ↔ w = 2 * r) := by
  have hmid : 2 * q - (lo + hi) = (hi - lo) / w * ((2 * r : Nat) - (w : Nat)) := by
    have := h.width_pos.ne'
    rw [h.eq]
    push_cast
    field_simp
    ring
  have hpos : 0 < (hi - lo) / w := div_pos (sub_pos.2 h.gap) h.width_pos
  constructor
  · rw [← sub_pos, hmid, mul_pos_iff_of_pos_left hpos, sub_pos, Nat.cast_lt]
  · rw [eq_comm, ← sub_eq_zero, hmid, mul_eq_zero, or_iff_right hpos.ne', sub_eq_zero, Nat.cast_inj, eq_comm]

/-- The rounding moves up where R10 says so. -/
theorem Between.roundsUp_iff (h : Between lo hi q r w) (mode : RMode) (neg odd : Bool) :
    roundsUp mode neg odd r w = true ↔ GoesUp mode neg odd lo hi q := by
  obtain ⟨habove, htie⟩ := h.mid
  have hne : lo < q ↔ r ≠ 0 := by rw [h.le.lt_iff_ne, ne_comm, Ne, h.eq_lo_iff]
  have hfloor (k : Nat) : ⌊(k : ℚ) / w * 2 ^ 32⌋₊ = k * 2 ^ 32 / w := by
    rw [div_mul_eq_mul_div, ← Nat.floor_div_eq_div (K := ℚ)]
    push_cast
    rfl
  unfold roundsUp GoesUp
  rw [hne]
  by_cases hr : r = 0
  · simp [hr]
  · rw [if_neg hr, and_iff_right hr]
    cases mode with
    | rne => simp [habove, htie, eq_comm (a := 2 * r)]
    | rtz => simp
    | rdn => rfl
    | rup => simp
    | dith v =>
      simp only [h.part, h.rest, hfloor]
      split <;> simp
end

/-! ### The formats of Table 7.1 -/

/-- The mode that rounds a value above code c: DITH ends at the greatest finite value (R10). -/
def Fmt.modeAt (f : Fmt) (mode : RMode) (c : Nat) (inexact : Bool) : RMode :=
  match mode with
  | .dith v => if f.maxCode < c || (c = f.maxCode && inexact) then .rne else .dith v
  | m => m

/-- What a rounded magnitude code gives (Table 7.4, R137). -/
def Fmt.deliver (f : Fmt) (m : RMode) (neg inexact tiny : Bool) (k : Nat) : FR :=
  if f.maxCode < k then
    if f.clamps then ⟨f.signed neg f.maxCode, flOF + flNX + flSAT⟩
    else ⟨f.signed neg (if overflowsToInf m neg then f.infCode else f.maxCode), flOF + flNX⟩
  else ⟨f.signed neg k, (if inexact then flNX else 0) + (if inexact && tiny then flUF else 0)⟩

/-- A value that is dithered lies no higher than the greatest finite value. -/
theorem le_maxCode_of_dith {f : Fmt} {mode : RMode} {c v : Nat} {inexact : Bool}
    (h : f.modeAt mode c inexact = .dith v) :
    c ≤ f.maxCode ∧ (c = f.maxCode → inexact = false) := by
  cases mode with
  | dith u =>
    by_cases hover : (f.maxCode < c || (c = f.maxCode && inexact)) = true
    · rw [Fmt.modeAt, if_pos hover] at h
      cases h
    · simpa using hover
  | _ => cases h

theorem round_eq (f : Fmt) (mode : RMode) (neg : Bool) {n d c r w : Nat} {tiny : Bool} (hn : n ≠ 0)
    (h : f.split n d = (c, r, w, tiny)) :
    f.round mode neg n d = f.deliver (f.modeAt mode c (r != 0)) neg (r != 0) tiny
      (if roundsUp (f.modeAt mode c (r != 0)) neg (c % 2 == 1) r w then c + 1 else c) := by
  rw [Fmt.round, if_neg hn, h]
  cases mode <;> rfl

theorem signed_eq (f : Fmt) (neg : Bool) (k : Nat) : f.signed neg k = signOf f neg + k := Nat.add_comm _ _

theorem infCode_of_unclamped {f : Fmt} (hf : f ∈ formats) (h : f.clamps ≠ true) : f.infCode = f.maxCode + 1 := by
  revert f; decide

/-- Code k of a value q at or above code c, as `RoundsTo` says it. -/
def Delivers (f : Fmt) (m : RMode) (neg : Bool) (q : ℚ) (c k : Nat) (r : FR) : Prop :=
  if f.maxCode < k then
    if f ∈ [e4m3, e5m2, e2m1] then r = ⟨signOf f neg + f.maxCode, flOF + flNX + flSAT⟩
    else r = ⟨signOf f neg + if m = .rne ∨ (m = .rdn ∧ neg = true) ∨ (m = .rup ∧ neg = false) then f.maxCode + 1 else f.maxCode,
      flOF + flNX⟩
  else r = ⟨signOf f neg + k, (if q = magQ f c then 0 else flNX) + if q ≠ magQ f c ∧ q < magQ f (2 ^ f.m) then flUF else 0⟩

theorem delivers_deliver {f : Fmt} (hf : f ∈ formats) {m : RMode} {neg inexact tiny : Bool} {q : ℚ} {c k : Nat}
    (hm : f.maxCode < k → ∀ v, m ≠ .dith v) (hexact : inexact = true ↔ q ≠ magQ f c)
    (htiny : inexact = true → (tiny = true ↔ q < magQ f (2 ^ f.m))) :
    Delivers f m neg q c k (f.deliver m neg inexact tiny k) := by
  unfold Delivers Fmt.deliver
  simp only [signed_eq]
  by_cases hk : f.maxCode < k
  · rw [if_pos hk, if_pos hk]
    by_cases hc : f.clamps = true
    · rw [if_pos hc, if_pos ((clamps_iff hf).1 hc)]
    · have hover : overflowsToInf m neg = true ↔ m = .rne ∨ (m = .rdn ∧ neg = true) ∨ (m = .rup ∧ neg = false) := by
        cases m with
        | dith v => exact absurd rfl (hm hk v)
        | _ => simp [overflowsToInf]
      rw [if_neg hc, if_neg (mt (clamps_iff hf).2 hc), infCode_of_unclamped hf hc]
      simp only [hover]
  · rw [if_neg hk, if_neg hk]
    cases inexact with
    | false =>
      have hq : q = magQ f c := by simpa using hexact
      simp [hq]
    | true =>
      have hq : q ≠ magQ f c := hexact.1 rfl
      simp [hq, htiny rfl]

/-- A code found in the mode that R10 gives it is a rounding of q. -/
theorem roundsTo_of_delivers {f : Fmt} {mode : RMode} {neg : Bool} {q : ℚ} {c : Nat} {r : FR} {inexact : Bool}
    (hexact : inexact = true ↔ q ≠ magQ f c) (hle : magQ f c ≤ q) (hlt : q < magQ f (c + 1))
    (hup : GoesUp (f.modeAt mode c inexact) neg (c % 2 == 1) (magQ f c) (magQ f (c + 1)) q →
      Delivers f (f.modeAt mode c inexact) neg q c (c + 1) r)
    (hdown : ¬GoesUp (f.modeAt mode c inexact) neg (c % 2 == 1) (magQ f c) (magQ f (c + 1)) q →
      Delivers f (f.modeAt mode c inexact) neg q c c r) :
    RoundsTo f mode neg q r := by
  refine ⟨c, hle, hlt, ?_⟩
  cases mode with
  | dith v =>
    have hmode : f.modeAt (.dith v) c inexact = if f.maxCode < c ∨ (f.maxCode = c ∧ q ≠ magQ f c) then .rne else .dith v := by
      simp only [Fmt.modeAt, Bool.or_eq_true, Bool.and_eq_true, decide_eq_true_eq, hexact, eq_comm (a := c)]
    rw [hmode] at hup hdown
    exact ⟨hup, hdown⟩
  | _ => exact ⟨hup, hdown⟩

theorem round_roundsTo {f : Fmt} (hf : f ∈ formats) (mode : RMode) (neg : Bool) (n : Nat) {d : Nat} (hd : 0 < d) :
    RoundsTo f mode neg (n / d) (f.round mode neg n d) := by
  rcases Nat.eq_zero_or_pos n with rfl | hn
  · have hround : f.round mode neg 0 d = f.deliver (f.modeAt mode 0 false) neg false false 0 := rfl
    rw [Nat.cast_zero, zero_div, hround]
    have hexact : false = true ↔ (0 : ℚ) ≠ magQ f 0 := by simp [magQ_zero]
    have hone : 0 < magQ f (0 + 1) := by
      have h := magQ_grid f (j := 0) (k := 1) (by have := Nat.two_pow_pos f.m; omega) (.inl rfl)
      rw [Nat.zero_mul, Nat.cast_one, one_mul] at h
      rw [h]
      exact zpow_pos two_pos _
    refine roundsTo_of_delivers hexact (magQ_zero f).le hone (fun hup => ?_) fun _ => ?_
    · exact absurd hup.1 (by rw [magQ_zero]; exact lt_irrefl 0)
    · exact delivers_deliver hf (fun h => absurd h (Nat.not_lt_zero _)) hexact nofun
  · rcases h : f.split n d with ⟨c, r, w, tiny⟩
    obtain ⟨hr, hgap, hq, htiny⟩ := split_spec f hn hd h
    have hb : Between (magQ f c) (magQ f (c + 1)) (n / d) r w := ⟨hr, hgap, hq⟩
    have hexact : (r != 0) = true ↔ (n / d : ℚ) ≠ magQ f c := by rw [bne_iff_ne, Ne, Ne, hb.eq_lo_iff]
    rw [round_eq f mode neg hn.ne' h]
    refine roundsTo_of_delivers hexact hb.le hb.lt_hi (fun hup => ?_) fun hdown => ?_
    · rw [if_pos ((hb.roundsUp_iff _ _ _).2 hup)]
      refine delivers_deliver hf (fun hk v hv => ?_) hexact fun _ => htiny
      obtain ⟨hle, hexactTop⟩ := le_maxCode_of_dith hv
      have hzero := hexactTop (Nat.le_antisymm hle (Nat.lt_succ_iff.1 hk))
      exact absurd (hexact.2 hup.1.ne') (by rw [hzero]; exact Bool.false_ne_true)
    · rw [if_neg (mt (hb.roundsUp_iff _ _ _).1 hdown)]
      exact delivers_deliver hf (fun hk v hv => absurd (le_maxCode_of_dith hv).1 hk.not_ge) hexact fun _ => htiny

end Sys2Proof.Machine
end

section
/-! Dyad8 and the integers as destinations: the magnitudes that a byte has, the pattern that is written for each, and the
neighbour that a rounding finds (R130, R131, R134, R136, R137). -/

namespace Sys2Proof.Machine

open Sys2Proof.Claims

/-! ### Magnitudes and patterns of Dyad8 (R130, R131) -/

/-- k × 2^−6 is a magnitude of Dyad8. -/
def DyadMag (k : Nat) : Prop := (dyadEncode false k).isSome = true

/-- The pattern that is written for ±k × 2^−6. -/
def dyadPat (neg : Bool) (k : Nat) : Nat := (dyadEncode neg k).getD 0x77

/-- The pattern that is written for the value of a byte. -/
def dyadCanon (y : Nat) : Nat := dyadPat (decide (dyadInt y < 0)) (dyadInt y).natAbs

theorem dyadPat_value : ∀ k < 129, (dyadEncode false k).isSome = true → ∀ neg, dyadPat neg k < 256 ∧
    dyadInt (dyadPat neg k) = signedNum neg k ∧ (dyadTerms (dyadPat neg k) = 1 → dyadPat neg k % 16 = 7) := by
  decide

/-- What is said of a byte by its two terms. -/
theorem forall_byte {P : Nat → Prop} (h : ∀ a < 16, ∀ b < 16, P (16 * a + b)) {y : Nat} (hy : y < 256) : P y := by
  have := h (y / 16) (by omega) (y % 16) (Nat.mod_lt _ (by decide))
  rwa [Nat.div_add_mod] at this

theorem dyadInt_isMag {y : Nat} (hy : y < 256) :
    (dyadInt y).natAbs < 129 ∧ (dyadEncode false (dyadInt y).natAbs).isSome = true :=
  forall_byte (P := fun y => (dyadInt y).natAbs < 129 ∧ (dyadEncode false (dyadInt y).natAbs).isSome = true) (by decide) hy

/-- Of the bytes of one value, the written one has the fewest terms and then the least code a. -/
theorem dyadCanon_least {y : Nat} (hy : y < 256) (h : dyadInt y ≠ 0) : dyadTerms (dyadCanon y) < dyadTerms y ∨
    (dyadTerms (dyadCanon y) = dyadTerms y ∧ dyadCanon y / 16 % 8 ≤ y / 16 % 8) :=
  forall_byte (P := fun y => dyadInt y ≠ 0 → dyadTerms (dyadCanon y) < dyadTerms y ∨
    (dyadTerms (dyadCanon y) = dyadTerms y ∧ dyadCanon y / 16 % 8 ≤ y / 16 % 8)) (by decide) hy h

theorem dyadCanon_eq {neg : Bool} {k y : Nat} (h : dyadInt y = signedNum neg k) (hk : k ≠ 0) : dyadCanon y = dyadPat neg k := by
  unfold signedNum at h
  have hneg : decide (dyadInt y < 0) = neg := by cases neg <;> simp at h ⊢ <;> omega
  have hmag : (dyadInt y).natAbs = k := by cases neg <;> simp at h <;> omega
  rw [dyadCanon, hneg, hmag]

theorem signedNum_eq_zero {neg : Bool} {k : Nat} : signedNum neg k = 0 ↔ k = 0 := by
  cases neg <;> simp [signedNum]

theorem dyadQ_eq_iff {x y : Nat} : dyadQ x = dyadQ y ↔ dyadInt x = dyadInt y := by
  rw [dyadQ_eq, dyadQ_eq, div_left_inj' (by norm_num), Int.cast_inj]

section
variable {k : Nat} (hk : k ≤ 128) (hmag : DyadMag k) (neg : Bool)
include hk hmag

theorem dyadQ_dyadPat : dyadQ (dyadPat neg k) = if neg then -(k / 64 : ℚ) else k / 64 := by
  obtain ⟨-, hval, -⟩ := dyadPat_value k (by omega) hmag neg
  rw [dyadQ_eq, hval, signedNum]
  cases neg
  · simp
  · simp [neg_div]

theorem dyadPat_canonical : DyadCanonical (dyadPat neg k) := by
  obtain ⟨hlt, hval, hsingle⟩ := dyadPat_value k (by omega) hmag neg
  have hzero : dyadQ (dyadPat neg k) = 0 ↔ k = 0 := by
    rw [dyadQ_eq, div_eq_zero_iff, or_iff_left (by norm_num), Int.cast_eq_zero, hval, signedNum_eq_zero]
  refine ⟨hlt, fun h => ?_, hsingle, fun y hy heq hne => ?_⟩
  · rw [hzero.1 h]
    rfl
  · have hk0 := mt hzero.2 hne
    rw [dyadQ_eq_iff, hval] at heq
    have hleast := dyadCanon_least hy (by rw [heq]; exact mt signedNum_eq_zero.1 hk0)
    rwa [dyadCanon_eq heq hk0] at hleast

end

/-- The magnitudes of bytes. -/
theorem dyad_magnitude_iff {m : ℚ} : (∃ y < 256, |dyadQ y| = m) ↔ ∃ k ≤ 128, DyadMag k ∧ m = k / 64 := by
  constructor
  · rintro ⟨y, hy, rfl⟩
    obtain ⟨hlt, hmag⟩ := dyadInt_isMag hy
    refine ⟨(dyadInt y).natAbs, by omega, hmag, ?_⟩
    rw [dyadQ_eq, abs_div, Nat.cast_natAbs, Int.cast_abs]
    norm_num
  · rintro ⟨k, hk, hmag, rfl⟩
    obtain ⟨hlt, -⟩ := dyadPat_value k (by omega) hmag false
    refine ⟨_, hlt, ?_⟩
    rw [dyadQ_dyadPat hk hmag, if_neg Bool.false_ne_true]
    exact abs_of_nonneg (by positivity)

/-! ### The neighbours -/

theorem dyadBelow_spec : ∀ k, dyadBelow k ≤ k ∧ DyadMag (dyadBelow k) ∧ ∀ j ≤ k, DyadMag j → j ≤ dyadBelow k := by
  intro k
  induction k with
  | zero => exact ⟨le_rfl, rfl, fun j hj _ => hj⟩
  | succ k ih =>
    obtain ⟨hle, hmag, hmax⟩ := ih
    unfold dyadBelow
    split
    · next h => exact ⟨le_rfl, h, fun j hj _ => hj⟩
    · next h =>
      refine ⟨Nat.le_succ_of_le hle, hmag, fun j hj hjmag => hmax j ?_ hjmag⟩
      exact Nat.lt_succ_iff.1 (lt_of_le_of_ne hj fun (heq : j = k + 1) => h (heq ▸ hjmag : DyadMag (k + 1)))

theorem dyadAbove_spec {j : Nat} (hmag : DyadMag j) : ∀ fuel k, k < j → j ≤ k + fuel →
    k < dyadAbove fuel k ∧ dyadAbove fuel k ≤ j ∧ DyadMag (dyadAbove fuel k) ∧
      ∀ i, k < i → DyadMag i → dyadAbove fuel k ≤ i := by
  intro fuel
  induction fuel with
  | zero => intro k hlt hle; omega
  | succ fuel ih =>
    intro k hlt hle
    unfold dyadAbove
    split
    · next h => exact ⟨k.lt_succ_self, hlt, h, fun i hi _ => hi⟩
    · next h =>
      have hne (i : Nat) (hi : DyadMag i) : i ≠ k + 1 := fun heq => h (heq ▸ hi : DyadMag (k + 1))
      obtain ⟨habove, hlej, hmag', hmin⟩ := ih (k + 1) (lt_of_le_of_ne hlt (hne j hmag).symm) (by omega)
      exact ⟨by omega, hlej, hmag', fun i hi himag => hmin i (lt_of_le_of_ne hi (hne i himag).symm) himag⟩

/-- Below 2 the next magnitude is among the 64 next values. -/
theorem dyadAbove_of_lt {k : Nat} (hk : k < 128) : k < dyadAbove 64 k ∧ dyadAbove 64 k ≤ 128 ∧ DyadMag (dyadAbove 64 k) ∧
    ∀ i, k < i → DyadMag i → dyadAbove 64 k ≤ i := by
  rcases Nat.lt_or_ge k 64 with h | h
  · obtain ⟨hlt, hle, hrest⟩ := dyadAbove_spec (j := 64) rfl 64 k h (by omega)
    exact ⟨hlt, by omega, hrest⟩
  · exact dyadAbove_spec (j := 128) rfl 64 k hk (by omega)

/-! ### Rounding into Dyad8 (R134, R136, R137) -/

theorem units_le_iff {k n d : Nat} (hd : 0 < d) : (k / 64 : ℚ) ≤ n / d ↔ k * d ≤ 64 * n := by
  rw [div_le_div_iff₀ (by norm_num) (Nat.cast_pos.2 hd), mul_comm (n : ℚ)]
  exact_mod_cast Iff.rfl

/-- The greatest magnitude at or below q is that of the model's search. -/
theorem dyadBelow_value {n d : Nat} (hd : 0 < d) (hn : n ≤ 2 * d) : dyadBelow (64 * n / d) ≤ 128 ∧
    DyadMag (dyadBelow (64 * n / d)) ∧ (dyadBelow (64 * n / d) / 64 : ℚ) ≤ n / d ∧
    ∀ k, DyadMag k → (k / 64 : ℚ) ≤ n / d → k ≤ dyadBelow (64 * n / d) := by
  obtain ⟨hle, hmag, hmax⟩ := dyadBelow_spec (64 * n / d)
  have hunits (k : Nat) : (k / 64 : ℚ) ≤ n / d ↔ k ≤ 64 * n / d := by rw [Nat.le_div_iff_mul_le hd, units_le_iff hd]
  have hquot : 64 * n / d ≤ 128 := Nat.div_le_of_le_mul (by omega)
  exact ⟨hle.trans hquot, hmag, (hunits _).2 hle, fun k hk hkq => hmax k ((hunits k).1 hkq) hk⟩

theorem dyad_magnitude_le {m : ℚ} (h : ∃ y < 256, |dyadQ y| = m) : m ≤ 2 := by
  obtain ⟨k, hk, -, rfl⟩ := dyad_magnitude_iff.1 h
  rw [div_le_iff₀ (by norm_num)]
  exact_mod_cast hk

theorem dyad_magnitude_of {k : Nat} (hk : k ≤ 128) (hmag : DyadMag k) : ∃ y < 256, |dyadQ y| = k / 64 :=
  dyad_magnitude_iff.2 ⟨k, hk, hmag, rfl⟩

theorem between_units {kl kh n d : Nat} (hd : 0 < d) (hlt : kl < kh) (hlo : kl * d ≤ 64 * n) (hhi : 64 * n < kh * d) :
    Between (kl / 64) (kh / 64) (n / d) (64 * n - kl * d) ((kh - kl) * d) := by
  have hdq : (d : ℚ) ≠ 0 := Nat.cast_ne_zero.2 hd.ne'
  have hltq : (kl : ℚ) < kh := Nat.cast_lt.2 hlt
  have hgap : (kh - kl : ℚ) ≠ 0 := (sub_pos.2 hltq).ne'
  refine ⟨?_, (div_lt_div_iff_of_pos_right (by norm_num)).2 hltq, ?_⟩
  · rw [Nat.sub_mul]
    omega
  · push_cast [Nat.cast_sub hlo, Nat.cast_sub hlt.le]
    field_simp
    ring

section
variable {mode : RMode} {neg : Bool} {n d : Nat}

/-- Above 2 the result is ±2 (Table 7.4, log 14). -/
theorem roundsDyad_of_beyond {q : ℚ} (hq : 2 < q) : RoundsDyad mode neg q ⟨dyadPat neg 128, flOF + flNX + flSAT⟩ := by
  have htwo : ((128 : Nat) / 64 : ℚ) = 2 := by norm_num
  refine ⟨dyadPat_canonical le_rfl rfl neg, fun _ => ⟨?_, rfl⟩, fun h => absurd h hq.ne', fun lo hi _ _ _ hhi hlt _ => ?_⟩
  · rw [dyadQ_dyadPat le_rfl rfl, htwo]
  · exact absurd (hlt.le.trans (dyad_magnitude_le hhi)) hq.not_ge

/-- A value at its lower neighbour. -/
theorem roundsDyad_of_exact {q : ℚ} {k : Nat} (hk : k ≤ 128) (hmag : DyadMag k) (hq : q = k / 64) :
    RoundsDyad mode neg q ⟨dyadPat neg k, 0⟩ := by
  have hvalue := dyadQ_dyadPat hk hmag neg
  rw [← hq] at hvalue
  have hmem : ∃ y < 256, |dyadQ y| = q := hq ▸ dyad_magnitude_of hk hmag
  refine ⟨dyadPat_canonical hk hmag neg, fun h => absurd (dyad_magnitude_le hmem) h.not_ge, fun h => ⟨h ▸ hvalue, rfl⟩, ?_⟩
  intro lo hi _ hle hgreatest _ _ _
  obtain rfl : lo = q := le_antisymm hle (hgreatest q hmem le_rfl)
  exact ⟨fun hup => absurd hup.1 (lt_irrefl _), fun _ => hvalue, by simp⟩

theorem lower_neighbour_eq {q lo : ℚ} {k : Nat} (hk : k ≤ 128) (hmag : DyadMag k) (hkq : (k / 64 : ℚ) ≤ q)
    (hbelow : ∀ j, DyadMag j → (j / 64 : ℚ) ≤ q → j ≤ k) (hlo : ∃ y < 256, |dyadQ y| = lo) (hle : lo ≤ q)
    (hgreatest : ∀ m, (∃ y < 256, |dyadQ y| = m) → m ≤ q → m ≤ lo) : lo = k / 64 := by
  refine le_antisymm ?_ (hgreatest _ (dyad_magnitude_of hk hmag) hkq)
  obtain ⟨j, -, hj, rfl⟩ := dyad_magnitude_iff.1 hlo
  exact (div_le_div_iff_of_pos_right (by norm_num)).2 (by exact_mod_cast hbelow j hj hle)

theorem upper_neighbour_eq {q hi : ℚ} {k : Nat} (hk : k ≤ 128) (hmag : DyadMag k) (hkq : q < k / 64)
    (habove : ∀ j, DyadMag j → q < (j / 64 : ℚ) → k ≤ j) (hhi : ∃ y < 256, |dyadQ y| = hi) (hlt : q < hi)
    (hleast : ∀ m, (∃ y < 256, |dyadQ y| = m) → q < m → hi ≤ m) : hi = k / 64 := by
  refine le_antisymm (hleast _ (dyad_magnitude_of hk hmag) hkq) ?_
  obtain ⟨j, -, hj, rfl⟩ := dyad_magnitude_iff.1 hhi
  exact (div_le_div_iff_of_pos_right (by norm_num)).2 (by exact_mod_cast habove j hj hlt)

/-- A value between two neighbours. -/
theorem roundsDyad_of_between {q : ℚ} {kl kh r w : Nat} (hkl : kl ≤ 128) (hkh : kh ≤ 128) (hlmag : DyadMag kl)
    (hhmag : DyadMag kh) (hb : Between (kl / 64) (kh / 64) q r w) (hr : r ≠ 0)
    (hbelow : ∀ k, DyadMag k → (k / 64 : ℚ) ≤ q → k ≤ kl) (habove : ∀ k, DyadMag k → q < (k / 64 : ℚ) → kh ≤ k) :
    RoundsDyad mode neg q
      ⟨dyadPat neg (if roundsUp mode neg false r w then kh else kl), flNX + if q < 1 / 64 then flUF else 0⟩ := by
  have hne : q ≠ kl / 64 := mt hb.eq_lo_iff.1 hr
  have hq2 : q < 2 := hb.lt_hi.trans_le (dyad_magnitude_le (dyad_magnitude_of hkh hhmag))
  have hcanon : DyadCanonical (dyadPat neg (if roundsUp mode neg false r w then kh else kl)) := by
    split
    · exact dyadPat_canonical hkh hhmag neg
    · exact dyadPat_canonical hkl hlmag neg
  refine ⟨hcanon, fun h => absurd h hq2.not_gt, fun h => absurd h hq2.ne, ?_⟩
  intro lo hi hlo hle hgreatest hhi hlthi hleast
  obtain rfl := lower_neighbour_eq hkl hlmag hb.le hbelow hlo hle hgreatest
  obtain rfl := upper_neighbour_eq hkh hhmag hb.lt_hi habove hhi hlthi hleast
  refine ⟨fun hup => ?_, fun hdown => ?_, by simp [hne]⟩
  · rw [if_pos ((hb.roundsUp_iff _ _ _).2 hup)]
    exact dyadQ_dyadPat hkh hhmag neg
  · rw [if_neg (mt (hb.roundsUp_iff _ _ _).1 hdown)]
    exact dyadQ_dyadPat hkl hlmag neg

theorem dyadRound_roundsDyad (hd : 0 < d) : RoundsDyad mode neg (n / d) (dyadRound mode neg n d) := by
  have hdq : (0 : ℚ) < d := Nat.cast_pos.2 hd
  unfold dyadRound
  by_cases hover : 2 * d < n
  · rw [if_pos hover]
    refine roundsDyad_of_beyond ?_
    rw [lt_div_iff₀ hdq]
    exact_mod_cast hover
  rw [if_neg hover]
  obtain ⟨hkl, hlmag, hle, hbelow⟩ := dyadBelow_value hd (not_lt.1 hover)
  generalize dyadBelow (64 * n / d) = kl at *
  have hunits : kl * d ≤ 64 * n := (units_le_iff hd).1 hle
  by_cases hexact : kl * d = 64 * n
  · simp only [hexact, if_true]
    refine roundsDyad_of_exact hkl hlmag ?_
    rw [div_eq_div_iff hdq.ne' (by norm_num), mul_comm (n : ℚ)]
    exact_mod_cast hexact.symm
  · simp only [hexact, if_false]
    have hkl128 : kl < 128 := by
      refine lt_of_le_of_ne hkl fun h => hexact ?_
      subst h; omega
    obtain ⟨hlt, hkh, hhmag, habove⟩ := dyadAbove_of_lt hkl128
    generalize dyadAbove 64 kl = kh at *
    have hlthi : 64 * n < kh * d :=
      not_le.1 fun h => absurd (hbelow kh hhmag ((units_le_iff hd).2 h)) hlt.not_ge
    have htiny : 64 * n < d ↔ (n / d : ℚ) < 1 / 64 := by
      rw [← not_le, ← not_le, ← Nat.cast_one (R := ℚ), units_le_iff hd, Nat.one_mul]
    simp only [htiny]
    have hnext (k : Nat) (hk : DyadMag k) (hq : (n / d : ℚ) < k / 64) : kh ≤ k :=
      habove k (by exact_mod_cast (div_lt_div_iff_of_pos_right (by norm_num)).1 (hle.trans_lt hq)) hk
    exact roundsDyad_of_between hkl hkh hlmag hhmag (between_units hd hlt hunits hlthi) (by omega) hbelow hnext

end

/-! ### Resolving (R136, R141) -/

section
variable {v : FV} {neg : Bool} {q : ℚ}

theorem resolve_roundsTo {f : Fmt} (hf : f ∈ formats) (mode : RMode) (h : v.Is neg q) :
    RoundsTo f mode neg q (f.resolve mode v) := by
  obtain ⟨n, d, rfl, hd, rfl⟩ := h
  exact round_roundsTo hf mode neg n hd

theorem dyadResolve_roundsDyad (mode : RMode) (h : v.Is neg q) : RoundsDyad mode neg q (dyadResolve mode v) := by
  obtain ⟨n, d, rfl, hd, rfl⟩ := h
  exact dyadRound_roundsDyad hd

theorem ofInt_eq (w : Nat) (x : Int) : ofInt w x = intPat w x := by
  rw [ofInt, intPat, BitVec.toNat_ofInt]

theorem intMin_eq (sg : Bool) (w : Nat) : intMin sg w = intLo sg w := by
  cases sg <;> simp [intMin, intLo]

theorem intMax_eq (sg : Bool) (w : Nat) : intMax sg w = intHi sg w := by
  cases sg <;> simp [intMax, intHi]

theorem intFromFloat_fin (sg : Bool) (w : Nat) {mode : RMode} (hmode : ∀ d, mode ≠ .dith d) (neg : Bool) (n d : Nat) :
    intFromFloat sg w mode (.fin neg n d) =
      let k := if roundsUp mode neg (n / d % 2 == 1) (n % d) d then n / d + 1 else n / d
      let x : Int := if neg then -(k : Int) else k
      if x < intLo sg w then ⟨intPat w (intLo sg w), flNV⟩
      else if intHi sg w < x then ⟨intPat w (intHi sg w), flNV⟩
      else ⟨intPat w x, if n % d = 0 then 0 else flNX⟩ := by
  simp only [← ofInt_eq, ← intMin_eq, ← intMax_eq]
  cases mode with
  | dith d => exact absurd rfl (hmode d)
  | _ => rfl

theorem intFromFloat_roundsInt (sg : Bool) (w : Nat) {mode : RMode} (hmode : ∀ d, mode ≠ .dith d) (h : v.Is neg q) :
    RoundsInt sg w mode neg q (intFromFloat sg w mode v) := by
  obtain ⟨n, d, rfl, hd, rfl⟩ := h
  have hdq : (d : ℚ) ≠ 0 := Nat.cast_ne_zero.2 hd.ne'
  have hfloor : ⌊(n / d : ℚ)⌋₊ = n / d := Nat.floor_div_eq_div n d
  have hb : Between (n / d : Nat) ((n / d : Nat) + 1) (n / d : ℚ) (n % d) d := by
    refine ⟨Nat.mod_lt n hd, lt_add_one _, ?_⟩
    have hdiv : (n : ℚ) = (n / d : Nat) * d + (n % d : Nat) := by exact_mod_cast (Nat.div_add_mod' n d).symm
    rw [add_sub_cancel_left, one_mul, div_eq_iff hdq, add_mul, div_mul_cancel₀ _ hdq]
    exact hdiv
  unfold RoundsInt
  rw [intFromFloat_fin sg w hmode, hfloor]
  simp only [hb.eq_lo_iff]
  refine ⟨fun hup => ?_, fun hdown => ?_⟩
  · rw [if_pos ((hb.roundsUp_iff _ _ _).2 hup)]
  · rw [if_neg (mt (hb.roundsUp_iff _ _ _).1 hdown)]

end

end Sys2Proof.Machine
end

section
/-! Block scales (R142): the greatest magnitude of a block and its power of two. -/

namespace Sys2Proof.Machine

open Sys2Proof.Claims

/-- The value of a magnitude as `magOf` gives it. -/
def fracQ (p : Nat × Nat) : ℚ := p.1 / p.2

theorem magOf_read {f : Fmt} (hf : f ∈ withInf) (x : Nat) :
    (magOf (f.read x)).map fracQ = magOfPat f x ∧ ∀ p ∈ magOf (f.read x), 0 < p.2 := by
  have hmem := withInf_subset hf
  have hpat : magOfPat f x = if f.code x ≤ f.maxCode then some (magQ f (f.code x))
    else if f.code x = f.maxCode + 1 then some (2 ^ 128) else none := rfl
  rw [hpat]
  by_cases hfin : f.code x ≤ f.maxCode
  · obtain ⟨n, d, hread, hd, hq⟩ := read_of_finite hmem hfin
    rw [if_pos hfin, hread, hq]
    exact ⟨rfl, fun p hp => Option.mem_some.1 hp ▸ hd⟩
  rw [if_neg hfin]
  by_cases hinf : f.code x = f.maxCode + 1
  · have hvalue : fracQ (2 ^ 128, 1) = 2 ^ 128 := by norm_num [fracQ]
    rw [if_pos hinf, read_of_inf hf hinf, ← hvalue]
    exact ⟨rfl, fun p hp => Option.mem_some.1 hp ▸ Nat.one_pos⟩
  · rw [if_neg hinf, read_of_nan hmem (not_le.1 hfin) fun _ => hinf]
    exact ⟨rfl, nofun⟩

theorem magMax_value {p q : Nat × Nat} (hp : 0 < p.2) (hq : 0 < q.2) :
    0 < (magMax p q).2 ∧ fracQ (magMax p q) = max (fracQ p) (fracQ q) := by
  have hlt : p.1 * q.2 < q.1 * p.2 ↔ fracQ p < fracQ q := by
    rw [fracQ, fracQ, div_lt_div_iff₀ (Nat.cast_pos.2 hp) (Nat.cast_pos.2 hq)]
    exact_mod_cast Iff.rfl
  unfold magMax
  split
  · next h => exact ⟨hq, (max_eq_right (hlt.1 h).le).symm⟩
  · next h => exact ⟨hp, (max_eq_left (not_lt.1 (mt hlt.2 h))).symm⟩

theorem foldl_magMax_value : ∀ {ps : List (Nat × Nat)} {p : Nat × Nat}, 0 < p.2 → (∀ x ∈ ps, 0 < x.2) →
    0 < (ps.foldl magMax p).2 ∧ fracQ (ps.foldl magMax p) = (ps.map fracQ).foldl max (fracQ p) := by
  intro ps
  induction ps with
  | nil => exact fun hp _ => ⟨hp, rfl⟩
  | cons x ps ih =>
    intro p hp hps
    obtain ⟨hpos, hval⟩ := magMax_value hp (hps x List.mem_cons_self)
    obtain ⟨hpos', hval'⟩ := ih hpos fun y hy => hps y (List.mem_cons_of_mem x hy)
    exact ⟨hpos', by rw [List.foldl_cons, hval', hval]; rfl⟩

/-- The scale of R142 is the power of two that the greatest magnitude gives. -/
theorem pscale_eq {t : Int} {xs : List FV} (hxs : ∀ p ∈ xs.filterMap magOf, 0 < p.2) :
    pscale t xs =
      let mx := ((xs.filterMap magOf).map fracQ).foldl max 0
      if mx = 0 then 0x3F800000 else scaleCode (max (-149) (min 127 (Int.log 2 mx - t))) := by
  obtain ⟨hpos, hval⟩ := foldl_magMax_value (p := (0, 1)) Nat.one_pos hxs
  have hzero : fracQ (0, 1) = 0 := by simp [fracQ]
  rw [hzero] at hval
  rw [pscale]
  generalize (xs.filterMap magOf).foldl magMax (0, 1) = mx at *
  simp only [← hval]
  have hmx : fracQ mx = 0 ↔ mx.1 = 0 := by
    rw [fracQ, div_eq_zero_iff, or_iff_left (Nat.cast_ne_zero.2 hpos.ne'), Nat.cast_eq_zero]
  by_cases h : mx.1 = 0
  · rw [if_pos h, if_pos (hmx.2 h)]
  · have hclamp (k : Int) : (if k < -149 then -149 else if 127 < k then 127 else k) = max (-149) (min 127 k) := by omega
    rw [if_neg h, if_neg (mt hmx.1 h), hclamp, log2Frac_eq (Nat.pos_of_ne_zero h) hpos]
    rfl

theorem filter_lt_range (k n : Nat) : (List.range n).filter (fun i => decide (i < k)) = List.range (min k n) := by
  induction n with
  | zero => simp
  | succ n ih =>
    rw [List.range_succ, List.filter_append, ih]
    by_cases h : n < k
    · rw [Nat.min_eq_right h.le, Nat.min_eq_right h, List.range_succ]
      simp [h]
    · rw [Nat.min_eq_left (not_lt.1 h), Nat.min_eq_left (by omega)]
      simp [h]

/-- The elements of block j below n. -/
theorem span_block (j n blk : Nat) : span (j * blk) (min n (j * blk + blk)) =
    ((List.range blk).filter fun i => decide (j * blk + i < n)).map (j * blk + ·) := by
  have hlen : min n (j * blk + blk) - j * blk = min (n - j * blk) blk := by omega
  rw [span, upTo, hlen, ← filter_lt_range]
  congr 2
  funext i
  exact decide_eq_decide.2 (by omega)

/-- The scale of a block is that of its enabled values. -/
theorem pscale_blockVals {f : Fmt} (hf : f ∈ withInf) (s : State) (i : Instr) (t : Int) (b : BitVec 5) (z : BitVec 2)
    (c : BitVec 1) (m : BitVec 2) (j : Nat) :
    pscale t (blockVals (.flt f) b z c m.toNat (mkEntry i 0 0 0 s) s.me.vctx j) = blockScale s t f b z c m j := by
  have hvals : blockVals (.flt f) b z c m.toNat (mkEntry i 0 0 0 s) s.me.vctx j =
      ((List.range (blkOf s.me.vctx.vshape)).filter fun i => decide (j * blkOf s.me.vctx.vshape + i < s.me.vctx.vl) &&
        on s m (j * blkOf s.me.vctx.vshape + i)).map fun i =>
          f.read (velem s b (rep z c (j * blkOf s.me.vctx.vshape + i))) := by
    have hspan := span_block j s.me.vctx.vl (blkOf s.me.vctx.vshape)
    calc blockVals (.flt f) b z c m.toNat (mkEntry i 0 0 0 s) s.me.vctx j
      _ = ((span (j * blkOf s.me.vctx.vshape) (min s.me.vctx.vl (j * blkOf s.me.vctx.vshape + blkOf s.me.vctx.vshape))).filter
          (on s m)).map fun i => f.read (velem s b (rep z c i)) := rfl
      _ = _ := by
        rw [hspan, List.filter_map, List.filter_filter, List.map_map]
        congr 2
        funext i
        exact Bool.and_comm _ _
  rw [hvals, pscale_eq, List.filterMap_map, List.map_filterMap]
  · simp only [Function.comp_def, (magOf_read hf _).1]
    rfl
  · intro p hp
    obtain ⟨v, hv, hmag⟩ := List.mem_filterMap.1 hp
    obtain ⟨i, -, rfl⟩ := List.mem_map.1 hv
    exact (magOf_read hf _).2 p hmag

end Sys2Proof.Machine
end

section
/-! What resolving gives (R136, R141, Table 7.4), and the quotient by a block scale (R142). -/

namespace Sys2Proof.Machine

open Sys2Proof.Claims

/-! ### resolve(x, dst) by the destination -/

section
variable {t : Ty} {sat : Bool} {mode : RMode} {x : Nat}

theorem convert_flt (f : Fmt) : convert t (.flt f) sat mode x = f.resolve mode (t.read x) := by
  cases t <;> rfl

theorem convert_dyad : convert t .dyad sat mode x = dyadResolve mode (t.read x) := by
  cases t <;> rfl

theorem convert_int {sg : Bool} {w : Nat} (ht : ∀ sg' w', t ≠ .int sg' w') :
    convert t (.int sg w) sat mode x = intFromFloat sg w mode (t.read x) := by
  cases t with
  | int sg' w' => exact absurd rfl (ht sg' w')
  | _ => rfl

theorem flt_ne_int (g : Fmt) (sg : Bool) (w : Nat) : Ty.flt g ≠ .int sg w := nofun

theorem convert_int_int (sg sg' : Bool) (w w' : Nat) : convert (.int sg w) (.int sg' w') sat mode x =
    if sat = true then
      if asInt w sg x < intLo sg' w' then ⟨intPat w' (intLo sg' w'), flSAT⟩
      else if intHi sg' w' < asInt w sg x then ⟨intPat w' (intHi sg' w'), flSAT⟩ else ⟨intPat w' (asInt w sg x), 0⟩
    else ⟨intPat w' (asInt w sg x), 0⟩ := by
  show intResolve sg' sat w' (intRead sg w x) = _
  simp only [intResolve, intRead_eq, ofInt_eq, intMin_eq, intMax_eq]

end

/-! ### Infinities and NaNs -/

theorem dyadPat_two (neg : Bool) : dyadPat neg 128 = if neg then 0x88 else 0 := by
  cases neg <;> rfl

theorem resolve_inf {f : Fmt} (hf : f ∈ formats) (mode : RMode) (neg : Bool) : f.resolve mode (.inf neg) =
    if f ∈ withInf then ⟨signOf f neg + (f.maxCode + 1), 0⟩ else ⟨signOf f neg + f.maxCode, flSAT⟩ := by
  rw [Fmt.resolve, signed_eq, signed_eq]
  by_cases h : f ∈ withInf
  · rw [if_pos h, if_pos ((ieee_iff_withInf hf).2 h), infCode_eq h]
  · rw [if_neg h, if_neg (mt (ieee_iff_withInf hf).1 h)]

theorem resolve_nan {f : Fmt} (hf : f ∈ formats) (mode : RMode) (sig : Bool) :
    f.resolve mode (.nan sig) = ⟨f.canonical, if sig = true ∨ f = e2m1 then flNV else 0⟩ := by
  rw [Fmt.resolve]
  simp only [Bool.or_eq_true, decide_eq_true_eq, none_iff_e2m1 hf]

section
variable {g : Fmt} {sat : Bool} {mode : RMode} {x : Nat}

theorem read_of_isInf (h : isInf g x) : g.read x = .inf (x.testBit (g.width - 1)) := by
  obtain ⟨hg, -, hcode⟩ := h
  exact read_of_inf hg hcode

theorem read_of_isNaN (h : isNaN g x) : g.read x = .nan (signals g x) := by
  obtain ⟨hg, -, hcode, hinf⟩ := h
  exact read_of_nan hg hcode hinf

/-- An infinity in each kind of destination (Table 7.4). -/
theorem convert_of_isInf (h : isInf g x) :
    (∀ f ∈ formats, convert (.flt g) (.flt f) sat mode x = if f ∈ withInf then
      ⟨signOf f (x.testBit (g.width - 1)) + (f.maxCode + 1), 0⟩ else ⟨signOf f (x.testBit (g.width - 1)) + f.maxCode, flSAT⟩) ∧
    convert (.flt g) .dyad sat mode x = ⟨if x.testBit (g.width - 1) then 0x88 else 0, flSAT⟩ ∧
    ∀ sg w, convert (.flt g) (.int sg w) sat mode x =
      ⟨intPat w (if x.testBit (g.width - 1) then intLo sg w else intHi sg w), flNV⟩ := by
  refine ⟨fun f hf => ?_, ?_, fun sg w => ?_⟩
  · rw [convert_flt, Ty.read, read_of_isInf h, resolve_inf hf]
  · rw [convert_dyad, Ty.read, read_of_isInf h, ← dyadPat_two]
    rfl
  · rw [convert_int (flt_ne_int g), Ty.read, read_of_isInf h, intFromFloat, intMin_eq, intMax_eq, ofInt_eq]

/-- A NaN in each kind of destination (Table 7.4). -/
theorem convert_of_isNaN (h : isNaN g x) :
    (∀ f ∈ formats, convert (.flt g) (.flt f) sat mode x =
      ⟨f.canonical, if signals g x = true ∨ f = e2m1 then flNV else 0⟩) ∧
    convert (.flt g) .dyad sat mode x = ⟨0x77, flNV⟩ ∧ ∀ sg w, convert (.flt g) (.int sg w) sat mode x = ⟨0, flNV⟩ := by
  refine ⟨fun f hf => ?_, ?_, fun sg w => ?_⟩
  · rw [convert_flt, Ty.read, read_of_isNaN h, resolve_nan hf]
  · rw [convert_dyad, Ty.read, read_of_isNaN h]
    rfl
  · rw [convert_int (flt_ne_int g), Ty.read, read_of_isNaN h]
    rfl

end

/-! ### The quotient by a block scale -/

theorem fvDiv_is {v u : FV} {neg : Bool} {q k : ℚ} (hv : v.Is neg q) (hu : u.Is false k) (hk : k ≠ 0) :
    ∃ y, fvDiv v u = .val y ∧ y.Is neg (q / k) := by
  obtain ⟨n, d, rfl, hd, rfl⟩ := hv
  obtain ⟨m, e, rfl, he, rfl⟩ := hu
  have hm : m ≠ 0 := by rintro rfl; simp at hk
  refine ⟨.fin neg (n * e) (d * m), ?_, _, _, rfl, Nat.mul_pos hd (Nat.pos_of_ne_zero hm), ?_⟩
  · rw [fvDiv, if_neg hm, Bool.bne_false]
  · push_cast
    rw [div_div_div_eq]

theorem usable_of_is {v : FV} {k : ℚ} (h : v.Is false k) (hk : k ≠ 0) : usable v = true := by
  obtain ⟨n, d, rfl, -, rfl⟩ := h
  have hn : n ≠ 0 := by rintro rfl; simp at hk
  simp [usable, hn]

theorem magQ_pos (f : Fmt) {c : Nat} (h : c ≠ 0) : 0 < magQ f c := by
  have hc : (0 : ℚ) < c := Nat.cast_pos.2 (Nat.pos_of_ne_zero h)
  rw [magQ]
  split <;> positivity

theorem testBit_top_of_le {k n : Nat} (hk : k < 2 ^ (n + 1)) (h : 2 ^ n ≤ k) : k.testBit n = true := by
  rw [← bit_eq_testBit, bit_top hk]
  exact decide_eq_true h

/-- A scale that is no positive finite number may not divide. -/
theorem unusable_of_scale {k : Nat} (hk : k < 2 ^ 32) (h : k = 0 ∨ 2 ^ 31 ≤ k ∨ 0x7F7FFFFF < k) :
    usable (fp32.read k) = false := by
  have hmem : fp32 ∈ withInf := by decide
  have hcode : fp32.code k = k % 2 ^ 31 := rfl
  have hmax : fp32.maxCode = 0x7F7FFFFF := rfl
  by_cases hfin : fp32.code k ≤ fp32.maxCode
  · obtain ⟨n, d, hread, hd, hq⟩ := read_of_finite (withInf_subset hmem) hfin
    rw [hread, usable, Bool.and_eq_false_iff, Bool.not_eq_false', bne_eq_false_iff_eq]
    rcases h with rfl | h | h
    · have hzero : fp32.code 0 = 0 := rfl
      rw [hzero, magQ_zero, eq_comm, div_eq_zero_iff, or_iff_left (Nat.cast_ne_zero.2 hd.ne')] at hq
      exact .inr (Nat.cast_eq_zero.1 hq)
    · exact .inl (testBit_top_of_le hk h)
    · exact .inl (testBit_top_of_le hk (by omega : 2 ^ 31 ≤ k))
  · by_cases hinf : fp32.code k = fp32.maxCode + 1
    · rw [read_of_inf hmem hinf]
      rfl
    · rw [read_of_nan (withInf_subset hmem) (not_le.1 hfin) fun _ => hinf]
      rfl

theorem scaledElem_of_unusable {x : Conv} {k : Nat} {mode : RMode} {y : Nat} (h : usable (fp32.read k) = false) :
    scaledElem x k mode y = ⟨x.dst.zero, flNV⟩ := by
  rw [scaledElem, h]
  exact if_neg Bool.false_ne_true

theorem read_of_scale {k : Nat} (h : k ≤ 0x7F7FFFFF) : (fp32.read k).Is false (magQ fp32 k) := by
  have hlt : k < 2 ^ 31 := by omega
  have hcode : fp32.code k = k := Nat.mod_eq_of_lt hlt
  have hsign : k.testBit (fp32.width - 1) = false := Nat.testBit_lt_two_pow hlt
  have hread := read_of_finite (f := fp32) (x := k) (by decide) (hcode.trans_le h)
  rwa [hcode, hsign] at hread

section
variable {x : Conv} {k y : Nat} {mode : RMode} {v : FV} (hk0 : 0 < k) (hk : k ≤ 0x7F7FFFFF)
  (hdiv : fvDiv (fp32.read y) (fp32.read k) = .val v)
include hk0 hk hdiv

theorem scaledElem_flt {f : Fmt} (hdst : x.dst = .flt f) : scaledElem x k mode y = f.resolve mode v := by
  simp only [scaledElem, usable_of_is (read_of_scale hk) (magQ_pos fp32 hk0.ne').ne', if_true, hdiv, hdst]

theorem scaledElem_dyad (hdst : x.dst = .dyad) : scaledElem x k mode y = dyadResolve mode v := by
  simp only [scaledElem, usable_of_is (read_of_scale hk) (magQ_pos fp32 hk0.ne').ne', if_true, hdiv, hdst]

end

/-- An infinity over a finite scale keeps its sign. -/
theorem fvDiv_inf (neg : Bool) {u : FV} {k : ℚ} (hu : u.Is false k) : fvDiv (.inf neg) u = .val (.inf neg) := by
  obtain ⟨m, e, rfl, -, -⟩ := hu
  rw [fvDiv, FV.isNeg, Bool.bne_false]
  nofun

theorem fvDiv_nan (sig : Bool) (u : FV) : fvDiv (.nan sig) u = .val (.nan sig) := by
  cases u <;> rfl

theorem scaledElem_of_isInf {x : Conv} {k y : Nat} {mode : RMode} (hdst : x.dst = .flt e2m1 ∨ x.dst = .dyad) (hk0 : 0 < k)
    (hk : k ≤ 0x7F7FFFFF) (hy : isInf fp32 y) : scaledElem x k mode y =
      ⟨if x.dst = .dyad then (if y.testBit 31 then 0x88 else 0) else signOf e2m1 (y.testBit 31) + 7, flSAT⟩ := by
  have hdiv := fvDiv_inf (y.testBit (fp32.width - 1)) (read_of_scale hk)
  rw [← read_of_isInf hy] at hdiv
  rcases hdst with hd | hd
  · rw [scaledElem_flt hk0 hk hdiv hd, read_of_isInf hy, resolve_inf (by decide), if_neg (by decide), hd, if_neg (by decide)]
    rfl
  · rw [scaledElem_dyad hk0 hk hdiv hd, read_of_isInf hy, if_pos hd, ← dyadPat_two]
    rfl

theorem scaledElem_of_isNaN {x : Conv} {k y : Nat} {mode : RMode} (hdst : x.dst = .flt e2m1 ∨ x.dst = .dyad) (hk0 : 0 < k)
    (hk : k ≤ 0x7F7FFFFF) (hy : isNaN fp32 y) : scaledElem x k mode y = ⟨x.dst.zero, flNV⟩ := by
  have hdiv := fvDiv_nan (signals fp32 y) (fp32.read k)
  rw [← read_of_isNaN hy] at hdiv
  rcases hdst with hd | hd
  · rw [scaledElem_flt hk0 hk hdiv hd, read_of_isNaN hy, resolve_nan (by decide), if_pos (.inr rfl), hd]
    rfl
  · rw [scaledElem_dyad hk0 hk hdiv hd, read_of_isNaN hy, hd]
    rfl

/-- The exact quotient by a scale, resolved once. -/
theorem scaledElem_of_reads {x : Conv} {k y : Nat} {mode : RMode} {neg : Bool} {q : ℚ} (hk0 : 0 < k) (hk : k ≤ 0x7F7FFFFF)
    (hy : Reads (.flt fp32) y neg q) :
    (x.dst = .flt e2m1 → RoundsTo e2m1 mode neg (q / magQ fp32 k) (scaledElem x k mode y)) ∧
      (x.dst = .dyad → RoundsDyad mode neg (q / magQ fp32 k) (scaledElem x k mode y)) := by
  obtain ⟨u, hdiv, hu⟩ := fvDiv_is (read_of_reads hy) (read_of_scale hk) (magQ_pos fp32 hk0.ne').ne'
  refine ⟨fun hd => ?_, fun hd => ?_⟩
  · rw [scaledElem_flt hk0 hk hdiv hd]
    exact resolve_roundsTo (by decide) mode hu
  · rw [scaledElem_dyad hk0 hk hdiv hd]
    exact dyadResolve_roundsDyad mode hu

end Sys2Proof.Machine

open Sys2Proof Sys2Proof.Machine Sys2Proof.Claims in
/-- Settles O18: each instruction runs its loop whole, and what resolving gives follows from the value of the pattern that is
read and from the two neighbours that rounding finds, for the formats of Table 7.1, Dyad8 and the integers in turn. -/
theorem conversions : Obligations.Conversions := by
  unfold Obligations.Conversions
  refine ⟨?_, ?_, by decide, ?_, ?_, ?_, ?_⟩
  · intro i s d b q x hform h hvl hregs hb hd hover
    exact exec_convForm h hvl hregs hb hd hover hform
  · intro i s d b v q x o hform h hvl hregs hb hd hover n
    obtain ⟨t, he, hcomp, hscales, hloop, hframe⟩ := exec_blockForm h hvl hregs hb hd hover hform
    refine ⟨t, he, hcomp, fun hv => ?_, fun hv => ?_, hloop, ?_⟩
    · subst hv
      have hresult := scaleResult_of_blockScales hvl hscales
      simp only [pscale_blockVals (by decide : fp32 ∈ withInf)] at hresult
      exact hresult
    · rw [hscales, blockScales, if_neg hv]
    · exact congrArg (fun u => updCtx u fun c => { c with scales := s.me.vctx.scales }) hframe
  · intro t sat mode x neg q hreads
    have hread := read_of_reads hreads
    refine ⟨fun f hf => ?_, ?_, fun sg w _ ht hmode => ?_⟩
    · rw [convert_flt]
      exact resolve_roundsTo hf mode hread
    · rw [convert_dyad]
      exact dyadResolve_roundsDyad mode hread
    · rw [convert_int ht]
      exact intFromFloat_roundsInt sg w hmode hread
  · intro sg sg' w w' mode x _ _
    exact ⟨convert_int_int sg sg' w w', convert_int_int sg sg' w w'⟩
  · intro f g sat mode x hf
    refine ⟨fun hinf => ?_, fun hnan => ?_⟩
    · obtain ⟨hflt, hdyad, hint⟩ := convert_of_isInf (sat := sat) (mode := mode) hinf
      exact ⟨hflt f hf, hdyad, fun sg w _ => hint sg w⟩
    · obtain ⟨hflt, hdyad, hint⟩ := convert_of_isNaN (sat := sat) (mode := mode) hnan
      exact ⟨hflt f hf, hdyad, hint⟩
  · intro x k mode y hdst hk hy
    exact ⟨fun h => scaledElem_of_unusable (unusable_of_scale hk h), fun h0 h =>
      ⟨fun q hq => scaledElem_of_reads h0 h hq, scaledElem_of_isInf hdst h0 h, scaledElem_of_isNaN hdst h0 h⟩⟩
end

section
/-! KSET, KMV and KCALC (R144, R145). -/

namespace Sys2Proof.Machine

open Sys2Proof.Claims

/-- The types that KCALC reads. -/
theorem tyOf_of_isFloat {vs : Word} (hlo : 2 ≤ etypeOf vs) (hhi : etypeOf vs < 6) :
    isFloat (etypeOf vs) = true ∧ tyOf vs = .flt (srcFormat (etypeOf vs)) ∧ srcFormat (etypeOf vs) ∈ withInf := by
  unfold tyOf
  generalize etypeOf vs = et at *
  interval_cases et <;> exact ⟨rfl, rfl, by decide⟩

theorem kcalcTarget_eq {a : BitVec 5} (h : a.toNat < 4) : kcalcTarget a = [2, 0, 8, 15].getD a.toNat 0 := by
  unfold kcalcTarget
  generalize a.toNat = n at *
  interval_cases n <;> rfl

end Sys2Proof.Machine

open Sys2Proof Sys2Proof.Machine Sys2Proof.Claims in
/-- Settles O19: KSET and KMV copy one element or scale at a time, and the scale that KCALC finds for a block is the power of two of
its greatest magnitude. -/
theorem scaleInstructions : Obligations.ScaleInstructions := by
  unfold Obligations.ScaleInstructions
  intro s d a b m k h hvl hd
  refine ⟨fun het hgrant hregs hb => ?_, fun het hgrant hregs hd => ?_, fun hlo hhi hregs hb ha => ?_⟩
  · have hwrong : (etypeOf s.me.vctx.vshape != 3 || decide (4096 < s.me.vctx.vlGrant) || badGroups s.me.vctx [b]) = false := by
      rw [het, badGroups_of_grouped hvl hb, decide_eq_false hgrant.not_gt]
      rfl
    exact exec_of_scalesSet (i := .kset d b k) rfl h hregs hwrong (hvl.1.trans hgrant) fun u hu => ksetBody_eq _ u hu hvl
  · have hwrong : (etypeOf s.me.vctx.vshape != 3 || (a == 0 && decide (4096 < s.me.vctx.vlGrant)) || badGroups s.me.vctx [d]) =
        false := by
      have hform : (a == 0 && decide (4096 < s.me.vctx.vlGrant)) = false := by
        rw [Bool.and_eq_false_imp]
        exact fun ha => decide_eq_false (hgrant (eq_of_beq ha)).not_gt
      rw [het, badGroups_of_grouped hvl hd, hform]
      rfl
    obtain ⟨t, he, hcomp, hloop, -, hfile⟩ := exec_of_elemLoop (i := .kmv d a b m) rfl h hregs hwrong (.inr ⟨4, rfl⟩)
      fun u hu => kmvBody_eq _ a m u hu hvl
    exact ⟨t, he, hcomp, hfile, hloop⟩
  · obtain ⟨hfloat, hty, hf⟩ := tyOf_of_isFloat hlo hhi
    have hwrong : (!isFloat (etypeOf s.me.vctx.vshape) || badGroups s.me.vctx [b]) = false := by
      rw [hfloat, badGroups_of_grouped hvl hb]
      rfl
    obtain ⟨t, he, hcomp, hsame, hscales⟩ := exec_of_scalesSet (i := .kcalc d a b m k) rfl h hregs hwrong (blocks_le hvl.le)
      fun u hu => kcalcBody_eq _ a m u hu hvl
    simp only [hty, pscale_blockVals hf, kcalcTarget_eq ha] at hscales
    exact ⟨t, he, hcomp, hsame, hscales⟩
end
